-- ==== Sys2Proof/Word.lean ====
section
/-! DEFINITION. The word types and the fixed-length table the model is written over. -/

namespace Sys2Proof

/-- A byte of memory. -/
abbrev Byte := BitVec 8
/-- A 32-bit word: one x-register in one lane, an s-register, an instruction word. -/
abbrev Word := BitVec 32
/-- A 64-bit doubleword: one v-register in one lane, a lineage, a host doubleword. -/
abbrev DWord := BitVec 64
/-- One bit per lane (R41, R45). -/
abbrev Mask := BitVec 32
/-- A lane number of a group (R9). -/
abbrev Lane := Fin 32
/-- A register number as a six-bit field names it (R93). -/
abbrev Reg := BitVec 6

/-- A table of exactly `n` entries, held as a list. -/
structure Tab (n : Nat) (α : Type) where
  vals : List α
  len : vals.length = n
deriving DecidableEq, Repr

/-- The table whose entry `i` is `f i`. -/
def Tab.ofFn {n : Nat} {α : Type} (f : Fin n → α) : Tab n α :=
  ⟨List.ofFn f, List.length_ofFn⟩

/-- Entry `i`. -/
def Tab.get {n : Nat} {α : Type} (t : Tab n α) (i : Fin n) : α :=
  t.vals.get (i.cast t.len.symm)

/-- The table with every entry equal to `a`. -/
def Tab.const {α : Type} (n : Nat) (a : α) : Tab n α := Tab.ofFn fun _ => a

/-- The table with entry `i` replaced. -/
def Tab.set {n : Nat} {α : Type} (t : Tab n α) (i : Fin n) (a : α) : Tab n α :=
  Tab.ofFn fun j => if j = i then a else t.get j

/-- One value per lane. -/
abbrev Lanes (α : Type) := Tab 32 α

/-- Is lane `l` set in the mask? -/
def laneOn (m : Mask) (l : Lane) : Bool := m.getLsbD l.val

/-- The lanes in increasing order. -/
def allLanes : List Lane := List.finRange 32

/-- The lanes of a mask in increasing order. -/
def lanesOf (m : Mask) : List Lane := allLanes.filter (laneOn m)

/-- The mask of the lanes that satisfy `p`. -/
def maskOf (p : Lane → Bool) : Mask :=
  BitVec.ofNat 32 (allLanes.foldl (fun n l => if p l then n + 2 ^ l.val else n) 0)

/-- Number of ones. -/
def popCount (m : Mask) : Nat := (lanesOf m).length

end Sys2Proof
end

