-- ==== Sys2Proof/Config.lean ====
section
/-! DEFINITION. What the manual leaves to the implementation or leaves without a value: constants with no body, so
that no proof can lean on a number. -/

namespace Sys2Proof.Config

/-- The size of the range a peer module exports over Kazot Link (R266 names it, no rule gives it).
DESIGN CHOICE, safe: log entry 18. -/
opaque peerExport : Nat → Nat

/-- The INFO of the CMDX of a TJOIN outside a quad gang of four teams: no doubleword fails (R312). -/
opaque joinInfo : BitVec 16

/-- The product interval of a TMMAV whose operands, by their element codes, hold a BF16 or FP16 infinity (R316 names
E5M2 infinities alone). -/
opaque mmavInfinity : Nat → Nat → Nat → Nat → DWord

/-- The FP32 value of a product of 0 and +inf where R333 and R334 state none: 0 is e × NRM, 1 is gu × NRM. A negative one
counts as 0. -/
opaque zeroTimesInf : Nat → Word

/-- The unit of its share of the die pool in which an item comes to lie, before it is brought into range (R241): the number
of the free value. DESIGN CHOICE, safe: log entry 60. -/
opaque poolUnit : Nat → Nat

/-- Where the launch record and the two counters of a bind record stand (R126): the number of the free value; 0 is LRVA, 1 TICKVA, 2
DONEVA. DESIGN CHOICE, safe: log entry 83. -/
opaque bindPlace : Nat → Nat → BitVec 57

/-- The bytes of a save area after its team has been saved there, whose layout no rule gives (R152): the number of the free
value, and the offset. DESIGN CHOICE, safe: log entry 10. -/
opaque saveByte : Nat → Nat → BitVec 8

/-- Where in the save area the records of the context stand (R152, R321), before it is brought into range: the number of the free
value. DESIGN CHOICE, safe: log entry 10. -/
opaque recordPlace : Nat → Nat

/-- The health record, whose layout no rule gives, of what it holds (R415, R424): the number of the free value, for the
temperatures and the power; the clock step; the partitions' states, by number; the ports that are up; whether an activation has
failed; and the doubleword. DESIGN CHOICE, safe: log entry 16. -/
opaque healthWord : Nat → Nat → List Nat → BitVec 48 → Bool → Nat → BitVec 64

/-- The TFA of a MEMERR whose error lies in a register, which has no address (R274): the number of the free value.
DESIGN CHOICE, safe: log entry 11. -/
opaque registerFa : Nat → BitVec 57

/-- The firmware images that the store holds at power-up, by their digests: 0 the service core's, 1 and 2 the front
end's, 3 the agent's (R425). DESIGN CHOICE, unsafe: log entry 12. -/
opaque storedImage : Nat → BitVec 512

/-- Does the ML-DSA-87 signature of an image verify against Jorord's key (R421, R425)? -/
opaque imageSigned : BitVec 512 → Bool

/-- The release that an image reports (R61). -/
opaque imageRelease : BitVec 512 → BitVec 8

/-- Byte `i` of the device's signature of a report (R427). DESIGN CHOICE, safe: log entry 19. -/
opaque attestSig : List (BitVec 8) → Nat → BitVec 8

/-- The device's public identity key, and Jorord's certificate for it with its length (R427). -/
opaque identityKey : Nat → BitVec 8
opaque identityCert : Nat → BitVec 8
opaque identityCertLen : Nat

end Sys2Proof.Config
end

