-- ==== Sys2Proof/Syntax.lean ====
section
/-! DEFINITION. The instructions as syntax: one constructor per row of the opcode table. A word's constructor
takes one operand form (R93, R94), whose fields are the word's fields as they stand; the rows without an encoding
(the steps of the front end, the engines, the firmware and the host) take nothing: what such a step is about, the unit
it acts on or what a host write carries, stands in the state (Machine/State.lean, StepArg), as a word's path does. -/

namespace Sys2Proof

/-! ### Operand forms of the 32-bit words (R93). `c` is the chain bit of R92. -/

/-- No operand. -/
structure FormC where
  c : Bool
deriving DecidableEq, Repr

/-- A 14-bit number. -/
structure FormN14 where
  c : Bool
  imm : BitVec 14
deriving DecidableEq, Repr

/-- A register and a system register number. -/
structure FormDR where
  c : Bool
  d : Reg
  num : BitVec 14
deriving DecidableEq, Repr

/-- One register. -/
structure FormD where
  c : Bool
  d : Reg
deriving DecidableEq, Repr

/-- DICTLD: address register, count minus one, bank. -/
structure FormDict where
  c : Bool
  d : Reg
  cnt : BitVec 10
  bank : BitVec 2
deriving DecidableEq, Repr

/-- A packet offset. -/
structure FormO where
  c : Bool
  off : BitVec 19
deriving DecidableEq, Repr

/-- A q-, m- or counter selector and a packet offset. -/
structure FormSO where
  c : Bool
  sel : BitVec 3
  off : BitVec 19
deriving DecidableEq, Repr

/-- BQ3: q-register and two packet offsets. -/
structure FormQ3 where
  c : Bool
  q : BitVec 3
  offT : BitVec 9
  offU : BitVec 9
deriving DecidableEq, Repr

/-- A register and a 14-bit immediate. -/
structure FormDI where
  c : Bool
  d : Reg
  imm : BitVec 14
deriving DecidableEq, Repr

/-- Two registers and a kept-register set. -/
structure FormDAK where
  c : Bool
  d : Reg
  a : Reg
  k : BitVec 4
deriving DecidableEq, Repr

/-- A register and a kept-register set. -/
structure FormAK where
  c : Bool
  a : Reg
  k : BitVec 4
deriving DecidableEq, Repr

/-- A register and a kept-register set. -/
structure FormDK where
  c : Bool
  d : Reg
  k : BitVec 4
deriving DecidableEq, Repr

/-- A packet offset of 14 bits. -/
structure FormI where
  c : Bool
  imm : BitVec 14
deriving DecidableEq, Repr

/-- Register A alone. -/
structure FormA where
  c : Bool
  a : Reg
deriving DecidableEq, Repr

/-- Three registers without UA or UB. -/
structure FormDAB where
  c : Bool
  d : Reg
  a : Reg
  b : Reg
deriving DecidableEq, Repr

/-- Two registers without UA. -/
structure FormDA where
  c : Bool
  d : Reg
  a : Reg
deriving DecidableEq, Repr

/-- Three operands with UA and UB. -/
structure FormR where
  c : Bool
  d : Reg
  a : Reg
  b : Reg
  ua : Bool
  ub : Bool
deriving DecidableEq, Repr

/-- Destination and one operand with UA. -/
structure FormRU where
  c : Bool
  d : Reg
  a : Reg
  ua : Bool
deriving DecidableEq, Repr

/-- An 11-bit immediate. -/
structure FormI11 where
  c : Bool
  d : Reg
  a : Reg
  imm : BitVec 11
deriving DecidableEq, Repr

/-- SHLI: a shift amount. -/
structure FormI5 where
  c : Bool
  d : Reg
  a : Reg
  amt : BitVec 5
deriving DecidableEq, Repr

/-- MOVI: a 19-bit immediate. -/
structure FormM where
  c : Bool
  d : Reg
  imm : BitVec 19
deriving DecidableEq, Repr

/-- MOVHI: a 13-bit immediate. -/
structure FormMH where
  c : Bool
  d : Reg
  imm : BitVec 13
deriving DecidableEq, Repr

/-- PKSEL: source format. -/
structure FormPK where
  c : Bool
  d : Reg
  a : Reg
  k : BitVec 3
  ua : Bool
deriving DecidableEq, Repr

/-- An operand and a format code. -/
structure FormRF where
  c : Bool
  d : Reg
  a : Reg
  fmt : BitVec 6
  ua : Bool
deriving DecidableEq, Repr

/-- SHFL and BCAST: width bit and mode or lane. -/
structure FormSh where
  c : Bool
  d : Reg
  a : Reg
  w : Bool
  k : BitVec 5
  ua : Bool
deriving DecidableEq, Repr

/-- VOTE: mode. -/
structure FormVote where
  c : Bool
  d : Reg
  a : Reg
  k : BitVec 2
  ua : Bool
deriving DecidableEq, Repr

/-- A reduction with its type. -/
structure FormRed where
  c : Bool
  d : Reg
  a : Reg
  t : BitVec 2
  ua : Bool
deriving DecidableEq, Repr

/-- HIST: shift amount. -/
structure FormHist where
  c : Bool
  d : Reg
  a : Reg
  sh : BitVec 5
  ua : Bool
deriving DecidableEq, Repr

/-- A memory access. -/
structure FormL where
  c : Bool
  space : BitVec 2
  d : Reg
  base : Reg
  ub : Bool
  off : BitVec 7
deriving DecidableEq, Repr

/-- An atomic, with acquire and release. -/
structure FormAt where
  c : Bool
  d : Reg
  a : Reg
  b : Reg
  acq : Bool
  rel : Bool
deriving DecidableEq, Repr

/-- A copy command. -/
structure FormCpy where
  c : Bool
  d : Reg
  a : Reg
  acq : Bool
  rel : Bool
deriving DecidableEq, Repr

/-- TSHAPE of a tile predicate. -/
structure FormShapeP where
  c : Bool
  a : Reg
  n : BitVec 4
deriving DecidableEq, Repr

/-- A name and a guard predicate. -/
structure FormDG where
  c : Bool
  d : Reg
  g : BitVec 4
deriving DecidableEq, Repr

/-- A tile or predictor command. -/
structure FormT where
  c : Bool
  d : Reg
  a : Reg
  g : BitVec 4
  acq : Bool
  rel : Bool
deriving DecidableEq, Repr

/-- A register and a selector or second register. -/
structure FormDS where
  c : Bool
  d : Reg
  s : BitVec 6
deriving DecidableEq, Repr

/-- BAR. -/
structure FormBar where
  c : Bool
  a : Reg
  b : Reg
  acq : Bool
  rel : Bool
deriving DecidableEq, Repr

/-- BARA. -/
structure FormBarA where
  c : Bool
  d : Reg
  a : Reg
  b : Reg
  rel : Bool
deriving DecidableEq, Repr

/-- BARW. -/
structure FormBarW where
  c : Bool
  a : Reg
  b : Reg
  acq : Bool
deriving DecidableEq, Repr

/-- BARX. -/
structure FormBarX where
  c : Bool
  acq : Bool
  rel : Bool
deriving DecidableEq, Repr

/-- Two registers, no destination. -/
structure FormAB where
  c : Bool
  a : Reg
  b : Reg
deriving DecidableEq, Repr

/-- FENCE. -/
structure FormFence where
  c : Bool
  m : BitVec 5
  s : BitVec 6
  acq : Bool
  rel : Bool
deriving DecidableEq, Repr

/-- LINID: mode. -/
structure FormLin where
  c : Bool
  d : Reg
  a : Reg
  m : Bool
deriving DecidableEq, Repr

/-- POOLQ: selector. -/
structure FormPool where
  c : Bool
  d : Reg
  a : Reg
  s : BitVec 2
deriving DecidableEq, Repr

/-- The P word. -/
structure FormP where
  c : Bool
  m : BitVec 3
  rnd : BitVec 3
  fourth : Reg
  f : Bool
  z : Bool
  sel : BitVec 4
deriving DecidableEq, Repr


/-- The instruction set: every row of the opcode table. -/
inductive Instr where
  /-- TRAP, R173. -/
  | trap (f : FormN14)
  /-- SRD, R175. -/
  | srd (f : FormDR)
  /-- SWR, R175. -/
  | swr (f : FormDR)
  /-- BKPT, R173. -/
  | bkpt (f : FormN14)
  /-- CYC, R176. -/
  | cyc (f : FormD)
  /-- DICTLD, R178. -/
  | dictld (f : FormDict)
  /-- FSVC, R179. -/
  | fsvc (f : FormD)
  /-- BRA, R180. -/
  | bra (f : FormO)
  /-- BQT, R181. -/
  | bqt (f : FormSO)
  /-- BQF, R181. -/
  | bqf (f : FormSO)
  /-- BQU, R181. -/
  | bqu (f : FormSO)
  /-- BQNT, R181. -/
  | bqnt (f : FormSO)
  /-- BQNF, R181. -/
  | bqnf (f : FormSO)
  /-- BQ3, R181. -/
  | bq3 (f : FormQ3)
  /-- BMZ, R182. -/
  | bmz (f : FormSO)
  /-- BMNZ, R182. -/
  | bmnz (f : FormSO)
  /-- LOOP, R182. -/
  | loop (f : FormSO)
  /-- CALL, R183. -/
  | call (f : FormDI)
  /-- CALLI, R170. -/
  | calli (f : FormDAK)
  /-- JMPI, R170. -/
  | jmpi (f : FormAK)
  /-- RET, R170. -/
  | ret (f : FormAK)
  /-- EXIT, R169. -/
  | exit (f : FormC)
  /-- EXITS, R171. -/
  | exits (f : FormDK)
  /-- JOINAT, R183. -/
  | joinat (f : FormI)
  /-- MSAVE, R183. -/
  | msave (f : FormD)
  /-- MREST, R183. -/
  | mrest (f : FormA)
  /-- MAND, R183. -/
  | mand (f : FormDAB)
  /-- MOR, R183. -/
  | mor (f : FormDAB)
  /-- MXOR, R183. -/
  | mxor (f : FormDAB)
  /-- MNOT, R183. -/
  | mnot (f : FormDA)
  /-- MFROMQ, R184. -/
  | mfromq (f : FormDAB)
  /-- MCNT, R183. -/
  | mcnt (f : FormDA)
  /-- ADD, R186. -/
  | add (f : FormR)
  /-- SUB, R186. -/
  | sub (f : FormR)
  /-- AND, R186. -/
  | and (f : FormR)
  /-- OR, R186. -/
  | or (f : FormR)
  /-- XOR, R186. -/
  | xor (f : FormR)
  /-- ANDN, R186. -/
  | andn (f : FormR)
  /-- MIN, R186. -/
  | min (f : FormR)
  /-- MAX, R186. -/
  | max (f : FormR)
  /-- MINU, R186. -/
  | minu (f : FormR)
  /-- MAXU, R186. -/
  | maxu (f : FormR)
  /-- SLT, R186. -/
  | slt (f : FormR)
  /-- SLTU, R186. -/
  | sltu (f : FormR)
  /-- SEQ, R186. -/
  | seq (f : FormR)
  /-- ABS, R186. -/
  | abs (f : FormRU)
  /-- LEA, R186. -/
  | lea (f : FormR)
  /-- SELM, R187. -/
  | selm (f : FormR)
  /-- ADDI, R188. -/
  | addi (f : FormI11)
  /-- ANDI, R188. -/
  | andi (f : FormI11)
  /-- ORI, R188. -/
  | ori (f : FormI11)
  /-- XORI, R188. -/
  | xori (f : FormI11)
  /-- SLTI, R188. -/
  | slti (f : FormI11)
  /-- SLTIU, R188. -/
  | sltiu (f : FormI11)
  /-- LEAI, R188. -/
  | leai (f : FormI11)
  /-- SHLI, R188. -/
  | shli (f : FormI5)
  /-- MOVI, R189. -/
  | movi (f : FormM)
  /-- MOVHI, R189. -/
  | movhi (f : FormMH)
  /-- SHL, R190. -/
  | shl (f : FormR)
  /-- SHR, R190. -/
  | shr (f : FormR)
  /-- SAR, R190. -/
  | sar (f : FormR)
  /-- ROTL, R190. -/
  | rotl (f : FormR)
  /-- BFX, R191. -/
  | bfx (f : FormR)
  /-- BFI, R191. -/
  | bfi (f : FormR)
  /-- POPC, R190. -/
  | popc (f : FormRU)
  /-- CLZ, R190. -/
  | clz (f : FormRU)
  /-- CTZ, R190. -/
  | ctz (f : FormRU)
  /-- BREV, R190. -/
  | brev (f : FormRU)
  /-- BPERM, R191. -/
  | bperm (f : FormR)
  /-- MUL, R192. -/
  | mul (f : FormR)
  /-- MULH, R192. -/
  | mulh (f : FormR)
  /-- MULHU, R192. -/
  | mulhu (f : FormR)
  /-- MAD, R192. -/
  | mad (f : FormR)
  /-- DIV, R193. -/
  | div (f : FormR)
  /-- DIVU, R193. -/
  | divu (f : FormR)
  /-- REM, R193. -/
  | rem (f : FormR)
  /-- REMU, R193. -/
  | remu (f : FormR)
  /-- DP4I8, R226. -/
  | dp4i8 (f : FormR)
  /-- DP4N8, R226. -/
  | dp4n8 (f : FormR)
  /-- DP8I4, R226. -/
  | dp8i4 (f : FormR)
  /-- DP4E4, R227. -/
  | dp4e4 (f : FormR)
  /-- DP4E5, R227. -/
  | dp4e5 (f : FormR)
  /-- DP8F4, R227. -/
  | dp8f4 (f : FormR)
  /-- PKSEL, R229. -/
  | pksel (f : FormPK)
  /-- PKNARROW, R230. -/
  | pknarrow (f : FormRF)
  /-- CVTIV, R223. -/
  | cvtiv (f : FormRU)
  /-- CVTNIV, R223. -/
  | cvtniv (f : FormRU)
  /-- CVTVI, R224. -/
  | cvtvi (f : FormRU)
  /-- CVTVNI, R224. -/
  | cvtvni (f : FormRU)
  /-- CVTDV, R223. -/
  | cvtdv (f : FormDA)
  /-- CVTVD, R223. -/
  | cvtvd (f : FormRU)
  /-- CVTNV, R223. -/
  | cvtnv (f : FormRF)
  /-- CVTVN, R225. -/
  | cvtvn (f : FormRF)
  /-- VADD, R208. -/
  | vadd (f : FormR)
  /-- VSUB, R208. -/
  | vsub (f : FormR)
  /-- VNEG, R208. -/
  | vneg (f : FormRU)
  /-- VABS, R208. -/
  | vabs (f : FormRU)
  /-- VMIN, R208. -/
  | vmin (f : FormR)
  /-- VMAX, R208. -/
  | vmax (f : FormR)
  /-- VMUL, R210. -/
  | vmul (f : FormR)
  /-- VDIV, R211. -/
  | vdiv (f : FormR)
  /-- VFMA, R212. -/
  | vfma (f : FormR)
  /-- VSQR, R213. -/
  | vsqr (f : FormRU)
  /-- VSQRT, R213. -/
  | vsqrt (f : FormRU)
  /-- VRCP, R213. -/
  | vrcp (f : FormRU)
  /-- VSCALE, R213. -/
  | vscale (f : FormR)
  /-- VMK, R214. -/
  | vmk (f : FormR)
  /-- VLO, R214. -/
  | vlo (f : FormRU)
  /-- VHI, R214. -/
  | vhi (f : FormRU)
  /-- VMID, R214. -/
  | vmid (f : FormRU)
  /-- VRAD, R214. -/
  | vrad (f : FormRU)
  /-- VWID, R214. -/
  | vwid (f : FormRU)
  /-- VHULL, R214. -/
  | vhull (f : FormR)
  /-- VISECT, R214. -/
  | visect (f : FormR)
  /-- VBIS, R215. -/
  | vbis (f : FormRU)
  /-- VENT, R214. -/
  | vent (f : FormD)
  /-- VEMP, R214. -/
  | vemp (f : FormD)
  /-- VMRC, R216. -/
  | vmrc (f : FormRU)
  /-- VFMR, R216. -/
  | vfmr (f : FormRU)
  /-- VCLT, R217. -/
  | vclt (f : FormR)
  /-- VCLE, R217. -/
  | vcle (f : FormR)
  /-- VCGT, R217. -/
  | vcgt (f : FormR)
  /-- VCGE, R217. -/
  | vcge (f : FormR)
  /-- VCEQ, R217. -/
  | vceq (f : FormR)
  /-- VCSUB, R218. -/
  | vcsub (f : FormR)
  /-- VCDIS, R218. -/
  | vcdis (f : FormR)
  /-- VCIN, R218. -/
  | vcin (f : FormR)
  /-- QAND, R219. -/
  | qand (f : FormDAB)
  /-- QOR, R219. -/
  | qor (f : FormDAB)
  /-- QNOT, R219. -/
  | qnot (f : FormDA)
  /-- QSURE, R219. -/
  | qsure (f : FormDA)
  /-- QMAYBE, R219. -/
  | qmaybe (f : FormDA)
  /-- QMOV, R219. -/
  | qmov (f : FormDA)
  /-- VEXP, R220. -/
  | vexp (f : FormRU)
  /-- VLOG, R220. -/
  | vlog (f : FormRU)
  /-- VTANH, R220. -/
  | vtanh (f : FormRU)
  /-- VSIGM, R220. -/
  | vsigm (f : FormRU)
  /-- VSILU, R220. -/
  | vsilu (f : FormRU)
  /-- VGELU, R220. -/
  | vgelu (f : FormRU)
  /-- VSIN, R221. -/
  | vsin (f : FormRU)
  /-- VCOS, R221. -/
  | vcos (f : FormRU)
  /-- SHFL, R197. -/
  | shfl (f : FormSh)
  /-- BCAST, R197. -/
  | bcast (f : FormSh)
  /-- VOTE, R198. -/
  | vote (f : FormVote)
  /-- QVOTE, R198. -/
  | qvote (f : FormDA)
  /-- RDADD, R199. -/
  | rdadd (f : FormRed)
  /-- RDMIN, R199. -/
  | rdmin (f : FormRed)
  /-- RDMAX, R199. -/
  | rdmax (f : FormRed)
  /-- SCAN, R199. -/
  | scan (f : FormRed)
  /-- HIST, R200. -/
  | hist (f : FormHist)
  /-- HMERGE, R200. -/
  | hmerge (f : FormR)
  /-- LDB, R283. -/
  | ldb (f : FormL)
  /-- LDH, R283. -/
  | ldh (f : FormL)
  /-- LDW, R283. -/
  | ldw (f : FormL)
  /-- LDD, R283. -/
  | ldd (f : FormL)
  /-- LDQ, R283. -/
  | ldq (f : FormL)
  /-- LDV, R285. -/
  | ldv (f : FormL)
  /-- LDVC, R285. -/
  | ldvc (f : FormL)
  /-- LDFF, R286. -/
  | ldff (f : FormL)
  /-- LDFE, R287. -/
  | ldfe (f : FormL)
  /-- LDMC, R289. -/
  | ldmc (f : FormL)
  /-- LDUN, R290. -/
  | ldun (f : FormL)
  /-- STB, R283. -/
  | stb (f : FormL)
  /-- STH, R283. -/
  | sth (f : FormL)
  /-- STW, R283. -/
  | stw (f : FormL)
  /-- STD, R283. -/
  | std (f : FormL)
  /-- STQ, R283. -/
  | stq (f : FormL)
  /-- STV, R285. -/
  | stv (f : FormL)
  /-- STVC, R285. -/
  | stvc (f : FormL)
  /-- STFE, R288. -/
  | stfe (f : FormL)
  /-- STX, R291. -/
  | stx (f : FormL)
  /-- AADD, R293. -/
  | aadd (f : FormAt)
  /-- AMIN, R293. -/
  | amin (f : FormAt)
  /-- AMAX, R293. -/
  | amax (f : FormAt)
  /-- AMINU, R293. -/
  | aminu (f : FormAt)
  /-- AMAXU, R293. -/
  | amaxu (f : FormAt)
  /-- AAND, R293. -/
  | aand (f : FormAt)
  /-- AOR, R293. -/
  | aor (f : FormAt)
  /-- AXOR, R293. -/
  | axor (f : FormAt)
  /-- AXCH, R293. -/
  | axch (f : FormAt)
  /-- ACAS, R294. -/
  | acas (f : FormAt)
  /-- AINC, R294. -/
  | ainc (f : FormAt)
  /-- AVADD, R294. -/
  | avadd (f : FormAt)
  /-- AMIND, R294. -/
  | amind (f : FormAt)
  /-- CPY, R297. -/
  | cpy (f : FormCpy)
  /-- CPY2D, R298. -/
  | cpy2d (f : FormCpy)
  /-- CPYMC, R298. -/
  | cpymc (f : FormCpy)
  /-- GWBIND, R302. -/
  | gwbind (f : FormDA)
  /-- GWFREE, R302. -/
  | gwfree (f : FormD)
  /-- ARRV, R303. -/
  | arrv (f : FormDAB)
  /-- TSHAPE_ACC, R313. -/
  | tshapeAcc (f : FormDA)
  /-- TSHAPE_PRED, R313. -/
  | tshapePred (f : FormShapeP)
  /-- TZERO, R314. -/
  | tzero (f : FormDG)
  /-- TLOAD, R314. -/
  | tload (f : FormT)
  /-- TMMA, R315. -/
  | tmma (f : FormT)
  /-- TMMAV, R316. -/
  | tmmav (f : FormT)
  /-- TJOIN, R317. -/
  | tjoin (f : FormT)
  /-- TSTORE, R314. -/
  | tstore (f : FormT)
  /-- TKSPLIT, R318. -/
  | tksplit (f : FormT)
  /-- TSCAN, R314. -/
  | tscan (f : FormDG)
  /-- TGRP, R319. -/
  | tgrp (f : FormT)
  /-- TWAKE, R320. -/
  | twake (f : FormC)
  /-- PSCORE, R333. -/
  | pscore (f : FormT)
  /-- PSEL, R335. -/
  | psel (f : FormT)
  /-- PKERF, R336. -/
  | pkerf (f : FormT)
  /-- PFFN, R337. -/
  | pffn (f : FormT)
  /-- PSTAT, R342. -/
  | pstat (f : FormDS)
  /-- BAR, R364. -/
  | bar (f : FormBar)
  /-- BARA, R364. -/
  | bara (f : FormBarA)
  /-- BARW, R364. -/
  | barw (f : FormBarW)
  /-- BARX, R367. -/
  | barx (f : FormBarX)
  /-- SOBIND, R369. -/
  | sobind (f : FormAB)
  /-- SOACQ, R370. -/
  | soacq (f : FormDAB)
  /-- SOREL, R371. -/
  | sorel (f : FormA)
  /-- FENCE, R372. -/
  | fence (f : FormFence)
  /-- HWAIT, R373. -/
  | hwait (f : FormDA)
  /-- HTEST, R374. -/
  | htest (f : FormDA)
  /-- HCANCEL, R375. -/
  | hcancel (f : FormA)
  /-- AWAIT, R376. -/
  | await (f : FormDAB)
  /-- SPLIT, R235. -/
  | split (f : FormDAB)
  /-- FORK, R236. -/
  | fork (f : FormDS)
  /-- RSMP, R247. -/
  | rsmp (f : FormDAB)
  /-- LINID, R250. -/
  | linid (f : FormLin)
  /-- POOLQ, R251. -/
  | poolq (f : FormPool)
  /-- RACQ, R146. -/
  | racq (f : FormA)
  /-- RTRY, R147. -/
  | rtry (f : FormDA)
  /-- RREL, R148. -/
  | rrel (f : FormA)
  /-- RQRY, R149. -/
  | rqry (f : FormDS)
  /-- RNGSEED, R203. -/
  | rngseed (f : FormAB)
  /-- RNGN, R203. -/
  | rngn (f : FormD)
  /-- RNGF, R203. -/
  | rngf (f : FormD)
  /-- UADD, R194. -/
  | uadd (f : FormDAB)
  /-- USUB, R194. -/
  | usub (f : FormDAB)
  /-- UAND, R194. -/
  | uand (f : FormDAB)
  /-- UOR, R194. -/
  | uor (f : FormDAB)
  /-- UXOR, R194. -/
  | uxor (f : FormDAB)
  /-- USHL, R194. -/
  | ushl (f : FormDAB)
  /-- USHR, R194. -/
  | ushr (f : FormDAB)
  /-- UMUL, R194. -/
  | umul (f : FormDAB)
  /-- USLT, R194. -/
  | uslt (f : FormDAB)
  /-- UMOVX, R194. -/
  | umovx (f : FormDA)
  /-- UMOVS, R194. -/
  | umovs (f : FormDA)
  /-- UADDI, R194. -/
  | uaddi (f : FormDI)
  /-- PFX, R97. -/
  | pfx (f : FormP)
  /-- NOP, R172. Its chain bit, which changes timing only (R92), is not kept. -/
  | nop
  /-- TRET, R174. Its chain bit, which changes timing only (R92), is not kept. -/
  | tret
  /-- IFENCE, R177. Its chain bit, which changes timing only (R92), is not kept. -/
  | ifence
  /-- SYNCJ, R167. Its chain bit, which changes timing only (R92), is not kept. -/
  | syncj
  /-- TRIGGER_WRITE, R116: A 64-byte posted write stores a trigger in a queue's ring and acts as its doorbell. -/
  | triggerWrite
  /-- CMDTAIL, R114: A host write of CMDTAIL advances the command ring and rings its doorbell. -/
  | cmdtail
  /-- REGISTER_WRITE, R113: A host write to a register without behaviour of its own. -/
  | registerWrite
  /-- LOAD, R37: Front-end command that checks, places, relocates and maps an NCO image. -/
  | load
  /-- UNLOAD, R440: Front-end command that unmaps an image and waits for its translations to drain. -/
  | unload
  /-- INSTALL, R31: Front-end command that checks and installs or replaces a task graph. -/
  | install
  /-- REMOVE, R114: Front-end command that removes an installed graph. -/
  | remove
  /-- QCREATE, R114: Front-end command that checks a QSB and links it into its priority run list. -/
  | qcreate
  /-- QDESTROY, R114: Front-end command that discards triggers, waits for the current run and unlinks a queue. -/
  | qdestroy
  /-- QPRIO, R129: Front-end command that moves a queue to a new priority and rewrites its bind records. -/
  | qprio
  /-- SETTH, R130: Front-end command that sets the wait-swap threshold of one priority. -/
  | setth
  /-- COPY, R114: Front-end command that performs a copy with copy-node semantics. -/
  | copy
  /-- WALKER_PASS, R121: The die-0 walker passes over the run lists and hands runnable QSBs to firmware. -/
  | walkerPass
  /-- QUEUE_SERVICE, R123: Firmware serves a handed QSB: starts a run and serves ready nodes. -/
  | queueService
  /-- WAIT_NODE_REREAD, R123: A watched wait-node word is re-read on a write to it or on the 2,250-cycle poll. -/
  | waitNodeReread
  /-- QUEUE_PARK, R124: After SWAPTH cycles on a non-resident wait page, firmware removes the QSB and parks it. -/
  | queuePark
  /-- QUEUE_UNPARK, R124: When the fault service completes, firmware reinserts the QSB and re-reads SIGVA. -/
  | queueUnpark
  /-- LST_REPORT, R127: A die front end reports a drained Launch Slot Table entry's count to the master. -/
  | lstReport
  /-- KERNEL_NODE_COMPLETE, R128: When reported counts sum to G the master releases and writes COMPLVA. -/
  | kernelNodeComplete
  /-- AGENT_PLACE, R143: The firmware agent reserves resources, claims a ticket and loads a team. -/
  | agentPlace
  /-- GANG_RESERVE, R144: A member agent decides a gang leader's reservation request and answers. -/
  | gangReserve
  /-- GROUP_RETIRE, R402: A group with no lanes and all words performed frees its slot and index. -/
  | groupRetire
  /-- TEAM_RETIRE, R402: A finished team releases its holdings and increments DONEVA with release. -/
  | teamRetire
  /-- WAIT_SWAP_OUT, R150: A waiting team's timer reaches SWAPTH and the agent starts swapping it out. -/
  | waitSwapOut
  /-- SWAP_OUT_DONE, R152: The team context is written and its holdings, slots and bank are released. -/
  | swapOutDone
  /-- TEAM_RETURN, R153: An eligible swapped team passes the banker and is granted its saved holding plus PEND. -/
  | teamReturn
  /-- TEAM_RESUME, R153: The restored team restarts its stopped commands and becomes resident. -/
  | teamResume
  /-- TEAM_SWITCH, R394: After PREEMPTTH cycles of an unfitting entry, the agent pre-empts a lower-priority team. -/
  | teamSwitch
  /-- DRAFT_GROUP, R243: The drafter forms a new group from the chosen Twill queue. -/
  | draftGroup
  /-- STEAL_REQUEST, R242: A die with a free slot and no FREE items asks other dies for items. -/
  | stealRequest
  /-- STEAL_REPLY, R242: Stolen FREE items arrive and are appended to the thief's die pool share. -/
  | stealReply
  /-- DIE_POOL_RETURN, R241: When room appears, head items of the die pool move back into the core's region. -/
  | diePoolReturn
  /-- COPY_CHUNK, R298: A copy engine writes one 4 KiB chunk of a target. -/
  | copyChunk
  /-- COPY_COMPLETE, R296: After its last contribution and release a copy's handle becomes complete or failed. -/
  | copyComplete
  /-- DOVETAIL_START, R322: The quad scheduler starts the earliest ready tile or predictor record on a free engine. -/
  | dovetailStart
  /-- TILE_RECORD_STEP, R315: An engine performs one K chunk or 8-row block of a tile record. -/
  | tileRecordStep
  /-- TILE_RECORD_COMPLETE, R305: A tile record finishes, writes its status, releases and completes its handle. -/
  | tileRecordComplete
  /-- PRED_RECORD_STEP, R340: The predictor or matrix engine performs one restartable step of a PRED record. -/
  | predRecordStep
  /-- PRED_RECORD_COMPLETE, R342: A PRED record completes, updates the team counters and completes its handle. -/
  | predRecordComplete
  /-- BANK_ALU_OP, R263: A bank ALU performs one atomic, reduction or ticket operation on a word. -/
  | bankAluOp
  /-- RELEASE_PERFORM, R352: A release is performed at the object's home slice and RELS is incremented. -/
  | releasePerform
  /-- ACQUIRE_PERFORM, R352: An acquire reads RELS at the home slice once its target is reached. -/
  | acquirePerform
  /-- ORDERED_RELEASE_TURN, R355: An ordered release is performed when RELS reaches its sequence number. -/
  | orderedReleaseTurn
  /-- LDFE_SERVE, R287: A waiting LDFE reads and clears its lines once all are full. -/
  | ldfeServe
  /-- FAULT_SERVICE_REQUEST, R384: The fault service takes a faulting region and resolves it from the tables or asks the host. -/
  | faultServiceRequest
  /-- FAULT_SERVICE_ANSWER, R385: The service answers a region and waiting accesses replay or trap. -/
  | faultServiceAnswer
  /-- PRRESP, R417: A host write to PRRESP answers a page request and rings PRHSOID. -/
  | prresp
  /-- DBELL, R356: A host write to a host stream object's DBELL releases earlier posted writes of its stream. -/
  | dbell
  /-- HOST_POSTED_WRITE, R356: A host posted write to BAR2 is performed at its home slice. -/
  | hostPostedWrite
  /-- TINVCTL_GO, R270: Writing GO starts a TLB invalidation of a range of a partition. -/
  | tinvctlGo
  /-- TINV_DONE, R270: After translated accesses drain, BUSY clears and DONE advances. -/
  | tinvDone
  /-- MULTICAST_ENTRY_CLOSE, R278: A multicast entry closes 64 cycles after its reply left the slice. -/
  | multicastEntryClose
  /-- ESCAPE_CHANNEL_ENTRY, R276: A packet that waited the escape wait at a router input enters the escape channel. -/
  | escapeChannelEntry
  /-- SUBARRAY_POWER_DOWN, R320: Multiplier sub-arrays power down after the partition's idle time. -/
  | subarrayPowerDown
  /-- WATCHDOG_EXPIRY, R391: A core watchdog reaches 2^20 cycles and triggers a fault-containment reset. -/
  | watchdogExpiry
  /-- MEMORY_ERROR, R274: An uncorrectable ECC error is detected on consumed data and retained or reported. -/
  | memoryError
  /-- PEER_TIMEOUT, R420: A peer access without a reply in 10 us is consumed as an uncorrectable error. -/
  | peerTimeout
  /-- PCONF, R416: Management command that configures a partition from a descriptor. -/
  | pconf
  /-- PHALT, R398: Management command that starts halting a running partition. -/
  | phalt
  /-- PARTITION_HALTED, R398: Every core of a halting partition has stopped and the status is written. -/
  | partitionHalted
  /-- PRESUME, R398: Management command that restarts a halted partition. -/
  | presume
  /-- PSWAPOUT, R399: Management command that moves a halted partition's context into the shadow slot. -/
  | pswapout
  /-- PSWAPIN, R398: Management command that moves a swapped context back to its cluster. -/
  | pswapin
  /-- PARTITION_SWAP_DONE, R398: A partition context move completes within 18 us. -/
  | partitionSwapDone
  /-- PRESET, R398: Management command that resets a halted partition, killing its teams. -/
  | preset
  /-- CSWITCH, R397: Management command that pre-empts every team of a core and stops its agent. -/
  | cswitch
  /-- RINGS, R406: Management command that places the error and page request rings. -/
  | rings
  /-- LOGREAD, R415: Management command that copies a slice's error log to RESPA. -/
  | logread
  /-- HEALTH, R415: Management command that returns a 64-byte health record. -/
  | health
  /-- FWSTAGE, R421: Management command that checks a firmware image's signature and stages it. -/
  | fwstage
  /-- FWACT_FE, R423: Activates the staged front-end image with die-by-die handover. -/
  | fwactFe
  /-- FWACT_AGENT, R422: Activates the staged agent image core by core. -/
  | fwactAgent
  /-- FWACT_SERVICE, R424: Activates the staged service-core image and restarts the service core. -/
  | fwactService
  /-- SERVICE_CORE_FALLBACK, R424: If the new service-core image does not start within 200 ms the previous one returns. -/
  | serviceCoreFallback
  /-- ATTEST, R427: Management command that writes a signed attestation report. -/
  | attest
  /-- ATTEST_KEY, R427: ATTEST with KEY set writes the public identity key and its certificate. -/
  | attestKey
  /-- PCAP, R418: Management command that sets the module power cap. -/
  | pcap
  /-- CLOCK_STEP, R418: A power or thermal limit moves the arithmetic clock to another step and signals vector 3. -/
  | clockStep
  /-- CRITICAL_TEMP_STOP, R418: At the critical temperature all dies stop and the event is logged. -/
  | criticalTempStop
  /-- POWER_UP, R425: The boot ROM measures and verifies the images and starts the device with partitions unconfigured. -/
  | powerUp
  /-- UNLOAD_DRAINED, R440: Once every access already translated through the unloaded image's pages has been performed, UNLOAD writes its status and IMGPA may be reused. -/
  | unloadDrained
  /-- CORRECTED_SOFT_ERROR, R274: A corrected ECC error is counted in the log of its slice or core as a KIND 0 entry. -/
  | correctedSoftError
  /-- CONTROL_STATE_ERROR, R391: An uncorrectable error in core, quad or cluster control state that no precise access consumes triggers a fault-containment reset. -/
  | controlStateError
  /-- PEER_PARTY_ACCESS, R420: A request from a party on a peer module arrives over Kazot Link and is performed at its home slice on this module. -/
  | peerPartyAccess
  /-- KAZOT_LINK_PORT_DOWN, R420: A Kazot Link port goes down and its switch plane is skipped by peer accesses. -/
  | kazotLinkPortDown
  /-- KAZOT_LINK_PORT_UP, R420: A Kazot Link port comes back up and its plane is used again for peer accesses. -/
  | kazotLinkPortUp
  /-- SERVICE_CORE_RESTARTED, R424: The service core starts on the staged image within 200 ms, executes the held host mailbox command and delivers held interrupts and log entries. -/
  | serviceCoreRestarted
  /-- DIE_DOMAIN_OFF, R419: The die power domain goes off while the side-band domain stays up, so only side-band commands are served and others fail with NODIE. -/
  | dieDomainOff
  /-- DIE_DOMAIN_ON, R419: The die power domain returns and the dies start again while the service core keeps running. -/
  | dieDomainOn
  /-- HOST_LINK_DOWN, R412: The PCI Express host link goes down, and the module is then reachable only through the side-band port. -/
  | hostLinkDown
  /-- HOST_LINK_UP, R412: The PCI Express host link trains, possibly at a reduced width or rate, and BAR0 and BAR2 become reachable again. -/
  | hostLinkUp
  /-- MCTP_CONTROL_MESSAGE, R419: An MCTP control message arrives over I3C and the service core answers it. -/
  | mctpControlMessage
deriving DecidableEq, Repr

end Sys2Proof
end

