-- ==== Sys2Proof/WellFormed.lean ====
section
/-! DEFINITION. What each word names and may carry, read from the word alone: its registers with their classes, its
other static conditions, and the prefix fields it takes (R95 to R98, R103). `Instr.wf` and `Instr.prefixOk` are the
checks whose failure is ILLOP. -/

namespace Sys2Proof

/-- The register classes a field can name (R41, R96); `vd` is an FP64 pair (R43). -/
inductive RegClass where
  | x | v | vd | s | q | m | h | n | a
deriving DecidableEq, Repr

/-- A register that a word names. -/
structure Opnd where
  cls : RegClass
  reg : Reg
  /-- It is a mask destination, which m0 cannot be (R42, R96). -/
  mdest : Bool
deriving DecidableEq, Repr

/-- Does the register exist in its class (R96)? -/
def Opnd.exists (o : Opnd) : Bool :=
  match o.cls with
  | .x | .v | .s => true
  | .vd => o.reg.toNat % 2 == 0
  | .q | .a => decide (o.reg.toNat < 8)
  | .m => decide (o.reg.toNat < 8) && !(o.mdest && o.reg.toNat == 0)
  | .h | .n => decide (o.reg.toNat < 16)

/-- What a prefix may carry on a word (R98, R196, R207). -/
structure Takes where
  any : Bool
  z : Bool
  rnd : Bool
  fourth : Option RegClass
  /-- The word needs the fourth operand (R187). -/
  needF : Bool
  /-- The number of SEL values it takes. -/
  sel : Nat
deriving DecidableEq, Repr

def noPrefix : Takes := ⟨false, false, false, none, false, 1⟩
/-- A mask and Z. -/
def maskZ : Takes := ⟨true, true, false, none, false, 1⟩
def maskOnly : Takes := ⟨true, false, false, none, false, 1⟩
def maskZF (c : RegClass) : Takes := ⟨true, true, false, some c, false, 1⟩

/-- A word's signature. -/
structure Sig where
  ops : List Opnd
  takes : Takes
  ok : Bool
deriving DecidableEq, Repr

def rx (r : Reg) : Opnd := ⟨.x, r, false⟩
def rv (r : Reg) : Opnd := ⟨.v, r, false⟩
def rvd (r : Reg) : Opnd := ⟨.vd, r, false⟩
def rs (r : Reg) : Opnd := ⟨.s, r, false⟩
def rq (r : Reg) : Opnd := ⟨.q, r, false⟩
def rm (r : Reg) : Opnd := ⟨.m, r, false⟩
def rmd (r : Reg) : Opnd := ⟨.m, r, true⟩
def rh (r : Reg) : Opnd := ⟨.h, r, false⟩
def rn (r : Reg) : Opnd := ⟨.n, r, false⟩
def ra (r : Reg) : Opnd := ⟨.a, r, false⟩
/-- R95: an x-register, or an s-register where the bit is set. -/
def rxs (u : Bool) (r : Reg) : Opnd := if u then rs r else rx r
def rvs (u : Bool) (r : Reg) : Opnd := if u then rs r else rv r

/-- The signatures of the common shapes. -/
def sigXXX (f : FormR) (t : Takes) : Sig := ⟨[rx f.d, rxs f.ua f.a, rxs f.ub f.b], t, true⟩
def sigXX (f : FormRU) : Sig := ⟨[rx f.d, rxs f.ua f.a], maskZ, true⟩
def sigVVV (f : FormR) (t : Takes) : Sig := ⟨[rv f.d, rvs f.ua f.a, rvs f.ub f.b], t, true⟩
def sigVV (f : FormRU) : Sig := ⟨[rv f.d, rvs f.ua f.a], maskZ, true⟩
def sigQVV (f : FormR) : Sig := ⟨[rq f.d, rvs f.ua f.a, rvs f.ub f.b], maskZ, true⟩
def sigQQ (f : FormDA) : Sig := ⟨[rq f.d, rq f.a], maskZ, true⟩
def sigVX (f : FormRU) : Sig := ⟨[rv f.d, rxs f.ua f.a], maskZ, true⟩
def sigXV (f : FormRU) (t : Takes) : Sig := ⟨[rx f.d, rvs f.ua f.a], t, true⟩
def sigUni (f : FormDAB) : Sig := ⟨[rs f.d, rs f.a, rs f.b], noPrefix, true⟩
def sigNone : Sig := ⟨[], noPrefix, true⟩
def withRnd (t : Takes) : Takes := { t with rnd := true }

/-- The number of elements of a format code in a word (R222); none for a code that names no format. -/
def fmtElems (code : Nat) : Nat :=
  match code with
  | 0 | 1 => 2
  | 2 | 3 | 5 | 7 | 8 => 4
  | 4 | 6 => 8
  | _ => 0

/-- The signatures of the LANE members: type or width bit choose the file (R196). -/
def sigRed (f : FormRed) : Sig :=
  if f.t = 2 then ⟨[rv f.d, rvs f.ua f.a], maskZ, true⟩ else ⟨[rx f.d, rxs f.ua f.a], maskZ, f.t ≠ 3⟩
def sigSh (f : FormSh) (t : Takes) : Sig :=
  if f.w then ⟨[rv f.d, rvs f.ua f.a], t, true⟩ else ⟨[rx f.d, rxs f.ua f.a], t, true⟩

/-- R51: the kind of a system register number: `some true` for the lane kind, none for a reserved number. -/
def sysKind (num : Nat) : Option Bool :=
  if num = 0x20 ∨ num = 0x21 then some true
  else if num ≤ 0x0B ∨ (0x10 ≤ num ∧ num ≤ 0x12) ∨ (0x18 ≤ num ∧ num ≤ 0x1B) ∨ (0x28 ≤ num ∧ num ≤ 0x2A)
    ∨ (0x30 ≤ num ∧ num ≤ 0x33) ∨ (0x40 ≤ num ∧ num ≤ 0x42) then some false
  else none
/-- SRD and SWR: D is of the class that the register's kind gives (R175). -/
def sigSys (f : FormDR) : Sig :=
  match sysKind f.num.toNat with
  | some true => ⟨[rx f.d], noPrefix, true⟩
  | some false => ⟨[rs f.d], noPrefix, true⟩
  | none => ⟨[], noPrefix, false⟩

/-! ### Memory words (R279, R281, R283, R292 to R294) -/

def xPair (r : Reg) : List Opnd := [rx r, rx (r + 1)]
def xQuad (r : Reg) : List Opnd := [rx r, rx (r + 1), rx (r + 2), rx (r + 3)]
/-- An atomic's pair result: D = 0 discards both halves (R292). -/
def xPairRes (r : Reg) : List Opnd := if r = 0 then [rx r] else xPair r
/-- BASE: a pair in the global space, one register in the others. -/
def baseOps (f : FormL) : List Opnd :=
  let k : Reg → Opnd := if f.ub then rs else rx
  if f.space = 0 then [k f.base, k (f.base + 1)] else [k f.base]
/-- The space is allowed and a global BASE is not 63. -/
def memOk (f : FormL) (spaces : List Nat) : Bool :=
  spaces.contains f.space.toNat && !(f.space == 0 && f.base.toNat == 63)
def sigLd (f : FormL) (d : List Opnd) (ok : Bool) (spaces : List Nat) : Sig :=
  ⟨d ++ baseOps f, maskZF .x, ok && memOk f spaces⟩
def sigSt (f : FormL) (d : List Opnd) (ok : Bool) (spaces : List Nat) : Sig :=
  ⟨d ++ baseOps f, { maskZF .x with z := false }, ok && memOk f spaces⟩
def sigLdun (f : FormL) : Sig := ⟨rs f.d :: baseOps f, maskOnly, memOk f [0, 1, 3]⟩
def takesAtom : Takes := { maskZ with sel := 16 }
def sigAtom (f : FormAt) (d b : List Opnd) (t : Takes) (ok : Bool) : Sig :=
  ⟨d ++ [rx f.a, rx (f.a + 1)] ++ b, t, ok && f.a.toNat ≠ 63⟩

/-- What each word names and takes. -/
def Instr.sig : Instr → Sig
  | .nop => sigNone
  | .trap _ => sigNone
  | .tret => sigNone
  | .srd f => sigSys f
  | .swr f => sigSys f
  | .bkpt _ => sigNone
  | .cyc f => ⟨[rs f.d], noPrefix, f.d.toNat ≠ 0 && f.d.toNat ≠ 63⟩
  | .ifence => sigNone
  | .dictld f => ⟨[rs f.d], noPrefix, f.d.toNat ≠ 0 && f.d.toNat ≠ 63⟩
  | .fsvc f => ⟨[rs f.d], noPrefix, true⟩
  | .bra _ => sigNone
  | .bqt _ => sigNone
  | .bqf _ => sigNone
  | .bqu _ => sigNone
  | .bqnt _ => sigNone
  | .bqnf _ => sigNone
  | .bq3 _ => sigNone
  | .bmz _ => sigNone
  | .bmnz _ => sigNone
  | .loop _ => sigNone
  | .call f => ⟨[rx f.d], maskOnly, true⟩
  | .calli f => ⟨[rx f.d, rx f.a], maskOnly, true⟩
  | .jmpi f => ⟨[rx f.a], maskOnly, true⟩
  | .ret f => ⟨[rx f.a], maskOnly, true⟩
  | .exit _ => sigNone
  | .exits f => ⟨[rs f.d], noPrefix, true⟩
  | .joinat _ => sigNone
  | .syncj => sigNone
  | .msave f => ⟨[rmd f.d], noPrefix, true⟩
  | .mrest f => ⟨[rm f.a], noPrefix, true⟩
  | .mand f => ⟨[rmd f.d, rm f.a, rm f.b], noPrefix, true⟩
  | .mor f => ⟨[rmd f.d, rm f.a, rm f.b], noPrefix, true⟩
  | .mxor f => ⟨[rmd f.d, rm f.a, rm f.b], noPrefix, true⟩
  | .mnot f => ⟨[rmd f.d, rm f.a], noPrefix, true⟩
  | .mfromq f => ⟨[rmd f.d, rq f.a], noPrefix, decide (f.b.toNat < 5)⟩
  | .mcnt f => ⟨[rs f.d, rm f.a], noPrefix, true⟩
  | .add f => sigXXX f maskZ
  | .sub f => sigXXX f maskZ
  | .and f => sigXXX f maskZ
  | .or f => sigXXX f maskZ
  | .xor f => sigXXX f maskZ
  | .andn f => sigXXX f maskZ
  | .min f => sigXXX f maskZ
  | .max f => sigXXX f maskZ
  | .minu f => sigXXX f maskZ
  | .maxu f => sigXXX f maskZ
  | .slt f => sigXXX f maskZ
  | .sltu f => sigXXX f maskZ
  | .seq f => sigXXX f maskZ
  | .abs f => sigXX f
  | .lea f => sigXXX f maskZ
  | .selm f => sigXXX f { maskZF .m with needF := true }
  | .addi f => ⟨[rx f.d, rx f.a], maskZ, true⟩
  | .andi f => ⟨[rx f.d, rx f.a], maskZ, true⟩
  | .ori f => ⟨[rx f.d, rx f.a], maskZ, true⟩
  | .xori f => ⟨[rx f.d, rx f.a], maskZ, true⟩
  | .slti f => ⟨[rx f.d, rx f.a], maskZ, true⟩
  | .sltiu f => ⟨[rx f.d, rx f.a], maskZ, true⟩
  | .leai f => ⟨[rx f.d, rx f.a], maskZ, true⟩
  | .shli f => ⟨[rx f.d, rx f.a], maskZ, true⟩
  | .movi f => ⟨[rx f.d], maskZ, true⟩
  | .movhi f => ⟨[rx f.d], maskZ, true⟩
  | .shl f => sigXXX f maskZ
  | .shr f => sigXXX f maskZ
  | .sar f => sigXXX f maskZ
  | .rotl f => sigXXX f maskZ
  | .bfx f => sigXXX f maskZ
  | .bfi f => sigXXX f maskZ
  | .popc f => sigXX f
  | .clz f => sigXX f
  | .ctz f => sigXX f
  | .brev f => sigXX f
  | .bperm f => sigXXX f (maskZF .x)
  | .mul f => sigXXX f maskZ
  | .mulh f => sigXXX f maskZ
  | .mulhu f => sigXXX f maskZ
  | .mad f => sigXXX f (maskZF .x)
  | .div f => sigXXX f maskZ
  | .divu f => sigXXX f maskZ
  | .rem f => sigXXX f maskZ
  | .remu f => sigXXX f maskZ
  | .dp4i8 f => sigXXX f (maskZF .x)
  | .dp4n8 f => sigXXX f (maskZF .x)
  | .dp8i4 f => sigXXX f (maskZF .x)
  | .dp4e4 f => ⟨[rv f.d, rxs f.ua f.a, rxs f.ub f.b], maskZF .v, true⟩
  | .dp4e5 f => ⟨[rv f.d, rxs f.ua f.a, rxs f.ub f.b], maskZF .v, true⟩
  | .dp8f4 f => ⟨[rv f.d, rxs f.ua f.a, rxs f.ub f.b], maskZF .v, true⟩
  | .pksel f => ⟨[rx f.d, rxs f.ua f.a], { maskZ with sel := 2 ^ (3 - f.k.toNat % 4) }, f.k.toNat % 4 ≠ 3⟩
  | .pknarrow f => ⟨[rx f.d, rv f.a, rv (f.a + 1)], { withRnd maskZ with sel := fmtElems f.fmt.toNat / 2 }, decide (f.fmt.toNat < 8) && f.a.toNat ≠ 63 && !f.ua⟩
  | .cvtiv f => sigVX f
  | .cvtniv f => sigVX f
  | .cvtvi f => sigXV f (withRnd maskZ)
  | .cvtvni f => sigXV f (withRnd maskZ)
  | .cvtdv f => ⟨[rv f.d, rvd f.a], maskZ, true⟩
  | .cvtvd f => ⟨[rvd f.d, rvs f.ua f.a], maskZ, true⟩
  | .cvtnv f => ⟨[rv f.d, rxs f.ua f.a], { maskZ with sel := fmtElems f.fmt.toNat }, decide (f.fmt.toNat < 9)⟩
  | .cvtvn f => ⟨[rx f.d, rvs f.ua f.a], { withRnd maskZ with sel := fmtElems f.fmt.toNat }, decide (f.fmt.toNat < 8)⟩
  | .vadd f => sigVVV f maskZ
  | .vsub f => sigVVV f maskZ
  | .vneg f => sigVV f
  | .vabs f => sigVV f
  | .vmin f => sigVVV f maskZ
  | .vmax f => sigVVV f maskZ
  | .vmul f => sigVVV f maskZ
  | .vdiv f => sigVVV f maskZ
  | .vfma f => sigVVV f (maskZF .v)
  | .vsqr f => sigVV f
  | .vsqrt f => sigVV f
  | .vrcp f => sigVV f
  | .vscale f => ⟨[rv f.d, rvs f.ua f.a, rxs f.ub f.b], maskZ, true⟩
  | .vmk f => ⟨[rv f.d, rxs f.ua f.a, rxs f.ub f.b], maskZ, true⟩
  | .vlo f => sigXV f maskZ
  | .vhi f => sigXV f maskZ
  | .vmid f => sigVV f
  | .vrad f => sigVV f
  | .vwid f => sigVV f
  | .vhull f => sigVVV f maskZ
  | .visect f => sigVVV f maskZ
  | .vbis f => ⟨[rv f.d, rv (f.d + 1), rvs f.ua f.a], maskZ, f.d.toNat ≠ 63⟩
  | .vent f => ⟨[rv f.d], maskZ, true⟩
  | .vemp f => ⟨[rv f.d], maskZ, true⟩
  | .vmrc f => sigXV f maskZ
  | .vfmr f => sigVX f
  | .vclt f => sigQVV f
  | .vcle f => sigQVV f
  | .vcgt f => sigQVV f
  | .vcge f => sigQVV f
  | .vceq f => sigQVV f
  | .vcsub f => sigQVV f
  | .vcdis f => sigQVV f
  | .vcin f => sigQVV f
  | .qand f => ⟨[rq f.d, rq f.a, rq f.b], maskZ, true⟩
  | .qor f => ⟨[rq f.d, rq f.a, rq f.b], maskZ, true⟩
  | .qnot f => sigQQ f
  | .qsure f => sigQQ f
  | .qmaybe f => sigQQ f
  | .qmov f => sigQQ f
  | .vexp f => sigVV f
  | .vlog f => sigVV f
  | .vtanh f => sigVV f
  | .vsigm f => sigVV f
  | .vsilu f => sigVV f
  | .vgelu f => sigVV f
  | .vsin f => sigVV f
  | .vcos f => sigVV f
  | .shfl f => sigSh f (maskZF .x)
  | .bcast f => sigSh f maskZ
  -- Z is no bit of VOTE and QVOTE, which write no lane register: DEDUCED, unsafe: log entry 91
  | .vote f => ⟨[rs f.d, rxs f.ua f.a], maskOnly, true⟩
  | .qvote f => ⟨[rs f.d, rq f.a], maskOnly, true⟩
  | .rdadd f => sigRed f
  | .rdmin f => sigRed f
  | .rdmax f => sigRed f
  | .scan f => sigRed f
  | .hist f => ⟨[rx f.d, rxs f.ua f.a], maskZF .x, true⟩
  | .hmerge f => sigXXX f maskZ
  | .ldb f => sigLd f [rx f.d] true [0,1,2,3]
  | .ldh f => sigLd f [rx f.d] true [0,1,2,3]
  | .ldw f => sigLd f [rx f.d] true [0,1,2,3]
  | .ldd f => sigLd f (xPair f.d) (f.d.toNat % 2 == 0) [0,1,2,3]
  | .ldq f => sigLd f (xQuad f.d) (f.d.toNat % 4 == 0) [0,1,2,3]
  | .ldv f => sigLd f [rv f.d] true [0,1,2,3]
  | .ldvc f => sigLd f [rv f.d] true [0,1,2,3]
  | .ldff f => sigLd f [rx f.d] true [0,3]
  | .ldfe f => sigLd f [rx f.d] true [1,2]
  | .ldmc f => sigLd f [rx f.d] true [0]
  | .ldun f => sigLdun f
  | .stb f => sigSt f [rx f.d] true [0,1,2]
  | .sth f => sigSt f [rx f.d] true [0,1,2]
  | .stw f => sigSt f [rx f.d] true [0,1,2]
  | .std f => sigSt f (xPair f.d) (f.d.toNat % 2 == 0) [0,1,2]
  | .stq f => sigSt f (xQuad f.d) (f.d.toNat % 4 == 0) [0,1,2]
  | .stv f => sigSt f [rv f.d] true [0,1,2]
  | .stvc f => sigSt f [rv f.d] true [0,1,2]
  | .stfe f => sigSt f [rx f.d] true [1,2]
  | .stx f => sigSt f [rx f.d] true [2]
  | .aadd f => sigAtom f [rx f.d] [rx f.b] takesAtom true
  | .amin f => sigAtom f [rx f.d] [rx f.b] takesAtom true
  | .amax f => sigAtom f [rx f.d] [rx f.b] takesAtom true
  | .aminu f => sigAtom f [rx f.d] [rx f.b] takesAtom true
  | .amaxu f => sigAtom f [rx f.d] [rx f.b] takesAtom true
  | .aand f => sigAtom f [rx f.d] [rx f.b] takesAtom true
  | .aor f => sigAtom f [rx f.d] [rx f.b] takesAtom true
  | .axor f => sigAtom f [rx f.d] [rx f.b] takesAtom true
  | .axch f => sigAtom f [rx f.d] [rx f.b] takesAtom true
  | .acas f => sigAtom f [rx f.d] [rx f.b] { takesAtom with fourth := some .x, needF := true } true
  | .ainc f => sigAtom f (xPairRes f.d) [rx f.b] takesAtom (f.d.toNat % 2 == 0)
  | .avadd f => sigAtom f [rv f.d] [rv f.b] takesAtom true
  | .amind f => sigAtom f (xPairRes f.d) (xPair f.b) takesAtom (f.d.toNat % 2 == 0 && f.b.toNat % 2 == 0)
  | .cpy f => ⟨[rh f.d, rs f.a], noPrefix, f.a.toNat ≠ 63⟩
  | .cpy2d f => ⟨[rh f.d, rs f.a], noPrefix, f.a.toNat ≠ 63⟩
  | .cpymc f => ⟨[rh f.d, rs f.a], noPrefix, f.a.toNat ≠ 63⟩
  | .gwbind f => ⟨[rs f.a], noPrefix, decide (f.d.toNat < 16) && f.a.toNat ≠ 63⟩
  | .gwfree f => ⟨[], noPrefix, decide (f.d.toNat < 16)⟩
  | .arrv f => ⟨[rs f.a, rs f.b], noPrefix, f.d.toNat == 1 || f.d.toNat == 2⟩
  | .tshapeAcc f => ⟨[ra f.d, rs f.a], noPrefix, true⟩
  | .tshapePred f => ⟨[rs f.a], noPrefix, true⟩
  | .tzero f => ⟨[ra f.d], noPrefix, true⟩
  | .tload f => ⟨[rh f.d, rs f.a], noPrefix, f.a.toNat ≠ 63⟩
  | .tmma f => ⟨[rh f.d, rs f.a], noPrefix, f.a.toNat ≠ 63⟩
  | .tmmav f => ⟨[rh f.d, rs f.a], noPrefix, f.a.toNat ≠ 63⟩
  | .tjoin f => ⟨[rh f.d, rs f.a], noPrefix, f.a.toNat ≠ 63⟩
  | .tstore f => ⟨[rh f.d, rs f.a], noPrefix, f.a.toNat ≠ 63⟩
  | .tksplit f => ⟨[rh f.d, rs f.a], noPrefix, f.a.toNat ≠ 63⟩
  | .tscan f => ⟨[ra f.d], noPrefix, true⟩
  | .tgrp f => ⟨[rh f.d, rs f.a], noPrefix, f.a.toNat ≠ 63⟩
  | .twake _ => sigNone
  | .pscore f => ⟨[rh f.d, rs f.a], noPrefix, f.a.toNat ≠ 63⟩
  | .psel f => ⟨[rh f.d, rs f.a], noPrefix, f.a.toNat ≠ 63⟩
  | .pkerf f => ⟨[rh f.d, rs f.a], noPrefix, f.a.toNat ≠ 63⟩
  | .pffn f => ⟨[rh f.d, rs f.a], noPrefix, f.a.toNat ≠ 63⟩
  | .pstat f => ⟨[rs f.d], noPrefix, decide (f.s.toNat < 6 ∨ (32 ≤ f.s.toNat ∧ f.s.toNat < 38))⟩
  | .bar f => ⟨[rs f.a, rs f.b], noPrefix, true⟩
  | .bara f => ⟨[rs f.d, rs f.a, rs f.b], noPrefix, true⟩
  | .barw f => ⟨[rs f.a, rs f.b], noPrefix, true⟩
  | .barx _ => sigNone
  | .sobind f => ⟨[rs f.a, rs f.b], noPrefix, decide (f.b.toNat ≤ 60)⟩
  | .soacq f => ⟨[rs f.d, rs f.a, rs f.b], noPrefix, true⟩
  | .sorel f => ⟨[rs f.a], noPrefix, true⟩
  | .fence f => ⟨[], noPrefix, (f.acq || f.rel) && decide (2 ≤ f.s.toNat ∧ f.s.toNat ≤ 7) && (f.m = 0 || f.rel)⟩
  | .hwait f => ⟨[rs f.d, rh f.a], noPrefix, true⟩
  | .htest f => ⟨[rs f.d, rh f.a], noPrefix, true⟩
  | .hcancel f => ⟨[rh f.a], noPrefix, true⟩
  | .await f => ⟨[rs f.d, rs f.a, rs f.b], noPrefix, true⟩
  | .split f => ⟨[rv f.d, rv f.a, rs f.b], maskOnly, f.b.toNat ≠ 63⟩
  | .fork f => ⟨[rx f.d, rs f.s], maskOnly, f.s.toNat ≠ 63 && f.d.toNat ≠ 0⟩
  | .rsmp f => ⟨[rx f.d, rv f.a, rs f.b], noPrefix, f.b.toNat ≠ 63⟩
  | .linid f => ⟨[rx f.d, rx (f.d + 1), rx f.a], maskZ, f.d.toNat ≠ 0 && f.d.toNat ≠ 63⟩
  | .poolq f => ⟨[rs f.d, rs f.a], noPrefix, decide (f.s.toNat < 3)⟩
  | .racq f => ⟨[rs f.a], noPrefix, true⟩
  | .rtry f => ⟨[rs f.d, rs f.a], noPrefix, true⟩
  | .rrel f => ⟨[rs f.a], noPrefix, true⟩
  | .rqry f => ⟨[rs f.d], noPrefix, decide (f.s.toNat < 5)⟩
  | .rngseed f => ⟨[rs f.a, rs f.b], noPrefix, true⟩
  | .rngn f => ⟨[rx f.d], maskZ, true⟩
  | .rngf f => ⟨[rv f.d], maskZ, true⟩
  | .uadd f => sigUni f
  | .usub f => sigUni f
  | .uand f => sigUni f
  | .uor f => sigUni f
  | .uxor f => sigUni f
  | .ushl f => sigUni f
  | .ushr f => sigUni f
  | .umul f => sigUni f
  | .uslt f => sigUni f
  | .umovx f => ⟨[rs f.d, rx f.a], noPrefix, true⟩
  | .umovs f => ⟨[rx f.d, rs f.a], noPrefix, true⟩
  | .uaddi f => ⟨[rs f.d], noPrefix, true⟩
  | .pfx _ => sigNone
  | .triggerWrite => sigNone
  | .cmdtail => sigNone
  | .registerWrite => sigNone
  | .load => sigNone
  | .unload => sigNone
  | .install => sigNone
  | .remove => sigNone
  | .qcreate => sigNone
  | .qdestroy => sigNone
  | .qprio => sigNone
  | .setth => sigNone
  | .copy => sigNone
  | .walkerPass => sigNone
  | .queueService => sigNone
  | .waitNodeReread => sigNone
  | .queuePark => sigNone
  | .queueUnpark => sigNone
  | .lstReport => sigNone
  | .kernelNodeComplete => sigNone
  | .agentPlace => sigNone
  | .gangReserve => sigNone
  | .groupRetire => sigNone
  | .teamRetire => sigNone
  | .waitSwapOut => sigNone
  | .swapOutDone => sigNone
  | .teamReturn => sigNone
  | .teamResume => sigNone
  | .teamSwitch => sigNone
  | .draftGroup => sigNone
  | .stealRequest => sigNone
  | .stealReply => sigNone
  | .diePoolReturn => sigNone
  | .copyChunk => sigNone
  | .copyComplete => sigNone
  | .dovetailStart => sigNone
  | .tileRecordStep => sigNone
  | .tileRecordComplete => sigNone
  | .predRecordStep => sigNone
  | .predRecordComplete => sigNone
  | .bankAluOp => sigNone
  | .releasePerform => sigNone
  | .acquirePerform => sigNone
  | .orderedReleaseTurn => sigNone
  | .ldfeServe => sigNone
  | .faultServiceRequest => sigNone
  | .faultServiceAnswer => sigNone
  | .prresp => sigNone
  | .dbell => sigNone
  | .hostPostedWrite => sigNone
  | .tinvctlGo => sigNone
  | .tinvDone => sigNone
  | .multicastEntryClose => sigNone
  | .escapeChannelEntry => sigNone
  | .subarrayPowerDown => sigNone
  | .watchdogExpiry => sigNone
  | .memoryError => sigNone
  | .peerTimeout => sigNone
  | .pconf => sigNone
  | .phalt => sigNone
  | .partitionHalted => sigNone
  | .presume => sigNone
  | .pswapout => sigNone
  | .pswapin => sigNone
  | .partitionSwapDone => sigNone
  | .preset => sigNone
  | .cswitch => sigNone
  | .rings => sigNone
  | .logread => sigNone
  | .health => sigNone
  | .fwstage => sigNone
  | .fwactFe => sigNone
  | .fwactAgent => sigNone
  | .fwactService => sigNone
  | .serviceCoreFallback => sigNone
  | .attest => sigNone
  | .attestKey => sigNone
  | .pcap => sigNone
  | .clockStep => sigNone
  | .criticalTempStop => sigNone
  | .powerUp => sigNone
  | .unloadDrained => sigNone
  | .correctedSoftError => sigNone
  | .controlStateError => sigNone
  | .peerPartyAccess => sigNone
  | .kazotLinkPortDown => sigNone
  | .kazotLinkPortUp => sigNone
  | .serviceCoreRestarted => sigNone
  | .dieDomainOff => sigNone
  | .dieDomainOn => sigNone
  | .hostLinkDown => sigNone
  | .hostLinkUp => sigNone
  | .mctpControlMessage => sigNone
/-- R96 and the other static conditions of a word: false is ILLOP. -/
def Instr.wf (i : Instr) : Bool := i.sig.ok && i.sig.ops.all Opnd.exists

/-- R97, R98, R79: may this prefix stand before this word? -/
def Instr.prefixOk (p : FormP) (i : Instr) : Bool :=
  let t := i.sig.takes
  t.any && (t.z || !p.z) && (t.rnd || p.rnd == 0#3) && decide (p.rnd.toNat < 5)
    && decide (p.sel.toNat < t.sel)
    && (match t.fourth, p.f with
      | some c, true => (Opnd.mk c p.fourth false).exists
      | none, true => false
      | _, false => p.fourth == 0#6)

/-- Is the word one that needs a prefix's fourth operand (R187)? -/
def Instr.needsF (i : Instr) : Bool := i.sig.takes.needF

/-- The x-registers and v-registers that a word and its prefix name, for the window check (R49); an FP64 pair
names two. -/
def windowRegs (ops : List Opnd) : List (Bool × Nat) :=
  ops.flatMap fun o => match o.cls with
    | .x => [(false, o.reg.toNat)]
    | .v => [(true, o.reg.toNat)]
    | .vd => [(true, o.reg.toNat), (true, o.reg.toNat + 1)]
    | _ => []

end Sys2Proof
end

