-- ==== Sys2Proof/Decode.lean ====
section
/-! DEFINITION. Decoding a 32-bit word to an instruction and encoding it back (R93, R94, R102), and the little-endian
bytes a word is stored as (R2). A reserved bit that is not zero, a reserved member and a reserved major are each
refused by name (R103); a dictionary word is no instruction of its own (R100). -/

namespace Sys2Proof

/-- Why a word is no instruction (R103). -/
inductive DecodeError where
  /-- MAJ 0x1B, 0x1C or 0x1D. -/
  | reservedMajor
  /-- FN, SUB, H or OP beyond the last member of R102. -/
  | reservedMember
  /-- A reserved field that is not zero. -/
  | reservedField
  /-- MAJ 0x1F: two dictionary codes, which fetch replaces (R100). -/
  | dictPair
  /-- Fewer than four bytes. -/
  | tooShort
deriving DecidableEq, Repr

abbrev Decoded := Except DecodeError Instr

/-- Are the `n` bits from bit `lo` up all zero? -/
def zeroAt (w : Word) (lo n : Nat) : Bool := w.extractLsb' lo n == 0#n

/-- An instruction of a form that was read, or the refusal of a reserved field. -/
def took {F : Type} (mk : F → Instr) : Option F → Decoded
  | some f => .ok (mk f)
  | none => .error .reservedField

/-! ### The forms: reading the fields, and laying them out (R93, R94) -/

def FormC.dec (w : Word) : Option FormC :=
  if zeroAt w 0 20 then some ⟨w.getLsbD 31⟩ else none
def FormC.enc (maj : BitVec 5) (fn : BitVec 6) (f : FormC) : Word :=
  BitVec.ofBool f.c ++ maj ++ fn ++ 0#20

def FormN14.dec (w : Word) : Option FormN14 :=
  if zeroAt w 14 6 then some ⟨w.getLsbD 31, w.extractLsb' 0 14⟩ else none
def FormN14.enc (maj : BitVec 5) (fn : BitVec 6) (f : FormN14) : Word :=
  BitVec.ofBool f.c ++ maj ++ fn ++ 0#6 ++ f.imm

def FormDR.dec (w : Word) : Option FormDR :=
  some ⟨w.getLsbD 31, w.extractLsb' 14 6, w.extractLsb' 0 14⟩
def FormDR.enc (maj : BitVec 5) (fn : BitVec 6) (f : FormDR) : Word :=
  BitVec.ofBool f.c ++ maj ++ fn ++ f.d ++ f.num

def FormD.dec (w : Word) : Option FormD :=
  if zeroAt w 0 14 then some ⟨w.getLsbD 31, w.extractLsb' 14 6⟩ else none
def FormD.enc (maj : BitVec 5) (fn : BitVec 6) (f : FormD) : Word :=
  BitVec.ofBool f.c ++ maj ++ fn ++ f.d ++ 0#14

def FormDict.dec (w : Word) : Option FormDict :=
  if zeroAt w 12 2 then some ⟨w.getLsbD 31, w.extractLsb' 14 6, w.extractLsb' 2 10, w.extractLsb' 0 2⟩ else none
def FormDict.enc (maj : BitVec 5) (fn : BitVec 6) (f : FormDict) : Word :=
  BitVec.ofBool f.c ++ maj ++ fn ++ f.d ++ 0#2 ++ f.cnt ++ f.bank

def FormO.dec (w : Word) : Option FormO :=
  if zeroAt w 19 3 then some ⟨w.getLsbD 31, w.extractLsb' 0 19⟩ else none
def FormO.enc (maj : BitVec 5) (fn : BitVec 4) (f : FormO) : Word :=
  BitVec.ofBool f.c ++ maj ++ fn ++ 0#3 ++ f.off

def FormSO.dec (w : Word) : Option FormSO :=
  some ⟨w.getLsbD 31, w.extractLsb' 19 3, w.extractLsb' 0 19⟩
def FormSO.enc (maj : BitVec 5) (fn : BitVec 4) (f : FormSO) : Word :=
  BitVec.ofBool f.c ++ maj ++ fn ++ f.sel ++ f.off

def FormQ3.dec (w : Word) : Option FormQ3 :=
  if zeroAt w 0 1 then some ⟨w.getLsbD 31, w.extractLsb' 19 3, w.extractLsb' 10 9, w.extractLsb' 1 9⟩ else none
def FormQ3.enc (maj : BitVec 5) (fn : BitVec 4) (f : FormQ3) : Word :=
  BitVec.ofBool f.c ++ maj ++ fn ++ f.q ++ f.offT ++ f.offU ++ 0#1

def FormDI.dec (w : Word) : Option FormDI :=
  some ⟨w.getLsbD 31, w.extractLsb' 14 6, w.extractLsb' 0 14⟩
def FormDI.enc (maj : BitVec 5) (fn : BitVec 6) (f : FormDI) : Word :=
  BitVec.ofBool f.c ++ maj ++ fn ++ f.d ++ f.imm

def FormDAK.dec (w : Word) : Option FormDAK :=
  if zeroAt w 4 4 then some ⟨w.getLsbD 31, w.extractLsb' 14 6, w.extractLsb' 8 6, w.extractLsb' 0 4⟩ else none
def FormDAK.enc (maj : BitVec 5) (fn : BitVec 6) (f : FormDAK) : Word :=
  BitVec.ofBool f.c ++ maj ++ fn ++ f.d ++ f.a ++ 0#4 ++ f.k

def FormAK.dec (w : Word) : Option FormAK :=
  if zeroAt w 4 4 && zeroAt w 14 6 then some ⟨w.getLsbD 31, w.extractLsb' 8 6, w.extractLsb' 0 4⟩ else none
def FormAK.enc (maj : BitVec 5) (fn : BitVec 6) (f : FormAK) : Word :=
  BitVec.ofBool f.c ++ maj ++ fn ++ 0#6 ++ f.a ++ 0#4 ++ f.k

def FormDK.dec (w : Word) : Option FormDK :=
  if zeroAt w 4 10 then some ⟨w.getLsbD 31, w.extractLsb' 14 6, w.extractLsb' 0 4⟩ else none
def FormDK.enc (maj : BitVec 5) (fn : BitVec 6) (f : FormDK) : Word :=
  BitVec.ofBool f.c ++ maj ++ fn ++ f.d ++ 0#10 ++ f.k

def FormI.dec (w : Word) : Option FormI :=
  if zeroAt w 14 6 then some ⟨w.getLsbD 31, w.extractLsb' 0 14⟩ else none
def FormI.enc (maj : BitVec 5) (fn : BitVec 6) (f : FormI) : Word :=
  BitVec.ofBool f.c ++ maj ++ fn ++ 0#6 ++ f.imm

def FormA.dec (w : Word) : Option FormA :=
  if zeroAt w 0 8 && zeroAt w 14 6 then some ⟨w.getLsbD 31, w.extractLsb' 8 6⟩ else none
def FormA.enc (maj : BitVec 5) (fn : BitVec 6) (f : FormA) : Word :=
  BitVec.ofBool f.c ++ maj ++ fn ++ 0#6 ++ f.a ++ 0#8

def FormDAB.dec (w : Word) : Option FormDAB :=
  if zeroAt w 0 2 then some ⟨w.getLsbD 31, w.extractLsb' 14 6, w.extractLsb' 8 6, w.extractLsb' 2 6⟩ else none
def FormDAB.enc (maj : BitVec 5) (fn : BitVec 6) (f : FormDAB) : Word :=
  BitVec.ofBool f.c ++ maj ++ fn ++ f.d ++ f.a ++ f.b ++ 0#2

def FormDA.dec (w : Word) : Option FormDA :=
  if zeroAt w 0 8 then some ⟨w.getLsbD 31, w.extractLsb' 14 6, w.extractLsb' 8 6⟩ else none
def FormDA.enc (maj : BitVec 5) (fn : BitVec 6) (f : FormDA) : Word :=
  BitVec.ofBool f.c ++ maj ++ fn ++ f.d ++ f.a ++ 0#8

def FormR.dec (w : Word) : Option FormR :=
  some ⟨w.getLsbD 31, w.extractLsb' 14 6, w.extractLsb' 8 6, w.extractLsb' 2 6, w.getLsbD 1, w.getLsbD 0⟩
def FormR.enc (maj : BitVec 5) (fn : BitVec 6) (f : FormR) : Word :=
  BitVec.ofBool f.c ++ maj ++ fn ++ f.d ++ f.a ++ f.b ++ BitVec.ofBool f.ua ++ BitVec.ofBool f.ub

def FormRU.dec (w : Word) : Option FormRU :=
  if zeroAt w 0 1 && zeroAt w 2 6 then some ⟨w.getLsbD 31, w.extractLsb' 14 6, w.extractLsb' 8 6, w.getLsbD 1⟩ else none
def FormRU.enc (maj : BitVec 5) (fn : BitVec 6) (f : FormRU) : Word :=
  BitVec.ofBool f.c ++ maj ++ fn ++ f.d ++ f.a ++ 0#6 ++ BitVec.ofBool f.ua ++ 0#1

def FormI11.dec (w : Word) : Option FormI11 :=
  some ⟨w.getLsbD 31, w.extractLsb' 17 6, w.extractLsb' 11 6, w.extractLsb' 0 11⟩
def FormI11.enc (maj : BitVec 5) (fn : BitVec 3) (f : FormI11) : Word :=
  BitVec.ofBool f.c ++ maj ++ fn ++ f.d ++ f.a ++ f.imm

def FormI5.dec (w : Word) : Option FormI5 :=
  if zeroAt w 5 6 then some ⟨w.getLsbD 31, w.extractLsb' 17 6, w.extractLsb' 11 6, w.extractLsb' 0 5⟩ else none
def FormI5.enc (maj : BitVec 5) (fn : BitVec 3) (f : FormI5) : Word :=
  BitVec.ofBool f.c ++ maj ++ fn ++ f.d ++ f.a ++ 0#6 ++ f.amt

def FormM.dec (w : Word) : Option FormM :=
  some ⟨w.getLsbD 31, w.extractLsb' 19 6, w.extractLsb' 0 19⟩
def FormM.enc (maj : BitVec 5) (fn : BitVec 1) (f : FormM) : Word :=
  BitVec.ofBool f.c ++ maj ++ fn ++ f.d ++ f.imm

def FormMH.dec (w : Word) : Option FormMH :=
  if zeroAt w 13 6 then some ⟨w.getLsbD 31, w.extractLsb' 19 6, w.extractLsb' 0 13⟩ else none
def FormMH.enc (maj : BitVec 5) (fn : BitVec 1) (f : FormMH) : Word :=
  BitVec.ofBool f.c ++ maj ++ fn ++ f.d ++ 0#6 ++ f.imm

def FormPK.dec (w : Word) : Option FormPK :=
  if zeroAt w 0 1 && zeroAt w 5 3 then some ⟨w.getLsbD 31, w.extractLsb' 14 6, w.extractLsb' 8 6, w.extractLsb' 2 3, w.getLsbD 1⟩ else none
def FormPK.enc (maj : BitVec 5) (fn : BitVec 6) (f : FormPK) : Word :=
  BitVec.ofBool f.c ++ maj ++ fn ++ f.d ++ f.a ++ 0#3 ++ f.k ++ BitVec.ofBool f.ua ++ 0#1

def FormRF.dec (w : Word) : Option FormRF :=
  if zeroAt w 0 1 then some ⟨w.getLsbD 31, w.extractLsb' 14 6, w.extractLsb' 8 6, w.extractLsb' 2 6, w.getLsbD 1⟩ else none
def FormRF.enc (maj : BitVec 5) (fn : BitVec 6) (f : FormRF) : Word :=
  BitVec.ofBool f.c ++ maj ++ fn ++ f.d ++ f.a ++ f.fmt ++ BitVec.ofBool f.ua ++ 0#1

def FormSh.dec (w : Word) : Option FormSh :=
  if zeroAt w 0 1 then some ⟨w.getLsbD 31, w.extractLsb' 14 6, w.extractLsb' 8 6, w.getLsbD 7, w.extractLsb' 2 5, w.getLsbD 1⟩ else none
def FormSh.enc (maj : BitVec 5) (fn : BitVec 6) (f : FormSh) : Word :=
  BitVec.ofBool f.c ++ maj ++ fn ++ f.d ++ f.a ++ BitVec.ofBool f.w ++ f.k ++ BitVec.ofBool f.ua ++ 0#1

def FormVote.dec (w : Word) : Option FormVote :=
  if zeroAt w 0 1 && zeroAt w 4 4 then some ⟨w.getLsbD 31, w.extractLsb' 14 6, w.extractLsb' 8 6, w.extractLsb' 2 2, w.getLsbD 1⟩ else none
def FormVote.enc (maj : BitVec 5) (fn : BitVec 6) (f : FormVote) : Word :=
  BitVec.ofBool f.c ++ maj ++ fn ++ f.d ++ f.a ++ 0#4 ++ f.k ++ BitVec.ofBool f.ua ++ 0#1

def FormRed.dec (w : Word) : Option FormRed :=
  if zeroAt w 0 1 && zeroAt w 2 4 then some ⟨w.getLsbD 31, w.extractLsb' 14 6, w.extractLsb' 8 6, w.extractLsb' 6 2, w.getLsbD 1⟩ else none
def FormRed.enc (maj : BitVec 5) (fn : BitVec 6) (f : FormRed) : Word :=
  BitVec.ofBool f.c ++ maj ++ fn ++ f.d ++ f.a ++ f.t ++ 0#4 ++ BitVec.ofBool f.ua ++ 0#1

def FormHist.dec (w : Word) : Option FormHist :=
  if zeroAt w 0 1 && zeroAt w 7 1 then some ⟨w.getLsbD 31, w.extractLsb' 14 6, w.extractLsb' 8 6, w.extractLsb' 2 5, w.getLsbD 1⟩ else none
def FormHist.enc (maj : BitVec 5) (fn : BitVec 6) (f : FormHist) : Word :=
  BitVec.ofBool f.c ++ maj ++ fn ++ f.d ++ f.a ++ 0#1 ++ f.sh ++ BitVec.ofBool f.ua ++ 0#1

def FormL.dec (w : Word) : Option FormL :=
  some ⟨w.getLsbD 31, w.extractLsb' 24 2, w.extractLsb' 14 6, w.extractLsb' 8 6, w.getLsbD 7, w.extractLsb' 0 7⟩
def FormL.enc (maj : BitVec 5) (fn : BitVec 4) (f : FormL) : Word :=
  BitVec.ofBool f.c ++ maj ++ f.space ++ fn ++ f.d ++ f.base ++ BitVec.ofBool f.ub ++ f.off

def FormAt.dec (w : Word) : Option FormAt :=
  some ⟨w.getLsbD 31, w.extractLsb' 14 6, w.extractLsb' 8 6, w.extractLsb' 2 6, w.getLsbD 1, w.getLsbD 0⟩
def FormAt.enc (maj : BitVec 5) (fn : BitVec 6) (f : FormAt) : Word :=
  BitVec.ofBool f.c ++ maj ++ fn ++ f.d ++ f.a ++ f.b ++ BitVec.ofBool f.acq ++ BitVec.ofBool f.rel

def FormCpy.dec (w : Word) : Option FormCpy :=
  if zeroAt w 2 6 then some ⟨w.getLsbD 31, w.extractLsb' 14 6, w.extractLsb' 8 6, w.getLsbD 1, w.getLsbD 0⟩ else none
def FormCpy.enc (maj : BitVec 5) (fn : BitVec 6) (f : FormCpy) : Word :=
  BitVec.ofBool f.c ++ maj ++ fn ++ f.d ++ f.a ++ 0#6 ++ BitVec.ofBool f.acq ++ BitVec.ofBool f.rel

def FormShapeP.dec (w : Word) : Option FormShapeP :=
  if w.extractLsb' 0 4 == 4#4 && zeroAt w 14 6 then some ⟨w.getLsbD 31, w.extractLsb' 8 6, w.extractLsb' 4 4⟩ else none
def FormShapeP.enc (maj : BitVec 5) (fn : BitVec 6) (f : FormShapeP) : Word :=
  BitVec.ofBool f.c ++ maj ++ fn ++ 0#6 ++ f.a ++ f.n ++ 4#4

def FormDG.dec (w : Word) : Option FormDG :=
  if zeroAt w 0 4 && zeroAt w 8 6 then some ⟨w.getLsbD 31, w.extractLsb' 14 6, w.extractLsb' 4 4⟩ else none
def FormDG.enc (maj : BitVec 5) (fn : BitVec 6) (f : FormDG) : Word :=
  BitVec.ofBool f.c ++ maj ++ fn ++ f.d ++ 0#6 ++ f.g ++ 0#4

def FormT.dec (w : Word) : Option FormT :=
  if zeroAt w 2 2 then some ⟨w.getLsbD 31, w.extractLsb' 14 6, w.extractLsb' 8 6, w.extractLsb' 4 4, w.getLsbD 1, w.getLsbD 0⟩ else none
def FormT.enc (maj : BitVec 5) (fn : BitVec 6) (f : FormT) : Word :=
  BitVec.ofBool f.c ++ maj ++ fn ++ f.d ++ f.a ++ f.g ++ 0#2 ++ BitVec.ofBool f.acq ++ BitVec.ofBool f.rel

def FormDS.dec (w : Word) : Option FormDS :=
  if zeroAt w 0 2 && zeroAt w 8 6 then some ⟨w.getLsbD 31, w.extractLsb' 14 6, w.extractLsb' 2 6⟩ else none
def FormDS.enc (maj : BitVec 5) (fn : BitVec 6) (f : FormDS) : Word :=
  BitVec.ofBool f.c ++ maj ++ fn ++ f.d ++ 0#6 ++ f.s ++ 0#2

def FormBar.dec (w : Word) : Option FormBar :=
  if zeroAt w 14 6 then some ⟨w.getLsbD 31, w.extractLsb' 8 6, w.extractLsb' 2 6, w.getLsbD 1, w.getLsbD 0⟩ else none
def FormBar.enc (maj : BitVec 5) (fn : BitVec 6) (f : FormBar) : Word :=
  BitVec.ofBool f.c ++ maj ++ fn ++ 0#6 ++ f.a ++ f.b ++ BitVec.ofBool f.acq ++ BitVec.ofBool f.rel

def FormBarA.dec (w : Word) : Option FormBarA :=
  if zeroAt w 1 1 then some ⟨w.getLsbD 31, w.extractLsb' 14 6, w.extractLsb' 8 6, w.extractLsb' 2 6, w.getLsbD 0⟩ else none
def FormBarA.enc (maj : BitVec 5) (fn : BitVec 6) (f : FormBarA) : Word :=
  BitVec.ofBool f.c ++ maj ++ fn ++ f.d ++ f.a ++ f.b ++ 0#1 ++ BitVec.ofBool f.rel

def FormBarW.dec (w : Word) : Option FormBarW :=
  if zeroAt w 0 1 && zeroAt w 14 6 then some ⟨w.getLsbD 31, w.extractLsb' 8 6, w.extractLsb' 2 6, w.getLsbD 1⟩ else none
def FormBarW.enc (maj : BitVec 5) (fn : BitVec 6) (f : FormBarW) : Word :=
  BitVec.ofBool f.c ++ maj ++ fn ++ 0#6 ++ f.a ++ f.b ++ BitVec.ofBool f.acq ++ 0#1

def FormBarX.dec (w : Word) : Option FormBarX :=
  if zeroAt w 2 18 then some ⟨w.getLsbD 31, w.getLsbD 1, w.getLsbD 0⟩ else none
def FormBarX.enc (maj : BitVec 5) (fn : BitVec 6) (f : FormBarX) : Word :=
  BitVec.ofBool f.c ++ maj ++ fn ++ 0#18 ++ BitVec.ofBool f.acq ++ BitVec.ofBool f.rel

def FormAB.dec (w : Word) : Option FormAB :=
  if zeroAt w 0 2 && zeroAt w 14 6 then some ⟨w.getLsbD 31, w.extractLsb' 8 6, w.extractLsb' 2 6⟩ else none
def FormAB.enc (maj : BitVec 5) (fn : BitVec 6) (f : FormAB) : Word :=
  BitVec.ofBool f.c ++ maj ++ fn ++ 0#6 ++ f.a ++ f.b ++ 0#2

def FormFence.dec (w : Word) : Option FormFence :=
  if zeroAt w 2 6 && zeroAt w 19 1 then some ⟨w.getLsbD 31, w.extractLsb' 14 5, w.extractLsb' 8 6, w.getLsbD 1, w.getLsbD 0⟩ else none
def FormFence.enc (maj : BitVec 5) (fn : BitVec 6) (f : FormFence) : Word :=
  BitVec.ofBool f.c ++ maj ++ fn ++ 0#1 ++ f.m ++ f.s ++ 0#6 ++ BitVec.ofBool f.acq ++ BitVec.ofBool f.rel

def FormLin.dec (w : Word) : Option FormLin :=
  if zeroAt w 0 2 && zeroAt w 3 5 then some ⟨w.getLsbD 31, w.extractLsb' 14 6, w.extractLsb' 8 6, w.getLsbD 2⟩ else none
def FormLin.enc (maj : BitVec 5) (fn : BitVec 6) (f : FormLin) : Word :=
  BitVec.ofBool f.c ++ maj ++ fn ++ f.d ++ f.a ++ 0#5 ++ BitVec.ofBool f.m ++ 0#2

def FormPool.dec (w : Word) : Option FormPool :=
  if zeroAt w 0 2 && zeroAt w 4 4 then some ⟨w.getLsbD 31, w.extractLsb' 14 6, w.extractLsb' 8 6, w.extractLsb' 2 2⟩ else none
def FormPool.enc (maj : BitVec 5) (fn : BitVec 6) (f : FormPool) : Word :=
  BitVec.ofBool f.c ++ maj ++ fn ++ f.d ++ f.a ++ 0#4 ++ f.s ++ 0#2

def FormP.dec (w : Word) : Option FormP :=
  if zeroAt w 0 8 then some ⟨w.getLsbD 31, w.extractLsb' 23 3, w.extractLsb' 20 3, w.extractLsb' 14 6, w.getLsbD 13, w.getLsbD 12, w.extractLsb' 8 4⟩ else none
def FormP.enc (maj : BitVec 5) (f : FormP) : Word :=
  BitVec.ofBool f.c ++ maj ++ f.m ++ f.rnd ++ f.fourth ++ BitVec.ofBool f.f ++ BitVec.ofBool f.z ++ f.sel ++ 0#8

/-! ### The opcode map (R102) -/

/-- Major 0x00, SYS. -/
def decSys (w : Word) : Decoded :=
  match (w.extractLsb' 20 6).toNat with
  | 0 => took (fun _ => .nop) (FormC.dec w)
  | 1 => took .trap (FormN14.dec w)
  | 2 => took (fun _ => .tret) (FormC.dec w)
  | 3 => took .srd (FormDR.dec w)
  | 4 => took .swr (FormDR.dec w)
  | 5 => took .bkpt (FormN14.dec w)
  | 6 => took .cyc (FormD.dec w)
  | 7 => took (fun _ => .ifence) (FormC.dec w)
  | 8 => took .dictld (FormDict.dec w)
  | 9 => took .fsvc (FormD.dec w)
  | _ => .error .reservedMember

/-- Major 0x01, BR. -/
def decBr (w : Word) : Decoded :=
  match (w.extractLsb' 22 4).toNat with
  | 0 => took .bra (FormO.dec w)
  | 1 => took .bqt (FormSO.dec w)
  | 2 => took .bqf (FormSO.dec w)
  | 3 => took .bqu (FormSO.dec w)
  | 4 => took .bqnt (FormSO.dec w)
  | 5 => took .bqnf (FormSO.dec w)
  | 6 => took .bq3 (FormQ3.dec w)
  | 7 => took .bmz (FormSO.dec w)
  | 8 => took .bmnz (FormSO.dec w)
  | 9 => took .loop (FormSO.dec w)
  | _ => .error .reservedMember

/-- Major 0x02, CTL. -/
def decCtl (w : Word) : Decoded :=
  match (w.extractLsb' 20 6).toNat with
  | 0 => took .call (FormDI.dec w)
  | 1 => took .calli (FormDAK.dec w)
  | 2 => took .jmpi (FormAK.dec w)
  | 3 => took .ret (FormAK.dec w)
  | 4 => took .exit (FormC.dec w)
  | 5 => took .exits (FormDK.dec w)
  | 6 => took .joinat (FormI.dec w)
  | 7 => took (fun _ => .syncj) (FormC.dec w)
  | 8 => took .msave (FormD.dec w)
  | 9 => took .mrest (FormA.dec w)
  | 10 => took .mand (FormDAB.dec w)
  | 11 => took .mor (FormDAB.dec w)
  | 12 => took .mxor (FormDAB.dec w)
  | 13 => took .mnot (FormDA.dec w)
  | 14 => took .mfromq (FormDAB.dec w)
  | 15 => took .mcnt (FormDA.dec w)
  | _ => .error .reservedMember

/-- Major 0x03, IALU. -/
def decIalu (w : Word) : Decoded :=
  match (w.extractLsb' 20 6).toNat with
  | 0 => took .add (FormR.dec w)
  | 1 => took .sub (FormR.dec w)
  | 2 => took .and (FormR.dec w)
  | 3 => took .or (FormR.dec w)
  | 4 => took .xor (FormR.dec w)
  | 5 => took .andn (FormR.dec w)
  | 6 => took .min (FormR.dec w)
  | 7 => took .max (FormR.dec w)
  | 8 => took .minu (FormR.dec w)
  | 9 => took .maxu (FormR.dec w)
  | 10 => took .slt (FormR.dec w)
  | 11 => took .sltu (FormR.dec w)
  | 12 => took .seq (FormR.dec w)
  | 13 => took .abs (FormRU.dec w)
  | 14 => took .lea (FormR.dec w)
  | 15 => took .selm (FormR.dec w)
  | _ => .error .reservedMember

/-- Major 0x04, IALUI. -/
def decIalui (w : Word) : Decoded :=
  match (w.extractLsb' 23 3).toNat with
  | 0 => took .addi (FormI11.dec w)
  | 1 => took .andi (FormI11.dec w)
  | 2 => took .ori (FormI11.dec w)
  | 3 => took .xori (FormI11.dec w)
  | 4 => took .slti (FormI11.dec w)
  | 5 => took .sltiu (FormI11.dec w)
  | 6 => took .leai (FormI11.dec w)
  | _ => took .shli (FormI5.dec w)

/-- Major 0x05, IMM. -/
def decImm (w : Word) : Decoded :=
  match (w.extractLsb' 25 1).toNat with
  | 0 => took .movi (FormM.dec w)
  | _ => took .movhi (FormMH.dec w)

/-- Major 0x06, SHF. -/
def decShf (w : Word) : Decoded :=
  match (w.extractLsb' 20 6).toNat with
  | 0 => took .shl (FormR.dec w)
  | 1 => took .shr (FormR.dec w)
  | 2 => took .sar (FormR.dec w)
  | 3 => took .rotl (FormR.dec w)
  | 4 => took .bfx (FormR.dec w)
  | 5 => took .bfi (FormR.dec w)
  | 6 => took .popc (FormRU.dec w)
  | 7 => took .clz (FormRU.dec w)
  | 8 => took .ctz (FormRU.dec w)
  | 9 => took .brev (FormRU.dec w)
  | 10 => took .bperm (FormR.dec w)
  | _ => .error .reservedMember

/-- Major 0x07, IMUL. -/
def decImul (w : Word) : Decoded :=
  match (w.extractLsb' 20 6).toNat with
  | 0 => took .mul (FormR.dec w)
  | 1 => took .mulh (FormR.dec w)
  | 2 => took .mulhu (FormR.dec w)
  | 3 => took .mad (FormR.dec w)
  | 4 => took .div (FormR.dec w)
  | 5 => took .divu (FormR.dec w)
  | 6 => took .rem (FormR.dec w)
  | 7 => took .remu (FormR.dec w)
  | _ => .error .reservedMember

/-- Major 0x08, PACK. -/
def decPack (w : Word) : Decoded :=
  match (w.extractLsb' 20 6).toNat with
  | 0 => took .dp4i8 (FormR.dec w)
  | 1 => took .dp4n8 (FormR.dec w)
  | 2 => took .dp8i4 (FormR.dec w)
  | 3 => took .dp4e4 (FormR.dec w)
  | 4 => took .dp4e5 (FormR.dec w)
  | 5 => took .dp8f4 (FormR.dec w)
  | 6 => took .pksel (FormPK.dec w)
  | 7 => took .pknarrow (FormRF.dec w)
  | _ => .error .reservedMember

/-- Major 0x09, CVT. -/
def decCvt (w : Word) : Decoded :=
  match (w.extractLsb' 20 6).toNat with
  | 0 => took .cvtiv (FormRU.dec w)
  | 1 => took .cvtniv (FormRU.dec w)
  | 2 => took .cvtvi (FormRU.dec w)
  | 3 => took .cvtvni (FormRU.dec w)
  | 4 => took .cvtdv (FormDA.dec w)
  | 5 => took .cvtvd (FormRU.dec w)
  | 6 => took .cvtnv (FormRF.dec w)
  | 7 => took .cvtvn (FormRF.dec w)
  | _ => .error .reservedMember

/-- Major 0x0A, VADD. -/
def decVadd (w : Word) : Decoded :=
  match (w.extractLsb' 20 6).toNat with
  | 0 => took .vadd (FormR.dec w)
  | 1 => took .vsub (FormR.dec w)
  | 2 => took .vneg (FormRU.dec w)
  | 3 => took .vabs (FormRU.dec w)
  | 4 => took .vmin (FormR.dec w)
  | 5 => took .vmax (FormR.dec w)
  | _ => .error .reservedMember

/-- Major 0x0B, VMUL. -/
def decVmul (w : Word) : Decoded :=
  match (w.extractLsb' 20 6).toNat with
  | 0 => took .vmul (FormR.dec w)
  | 1 => took .vdiv (FormR.dec w)
  | 2 => took .vfma (FormR.dec w)
  | 3 => took .vsqr (FormRU.dec w)
  | 4 => took .vsqrt (FormRU.dec w)
  | 5 => took .vrcp (FormRU.dec w)
  | 6 => took .vscale (FormR.dec w)
  | _ => .error .reservedMember

/-- Major 0x0C, VSET. -/
def decVset (w : Word) : Decoded :=
  match (w.extractLsb' 20 6).toNat with
  | 0 => took .vmk (FormR.dec w)
  | 1 => took .vlo (FormRU.dec w)
  | 2 => took .vhi (FormRU.dec w)
  | 3 => took .vmid (FormRU.dec w)
  | 4 => took .vrad (FormRU.dec w)
  | 5 => took .vwid (FormRU.dec w)
  | 6 => took .vhull (FormR.dec w)
  | 7 => took .visect (FormR.dec w)
  | 8 => took .vbis (FormRU.dec w)
  | 9 => took .vent (FormD.dec w)
  | 10 => took .vemp (FormD.dec w)
  | 11 => took .vmrc (FormRU.dec w)
  | 12 => took .vfmr (FormRU.dec w)
  | _ => .error .reservedMember

/-- Major 0x0D, VCMP. -/
def decVcmp (w : Word) : Decoded :=
  match (w.extractLsb' 20 6).toNat with
  | 0 => took .vclt (FormR.dec w)
  | 1 => took .vcle (FormR.dec w)
  | 2 => took .vcgt (FormR.dec w)
  | 3 => took .vcge (FormR.dec w)
  | 4 => took .vceq (FormR.dec w)
  | 5 => took .vcsub (FormR.dec w)
  | 6 => took .vcdis (FormR.dec w)
  | 7 => took .vcin (FormR.dec w)
  | 8 => took .qand (FormDAB.dec w)
  | 9 => took .qor (FormDAB.dec w)
  | 10 => took .qnot (FormDA.dec w)
  | 11 => took .qsure (FormDA.dec w)
  | 12 => took .qmaybe (FormDA.dec w)
  | 13 => took .qmov (FormDA.dec w)
  | _ => .error .reservedMember

/-- Major 0x0E, VSFU. -/
def decVsfu (w : Word) : Decoded :=
  match (w.extractLsb' 20 6).toNat with
  | 0 => took .vexp (FormRU.dec w)
  | 1 => took .vlog (FormRU.dec w)
  | 2 => took .vtanh (FormRU.dec w)
  | 3 => took .vsigm (FormRU.dec w)
  | 4 => took .vsilu (FormRU.dec w)
  | 5 => took .vgelu (FormRU.dec w)
  | 6 => took .vsin (FormRU.dec w)
  | 7 => took .vcos (FormRU.dec w)
  | _ => .error .reservedMember

/-- Major 0x0F, LANE. -/
def decLane (w : Word) : Decoded :=
  match (w.extractLsb' 20 6).toNat with
  | 0 => took .shfl (FormSh.dec w)
  | 1 => took .bcast (FormSh.dec w)
  | 2 => took .vote (FormVote.dec w)
  | 3 => took .qvote (FormDA.dec w)
  | 4 => took .rdadd (FormRed.dec w)
  | 5 => took .rdmin (FormRed.dec w)
  | 6 => took .rdmax (FormRed.dec w)
  | 7 => took .scan (FormRed.dec w)
  | 8 => took .hist (FormHist.dec w)
  | 9 => took .hmerge (FormR.dec w)
  | _ => .error .reservedMember

/-- Major 0x10, LD. -/
def decLd (w : Word) : Decoded :=
  match (w.extractLsb' 20 4).toNat with
  | 0 => took .ldb (FormL.dec w)
  | 1 => took .ldh (FormL.dec w)
  | 2 => took .ldw (FormL.dec w)
  | 3 => took .ldd (FormL.dec w)
  | 4 => took .ldq (FormL.dec w)
  | 5 => took .ldv (FormL.dec w)
  | 6 => took .ldvc (FormL.dec w)
  | 7 => took .ldff (FormL.dec w)
  | 8 => took .ldfe (FormL.dec w)
  | 9 => took .ldmc (FormL.dec w)
  | 10 => took .ldun (FormL.dec w)
  | _ => .error .reservedMember

/-- Major 0x11, ST. -/
def decSt (w : Word) : Decoded :=
  match (w.extractLsb' 20 4).toNat with
  | 0 => took .stb (FormL.dec w)
  | 1 => took .sth (FormL.dec w)
  | 2 => took .stw (FormL.dec w)
  | 3 => took .std (FormL.dec w)
  | 4 => took .stq (FormL.dec w)
  | 5 => took .stv (FormL.dec w)
  | 6 => took .stvc (FormL.dec w)
  | 7 => took .stfe (FormL.dec w)
  | 8 => took .stx (FormL.dec w)
  | _ => .error .reservedMember

/-- Major 0x12, ATOM. -/
def decAtom (w : Word) : Decoded :=
  match (w.extractLsb' 20 6).toNat with
  | 0 => took .aadd (FormAt.dec w)
  | 1 => took .amin (FormAt.dec w)
  | 2 => took .amax (FormAt.dec w)
  | 3 => took .aminu (FormAt.dec w)
  | 4 => took .amaxu (FormAt.dec w)
  | 5 => took .aand (FormAt.dec w)
  | 6 => took .aor (FormAt.dec w)
  | 7 => took .axor (FormAt.dec w)
  | 8 => took .axch (FormAt.dec w)
  | 9 => took .acas (FormAt.dec w)
  | 10 => took .ainc (FormAt.dec w)
  | 11 => took .avadd (FormAt.dec w)
  | 12 => took .amind (FormAt.dec w)
  | _ => .error .reservedMember

/-- Major 0x13, ASYNC. -/
def decAsync (w : Word) : Decoded :=
  match (w.extractLsb' 20 6).toNat with
  | 0 => took .cpy (FormCpy.dec w)
  | 1 => took .cpy2d (FormCpy.dec w)
  | 2 => took .cpymc (FormCpy.dec w)
  | 3 => took .gwbind (FormDA.dec w)
  | 4 => took .gwfree (FormD.dec w)
  | 5 => took .arrv (FormDAB.dec w)
  | _ => .error .reservedMember

/-- Major 0x14, TILE. -/
def decTile (w : Word) : Decoded :=
  match (w.extractLsb' 20 6).toNat with
  | 0 => match FormDA.dec w with
    | some f => .ok (.tshapeAcc f)
    | none => took .tshapePred (FormShapeP.dec w)
  | 1 => took .tzero (FormDG.dec w)
  | 2 => took .tload (FormT.dec w)
  | 3 => took .tmma (FormT.dec w)
  | 4 => took .tmmav (FormT.dec w)
  | 5 => took .tjoin (FormT.dec w)
  | 6 => took .tstore (FormT.dec w)
  | 7 => took .tksplit (FormT.dec w)
  | 8 => took .tscan (FormDG.dec w)
  | 9 => took .tgrp (FormT.dec w)
  | 10 => took .twake (FormC.dec w)
  | _ => .error .reservedMember

/-- Major 0x15, PRED. -/
def decPred (w : Word) : Decoded :=
  match (w.extractLsb' 20 6).toNat with
  | 0 => took .pscore (FormT.dec w)
  | 1 => took .psel (FormT.dec w)
  | 2 => took .pkerf (FormT.dec w)
  | 3 => took .pffn (FormT.dec w)
  | 4 => took .pstat (FormDS.dec w)
  | _ => .error .reservedMember

/-- Major 0x16, SYNC. -/
def decSync (w : Word) : Decoded :=
  match (w.extractLsb' 20 6).toNat with
  | 0 => took .bar (FormBar.dec w)
  | 1 => took .bara (FormBarA.dec w)
  | 2 => took .barw (FormBarW.dec w)
  | 3 => took .barx (FormBarX.dec w)
  | 4 => took .sobind (FormAB.dec w)
  | 5 => took .soacq (FormDAB.dec w)
  | 6 => took .sorel (FormA.dec w)
  | 7 => took .fence (FormFence.dec w)
  | 8 => took .hwait (FormDA.dec w)
  | 9 => took .htest (FormDA.dec w)
  | 10 => took .hcancel (FormA.dec w)
  | 11 => took .await (FormDAB.dec w)
  | _ => .error .reservedMember

/-- Major 0x17, POOL. -/
def decPool (w : Word) : Decoded :=
  match (w.extractLsb' 20 6).toNat with
  | 0 => took .split (FormDAB.dec w)
  | 1 => took .fork (FormDS.dec w)
  | 2 => took .rsmp (FormDAB.dec w)
  | 3 => took .linid (FormLin.dec w)
  | 4 => took .poolq (FormPool.dec w)
  | _ => .error .reservedMember

/-- Major 0x18, RES. -/
def decRes (w : Word) : Decoded :=
  match (w.extractLsb' 20 6).toNat with
  | 0 => took .racq (FormA.dec w)
  | 1 => took .rtry (FormDA.dec w)
  | 2 => took .rrel (FormA.dec w)
  | 3 => took .rqry (FormDS.dec w)
  | _ => .error .reservedMember

/-- Major 0x19, RNG. -/
def decRng (w : Word) : Decoded :=
  match (w.extractLsb' 20 6).toNat with
  | 0 => took .rngseed (FormAB.dec w)
  | 1 => took .rngn (FormD.dec w)
  | 2 => took .rngf (FormD.dec w)
  | _ => .error .reservedMember

/-- Major 0x1A, UNI. -/
def decUni (w : Word) : Decoded :=
  match (w.extractLsb' 20 6).toNat with
  | 0 => took .uadd (FormDAB.dec w)
  | 1 => took .usub (FormDAB.dec w)
  | 2 => took .uand (FormDAB.dec w)
  | 3 => took .uor (FormDAB.dec w)
  | 4 => took .uxor (FormDAB.dec w)
  | 5 => took .ushl (FormDAB.dec w)
  | 6 => took .ushr (FormDAB.dec w)
  | 7 => took .umul (FormDAB.dec w)
  | 8 => took .uslt (FormDAB.dec w)
  | 9 => took .umovx (FormDA.dec w)
  | 10 => took .umovs (FormDA.dec w)
  | 11 => took .uaddi (FormDI.dec w)
  | _ => .error .reservedMember

/-- R102: the word's major selects its table of members. DEDUCED, safe: log entry 29. -/
def decodeWord (w : Word) : Decoded :=
  match (w.extractLsb' 26 5).toNat with
  | 0 => decSys w
  | 1 => decBr w
  | 2 => decCtl w
  | 3 => decIalu w
  | 4 => decIalui w
  | 5 => decImm w
  | 6 => decShf w
  | 7 => decImul w
  | 8 => decPack w
  | 9 => decCvt w
  | 10 => decVadd w
  | 11 => decVmul w
  | 12 => decVset w
  | 13 => decVcmp w
  | 14 => decVsfu w
  | 15 => decLane w
  | 16 => decLd w
  | 17 => decSt w
  | 18 => decAtom w
  | 19 => decAsync w
  | 20 => decTile w
  | 21 => decPred w
  | 22 => decSync w
  | 23 => decPool w
  | 24 => decRes w
  | 25 => decRng w
  | 26 => decUni w
  | 30 => took .pfx (FormP.dec w)
  | 31 => .error .dictPair
  | _ => .error .reservedMajor

/-- The four bytes of a word, the least significant first (R2). -/
def wordBytes (w : Word) : List Byte :=
  [w.extractLsb' 0 8, w.extractLsb' 8 8, w.extractLsb' 16 8, w.extractLsb' 24 8]

/-- The word in four bytes, the least significant first (R2). -/
def bytesWord (b0 b1 b2 b3 : Byte) : Word := b3 ++ b2 ++ b1 ++ b0

/-- Decode the first word of a stream of bytes, with the rest of the stream. -/
def decode : List Byte → Except DecodeError (Instr × List Byte)
  | b0 :: b1 :: b2 :: b3 :: rest =>
    match decodeWord (bytesWord b0 b1 b2 b3) with
    | .ok i => .ok (i, rest)
    | .error e => .error e
  | _ => .error .tooShort

/-- The word of an instruction that has one; the steps without an encoding have none. -/
def encode : Instr → Option Word
  | .nop => some (FormC.enc 0 0 ⟨false⟩)
  | .trap f => some (f.enc 0 1)
  | .tret => some (FormC.enc 0 2 ⟨false⟩)
  | .srd f => some (f.enc 0 3)
  | .swr f => some (f.enc 0 4)
  | .bkpt f => some (f.enc 0 5)
  | .cyc f => some (f.enc 0 6)
  | .ifence => some (FormC.enc 0 7 ⟨false⟩)
  | .dictld f => some (f.enc 0 8)
  | .fsvc f => some (f.enc 0 9)
  | .bra f => some (f.enc 1 0)
  | .bqt f => some (f.enc 1 1)
  | .bqf f => some (f.enc 1 2)
  | .bqu f => some (f.enc 1 3)
  | .bqnt f => some (f.enc 1 4)
  | .bqnf f => some (f.enc 1 5)
  | .bq3 f => some (f.enc 1 6)
  | .bmz f => some (f.enc 1 7)
  | .bmnz f => some (f.enc 1 8)
  | .loop f => some (f.enc 1 9)
  | .call f => some (f.enc 2 0)
  | .calli f => some (f.enc 2 1)
  | .jmpi f => some (f.enc 2 2)
  | .ret f => some (f.enc 2 3)
  | .exit f => some (f.enc 2 4)
  | .exits f => some (f.enc 2 5)
  | .joinat f => some (f.enc 2 6)
  | .syncj => some (FormC.enc 2 7 ⟨false⟩)
  | .msave f => some (f.enc 2 8)
  | .mrest f => some (f.enc 2 9)
  | .mand f => some (f.enc 2 10)
  | .mor f => some (f.enc 2 11)
  | .mxor f => some (f.enc 2 12)
  | .mnot f => some (f.enc 2 13)
  | .mfromq f => some (f.enc 2 14)
  | .mcnt f => some (f.enc 2 15)
  | .add f => some (f.enc 3 0)
  | .sub f => some (f.enc 3 1)
  | .and f => some (f.enc 3 2)
  | .or f => some (f.enc 3 3)
  | .xor f => some (f.enc 3 4)
  | .andn f => some (f.enc 3 5)
  | .min f => some (f.enc 3 6)
  | .max f => some (f.enc 3 7)
  | .minu f => some (f.enc 3 8)
  | .maxu f => some (f.enc 3 9)
  | .slt f => some (f.enc 3 10)
  | .sltu f => some (f.enc 3 11)
  | .seq f => some (f.enc 3 12)
  | .abs f => some (f.enc 3 13)
  | .lea f => some (f.enc 3 14)
  | .selm f => some (f.enc 3 15)
  | .addi f => some (f.enc 4 0)
  | .andi f => some (f.enc 4 1)
  | .ori f => some (f.enc 4 2)
  | .xori f => some (f.enc 4 3)
  | .slti f => some (f.enc 4 4)
  | .sltiu f => some (f.enc 4 5)
  | .leai f => some (f.enc 4 6)
  | .shli f => some (f.enc 4 7)
  | .movi f => some (f.enc 5 0)
  | .movhi f => some (f.enc 5 1)
  | .shl f => some (f.enc 6 0)
  | .shr f => some (f.enc 6 1)
  | .sar f => some (f.enc 6 2)
  | .rotl f => some (f.enc 6 3)
  | .bfx f => some (f.enc 6 4)
  | .bfi f => some (f.enc 6 5)
  | .popc f => some (f.enc 6 6)
  | .clz f => some (f.enc 6 7)
  | .ctz f => some (f.enc 6 8)
  | .brev f => some (f.enc 6 9)
  | .bperm f => some (f.enc 6 10)
  | .mul f => some (f.enc 7 0)
  | .mulh f => some (f.enc 7 1)
  | .mulhu f => some (f.enc 7 2)
  | .mad f => some (f.enc 7 3)
  | .div f => some (f.enc 7 4)
  | .divu f => some (f.enc 7 5)
  | .rem f => some (f.enc 7 6)
  | .remu f => some (f.enc 7 7)
  | .dp4i8 f => some (f.enc 8 0)
  | .dp4n8 f => some (f.enc 8 1)
  | .dp8i4 f => some (f.enc 8 2)
  | .dp4e4 f => some (f.enc 8 3)
  | .dp4e5 f => some (f.enc 8 4)
  | .dp8f4 f => some (f.enc 8 5)
  | .pksel f => some (f.enc 8 6)
  | .pknarrow f => some (f.enc 8 7)
  | .cvtiv f => some (f.enc 9 0)
  | .cvtniv f => some (f.enc 9 1)
  | .cvtvi f => some (f.enc 9 2)
  | .cvtvni f => some (f.enc 9 3)
  | .cvtdv f => some (f.enc 9 4)
  | .cvtvd f => some (f.enc 9 5)
  | .cvtnv f => some (f.enc 9 6)
  | .cvtvn f => some (f.enc 9 7)
  | .vadd f => some (f.enc 10 0)
  | .vsub f => some (f.enc 10 1)
  | .vneg f => some (f.enc 10 2)
  | .vabs f => some (f.enc 10 3)
  | .vmin f => some (f.enc 10 4)
  | .vmax f => some (f.enc 10 5)
  | .vmul f => some (f.enc 11 0)
  | .vdiv f => some (f.enc 11 1)
  | .vfma f => some (f.enc 11 2)
  | .vsqr f => some (f.enc 11 3)
  | .vsqrt f => some (f.enc 11 4)
  | .vrcp f => some (f.enc 11 5)
  | .vscale f => some (f.enc 11 6)
  | .vmk f => some (f.enc 12 0)
  | .vlo f => some (f.enc 12 1)
  | .vhi f => some (f.enc 12 2)
  | .vmid f => some (f.enc 12 3)
  | .vrad f => some (f.enc 12 4)
  | .vwid f => some (f.enc 12 5)
  | .vhull f => some (f.enc 12 6)
  | .visect f => some (f.enc 12 7)
  | .vbis f => some (f.enc 12 8)
  | .vent f => some (f.enc 12 9)
  | .vemp f => some (f.enc 12 10)
  | .vmrc f => some (f.enc 12 11)
  | .vfmr f => some (f.enc 12 12)
  | .vclt f => some (f.enc 13 0)
  | .vcle f => some (f.enc 13 1)
  | .vcgt f => some (f.enc 13 2)
  | .vcge f => some (f.enc 13 3)
  | .vceq f => some (f.enc 13 4)
  | .vcsub f => some (f.enc 13 5)
  | .vcdis f => some (f.enc 13 6)
  | .vcin f => some (f.enc 13 7)
  | .qand f => some (f.enc 13 8)
  | .qor f => some (f.enc 13 9)
  | .qnot f => some (f.enc 13 10)
  | .qsure f => some (f.enc 13 11)
  | .qmaybe f => some (f.enc 13 12)
  | .qmov f => some (f.enc 13 13)
  | .vexp f => some (f.enc 14 0)
  | .vlog f => some (f.enc 14 1)
  | .vtanh f => some (f.enc 14 2)
  | .vsigm f => some (f.enc 14 3)
  | .vsilu f => some (f.enc 14 4)
  | .vgelu f => some (f.enc 14 5)
  | .vsin f => some (f.enc 14 6)
  | .vcos f => some (f.enc 14 7)
  | .shfl f => some (f.enc 15 0)
  | .bcast f => some (f.enc 15 1)
  | .vote f => some (f.enc 15 2)
  | .qvote f => some (f.enc 15 3)
  | .rdadd f => some (f.enc 15 4)
  | .rdmin f => some (f.enc 15 5)
  | .rdmax f => some (f.enc 15 6)
  | .scan f => some (f.enc 15 7)
  | .hist f => some (f.enc 15 8)
  | .hmerge f => some (f.enc 15 9)
  | .ldb f => some (f.enc 16 0)
  | .ldh f => some (f.enc 16 1)
  | .ldw f => some (f.enc 16 2)
  | .ldd f => some (f.enc 16 3)
  | .ldq f => some (f.enc 16 4)
  | .ldv f => some (f.enc 16 5)
  | .ldvc f => some (f.enc 16 6)
  | .ldff f => some (f.enc 16 7)
  | .ldfe f => some (f.enc 16 8)
  | .ldmc f => some (f.enc 16 9)
  | .ldun f => some (f.enc 16 10)
  | .stb f => some (f.enc 17 0)
  | .sth f => some (f.enc 17 1)
  | .stw f => some (f.enc 17 2)
  | .std f => some (f.enc 17 3)
  | .stq f => some (f.enc 17 4)
  | .stv f => some (f.enc 17 5)
  | .stvc f => some (f.enc 17 6)
  | .stfe f => some (f.enc 17 7)
  | .stx f => some (f.enc 17 8)
  | .aadd f => some (f.enc 18 0)
  | .amin f => some (f.enc 18 1)
  | .amax f => some (f.enc 18 2)
  | .aminu f => some (f.enc 18 3)
  | .amaxu f => some (f.enc 18 4)
  | .aand f => some (f.enc 18 5)
  | .aor f => some (f.enc 18 6)
  | .axor f => some (f.enc 18 7)
  | .axch f => some (f.enc 18 8)
  | .acas f => some (f.enc 18 9)
  | .ainc f => some (f.enc 18 10)
  | .avadd f => some (f.enc 18 11)
  | .amind f => some (f.enc 18 12)
  | .cpy f => some (f.enc 19 0)
  | .cpy2d f => some (f.enc 19 1)
  | .cpymc f => some (f.enc 19 2)
  | .gwbind f => some (f.enc 19 3)
  | .gwfree f => some (f.enc 19 4)
  | .arrv f => some (f.enc 19 5)
  | .tshapeAcc f => some (f.enc 20 0)
  | .tshapePred f => some (f.enc 20 0)
  | .tzero f => some (f.enc 20 1)
  | .tload f => some (f.enc 20 2)
  | .tmma f => some (f.enc 20 3)
  | .tmmav f => some (f.enc 20 4)
  | .tjoin f => some (f.enc 20 5)
  | .tstore f => some (f.enc 20 6)
  | .tksplit f => some (f.enc 20 7)
  | .tscan f => some (f.enc 20 8)
  | .tgrp f => some (f.enc 20 9)
  | .twake f => some (f.enc 20 10)
  | .pscore f => some (f.enc 21 0)
  | .psel f => some (f.enc 21 1)
  | .pkerf f => some (f.enc 21 2)
  | .pffn f => some (f.enc 21 3)
  | .pstat f => some (f.enc 21 4)
  | .bar f => some (f.enc 22 0)
  | .bara f => some (f.enc 22 1)
  | .barw f => some (f.enc 22 2)
  | .barx f => some (f.enc 22 3)
  | .sobind f => some (f.enc 22 4)
  | .soacq f => some (f.enc 22 5)
  | .sorel f => some (f.enc 22 6)
  | .fence f => some (f.enc 22 7)
  | .hwait f => some (f.enc 22 8)
  | .htest f => some (f.enc 22 9)
  | .hcancel f => some (f.enc 22 10)
  | .await f => some (f.enc 22 11)
  | .split f => some (f.enc 23 0)
  | .fork f => some (f.enc 23 1)
  | .rsmp f => some (f.enc 23 2)
  | .linid f => some (f.enc 23 3)
  | .poolq f => some (f.enc 23 4)
  | .racq f => some (f.enc 24 0)
  | .rtry f => some (f.enc 24 1)
  | .rrel f => some (f.enc 24 2)
  | .rqry f => some (f.enc 24 3)
  | .rngseed f => some (f.enc 25 0)
  | .rngn f => some (f.enc 25 1)
  | .rngf f => some (f.enc 25 2)
  | .uadd f => some (f.enc 26 0)
  | .usub f => some (f.enc 26 1)
  | .uand f => some (f.enc 26 2)
  | .uor f => some (f.enc 26 3)
  | .uxor f => some (f.enc 26 4)
  | .ushl f => some (f.enc 26 5)
  | .ushr f => some (f.enc 26 6)
  | .umul f => some (f.enc 26 7)
  | .uslt f => some (f.enc 26 8)
  | .umovx f => some (f.enc 26 9)
  | .umovs f => some (f.enc 26 10)
  | .uaddi f => some (f.enc 26 11)
  | .pfx f => some (f.enc 30)
  | .triggerWrite => none
  | .cmdtail => none
  | .registerWrite => none
  | .load => none
  | .unload => none
  | .install => none
  | .remove => none
  | .qcreate => none
  | .qdestroy => none
  | .qprio => none
  | .setth => none
  | .copy => none
  | .walkerPass => none
  | .queueService => none
  | .waitNodeReread => none
  | .queuePark => none
  | .queueUnpark => none
  | .lstReport => none
  | .kernelNodeComplete => none
  | .agentPlace => none
  | .gangReserve => none
  | .groupRetire => none
  | .teamRetire => none
  | .waitSwapOut => none
  | .swapOutDone => none
  | .teamReturn => none
  | .teamResume => none
  | .teamSwitch => none
  | .draftGroup => none
  | .stealRequest => none
  | .stealReply => none
  | .diePoolReturn => none
  | .copyChunk => none
  | .copyComplete => none
  | .dovetailStart => none
  | .tileRecordStep => none
  | .tileRecordComplete => none
  | .predRecordStep => none
  | .predRecordComplete => none
  | .bankAluOp => none
  | .releasePerform => none
  | .acquirePerform => none
  | .orderedReleaseTurn => none
  | .ldfeServe => none
  | .faultServiceRequest => none
  | .faultServiceAnswer => none
  | .prresp => none
  | .dbell => none
  | .hostPostedWrite => none
  | .tinvctlGo => none
  | .tinvDone => none
  | .multicastEntryClose => none
  | .escapeChannelEntry => none
  | .subarrayPowerDown => none
  | .watchdogExpiry => none
  | .memoryError => none
  | .peerTimeout => none
  | .pconf => none
  | .phalt => none
  | .partitionHalted => none
  | .presume => none
  | .pswapout => none
  | .pswapin => none
  | .partitionSwapDone => none
  | .preset => none
  | .cswitch => none
  | .rings => none
  | .logread => none
  | .health => none
  | .fwstage => none
  | .fwactFe => none
  | .fwactAgent => none
  | .fwactService => none
  | .serviceCoreFallback => none
  | .attest => none
  | .attestKey => none
  | .pcap => none
  | .clockStep => none
  | .criticalTempStop => none
  | .powerUp => none
  | .unloadDrained => none
  | .correctedSoftError => none
  | .controlStateError => none
  | .peerPartyAccess => none
  | .kazotLinkPortDown => none
  | .kazotLinkPortUp => none
  | .serviceCoreRestarted => none
  | .dieDomainOff => none
  | .dieDomainOn => none
  | .hostLinkDown => none
  | .hostLinkUp => none
  | .mctpControlMessage => none

/-- The instruction the decoder reads from a table row's bits (host interface). -/
def decodeTableWord (_nbits w : Nat) : Option Instr :=
  match decode (wordBytes (BitVec.ofNat 32 w)) with
  | .ok (i, _) => some i
  | .error _ => none

end Sys2Proof
end

