-- ==== Sys2Proof/Machine/State.lean ====
section
/-! DEFINITION. The state of the part, as plain data: groups and their splits, teams and their holdings, cores,
engines, the front end, partitions, the service core and memory; the reasons a step can stop; and the state after
reset. Tables that the part keeps by a key (groups, teams, records, work items) are lists of records that carry
their key. -/

namespace Sys2Proof.Machine

/-! ### Why a step can stop -/

/-- What stops the machine in this model. -/
inductive Fault where
  /-- Raised by a word's meaning when no path stands at a word; `step` never calls one so. Safe. -/
  | noPath
deriving DecidableEq, Repr

/-- What this model answers where it gives no meaning. -/
inductive Refusal where
  /-- Raised by `exec` for an instruction that has no meaning yet, by its mnemonic. Safe. -/
  | notModelled (mnemonic : String)
deriving DecidableEq, Repr

/-! ### Addresses and claims -/

/-- A 57-bit virtual or code address (R90, R252). -/
abbrev VAddr := BitVec 57

/-- Memory as the sorted list of the bytes that differ from the value an unlisted byte reads as. -/
abbrev Memory := List (Nat × Byte)

/-- A claim vector (R16), field by field. -/
structure Claim where
  reg : Nat
  scr : Nat
  acc : Nat
  bar : Nat
deriving DecidableEq, Repr

def Claim.zero : Claim := ⟨0, 0, 0, 0⟩

/-- A kept-register set record (R34). -/
structure Keep where
  x : DWord
  v : DWord
  s : DWord
  q : Byte
  m : Byte
deriving DecidableEq, Repr

/-! ### Groups (R41 to R59, R162 to R171) -/

/-- What an access needs of a page (R265). -/
inductive Need where
  | read | write | exec
deriving DecidableEq, Repr

/-- What a trap records (R55, R378, R381). -/
structure TrapRec where
  cause : Byte
  lane : Option Lane
  info : BitVec 16
  /-- The whole address; the fault address registers hold its low 57 bits. -/
  fa : DWord
deriving DecidableEq, Repr

/-- A latched prefix and its code address (R97, R99). -/
structure Latched where
  form : FormP
  addr : VAddr
deriving DecidableEq, Repr

/-- What a path waits for at its word. -/
inductive WaitKind where
  /-- SYNCJ, R167. -/
  | syncj
  /-- A collective word, R168. -/
  | collective
  /-- BAR, after its arrival: the barrier, ACQ, and the next word (R364). -/
  | bar (b : Nat) (acq : Bool) (next : VAddr)
  /-- BARW with a token (R364). -/
  | barw (b : Nat) (tok : BitVec 16) (acq : Bool) (next : VAddr)
  /-- BARX after its arrival (R367). -/
  | barx (acq : Bool) (next : VAddr)
  /-- A read of a pending handle, R46. -/
  | handle (n : Nat)
  /-- SOACQ with a target, R370: object and target. -/
  | soacq (soid : Nat) (target : Word)
  /-- AWAIT, R376: offset and generation. -/
  | await (off gen : Nat)
  /-- LDFE, R287: the word, its lanes' team and offset, its zeroed lanes and the next word. -/
  | ldfe (f : FormL) (addrs : List (Lane × Nat × Nat)) (zeroed : Mask) (next : VAddr)
  /-- RACQ, R146. -/
  | racq (q : Claim)
  /-- RREL waiting for records that name a slot, R148; no wait of R150. -/
  | rrel
  /-- A full tile task queue, R321, or IFENCE for earlier words of the group, R177; no wait of R150. -/
  | stall
  /-- A translation or protection fault at TL0, R385. -/
  | fault (t : TrapRec)
  /-- FSVC, R179: the address and what the access needs. -/
  | fsvc (addr : VAddr) (need : Need)
  /-- RSMP after its arrival, R247: the population object's virtual address and the lanes' slots. -/
  | rsmp (obj : Nat) (slots : List (Lane × Nat))
deriving DecidableEq, Repr

/-- A word that has issued and waits: the expanded word, its address, the next word and its prefix. -/
structure Issued where
  word : Word
  addr : VAddr
  next : VAddr
  pfx : Option Latched
deriving DecidableEq, Repr

/-- A wait, whether its object has already ended it, what it was ended with, the cycle it began, and the issued word
that waits; none for a word that is fetched again. -/
structure Wait where
  kind : WaitKind
  ended : Bool
  data : Word
  start : Nat
  issued : Option Issued
deriving DecidableEq, Repr

/-- The record of an RSMP that trapped after its arrival (R62, R249): its word, the object's virtual address, slots, and whether every
weight was zero. -/
structure Restart where
  addr : VAddr
  obj : Nat
  slots : List (Lane × Nat)
  allZero : Bool
deriving DecidableEq, Repr

/-- A path of a group: a live split, or a parked path (R162, R163). -/
structure Path where
  pid : Nat
  /-- The live split that carries the path; none while it is parked. -/
  split : Option (Fin 4)
  pc : VAddr
  members : Mask
  em : Mask
  departing : Mask
  join : Option VAddr
  /-- The innermost reconvergence entry. -/
  entry : Option Nat
  /-- The trap level the path belongs to: it issues while this is the group's TL (R382). -/
  level : Fin 3
  wait : Option Wait
  pfx : Option Latched
  /-- The cycle since which it has stayed ready without issuing (R160, R391); none while it is not ready. -/
  readySince : Option Nat
  restart : Option Restart
deriving DecidableEq, Repr

/-- A live entry of the reconvergence stack (R163). Its paths are those whose innermost entry it is, and
those of its inner entries. -/
structure Entry where
  eid : Nat
  rp : Option VAddr
  enclosing : Option Nat
  level : Fin 3
deriving DecidableEq, Repr

/-- A register that a work item carries beside its kept set (R232). -/
inductive Carried where
  | none
  | x (r : Reg) (val : Word)
  | v (r : Reg) (val : DWord)
deriving DecidableEq, Repr

/-- An open inline child frame (R237). -/
structure Frame where
  off : Nat
  size : Nat
  forked : Mask
  /-- Entries numbered from here on were created since the push. -/
  mark : Nat
  ks : Nat
  carried : Carried
  /-- The members of the split that pushed it, and the lineages its lanes get back. -/
  members : Mask
  lin : Lanes DWord
deriving DecidableEq, Repr

/-- A resident group. -/
structure Group where
  gid : Nat
  team : Nat
  idx : Nat
  slot : Nat
  x : Tab 64 (Lanes Word)
  v : Tab 64 (Lanes DWord)
  s : Tab 64 Word
  q : Tab 8 (Lanes (BitVec 2))
  m : Tab 8 Mask
  h : Tab 16 Word
  n : Tab 16 Bool
  gsr : Word
  tl : Fin 3
  tca1 : Word
  tca2 : Word
  tepc1 : VAddr
  tepc2 : VAddr
  tfa1 : VAddr
  tfa2 : VAddr
  depth : Byte
  limit : Byte
  rngKey : DWord
  rngCtr : DWord
  lin : Lanes DWord
  /-- The tag the next command issued into a handle takes (R46). -/
  tag : BitVec 16
  paths : List Path
  entries : List Entry
  frames : List Frame
  nextPid : Nat
  nextEid : Nat
deriving DecidableEq, Repr

/-! ### Teams (R60, R63, R133 to R154) -/

/-- A named barrier (R362). -/
structure Barrier where
  ph : BitVec 16
  exp : Nat
  opened : Bool
  cnt : Nat
deriving DecidableEq, Repr

/-- A gather-window binding (R271). -/
structure Window where
  base : VAddr
  rowSize : Nat
  stride : Nat
  idx : VAddr
  count : Nat
deriving DecidableEq, Repr

/-- The team states of R153; a team that is retired or killed has no record. -/
inductive TeamState where
  | resident | waiting | swappingOut | swapped | returning
deriving DecidableEq, Repr

/-- A level of the work hierarchy: domain and scope code (R9). -/
structure Level where
  dom : Nat
  scope : Nat
deriving DecidableEq, Repr

/-- The gang a team belongs to (R13, R144). -/
structure Gang where
  t0 : Nat
  size : Nat
  /-- 3 for a quad gang, 4 for a cluster gang. -/
  dom : Nat
deriving DecidableEq, Repr

/-- A physical accumulator slot (R304, R305). -/
structure AccSlot where
  team : Option Nat
  status : Word
  elems : List ((Nat × Nat) × DWord)
  /-- It holds an uncorrectable error (R274). -/
  bad : Bool
deriving DecidableEq, Repr

/-- What a team was launched with: its node, its image and its place in the grid. -/
structure Launch where
  seq : Nat
  qidx : Nat
  graph : Nat
  node : Nat
  runid : Nat
  /-- The Launch Slot Table entry: die and index (R126). -/
  die : Nat
  lst : Nat
  t : Nat
  tx : Word
  tyz : Word
  gpt : Nat
  levels : List Level
  gang : Option Gang
  base : VAddr
  entryOff : Nat
  trapOff : Nat
  runtimeOff : Nat
  ven : Nat
  dict : Bool
  image : Nat
  claim : Claim
  initial : Claim
  keeps : List Keep
  /-- The parameter slots that the launch loads into s-registers (R18). -/
  params : List DWord
deriving DecidableEq, Repr

/-- A RACQ that waits for its decision (R142): the path and the request. -/
structure Request where
  gid : Nat
  pid : Nat
  want : Claim
  arrival : Nat
deriving DecidableEq, Repr

structure Team where
  uid : Nat
  core : Nat
  st : TeamState
  info : Launch
  prio : Nat
  swapth : Nat
  hold : Claim
  /-- The pending request first, then the queued ones in order of arrival (R142). -/
  reqs : List Request
  /-- The claimable granules, by own offset (R136). -/
  scr : Memory
  /-- The full lines of the granules (R257). -/
  full : List Nat
  /-- The own offsets whose bytes hold an uncorrectable error (R274). -/
  bad : List Nat
  venFront : Memory
  venBack : Memory
  bars : List Barrier
  /-- a0 to a7 (R47). -/
  acc : Tab 8 Byte
  windows : Tab 16 (Option Window)
  /-- The six predictor counters (R342). -/
  predCtr : Tab 6 Word
  /-- The cycle at which the wait timer started (R150). -/
  waitSince : Option Nat
  /-- The cycle at which the team was placed (R394). -/
  placed : Nat
  /-- The save area: base and size (R138). -/
  saveArea : Nat × Nat
  /-- The accumulator slots of a team that is out, by name (R152). -/
  saved : List (Nat × AccSlot)
  /-- The cycle at which the team was swapped out, for the order of returns (R141). -/
  swappedAt : Nat
  /-- The team is out by a team switch or a core switch, not by a wait (R395, R397). -/
  switchedOut : Bool
  /-- While the team is out: what the object of each of its waits held at the last step, by group and path, and whether one
  has changed (R153). -/
  watched : List ((Nat × Nat) × Nat)
  stirred : Bool
deriving DecidableEq, Repr

/-! ### Cores -/

/-- A cached sector of an L1 data cache (R261): 256 bytes at a physical address. -/
structure L1Sector where
  addr : Nat
  vaddr : Nat
  bytes : List Byte
  /-- It holds an uncorrectable error (R274). -/
  bad : Bool
deriving DecidableEq, Repr

/-- A held translation (R268): a page of a partition, with its rights and attributes (R265, R267). -/
structure Xlat where
  part : Nat
  vbase : Nat
  log2 : Nat
  pbase : Nat
  rd : Bool
  wr : Bool
  ex : Bool
  /-- Cache level, write policy, eviction priority, and whether a written-back sector may be recorded as a state. -/
  cl : Nat
  wp : Nat
  evp : Nat
  cmp : Bool
  fromImage : Bool
deriving DecidableEq, Repr

/-- A line that an L2 slice holds (R262). Its bytes are the home's, which `State.mem` holds; `under` lists the bytes that
the memory below still holds where the line is dirty (R267). -/
structure L2Line where
  /-- The physical line: its address divided by 1,024. -/
  line : Nat
  evp : Nat
  cmp : Bool
  /-- The sectors that memory does not hold yet. -/
  dirty : BitVec 4
  under : List (Nat × Byte)
deriving DecidableEq, Repr

/-! ### Writes on their way (R352, R356) -/

/-- Whose write it is: a lane's, of a group on a core, or a posted write of the host with its ordering stream, and whether
it carries the Relaxed Ordering attribute. -/
inductive FlightOf where
  | lane (gid core : Nat)
  | host (stream : Nat) (relaxed : Bool)
deriving DecidableEq, Repr

/-- A write that has been made and has not reached its home slice: where it goes, under which page attributes, and the
observer classes that releases have performed it to, each within an instance of a scope code (R352). -/
structure Flight where
  who : FlightOf
  pa : Nat
  bytes : List Byte
  /-- None for a write without a translation. -/
  attr : Option Xlat
  seen : List (BitVec 5 × Nat × Nat)
deriving DecidableEq, Repr

/-- A line of the instruction cache (R89, R155), at a code address divided by 192: the physical addresses of its first
and last bytes, which may lie on two pages, and its bytes. -/
structure ILine where
  line : Nat
  first : Option Nat
  last : Option Nat
  bytes : List Byte
deriving DecidableEq, Repr

/-- A loop body (R157): `n` packets from `base`, and the words captured so far, in compressed form. -/
structure LoopBody where
  part : Nat
  image : Nat
  base : VAddr
  n : Nat
  words : List (VAddr × Word)
  /-- The groups that have used it (R177), and whether one of a team with a dictionary has (R178). -/
  users : List Nat
  dict : Bool
deriving DecidableEq, Repr

/-- One of a core's four dictionary banks (R101, R137). -/
structure DictBank where
  image : Option Nat
  words : List Word
deriving DecidableEq, Repr

/-- A queue of the Twill directory (R240). -/
structure TwillQueue where
  num : Nat
  entry : VAddr
  seq : Nat
  /-- The team's linear index; none for FREE items. -/
  team : Option Nat
  since : Nat
deriving DecidableEq, Repr

structure Core where
  /-- The cycle of the core's last reset (R57). -/
  cycBase : Nat
  agentOn : Bool
  drafterOn : Bool
  dict : Tab 4 DictBank
  acc : Tab 8 AccSlot
  queues : List TwillQueue
  l1 : List L1Sector
  tlb : List Xlat
  icache : List ILine
  /-- The loop buffers of the four issue partitions, the most recent body first. -/
  loops : Tab 4 (List LoopBody)
  /-- The group slot that each issue partition issued from last (R160). -/
  lastSlot : Tab 4 Nat
  /-- The agent image release (R61). -/
  agentRel : Byte
  /-- The agent has a new image to take when its partition next runs (R422). -/
  agentStale : Bool
  /-- The first entry the agent may serve, by its SEQ, has not fitted since this cycle (R394). -/
  unfit : Option (Word × Nat)
  /-- The multiplier sub-arrays: powered, and idle since (R320). -/
  arraysOn : Bool
  arraysIdle : Nat
  /-- The corrected soft errors that the core's log counts (R274). -/
  corrected : Nat
deriving DecidableEq, Repr

/-! ### Work items (R231, R232, R240) -/

inductive ItemHome where
  | core (k : Nat)
  /-- The share of a partition in its die pool, with the core whose directory holds its queue. -/
  | pool (part core : Nat)
deriving DecidableEq, Repr

structure Item where
  entry : VAddr
  kind : Nat
  free : Bool
  lin : DWord
  teamT : Nat
  /-- The producing team itself. -/
  owner : Nat
  ks : Nat
  srcg : Nat
  seq : Nat
  /-- The payload of R232, before its padding: the q and m word, then x, v and s registers. -/
  qm : BitVec 23
  xs : List (Reg × Word)
  vs : List (Reg × DWord)
  ss : List (Reg × Word)
  carried : Carried
  keep : Keep
  home : ItemHome
deriving DecidableEq, Repr

/-! ### Partitions (R398, R416) -/

inductive PartState where
  | unconfigured | running | halting | halted | swappingOut | swapped | swappingIn
deriving DecidableEq, Repr

/-- What the device keeps of a capture ring (R409): its base, the bytes written since it was placed, and the lengths of its records,
the latest first, from the oldest that was not consumed at the last write on. -/
structure CaptureRing where
  base : Nat
  written : Nat
  lens : List Nat
deriving DecidableEq, Repr

/-- A partition and the descriptor it was configured with (R416). -/
structure Partition where
  st : PartState
  ptRoot : Nat
  rbtPA : Nat
  savePA : Nat
  saveSize : Nat
  /-- The save areas in use: base and size (R138). -/
  saveUsed : List (Nat × Nat)
  dpoolPA : Nat
  dpoolU : Nat
  idlet : Nat
  shadow : Bool
  preemptTh : Nat
  capPA : Nat
  rings : List CaptureRing
  hbmBase : Nat
  hbmSize : Nat
  tierBase : Nat
  tierSize : Nat
  /-- A management command on the partition is in progress, by its OP; from the side-band port if set (R415). -/
  busy : Option (Nat × Bool)
  /-- An error reset that waits for a move to the shadow slot, or back, to end, by its kill reason (R398). -/
  owed : Option Nat
deriving DecidableEq, Repr

/-- A loaded image and its place in the image map (R37, R440). -/
structure Image where
  base : Nat
  size : Nat
  pa : Nat
  /-- The loaded sections: kind, load offset and size (R33). -/
  sections : List (Nat × Nat × Nat)
deriving DecidableEq, Repr

/-! ### Engine commands (R296 to R301, R321 to R326) -/

/-- An engine access that waits for the fault service (R300, R324). -/
structure EngFault where
  part : Nat
  va : Nat
  need : Need
deriving DecidableEq, Repr

/-- Who a copy belongs to: a group's handle, a copy node of a queue's run, or the COPY command. -/
inductive CopyOwner where
  | handle (team gid h : Nat) (tag : BitVec 16)
  | node (qidx node : Nat)
  | command
deriving DecidableEq, Repr

/-- A copy command (R296 to R301). -/
structure Copy where
  cid : Nat
  owner : CopyOwner
  /-- The launch and the gang of its team, whose other teams its targets and arrival words may lie in (R254, R388). -/
  gang : Option (Nat × Gang)
  core : Nat
  part : Nat
  /-- 0 CPY, 1 CPY2D, 2 CPYMC. -/
  kind : Nat
  /-- The copy control block, eight doublewords. -/
  ccb : List DWord
  acq : Bool
  rel : Bool
  /-- The sequence number taken on an ordered object (R355). -/
  relSeq : Option Word
  acquired : Bool
  /-- The chunks contributed: target and chunk (R299). -/
  done : List (Nat × Nat)
  failed : Bool
  cancelled : Bool
  /-- Stopped with its team or partition; and it has been stopped, so that its next chunk is the lowest (R301). -/
  stopped : Bool
  lowest : Bool
  released : Bool
  fault : Option EngFault
deriving DecidableEq, Repr

/-- A tile-task or predictor record (R321, R326). -/
structure Record where
  rid : Nat
  core : Nat
  team : Nat
  gid : Nat
  gslot : Nat
  /-- The member: the TILE FN, or 11 plus the PRED FN; 16 is a shape record. -/
  fn : Nat
  hasH : Bool
  h : Nat
  tag : BitVec 16
  step : Nat
  next : Nat
  /-- The physical slots it names. -/
  slots : List Nat
  dep : BitVec 16
  /-- The named handles that were pending at issue, and their tags (R322). -/
  pend : BitVec 16
  dtags : List (BitVec 16)
  /-- A named handle has failed: at issue, or since (R322). -/
  badDep : Bool
  acq : Bool
  rel : Bool
  relSeq : Option Word
  acquired : Bool
  /-- The command block, eight or sixteen doublewords, or the shape word. -/
  block : List DWord
  /-- The stream position of a TSTORE (R314). -/
  key : DWord
  ctr : DWord
  started : Bool
  /-- The engine: the core number in the quad, or 4 for the predictor engine. -/
  eng : Option Nat
  joint : Option Nat
  /-- A TGRP has read its table entry; its first row of A, and its group's B (R319). -/
  entryRead : Bool
  rowOff : Nat
  gBase : Nat
  /-- A TKSPLIT's ticket has advanced, or can not be; a status word has been written to STVA, or can not be. -/
  ticketDone : Bool
  stvaDone : Bool
  /-- Rows that a PKERF has added; the list length of a PFFN, and its residuals (R336, R337). -/
  added : Nat
  nlist : Nat
  res : List Word
  failed : Bool
  cancelled : Bool
  finished : Bool
  released : Bool
  stopped : Bool
  fault : Option EngFault
deriving DecidableEq, Repr

/-- A release of a SOREL that waits for its turn on an ordered object (R355). -/
structure PendingRel where
  part : Nat
  soid : Nat
  seq : Word
  /-- The team whose lane issued it; none for a party on a peer module. -/
  team : Option Nat
deriving DecidableEq, Repr

/-! ### The front end (R113 to R131) -/

structure HostRegs where
  cmdBase : VAddr
  cmdLog2 : BitVec 4
  cmdHead : Word
  cmdTail : Word
  qtabBase : VAddr
  prioBase : VAddr
  trigBad : Word
deriving DecidableEq, Repr

/-- An installed graph (R25). -/
structure Graph where
  gid : Nat
  nnode : Nat
  nparam : Nat
  nodeVA : Nat
  paramVA : Nat
  doneVA : Nat
deriving DecidableEq, Repr

inductive NodeState where
  | blocked | ready | running
  /-- A wait node that has read its word false, at this cycle; with one of the die's watches, what the word held (R123). -/
  | watching (since : Nat) (watch : Option Nat)
  /-- A wait node whose page is not resident, since this cycle; whether its queue is parked, and the answer that the
  fault service gave meanwhile (R124). -/
  | noPage (since : Nat) (parked : Bool) (answer : Option Nat)
  /-- A node whose release of an ordered object waits for its turn, by its sequence number (R28, R355). -/
  | syncing (seq : Word)
  | done
deriving DecidableEq, Repr

/-- A node of a run, after substitution (R26 to R29). -/
structure RunNode where
  kind : Nat
  body : List DWord
  succs : List Nat
  left : Nat
  st : NodeState
  /-- For a kernel node: SEQ, team count, counts reported and teams killed (R126, R128, R404). -/
  seq : Word
  total : Nat
  reported : Nat
  killed : Nat
deriving DecidableEq, Repr

/-- A run of a graph (R123). -/
structure Run where
  qidx : Nat
  gid : Nat
  runid : Word
  home : Nat
  doneVA : Nat
  params : List DWord
  nodes : List RunNode
  /-- The code that ended it, 0 for none, and the node. -/
  code : Nat
  failNode : Nat
  kill : Bool
  /-- The capture buffer: base and size; and records lost (R409, R410). -/
  capture : Option (Nat × Nat)
  lost : Nat
deriving DecidableEq, Repr

/-- A Launch Slot Table entry (R126, R127), with its two counters. -/
structure LstEntry where
  st : Nat
  prio : Nat
  clmask : Nat
  seq : Word
  /-- LRVA, TICKVA and DONEVA, and what stands there: the run's launch record and parameter slots, and the two counters. -/
  lrVA : VAddr
  tickVA : VAddr
  doneVA : VAddr
  record : List DWord
  params : List DWord
  tfirst : Nat
  tend : Nat
  ticket : Nat
  done : Nat
  killed : Nat
  runid : Word
  node : Nat
  qidx : Nat
  gid : Nat
deriving DecidableEq, Repr

/-- A front-end access to a run-time target that waits for the fault service (R443). -/
inductive FeTarget where
  | complva (node : Nat)
  | donePost
  | signal (node : Nat)
deriving DecidableEq, Repr

structure FeAccess where
  qidx : Nat
  gid : Nat
  runid : Word
  target : FeTarget
  part : Nat
  va : Nat
  val : DWord
  op : Nat
deriving DecidableEq, Repr

/-- What a command of the ring waits for: UNLOAD for its accesses, QDESTROY for its run, COPY for its copy, QPRIO for
two walker passes over the list that it left (R122). -/
inductive CmdWait where
  | unload (base size : Nat)
  | qdestroy (q : Nat)
  | copy
  | relink (q prio : Nat)
deriving DecidableEq, Repr

/-- A gang that is being placed (R144): its entry and its domain, what each team needs, the answers of the member cores,
and the save areas that they reserve. -/
structure GangPlan where
  die : Nat
  lst : Nat
  seq : Word
  leader : Nat
  size : Nat
  dom : Nat
  init : Claim
  max : Claim
  gpt : Nat
  ven : Nat
  dict : Option Nat
  save : Nat
  answers : List (Nat × Bool)
  areas : List (Nat × (Nat × Nat))
  refused : Bool
  since : Nat
deriving DecidableEq, Repr

structure FrontEnd where
  regs : HostRegs
  wait : Option CmdWait
  graphs : List Graph
  runs : List Run
  /-- The queues that exist (R113, R115). -/
  queues : List Nat
  /-- The stored triggers that have started no run, in the order in which they were stored: queue and ring entry (R29). -/
  trigs : List (Nat × Nat)
  /-- QSBs handed to firmware by the walker, in order (R121). -/
  handed : List Nat
  nextSeq : Word
  lst : Tab 256 LstEntry
  accesses : List FeAccess
  gangs : List GangPlan
  /-- Run lists from which a removed QSB may not yet be linked again: QSB, list, generation (R122). -/
  removed : List (Nat × Nat × Word)
  /-- Ranges that the master distributes again under their SEQ (R400). -/
  ranges : List LstEntry
  /-- The front-end image that each die runs, A or B, and the releases (R423, R61). -/
  image : Tab 4 Bool
  rel : Tab 4 Byte
deriving DecidableEq, Repr

/-! ### The fault service, translation control and errors -/

/-- A region under service (R384, R417). -/
structure FaultReq where
  part : Nat
  region : Nat
  w : Bool
  x : Bool
  /-- The identifier of the posted page request. -/
  id : Option Word
  /-- Waiting for room in the page request ring. -/
  held : Bool
  answer : Option Nat
deriving DecidableEq, Repr

/-- The translation control region of a die (R270). -/
structure TinvRegs where
  va : VAddr
  size : BitVec 2
  part : BitVec 3
  hsoid : BitVec 12
  busy : Bool
  done : Word
deriving DecidableEq, Repr

/-- An open multicast entry (R278): the sector's bytes, and the cycle of its reply. -/
structure McastEntry where
  addr : Nat
  bytes : List Byte
  replied : Nat
deriving DecidableEq, Repr

/-- A sector that holds an uncorrectable error: retained in its slice, or consumed once (R274). -/
structure BadSector where
  addr : Nat
  retained : Bool
  parts : Nat
  /-- The bytes of the sector not written since. -/
  todo : BitVec 256
deriving DecidableEq, Repr

/-- An error log entry (R275), of a slice. -/
structure LogEntry where
  die : Nat
  slice : Nat
  pa : Nat
  sect : Nat
  kind : Nat
  src : Nat
  count : Nat
  parts : Nat
deriving DecidableEq, Repr

/-- A die's outstanding steal: the asking core, its partition, the launch, and the items on their way (R242). -/
structure StealReq where
  die : Nat
  part : Nat
  core : Nat
  seq : Nat
  items : List Item
deriving DecidableEq, Repr

/-! ### The service core (R414 to R427) -/

/-- A mailbox (R414): MBCMD, the unfinished command and whether it has begun, and the other registers. -/
structure Mailbox where
  cmd : List DWord
  job : Option (List DWord)
  begun : Bool
  stat : DWord
  done : Word
deriving DecidableEq, Repr

/-- A ring of records (R406): base and log2 of its count. -/
structure Ring where
  pa : Nat
  log2 : Nat
deriving DecidableEq, Repr

/-- An event of the service core's log. -/
inductive SvcEvent where
  | criticalStop
  | containment (core : Nat)
  | retainedLimit (die slice : Nat)
deriving DecidableEq, Repr

structure Service where
  host : Mailbox
  side : Mailbox
  errRing : Option Ring
  pageRing : Option Ring
  prhsoid : Nat
  nextReq : Word
  mr : Tab 8 (BitVec 512)
  acts : Word
  /-- The images in the store, by digest: service core, front end A and B, agent (R421, R425). -/
  svcImage : BitVec 512
  svcPrevious : BitVec 512
  feImage : Tab 2 (BitVec 512)
  agentImage : BitVec 512
  /-- The release of the active agent image, and of front-end images A and B (R61). -/
  agentRel : Byte
  feRel : Tab 2 Byte
  /-- Images staged and not yet activated. -/
  stagedFe : Bool
  /-- The staging slot: whether its image is the service core's, and the image (R421). -/
  staged : Option (Bool × BitVec 512)
  /-- A FWACT of the agent image under way: the core that reloads, and whether the side-band port asked (R422). -/
  reload : Option (Nat × Bool)
  /-- The dynamic address of the side-band port, once it has been given one (R419). -/
  dynAddr : Option (BitVec 7)
  /-- The service core is restarting (R424), since this cycle. -/
  restarting : Option Nat
  failedAct : Bool
  log : List SvcEvent
  /-- MSI-X vectors 0 to 3 signalled, by count (R412). -/
  msix : Tab 4 Nat
  /-- Interrupts held while the service core restarts: a vector, or 4 for an in-band interrupt. -/
  held : List Nat
  /-- In-band interrupts raised on the side-band port, by count (R419). -/
  ibi : Nat
  powerCap : Nat
  /-- The clock step: 0 is 2.25 GHz, 3 is 1.5 GHz (R418). -/
  clock : Nat
  stopped : Bool
  diesOn : Bool
  hostLink : Bool
  /-- Ports whose link is up (R420). -/
  ports : BitVec 48
  powered : Bool
deriving DecidableEq, Repr


/-! ### What a step is about -/

/-- The path and word that a word's step acts on. -/
structure Cur where
  gid : Nat
  pid : Nat
  /-- The expanded word. -/
  word : Word
  /-- The code address of the word. -/
  addr : VAddr
  /-- The return address of a trap: the word, or its prefix (R99). -/
  ret : VAddr
  /-- The code address of the next word in program order (R90). -/
  next : VAddr
deriving DecidableEq, Repr

/-- What a step without a word is about: the units it acts on, and what a host write or message carries. -/
structure StepArg where
  die : Nat
  core : Nat
  part : Nat
  team : Nat
  item : Nat
  addr : Nat
  size : Nat
  data : List DWord
  flag : Bool
  /-- The ordering stream of a host write, its requester and traffic class as one number, and whether the write carries
  the Relaxed Ordering attribute (R356). -/
  stream : Nat
  relaxed : Bool
deriving DecidableEq, Repr

def StepArg.none : StepArg := ⟨0, 0, 0, 0, 0, 0, 0, [], false, 0, false⟩

/-- One turn of the agenda: which step comes next where the manual fixes no order. -/
inductive Turn where
  /-- A path issues its next word. -/
  | issue (gid pid : Nat)
  /-- A step without a word. -/
  | event (i : Instr) (a : StepArg)
  /-- Cycles pass. -/
  | pass (n : Nat)
  /-- From here on, plain stores of lanes stay on their way, or are performed at once (R352). -/
  | late (b : Bool)
  /-- The write on its way of this place in the list reaches its home slice. -/
  | land (k : Nat)
deriving DecidableEq, Repr

/-! ### The part -/

structure State where
  /-- Cycles since power-up. -/
  now : Nat
  cur : Option Cur
  arg : StepArg
  agenda : List Turn
  /-- The issue partition of the part that issued last: four to a core. -/
  lastPart : Nat
  /-- The next unused group, team and record numbers, and the number of free values drawn. -/
  fresh : Nat
  draws : Nat
  groups : List Group
  teams : List Team
  cores : Tab 768 Core
  quadTlb : Tab 192 (List Xlat)
  items : List Item
  parts : Tab 8 Partition
  images : List Image
  mem : Memory
  /-- The lines that the L2 slices hold, the most recently used first (R262). -/
  l2 : List L2Line
  /-- The sectors of memory that are recorded as a state (R267, CMP). -/
  zipped : List Nat
  /-- The writes on their way, the oldest first, and whether plain stores join them. -/
  flights : List Flight
  late : Bool
  copies : List Copy
  records : List Record
  rels : List PendingRel
  fe : FrontEnd
  faults : List FaultReq
  tinv : Tab 4 TinvRegs
  mcasts : List McastEntry
  bad : List BadSector
  logs : List LogEntry
  steals : List StealReq
  svc : Service
deriving DecidableEq, Repr

/-! ### The state after reset -/

def AccSlot.reset : AccSlot := ⟨none, 0x00404000#32, [], false⟩

def Core.reset : Core where
  cycBase := 0
  agentOn := false
  drafterOn := false
  dict := Tab.const 4 ⟨none, []⟩
  acc := Tab.const 8 AccSlot.reset
  queues := []
  l1 := []
  tlb := []
  icache := []
  loops := Tab.const 4 []
  lastSlot := Tab.const 4 0
  agentRel := 0x13#8
  agentStale := false
  unfit := none
  arraysOn := false
  arraysIdle := 0
  corrected := 0

def Partition.reset : Partition where
  st := .unconfigured
  ptRoot := 0
  rbtPA := 0
  savePA := 0
  saveSize := 0
  saveUsed := []
  dpoolPA := 0
  dpoolU := 0
  idlet := 0
  shadow := false
  preemptTh := 0
  capPA := 0
  rings := []
  hbmBase := 0
  hbmSize := 0
  tierBase := 0
  tierSize := 0
  busy := none
  owed := none

def LstEntry.free : LstEntry := ⟨0, 0, 0, 0#32, 0#57, 0#57, 0#57, [], [], 0, 0, 0, 0, 0, 0#32, 0, 0, 0⟩

/-- The front end at power-up (R113). -/
def FrontEnd.reset : FrontEnd where
  regs := ⟨0#57, 4#4, 0#32, 0#32, 0#57, 0#57, 0#32⟩
  wait := none
  graphs := []
  runs := []
  queues := []
  trigs := []
  handed := []
  nextSeq := 0#32
  lst := Tab.const 256 LstEntry.free
  accesses := []
  gangs := []
  removed := []
  ranges := []
  image := Tab.const 4 false
  rel := Tab.const 4 0x13#8

def TinvRegs.reset : TinvRegs := ⟨0#57, 0#2, 0#3, 0#12, false, 0#32⟩

def Mailbox.reset : Mailbox := ⟨List.replicate 8 0#64, none, false, 0#64, 0#32⟩

/-- The service core before the boot ROM has run (R425). -/
def Service.reset : Service where
  host := Mailbox.reset
  side := Mailbox.reset
  errRing := none
  pageRing := none
  prhsoid := 0
  nextReq := 0#32
  mr := Tab.const 8 0#512
  acts := 0#32
  svcImage := 0#512
  svcPrevious := 0#512
  feImage := Tab.const 2 0#512
  agentImage := 0#512
  agentRel := 0x13#8
  feRel := Tab.const 2 0x13#8
  stagedFe := false
  staged := none
  reload := none
  dynAddr := none
  restarting := none
  failedAct := false
  log := []
  msix := Tab.const 4 0
  held := []
  ibi := 0
  powerCap := 2400
  clock := 0
  stopped := false
  diesOn := true
  hostLink := true
  ports := BitVec.allOnes 48
  powered := false

/-- The part right after reset: no queue, no image, no partition configured, nothing resident.
DESIGN CHOICE, unsafe: log entry 2. -/
def State.reset : State where
  now := 0
  cur := none
  arg := StepArg.none
  agenda := []
  lastPart := 0
  fresh := 0
  draws := 0
  groups := []
  teams := []
  cores := Tab.const 768 Core.reset
  quadTlb := Tab.const 192 []
  items := []
  parts := Tab.const 8 Partition.reset
  images := []
  mem := []
  l2 := []
  zipped := []
  flights := []
  late := false
  copies := []
  records := []
  rels := []
  fe := FrontEnd.reset
  faults := []
  tinv := Tab.const 4 TinvRegs.reset
  mcasts := []
  bad := []
  logs := []
  steals := []
  svc := Service.reset

end Sys2Proof.Machine
end

