-- ==== Sys2Proof/Machine/Mem.lean ====
section
/-! DEFINITION. Memory as sorted bytes in one canonical form, its byte reads and writes, the little-endian values
made of them (R2), and the physical spaces of the part laid into it (R265, R273). -/

namespace Sys2Proof.Machine

/-- What a byte that nothing has written reads as: DESIGN CHOICE, assumption 1. -/
def emptyByte : Byte := 0#8

/-- The canonical form: addresses strictly rising, no entry equal to an unlisted byte. -/
def memWf (m : Memory) : Bool := decide (m.Pairwise fun x y => x.1 < y.1) && m.all fun c => c.2 != emptyByte

/-- One byte: what an entry of its address lists, else what an unlisted byte reads as. -/
def memGet (m : Memory) (a : Nat) : Byte := ((m.find? fun c => c.1 == a).map fun c => c.2).getD emptyByte

/-- Write one byte between the bytes below it and those above it; the value of an unlisted byte is not listed. -/
def memSet (m : Memory) (a : Nat) (b : Byte) : Memory :=
  (m.filter fun c => decide (c.1 < a)) ++ (if b = emptyByte then [] else [(a, b)]) ++ m.filter fun c => decide (a < c.1)

/-- The `n` bytes from `a`. -/
def memBytes (m : Memory) (a n : Nat) : List Byte := (List.range n).map fun i => memGet m (a + i)

/-- Write bytes from `a`. -/
def memPut (m : Memory) (a : Nat) : List Byte → Memory
  | [] => m
  | b :: bs => memPut (memSet m a b) (a + 1) bs

/-- The little-endian number in a list of bytes (R2). -/
def bytesNat : List Byte → Nat
  | [] => 0
  | b :: bs => b.toNat + 256 * bytesNat bs

/-- The `n` little-endian bytes of a number. -/
def natBytes (n v : Nat) : List Byte := (List.range n).map fun i => BitVec.ofNat 8 (v / 256 ^ i)

def memNat (m : Memory) (a n : Nat) : Nat := bytesNat (memBytes m a n)
def memPutNat (m : Memory) (a n v : Nat) : Memory := memPut m a (natBytes n v)

/-- The bytes below `lo` or from `hi` on. -/
def memDrop (m : Memory) (lo hi : Nat) : Memory := m.filter fun c => decide (c.1 < lo ∨ hi ≤ c.1)

/-! ### The physical spaces: HBM, the second tier and the peer modules, one after another -/

/-- The key of a second-tier physical address. -/
def tierKey (pa : Nat) : Nat := 2 ^ 52 + pa
/-- The key of a physical address of peer module `m`. -/
def peerKey (m pa : Nat) : Nat := (2 + m) * 2 ^ 52 + pa

/-- Bits `lo` to `lo + n - 1` of a number. -/
def bitsOf (v lo n : Nat) : Nat := v / 2 ^ lo % 2 ^ n

end Sys2Proof.Machine
end

