-- ==== Sys2Proof/Machine/Num.lean ====
section
/-! DEFINITION. Exact numbers, rounding to a format, interval values and the crossings between the
formats ("Number formats and rounding", R65 to R88). Everything is computed exactly and narrowed once. -/

namespace Sys2Proof.Machine

/-! ### GSR flag bits (R53) -/

/-- The six sticky events of R53, one bit each, in the positions of GSR[5:0]. -/
abbrev Flags := BitVec 6
def fOVF : Flags := 1#6
def fSAT : Flags := 2#6
def fINV : Flags := 4#6
def fEMPTY : Flags := 8#6
def fUNF : Flags := 16#6
def fACCOV : Flags := 32#6

/-- `f` when the event happened. -/
def flagIf (b : Bool) (f : Flags) : Flags := if b then f else 0#6

/-! ### Exact numbers -/

/-- The exact dyadic number `m * 2^e`. -/
structure Dy where
  m : Int
  e : Int
deriving DecidableEq, Repr

/-- An exact fraction `n / d`; `d` is positive wherever the model builds one. -/
structure Fr where
  n : Int
  d : Nat
deriving DecidableEq, Repr

def dyZero : Dy := ⟨0, 0⟩
def dyOne : Dy := ⟨1, 0⟩
def dyOfInt (n : Int) : Dy := ⟨n, 0⟩

/-- Mantissa of `a` at the exponent `e`, which is at most `a.e`. -/
def dyAt (a : Dy) (e : Int) : Int := a.m * (2 : Int) ^ (a.e - e).toNat

def dyAdd (a b : Dy) : Dy :=
  let e := min a.e b.e
  ⟨dyAt a e + dyAt b e, e⟩
def dyNeg (a : Dy) : Dy := ⟨-a.m, a.e⟩
def dySub (a b : Dy) : Dy := dyAdd a (dyNeg b)
def dyMul (a b : Dy) : Dy := ⟨a.m * b.m, a.e + b.e⟩
def dyShift (a : Dy) (n : Int) : Dy := ⟨a.m, a.e + n⟩
def dyLt (a b : Dy) : Bool :=
  let e := min a.e b.e
  decide (dyAt a e < dyAt b e)
def dyLe (a b : Dy) : Bool := !dyLt b a
def dyAbs (a : Dy) : Dy := ⟨a.m.natAbs, a.e⟩
def dyMin (a b : Dy) : Dy := if dyLt b a then b else a
def dyMax (a b : Dy) : Dy := if dyLt a b then b else a

/-- The fraction of a dyadic number. -/
def frOfDy (a : Dy) : Fr :=
  if a.e < 0 then ⟨a.m, 2 ^ (-a.e).toNat⟩ else ⟨a.m * (2 : Int) ^ a.e.toNat, 1⟩
def frNeg (a : Fr) : Fr := ⟨-a.n, a.d⟩
def frLt (a b : Fr) : Bool := decide (a.n * b.d < b.n * a.d)
def frMin (a b : Fr) : Fr := if frLt b a then b else a
def frMax (a b : Fr) : Fr := if frLt a b then b else a
/-- `a / b` for `b` not zero. -/
def frDivDy (a b : Dy) : Fr :=
  let e := min a.e b.e
  let n := dyAt a e
  let d := dyAt b e
  if d < 0 then ⟨-n, d.natAbs⟩ else ⟨n, d.natAbs⟩

/-- `floor (log2 (n / d))` for positive `n` and `d`. -/
def floorLog2 (n d : Nat) : Int :=
  let k : Int := (Nat.log2 n : Int) - (Nat.log2 d : Int)
  -- is n / d at least 2^k?
  let ge := if k < 0 then decide (d ≤ n * 2 ^ (-k).toNat) else decide (d * 2 ^ k.toNat ≤ n)
  if ge then k else k - 1

/-! ### Formats -/

/-- A binary floating-point format: fraction bits, exponent of the smallest subnormal, the code of the
largest finite magnitude and the position of the sign bit (R65, R69, R75). -/
structure Fmt where
  mbits : Nat
  umin : Int
  maxCode : Nat
  sign : Nat
deriving DecidableEq, Repr

def fmtF32 : Fmt := ⟨23, -149, 0x7F7FFFFF, 31⟩
def fmtF64 : Fmt := ⟨52, -1074, 0x7FEFFFFFFFFFFFFF, 63⟩
def fmtBF16 : Fmt := ⟨7, -133, 0x7F7F, 15⟩
def fmtFP16 : Fmt := ⟨10, -24, 0x7BFF, 15⟩
def fmtE4M3 : Fmt := ⟨3, -9, 0x7E, 7⟩
def fmtE5M2 : Fmt := ⟨2, -16, 0x7B, 7⟩
def fmtE2M1 : Fmt := ⟨1, -1, 0x7, 3⟩

/-- The exact magnitude a code (without its sign bit) stands for in a format. -/
def fmtMag (f : Fmt) (code : Nat) : Dy :=
  let ex := code / 2 ^ f.mbits
  let fr := code % 2 ^ f.mbits
  if ex = 0 then ⟨fr, f.umin⟩ else ⟨(2 ^ f.mbits + fr : Nat), f.umin + (ex : Int) - 1⟩

/-- A positive fraction on a format's grid: the code next below (or equal), whether it is inexact, and
the exact remainder as a fraction of the step to the next code. The grid continues above the largest
finite magnitude. -/
structure Grid where
  code : Nat
  inexact : Bool
  remN : Nat
  remD : Nat
deriving DecidableEq, Repr

def gridOf (f : Fmt) (n d : Nat) : Grid :=
  if n = 0 then ⟨0, false, 0, 1⟩ else
  let u := max (floorLog2 n d - f.mbits) f.umin
  -- n / (d * 2^u)
  let num := if u < 0 then n * 2 ^ (-u).toNat else n
  let den := if u < 0 then d else d * 2 ^ u.toNat
  let q := num / den
  let r := num % den
  ⟨(u - f.umin).toNat * 2 ^ f.mbits + q, r ≠ 0, r, den⟩

/-- The rounding directions of R79. -/
inductive Dir where
  | nearest | zero | down | up
deriving DecidableEq, Repr

/-- The code of a magnitude rounded on the format's grid; `away` and `toward` are relative to zero. -/
def gridRound (f : Fmt) (dir : Dir) (neg : Bool) (n d : Nat) : Nat :=
  let g := gridOf f n d
  let up : Bool := match dir with
    | .zero => false
    | .down => neg
    | .up => !neg
    | .nearest => decide (g.remD < 2 * g.remN) || (decide (g.remD = 2 * g.remN) && g.code % 2 == 1)
  if g.inexact && up then g.code + 1 else g.code

/-! ### Bounds -/

/-- An extended real bound of an interval. -/
inductive Bd where
  | ninf
  | fin (d : Dy)
  | pinf
deriving DecidableEq, Repr

def bdNeg : Bd → Bd
  | .ninf => .pinf
  | .fin d => .fin (dyNeg d)
  | .pinf => .ninf
def bdLt : Bd → Bd → Bool
  | .ninf, .ninf => false
  | .ninf, _ => true
  | .fin _, .ninf => false
  | .fin a, .fin b => dyLt a b
  | .fin _, .pinf => true
  | .pinf, _ => false
def bdLe (a b : Bd) : Bool := !bdLt b a
def bdMin (a b : Bd) : Bd := if bdLt b a then b else a
def bdMax (a b : Bd) : Bd := if bdLt a b then b else a
def bdZero : Bd := .fin dyZero
def bdIsZero : Bd → Bool
  | .fin d => d.m == 0
  | _ => false
def bdFinite : Bd → Bool
  | .fin _ => true
  | _ => false
/-- The sum of two bounds of one side: an infinite term wins (R209). -/
def bdAdd : Bd → Bd → Bd
  | .fin a, .fin b => .fin (dyAdd a b)
  | .fin _, b => b
  | a, _ => a
/-- The product, a zero times an infinity counting as zero (R210). -/
def bdMul : Bd → Bd → Bd
  | .fin a, .fin b => .fin (dyMul a b)
  | .fin a, b => if a.m = 0 then bdZero else if a.m < 0 then bdNeg b else b
  | a, .fin b => if b.m = 0 then bdZero else if b.m < 0 then bdNeg a else a
  | .ninf, .ninf => .pinf
  | .pinf, .pinf => .pinf
  | .ninf, .pinf => .ninf
  | .pinf, .ninf => .ninf
def bdAbs (a : Bd) : Bd := if bdLt a bdZero then bdNeg a else a

/-- A set of reals as an interval: empty, or two bounds (R65, R66). -/
inductive Itv where
  | empty
  | mk (lo hi : Bd)
deriving DecidableEq, Repr

def itvEntire : Itv := .mk .ninf .pinf
def itvZero : Itv := .mk bdZero bdZero
def itvPoint (d : Dy) : Itv := .mk (.fin d) (.fin d)
def itvIsEmpty : Itv → Bool
  | .empty => true
  | _ => false

/-! ### Bit images of bounds -/

/-- The bits of a finite magnitude with its sign; a zero carries no sign (R65). -/
def signBits (f : Fmt) (neg : Bool) (code : Nat) : Nat :=
  if neg && code != 0 then code + 2 ^ f.sign else code

/-- The code of an infinity in a format that has one: one above the largest finite. -/
def infCode (f : Fmt) : Nat := f.maxCode + 1

/-- Round an exact fraction down or up to bits of the format; the flag says that a finite value became
an infinity (R68). -/
def roundFr (f : Fmt) (dir : Dir) (x : Fr) : Nat × Bool :=
  let neg := decide (x.n < 0)
  let code := gridRound f dir neg x.n.natAbs x.d
  if f.maxCode < code then
    -- beyond the largest finite magnitude: away from zero it is an infinity, toward zero the largest finite
    match dir, neg with
    | .down, true => (infCode f + 2 ^ f.sign, true)
    | .up, false => (infCode f, true)
    | _, _ => (signBits f neg f.maxCode, false)
  else (signBits f neg code, false)

/-- Round a bound outward to bits, with the overflow event. -/
def bdBits (f : Fmt) (dir : Dir) : Bd → Nat × Bool
  | .ninf => (infCode f + 2 ^ f.sign, false)
  | .pinf => (infCode f, false)
  | .fin d => roundFr f dir (frOfDy d)

/-- A format's bits read as a bound; none is a NaN. Formats whose largest finite code is the largest code
(E2M1) have no infinity, and E4M3 has a NaN in place of one. -/
def bitsBd (f : Fmt) (b : Nat) : Option Bd :=
  let neg := b / 2 ^ f.sign % 2 == 1
  let code := b % 2 ^ f.sign
  if code ≤ f.maxCode then
    let m := fmtMag f code
    some (.fin (if neg then dyNeg m else m))
  else if code = infCode f then some (if neg then .ninf else .pinf)
  else none

/-- R67: the interval a bound pair stands for, and whether it had to be canonicalised. -/
def itvOfBits (f : Fmt) (lo hi : Nat) : Itv × Bool :=
  match bitsBd f lo, bitsBd f hi with
  | some l, some h =>
    if l = .pinf && h = .ninf then (.empty, false)
    else if l = .pinf || h = .ninf || bdLt h l then (.empty, true)
    else (.mk l h, false)
  | _, _ => (.empty, true)

/-! ### FP32 intervals in v-registers (R43) -/

def packF32 (lo hi : Nat) : DWord := BitVec.ofNat 64 (lo + hi * 2 ^ 32)
def loBits (v : DWord) : Nat := v.toNat % 2 ^ 32
def hiBits (v : DWord) : Nat := v.toNat / 2 ^ 32
/-- The image of the empty set (R66). -/
def imgEmpty : DWord := 0xFF8000007F800000#64
/-- The image of the whole line (R66). -/
def imgEntire : DWord := 0x7F800000FF800000#64

/-- Read a v-register value as an interval (R67), with INV where it was not canonical. -/
def readF32 (v : DWord) : Itv × Flags :=
  let r := itvOfBits fmtF32 (loBits v) (hiBits v)
  (r.1, flagIf r.2 fINV)

/-- Write an exact interval as an FP32 interval, rounding outward (R68). -/
def writeF32 : Itv → DWord × Flags
  | .empty => (imgEmpty, 0#6)
  | .mk l h =>
    let a := bdBits fmtF32 .down l
    let b := bdBits fmtF32 .up h
    (packF32 a.1 b.1, flagIf (a.2 || b.2) fOVF)

/-- Write an interval of fractions, rounding outward. -/
def writeFr (l h : Fr) : DWord × Flags :=
  let a := roundFr fmtF32 .down l
  let b := roundFr fmtF32 .up h
  (packF32 a.1 b.1, flagIf (a.2 || b.2) fOVF)

/-- The FP32 interval rounded outward, read back as exact bounds. -/
def roundItv (i : Itv) : Itv × Flags :=
  let w := writeF32 i
  ((readF32 w.1).1, w.2)

/-! ### The interval operations (R85, R208 to R213) -/

/-- The exact sum; with one rounding it is R85's outward addition. -/
def itvAdd : Itv → Itv → Itv
  | .mk a b, .mk c d => .mk (bdAdd a c) (bdAdd b d)
  | _, _ => .empty
def itvNeg : Itv → Itv
  | .mk a b => .mk (bdNeg b) (bdNeg a)
  | .empty => .empty
def itvSub (x y : Itv) : Itv := itvAdd x (itvNeg y)
/-- Least and greatest of the four corner products (R210). -/
def itvMul : Itv → Itv → Itv
  | .mk a b, .mk c d =>
    let p := bdMul a c
    let q := bdMul a d
    let r := bdMul b c
    let t := bdMul b d
    .mk (bdMin (bdMin p q) (bdMin r t)) (bdMax (bdMax p q) (bdMax r t))
  | _, _ => .empty
def itvAbs : Itv → Itv
  | .empty => .empty
  | .mk a b =>
    if bdLe bdZero a then .mk a b
    else if bdLe b bdZero then .mk (bdNeg b) (bdNeg a)
    else .mk bdZero (bdMax (bdNeg a) b)
def itvMin : Itv → Itv → Itv
  | .mk a b, .mk c d => .mk (bdMin a c) (bdMin b d)
  | _, _ => .empty
def itvMax : Itv → Itv → Itv
  | .mk a b, .mk c d => .mk (bdMax a c) (bdMax b d)
  | _, _ => .empty
/-- The set of squares (R213). -/
def itvSqr : Itv → Itv
  | .empty => .empty
  | .mk a b =>
    let p := bdMul a a
    let q := bdMul b b
    if bdLe a bdZero && bdLe bdZero b then .mk bdZero (bdMax p q) else .mk (bdMin p q) (bdMax p q)
/-- A times 2^n, infinite and zero bounds staying as they are (R213). -/
def itvScale (n : Int) : Itv → Itv
  | .empty => .empty
  | .mk a b =>
    let f : Bd → Bd := fun x => match x with
      | .fin d => if d.m = 0 then bdZero else .fin (dyShift d n)
      | y => y
    .mk (f a) (f b)
def itvHull : Itv → Itv → Itv
  | .empty, y => y
  | x, .empty => x
  | .mk a b, .mk c d => .mk (bdMin a c) (bdMax b d)
/-- The intersection; empty where the bounds cross. -/
def itvIsect : Itv → Itv → Itv
  | .mk a b, .mk c d =>
    let l := bdMax a c
    let h := bdMin b d
    if bdLt h l then .empty else .mk l h
  | _, _ => .empty

/-- The corner quotients of R211's last row, as images rounded outward: the least and the greatest,
leaving out quotients of two infinite bounds, with a finite over an infinite bound counting as 0. -/
def quot : Bd → Bd → Option (Fr ⊕ Bd)
  | .fin a, .fin b => some (.inl (frDivDy a b))
  | .fin _, _ => some (.inl ⟨0, 1⟩)
  | .ninf, .fin b => some (.inr (if b.m < 0 then .pinf else .ninf))
  | .pinf, .fin b => some (.inr (if b.m < 0 then .ninf else .pinf))
  | _, _ => none

def qLt : Fr ⊕ Bd → Fr ⊕ Bd → Bool
  | .inl a, .inl b => frLt a b
  | .inl _, .inr b => b == .pinf
  | .inr a, .inl _ => a == .ninf
  | .inr a, .inr b => bdLt a b
def qMin (l : List (Fr ⊕ Bd)) : Fr ⊕ Bd :=
  match l with
  | [] => .inl ⟨0, 1⟩
  | x :: xs => xs.foldl (fun m y => if qLt y m then y else m) x
def qMax (l : List (Fr ⊕ Bd)) : Fr ⊕ Bd :=
  match l with
  | [] => .inl ⟨0, 1⟩
  | x :: xs => xs.foldl (fun m y => if qLt m y then y else m) x
def qBits (dir : Dir) : Fr ⊕ Bd → Nat × Bool
  | .inl x => roundFr fmtF32 dir x
  | .inr b => bdBits fmtF32 dir b

def writeQ (l h : Fr ⊕ Bd) : DWord × Flags :=
  let a := qBits .down l
  let b := qBits .up h
  (packF32 a.1 b.1, flagIf (a.2 || b.2) fOVF)

/-- R211: the first row that applies. -/
def itvDiv : Itv → Itv → DWord × Flags
  | .mk a b, .mk c d =>
    let q1 (x y : Bd) : Fr ⊕ Bd := (quot x y).getD (.inl ⟨0, 1⟩)
    if bdIsZero c && bdIsZero d then (imgEmpty, fEMPTY)
    else if bdLe a bdZero && bdLe bdZero b && bdLe c bdZero && bdLe bdZero d then (imgEntire, 0#6)
    else if bdLt c bdZero && bdLt bdZero d then (imgEntire, 0#6)
    else if bdIsZero c && bdLt b bdZero then writeQ (.inr .ninf) (q1 b d)
    else if bdIsZero c then writeQ (q1 a d) (.inr .pinf)
    else if bdIsZero d && bdLt b bdZero then writeQ (q1 b c) (.inr .pinf)
    else if bdIsZero d then writeQ (.inr .ninf) (q1 a c)
    else
      let l := [quot a c, quot a d, quot b c, quot b d].filterMap id
      writeQ (qMin l) (qMax l)
  | _, _ => (imgEmpty, 0#6)

/-- Integer square root, bit by bit from `2^k` down. -/
def isqrtLoop (n : Nat) : Nat → Nat → Nat
  | 0, r => if (r + 1) * (r + 1) ≤ n then r + 1 else r
  | k + 1, r =>
    let t := r + 2 ^ (k + 1)
    isqrtLoop n k (if t * t ≤ n then t else r)
def isqrt (n : Nat) : Nat := isqrtLoop n (Nat.log2 n / 2) 0

/-- Dyadic bounds of the root of a non-negative dyadic number: below by less than 2^-30 of it, and above. -/
def sqrtDy (x : Dy) : Dy × Dy :=
  if x.m ≤ 0 then (dyZero, dyZero) else
  let pad := 80 - Nat.log2 x.m.natAbs
  let k := if (x.e - pad) % 2 = 0 then pad else pad + 1
  let n := x.m.natAbs * 2 ^ k
  let r := isqrt n
  let t := (x.e - k) / 2
  (⟨r, t⟩, ⟨if r * r = n then r else r + 1, t⟩)

/-- R213 VSQRT. -/
def itvSqrt : Itv → DWord × Flags
  | .empty => (imgEmpty, 0#6)
  | .mk a b =>
    if bdLt b bdZero then (imgEmpty, fEMPTY) else
    let lo : Bd := match bdMax a bdZero with
      | .fin d => .fin (sqrtDy d).1
      | y => y
    let hi : Bd := match b with
      | .fin d => .fin (sqrtDy d).2
      | y => y
    writeF32 (.mk lo hi)

/-! ### Midpoints (R70) -/

def maxF32 : Dy := fmtMag fmtF32 fmtF32.maxCode
/-- R70; none for the empty set. -/
def itvMid : Itv → Option Dy
  | .empty => none
  | .mk (.fin a) (.fin b) => some (dyShift (dyAdd a b) (-1))
  | .mk (.fin _) _ => some maxF32
  | .mk _ (.fin _) => some (dyNeg maxF32)
  | .mk _ _ => some dyZero

/-- A finite dyadic number rounded to nearest FP32, ties to even; beyond the range an infinity. -/
def nearestF32 (x : Dy) : Bd :=
  let neg := decide (x.m < 0)
  let f := frOfDy x
  let code := gridRound fmtF32 .nearest neg f.n.natAbs f.d
  if fmtF32.maxCode < code then (if neg then .ninf else .pinf)
  else .fin (if neg then dyNeg (fmtMag fmtF32 code) else fmtMag fmtF32 code)

/-- R215: the two halves of a non-empty interval meet at the midpoint rounded to nearest FP32. -/
def itvHalves : Itv → Itv × Itv
  | .empty => (.empty, .empty)
  | .mk a b =>
    let p0 := match itvMid (.mk a b) with
      | some m => nearestF32 m
      | none => bdZero
    let p1 := if bdFinite a then bdMax p0 a else p0
    let p := if bdFinite b then bdMin p1 b else p1
    (.mk a p, .mk p b)

/-! ### Compressed intervals (R71 to R74) -/

/-- The radius of a code other than 0xFF, in units of `u` (R72). -/
def mrcRadius (rc : Nat) : Nat :=
  if rc / 32 = 0 then rc % 32 else (32 + rc % 32) * 2 ^ (rc / 32 - 1)

/-- The exponent of the unit `u` (R71). -/
def mrcUnit (ex : Nat) : Int := if ex = 0 then -141 else (ex : Int) - 142

/-- R73. -/
def mrcDecode (w : Nat) : DWord × Flags :=
  let rc := w % 256
  let ex := w / 2 ^ 23 % 256
  if rc = 0xFF then (imgEntire, 0#6)
  else if ex = 255 then (imgEmpty, flagIf (rc != 0xFE) fINV)
  else
    let m := (bitsBd fmtF32 (w / 256 * 256)).getD bdZero
    let r : Bd := .fin ⟨mrcRadius rc, mrcUnit ex⟩
    writeF32 (.mk (bdAdd m (bdNeg r)) (bdAdd m r))

/-- The first radius code whose radius is at least `r` units (as an exact number), if a finite one is. -/
def mrcCode (r : Dy) (u : Int) : Option Nat :=
  (List.range 255).find? fun rc => dyLe r ⟨mrcRadius rc, u⟩

/-- R74 of an interval. A midpoint that rounds to zero from below has S = 0: DESIGN CHOICE, unsafe: log entry 89. -/
def mrcEncode : Itv → Nat
  | .empty => 0x7F8000FE
  | .mk (.fin a) (.fin b) =>
    let mid := dyShift (dyAdd a b) (-1)
    -- nearest value with zero low eight fraction bits, ties to even in bit 8: a 15-bit fraction grid
    let g : Fmt := ⟨15, -141, 0x7F7FFF, 23⟩
    let neg := decide (mid.m < 0)
    let f := frOfDy mid
    let code := gridRound g .nearest neg f.n.natAbs f.d
    if g.maxCode < code then 0x7F8000FF else
    let m' := fmtMag g code
    let m := if neg then dyNeg m' else m'
    let r := dyMax (dySub m a) (dySub b m)
    match mrcCode r (mrcUnit (code / 2 ^ 15)) with
    | some rc => signBits ⟨23, 0, 0, 31⟩ neg (code * 256) + rc
    | none => 0x7F8000FF
  | .mk _ _ => 0x7F8000FF

/-! ### Point formats (R75 to R78) -/

/-- The format codes of R222 and R310. -/
inductive PFmt where
  | bf16 | fp16 | e4m3 | e5m2 | e2m1 | i8 | i4 | u8 | e8m0
deriving DecidableEq, Repr

/-- R222's codes. -/
def pfmtOf (n : Nat) : Option PFmt :=
  match n with
  | 0 => some .bf16
  | 1 => some .fp16
  | 2 => some .e4m3
  | 3 => some .e5m2
  | 4 => some .e2m1
  | 5 => some .i8
  | 6 => some .i4
  | 7 => some .u8
  | 8 => some .e8m0
  | _ => none

/-- Element width in bits (R222). -/
def pfmtBits : PFmt → Nat
  | .bf16 | .fp16 => 16
  | .e4m3 | .e5m2 | .i8 | .u8 | .e8m0 => 8
  | .e2m1 | .i4 => 4

/-- The floating-point layout of a narrow format, where it is one. -/
def pfmtFloat : PFmt → Option Fmt
  | .bf16 => some fmtBF16
  | .fp16 => some fmtFP16
  | .e4m3 => some fmtE4M3
  | .e5m2 => some fmtE5M2
  | .e2m1 => some fmtE2M1
  | _ => none

/-- A two's-complement reading of `w` bits. -/
def sInt (w n : Nat) : Int := if 2 ^ (w - 1) ≤ n then (n : Int) - 2 ^ w else n

/-- R78 (and R76 for E8M0): the exact interval of an element's bits; `none` is a NaN. -/
def pointItv (p : PFmt) (b : Nat) : Option Itv :=
  match p with
  | .i8 => some (itvPoint (dyOfInt (sInt 8 b)))
  | .i4 => some (itvPoint (dyOfInt (sInt 4 b)))
  | .u8 => some (itvPoint (dyOfInt b))
  | .e8m0 => if b = 0xFF then none else some (itvPoint ⟨1, (b : Int) - 127⟩)
  | .e4m3 =>
    -- no infinity: the code above the largest finite is the NaN (R75)
    if b % 128 = 0x7F then none
    else (bitsBd fmtE4M3 b).map fun x => .mk x x
  | .bf16 | .fp16 | .e5m2 | .e2m1 =>
    let f := (pfmtFloat p).getD fmtE2M1
    match bitsBd f b with
    | none => none
    | some .pinf => some (.mk (.fin (fmtMag f f.maxCode)) .pinf)
    | some .ninf => some (.mk .ninf (.fin (dyNeg (fmtMag f f.maxCode))))
    | some x => some (.mk x x)

/-- The image and flags of a decoded element: a NaN gives the empty set and INV. -/
def pointF32 (p : PFmt) (b : Nat) : DWord × Flags :=
  match pointItv p b with
  | some i => writeF32 i
  | none => (imgEmpty, fINV)

/-- R95: an s-register read as an FP32 point. -/
def scalarF32 (w : Word) : Itv × Flags :=
  match bitsBd fmtF32 w.toNat with
  | none => (.empty, fINV)
  | some .pinf => (.mk (.fin maxF32) .pinf, 0#6)
  | some .ninf => (.mk .ninf (.fin (dyNeg maxF32)), 0#6)
  | some x => (.mk x x, 0#6)

/-! ### Interval to point (R79 to R82) -/

/-- The rounding modes of R79. -/
inductive Rnd where
  | ne | tz | dn | up | st
deriving DecidableEq, Repr

/-- R79's codes; 101 to 111 are reserved. -/
def rndOf (n : Nat) : Option Rnd :=
  match n with
  | 0 => some .ne
  | 1 => some .tz
  | 2 => some .dn
  | 3 => some .up
  | 4 => some .st
  | _ => none

/-- The value that a mode rounds (R79); none for the empty set. -/
def rndValue (r : Rnd) (i : Itv) : Option Bd :=
  match i, r with
  | .empty, _ => none
  | .mk l _, .dn => some l
  | .mk _ h, .up => some h
  | x, _ => (itvMid x).map .fin

def rndDir : Rnd → Dir
  | .ne => .nearest
  | .tz => .zero
  | .dn => .down
  | .up => .up
  | .st => .zero

/-- The magnitude code of a stochastic rounding with the draw `R` (R80). DEDUCED, unsafe: log entry 45. -/
def stochCode (g : Grid) (draw : Word) : Nat :=
  let F := g.remN * 2 ^ 32 / g.remD
  if draw.toNat < F then g.code + 1 else g.code

/-- The result of a conversion: the element's bits, the flags, and whether it underflowed (R81). -/
structure Point where
  bits : Nat
  flags : Flags
  underflow : Bool
deriving DecidableEq, Repr

/-- The NaN a format writes (R75); E2M1 and the integer formats have none. -/
def nanBits : PFmt → Option Nat
  | .bf16 => some 0x7FC0
  | .fp16 => some 0x7E00
  | .e4m3 => some 0x7F
  | .e5m2 => some 0x7F
  | _ => none

/-- Round a bound to a narrow floating-point format. -/
def bdToFloat (f : Fmt) (r : Rnd) (draw : Word) (x : Bd) : Point :=
  match x with
  | .ninf => ⟨signBits f true f.maxCode, fSAT, false⟩
  | .pinf => ⟨f.maxCode, fSAT, false⟩
  | .fin d =>
    let neg := decide (d.m < 0)
    let q := frOfDy d
    let g := gridOf f q.n.natAbs q.d
    let under := d.m != 0 && g.code == 0
    let code := if under || r == .st then stochCode g draw else gridRound f (rndDir r) neg q.n.natAbs q.d
    let sat := decide (f.maxCode < code)
    let c := if sat then f.maxCode else code
    -- an underflow to zero carries the value's sign (R81)
    let bits := if neg then c + 2 ^ f.sign else c
    ⟨if d.m = 0 then 0 else bits, flagIf sat fSAT ||| flagIf under fUNF, under⟩

/-- Round a bound to an integer in [lo, hi] (R77, R82, R224). -/
def bdToInt (lo hi : Int) (r : Rnd) (draw : Word) (x : Bd) : Int × Flags :=
  match x with
  | .ninf => (lo, fSAT)
  | .pinf => (hi, fSAT)
  | .fin d =>
    let neg := decide (d.m < 0)
    let q := frOfDy d
    let n := q.n.natAbs
    let k := n / q.d
    let rm := n % q.d
    let up : Bool := match r with
      | .tz => false
      | .dn => neg
      | .up => !neg
      | .ne => decide (q.d < 2 * rm) || (decide (q.d = 2 * rm) && k % 2 == 1)
      | .st => decide (draw.toNat < rm * 2 ^ 32 / q.d)
    let mag := if rm != 0 && up then k + 1 else k
    let v : Int := if neg then -(mag : Int) else mag
    if v < lo then (lo, fSAT) else if hi < v then (hi, fSAT) else (v, 0#6)

/-- The range of an integer format. -/
def intRange : PFmt → Option (Int × Int)
  | .i8 => some (-128, 127)
  | .i4 => some (-8, 7)
  | .u8 => some (0, 255)
  | _ => none

/-- R79 to R82, R225: an interval converted to one element of a narrow format. -/
def toPoint (p : PFmt) (r : Rnd) (draw : Word) (i : Itv) : Point :=
  match rndValue r i with
  | none => match nanBits p with
    | some n => ⟨n, 0#6, false⟩
    | none => ⟨0, fINV, false⟩
  | some x => match pfmtFloat p, intRange p with
    | some f, _ => bdToFloat f r draw x
    | none, some (lo, hi) =>
      let y := bdToInt lo hi r draw x
      ⟨(y.1 % (2 : Int) ^ pfmtBits p).toNat, y.2, false⟩
    | none, none => ⟨0, 0#6, false⟩

/-! ### Trees and folds (R85, R86) -/

/-- One level of the pairwise tree, with an outward addition that also accumulates flags. -/
def treeLevel {α : Type} (f : α → α → α) : List α → List α
  | a :: b :: rest => f a b :: treeLevel f rest
  | l => l

/-- R85: the pairwise tree over 2^k operands. -/
def treeFold {α : Type} (f : α → α → α) (z : α) : Nat → List α → α
  | 0, l => l.headD z
  | k + 1, l => treeFold f z k (treeLevel f l)

/-- Outward addition of two flagged FP32 intervals (R85). -/
def oplus (x y : Itv × Flags) : Itv × Flags :=
  let r := roundItv (itvAdd x.1 y.1)
  (r.1, x.2 ||| y.2 ||| r.2)

/-- The pairwise tree over 64 or 32 flagged intervals. -/
def oplusTree (k : Nat) (l : List (Itv × Flags)) : Itv × Flags := treeFold oplus (itvZero, 0#6) k l

end Sys2Proof.Machine
end

