-- ==== Sys2Proof/Machine/Ops.lean ====
section
/-! DEFINITION. The named operations over groups, paths, teams and registers; how a word starts (R103), how it
completes, and how a trap is taken and left (R380 to R383). -/

namespace Sys2Proof.Machine

abbrev Out := Host.Outcome State Fault Refusal

/-! ### Records by key -/

def State.group (s : State) (gid : Nat) : Option Group := s.groups.find? fun g => g.gid == gid
def State.team (s : State) (uid : Nat) : Option Team := s.teams.find? fun t => t.uid == uid
/-- The state with the record of the same key replaced. -/
def State.putGroup (s : State) (g : Group) : State :=
  { s with groups := s.groups.map fun h => if h.gid = g.gid then g else h }
def State.putTeam (s : State) (t : Team) : State :=
  { s with teams := s.teams.map fun u => if u.uid = t.uid then t else u }
/-- A core number as an index. -/
def coreIx (k : Nat) : Fin 768 := Fin.ofNat 768 k
def State.core (s : State) (k : Nat) : Core := s.cores.get (coreIx k)
def State.putCore (s : State) (k : Nat) (c : Core) : State := { s with cores := s.cores.set (coreIx k) c }
def partIx (p : Nat) : Fin 8 := Fin.ofNat 8 p
def State.part (s : State) (p : Nat) : Partition := s.parts.get (partIx p)
def State.putPart (s : State) (p : Nat) (q : Partition) : State := { s with parts := s.parts.set (partIx p) q }
def Group.path (g : Group) (pid : Nat) : Option Path := g.paths.find? fun p => p.pid == pid
def Group.putPath (g : Group) (p : Path) : Group :=
  { g with paths := g.paths.map fun q => if q.pid = p.pid then p else q }
/-- A path of the group changed. -/
def Group.updatePath (g : Group) (pid : Nat) (f : Path → Path) : Group :=
  { g with paths := g.paths.map fun q => if q.pid = pid then f q else q }
/-- The live groups of a team. -/
def State.groupsOf (s : State) (uid : Nat) : List Group := s.groups.filter fun g => g.team == uid
/-- Change every group of a team. -/
def State.mapGroups (s : State) (uid : Nat) (f : Group → Group) : State :=
  { s with groups := s.groups.map fun g => if g.team = uid then f g else g }

/-- Where a core stands (R7): its die, partition, quad and number in its cluster. -/
def dieOf (core : Nat) : Nat := core / 192
def partOf (core : Nat) : Nat := core / 96
def quadOf (core : Nat) : Nat := core / 4

/-! ### Claims (R16) -/

def claimOf (w : Nat) : Claim := ⟨bitsOf w 0 5, bitsOf w 5 7, bitsOf w 12 4, bitsOf w 16 9⟩
def Claim.word (c : Claim) : Word := BitVec.ofNat 32 (c.reg + 2 ^ 5 * c.scr + 2 ^ 12 * c.acc + 2 ^ 16 * c.bar)
def Claim.add (a b : Claim) : Claim := ⟨a.reg + b.reg, a.scr + b.scr, a.acc + b.acc, a.bar + b.bar⟩
def Claim.sub (a b : Claim) : Claim := ⟨a.reg - b.reg, a.scr - b.scr, a.acc - b.acc, a.bar - b.bar⟩
def Claim.le (a b : Claim) : Bool := decide (a.reg ≤ b.reg ∧ a.scr ≤ b.scr ∧ a.acc ≤ b.acc ∧ a.bar ≤ b.bar)

/-! ### Registers (R41 to R45) -/

def Group.getX (g : Group) (r : Reg) (l : Lane) : Word := if r = 0#6 then 0#32 else (g.x.get r.toFin).get l
def Group.getV (g : Group) (r : Reg) (l : Lane) : DWord := (g.v.get r.toFin).get l
def Group.getS (g : Group) (r : Reg) : Word := if r = 0#6 then 0#32 else g.s.get r.toFin
def qIx (r : Reg) : Fin 8 := Fin.ofNat 8 r.toNat
def hIx (r : Reg) : Fin 16 := Fin.ofNat 16 r.toNat
/-- A q-register as an instruction reads it: 11 is U (R44). -/
def Group.getQ (g : Group) (r : Reg) (l : Lane) : BitVec 2 :=
  let a := (g.q.get (qIx r)).get l
  if a = 3#2 then 2#2 else a
def Group.getM (g : Group) (r : Reg) : Mask := if qIx r = 0 then 0xFFFFFFFF#32 else g.m.get (qIx r)
def Group.getH (g : Group) (r : Reg) : Word := g.h.get (hIx r)
def Group.getN (g : Group) (r : Reg) : Bool := g.n.get (hIx r)

/-- Write a lane register in the lanes of a mask; x0 discards (R42). -/
def Group.setX (g : Group) (r : Reg) (on : Mask) (f : Lane → Word) : Group :=
  if r = 0#6 then g else
  { g with x := g.x.set r.toFin (Tab.ofFn fun l => if laneOn on l then f l else (g.x.get r.toFin).get l) }
def Group.setV (g : Group) (r : Reg) (on : Mask) (f : Lane → DWord) : Group :=
  { g with v := g.v.set r.toFin (Tab.ofFn fun l => if laneOn on l then f l else (g.v.get r.toFin).get l) }
def Group.setQ (g : Group) (r : Reg) (on : Mask) (f : Lane → BitVec 2) : Group :=
  { g with q := g.q.set (qIx r) (Tab.ofFn fun l => if laneOn on l then f l else (g.q.get (qIx r)).get l) }
def Group.setS (g : Group) (r : Reg) (w : Word) : Group :=
  if r = 0#6 then g else { g with s := g.s.set r.toFin w }
def Group.setM (g : Group) (r : Reg) (w : Mask) : Group :=
  if qIx r = 0 then g else { g with m := g.m.set (qIx r) w }
def Group.setH (g : Group) (r : Reg) (w : Word) : Group := { g with h := g.h.set (hIx r) w }
def Group.setN (g : Group) (r : Reg) (b : Bool) : Group := { g with n := g.n.set (hIx r) b }
def Group.setLin (g : Group) (on : Mask) (f : Lane → DWord) : Group :=
  { g with lin := Tab.ofFn fun l => if laneOn on l then f l else g.lin.get l }
/-- Set sticky flags (R53). -/
def Group.flag (g : Group) (f : Flags) : Group := { g with gsr := g.gsr ||| f.setWidth 32 }

/-! ### The register window (R48, R49) -/

/-- R48: the granule of an x-register (`false`) or v-register (`true`). -/
def granuleOf (isV : Bool) (r : Nat) : Nat := if isV then 3 * (r / 8) + 1 + (r % 8) / 4 else 3 * (r / 8)
def inWindow (t : Team) (isV : Bool) (r : Nat) : Bool :=
  (!isV && r == 0) || decide (granuleOf isV r < t.hold.reg)

/-! ### The path in hand -/

/-- s-register `i` at team start: the launch's parameter slots, low word first (R18). -/
def Launch.paramOf (l : Launch) (i : Nat) : Word :=
  if i = 0 then 0#32 else
  match l.params[(i - 1) / 2]? with
  | some d => if i % 2 = 1 then d.setWidth 32 else (d >>> 32).setWidth 32
  | none => 0#32

/-- The records that a word's step acts on. -/
structure Ctx where
  g : Group
  p : Path
  t : Team
  cur : Cur

def State.ctx (s : State) : Option Ctx :=
  match s.cur with
  | none => none
  | some c =>
    match s.group c.gid with
    | none => none
    | some g =>
      match g.path c.pid, s.team g.team with
      | some p, some t => some ⟨g, p, t, c⟩
      | _, _ => none

/-- The partition a word's accesses are translated in. -/
def Ctx.part (c : Ctx) : Nat := partOf c.t.core

/-- Run on the path in hand. DESIGN CHOICE, safe: log entry 68. -/
def withCtx (s : State) (k : Ctx → Out) : Out :=
  match s.ctx with
  | none => .fault .noPath
  | some c => k c

/-- The mask a latched prefix leaves (R98). -/
def Ctx.pmask (c : Ctx) : Mask :=
  match c.p.pfx with
  | none => 0xFFFFFFFF#32
  | some l => c.g.getM (l.form.m.setWidth 6)
/-- The active lanes (R98). -/
def Ctx.active (c : Ctx) : Mask := c.p.em &&& c.pmask
/-- The lanes that Z = 1 writes with zero (R98). -/
def Ctx.zeroed (c : Ctx) : Mask :=
  match c.p.pfx with
  | some l => if l.form.z then c.p.em &&& ~~~c.pmask else 0#32
  | none => 0#32
def Ctx.rnd (c : Ctx) : Rnd :=
  match c.p.pfx with
  | some l => (rndOf l.form.rnd.toNat).getD .ne
  | none => .ne
def Ctx.sel (c : Ctx) : Nat :=
  match c.p.pfx with
  | some l => l.form.sel.toNat
  | none => 0
/-- The fourth operand's register, when F = 1 (R97). -/
def Ctx.fourth (c : Ctx) : Option Reg :=
  match c.p.pfx with
  | some l => if l.form.f then some l.form.fourth else none
  | none => none

/-- A path past its word: at the next word, its prefix and wait spent. -/
def Path.past (p : Path) (next : VAddr) : Path := { p with pc := next, pfx := none, wait := none }

/-- The path at `pc`. -/
def Ctx.pathAt (c : Ctx) (g : Group) (pc : VAddr) : Group :=
  match g.path c.cur.pid with
  | some p => g.putPath (p.past pc)
  | none => g

/-- The word completes: the group as it left it, the path at the next word. -/
def finish (s : State) (c : Ctx) (g : Group) : Out := .next (s.putGroup (c.pathAt g c.cur.next))

/-- The path goes to `target`. -/
def finishAt (s : State) (c : Ctx) (g : Group) (target : VAddr) : Out := .next (s.putGroup (c.pathAt g target))

/-- Is a word that waits so fetched again (R168, R385)? -/
def WaitKind.refetched : WaitKind → Bool
  | .collective | .fault _ => true
  | _ => false

/-- A path in a wait at its word. -/
def Ctx.stand (c : Ctx) (p : Path) (k : WaitKind) (start : Nat) : Path :=
  { p with
    pc := c.cur.ret
    pfx := none
    wait := some ⟨k, false, 0#32, start, if k.refetched then none else some ⟨c.cur.word, c.cur.addr, c.cur.next, p.pfx⟩⟩ }

/-- The path waits at its word; a wait it already stands in keeps its start. -/
def waitAt (s : State) (c : Ctx) (g : Group) (k : WaitKind) : Out :=
  match g.path c.cur.pid with
  | some p =>
    let start := match p.wait with
      | some w => if w.kind = k then w.start else s.now
      | none => s.now
    .next (s.putGroup (g.putPath (c.stand p k start)))
  | none => .next (s.putGroup g)

/-- The wait of the path in hand, when its object has ended it: what it was ended with. -/
def Ctx.ended (c : Ctx) : Option Word :=
  match c.p.wait with
  | some w => if w.ended then some w.data else none
  | none => none

/-! ### Cause codes (R378) -/

def causeIllop : Byte := 0x01#8
def causePriv : Byte := 0x02#8
def causeRegx : Byte := 0x03#8
def causeAlign : Byte := 0x04#8
def causeSprange : Byte := 0x05#8
def causeTfault : Byte := 0x06#8
def causePfault : Byte := 0x07#8
def causeMemerr : Byte := 0x08#8
def causeIdivz : Byte := 0x09#8
def causeClaimx : Byte := 0x0A#8
def causePoolx : Byte := 0x0B#8
def causeDivx : Byte := 0x0C#8
def causeCmdx : Byte := 0x0D#8
def causeSyncx : Byte := 0x0E#8
def causeFlagt : Byte := 0x0F#8
def causeSwtrap : Byte := 0x10#8
def causeBkpt : Byte := 0x11#8

/-- A cause raised by the group as a whole. -/
def groupTrap (cause : Byte) (info : Nat) (fa : DWord := 0#64) : TrapRec := ⟨cause, none, BitVec.ofNat 16 info, fa⟩

/-- The image of TCA (R55). -/
def TrapRec.tca (t : TrapRec) : Word :=
  match t.lane with
  | some l => t.info ++ (0#2 ++ 1#1 ++ BitVec.ofNat 5 l.val) ++ t.cause
  | none => t.info ++ 0#8 ++ t.cause

def isFaultCause (c : Byte) : Bool := c == causeTfault || c == causePfault

/-! ### Vectors -/

/-- Image base plus an offset, as a code address. -/
def codeAt (base : VAddr) (off : Nat) : VAddr := base + BitVec.ofNat 57 off
def kernelVector (t : Team) : VAddr := codeAt t.info.base t.info.trapOff
def stubVector (t : Team) : VAddr := codeAt t.info.base t.info.runtimeOff
def noVector (t : Team) : Bool := t.info.trapOff == 0xFFFFFFFF

end Sys2Proof.Machine
end

