-- ==== Sys2Proof/Machine/Slice.lean ====
section
/-! DEFINITION. The L2 slices: the home of a physical line (R260), the lines that a slice holds and their replacement
(R262, R267, R399), and reading and writing at the home (R263, R267, R274, R278). -/

namespace Sys2Proof.Machine

/-! ### The home of a line (R260) -/

/-- The hash of a physical line; a second-tier address is taken without its space. -/
def homeHash (pa : Nat) : Nat :=
  let l := pa % 2 ^ 52 / 1024
  (l ^^^ (l / 2 ^ 8) ^^^ (l / 2 ^ 16) ^^^ (l / 2 ^ 24) ^^^ (l / 2 ^ 32)) % 256
def homeDie (pa : Nat) : Nat := homeHash pa % 4
def homeSlice (pa : Nat) : Nat := homeHash pa / 4

/-- Where the memory of a line lies: an HBM stack and its line there, or the second-tier port of a die and the line of that
port's share. -/
inductive HomeMemory where
  | stack (k line : Nat)
  | port (die line : Nat)
  /-- The peer module that holds it. -/
  | peer (m : Nat)
deriving DecidableEq, Repr

def homeMemory (pa : Nat) : HomeMemory :=
  let l := pa % 2 ^ 52 / 1024
  if pa < 2 ^ 52 then .stack (2 * (homeHash pa % 4) + homeHash pa / 4 % 2) (l / 8)
  else if pa < 2 * 2 ^ 52 then .port (homeHash pa % 4) (l / 4)
  else .peer (pa / 2 ^ 52 - 2)

/-- A line whose home is a slice of this module. -/
def ownHome (pa : Nat) : Bool := decide (pa < 2 * 2 ^ 52)

/-! ### The lines of a slice (R262) -/

/-- The slice and set of a line, by its number. The set is the line number above the hash, modulo 192: PRESUMED, safe: log
entry 27. -/
def l2SetOf (line : Nat) : Nat × Nat := (homeHash (line * 1024), line / 256 % 192)

/-- The ways of a set that hold lines: 16, or 7 while the die's shadow slot is reserved (R399). -/
def State.l2Ways (s : State) (line : Nat) : Nat :=
  let d := homeDie (line * 1024)
  if (s.part (2 * d)).shadow || (s.part (2 * d + 1)).shadow then 7 else 16

def State.l2Find (s : State) (pa : Nat) : Option L2Line := s.l2.find? fun l => l.line == pa / 1024

/-- A line that holds a retained sector is pinned (R274). A tile fetch reads and consumes its lines within one step, so
its pins are never held between steps: DEDUCED, safe: log entry 69. -/
def State.l2Pinned (s : State) (l : L2Line) : Bool := s.bad.any fun b => b.retained && b.addr / 1024 == l.line

/-- Of some lines, the most recent first: the one of lowest priority, the least recently used among equals. -/
def l2Worst : List L2Line → Option L2Line
  | [] => none
  | l :: rest => match l2Worst rest with
    | some m => if l.evp < m.evp then some l else some m
    | none => some l

/-- Sector `i` of a line consists of one 4-byte value repeated (R267, CMP). -/
def State.sectorUniform (s : State) (a : Nat) : Bool :=
  let w := memBytes s.mem a 4
  (List.range 64).all fun i => memBytes s.mem (a + 4 * i) 4 == w

def L2Line.sectors (l : L2Line) : List Nat := (List.range 4).map fun i => l.line * 1024 + 256 * i
def L2Line.dirtyAt (l : L2Line) (sector : Nat) : Bool := l.dirty.getLsbD (sector / 256 % 4)

/-- A line leaves its slice: its dirty sectors are written to memory, as a state where the page lets them be one (R267). -/
def State.l2Evict (s : State) (l : L2Line) : State :=
  let back := l.sectors.filter l.dirtyAt
  { s with
    l2 := s.l2.filter fun m => m.line != l.line
    zipped := (s.zipped.filter fun a => !back.contains a) ++ (if l.cmp then back.filter s.sectorUniform else []) }

/-- The line of an address brought into its slice, or made the most recent there: it takes the priority of the access; a
line with no room gives way to none where every line of its set is pinned. A peer's line has its home in the peer. -/
def State.l2Reach (s : State) (x : Xlat) (pa : Nat) : State :=
  if !ownHome pa then s else
  match s.l2Find pa with
  | some l => { s with l2 := { l with evp := x.evp, cmp := x.cmp } :: s.l2.filter fun m => m.line != l.line }
  | none =>
    let set := s.l2.filter fun m => l2SetOf m.line == l2SetOf (pa / 1024)
    let put (t : State) : State := { t with l2 := ⟨pa / 1024, x.evp, x.cmp, 0#4, []⟩ :: t.l2 }
    if set.length < s.l2Ways (pa / 1024) then put s else
    match l2Worst (set.filter fun m => !s.l2Pinned m) with
    | some v => put (s.l2Evict v)
    | none => s

/-- The ways that PCONF has reserved are emptied (R399). -/
def State.l2Shrink (s : State) : State :=
  s.l2.foldl (fun t l =>
    let set := t.l2.filter fun m => l2SetOf m.line == l2SetOf l.line
    if set.length ≤ t.l2Ways l.line then t else
    match l2Worst (set.filter fun m => !t.l2Pinned m) with
    | some v => t.l2Evict v
    | none => t) s

/-! ### Reading and writing at the home -/

/-- What a write of `n` bytes at `pa` leaves of a bad sector (R274). DEDUCED, safe: log entry 66. -/
def BadSector.written (b : BadSector) (pa n : Nat) : BadSector :=
  if b.addr < pa + n ∧ pa < b.addr + 256 then
    { b with todo := b.todo &&& BitVec.ofNat 256 (2 ^ (pa - b.addr) - 1 + (2 ^ 256 - 2 ^ min 256 (pa + n - b.addr))) }
  else b

/-- The bytes of a line that memory holds as the home does. -/
def L2Line.through (l : L2Line) (pa n : Nat) : L2Line :=
  { l with under := l.under.filter fun c => decide (c.1 < pa ∨ pa + n ≤ c.1) }

/-- The sectors of a line that `n` bytes at `pa` touch become dirty; memory keeps what it held of them. -/
def L2Line.soil (l : L2Line) (m : Memory) (pa n : Nat) : L2Line :=
  if l.line = pa / 1024 then
    { l with
      dirty := l.dirty ||| BitVec.ofNat 4 (2 ^ ((pa + n - 1) / 256 % 4 + 1) - 2 ^ (pa / 256 % 4))
      under := (((List.range n).map fun i => (pa + i, memGet m (pa + i))).filter fun c => !l.under.any fun d => d.1 == c.1) ++ l.under }
  else l

/-- A byte of a configured partition's region binding table, which only the device writes (R345). -/
def State.inTable (s : State) (a : Nat) : Bool :=
  (List.range 8).any fun p =>
    let q := s.part p
    q.st != .unconfigured && decide (q.rbtPA ≤ a ∧ a < q.rbtPA + 131072)

/-- What a write of bytes at `pa` by any other party leaves there: the read-only bytes of a table keep their values. -/
def State.writable (s : State) (pa : Nat) (bs : List Byte) : List Byte :=
  bs.mapIdx fun i b => if s.inTable (pa + i) then memGet s.mem (pa + i) else b

/-- A write at the home slice: the bytes there, open multicast entries of the sectors (R278), and bad sectors written
whole (R274). -/
def State.putHome (s : State) (pa : Nat) (bs : List Byte) : State :=
  { s with
    mem := memPut s.mem pa bs
    mcasts := s.mcasts.filter fun e => decide (pa + bs.length ≤ e.addr ∨ e.addr + 256 ≤ pa)
    bad := (s.bad.map fun b => b.written pa bs.length).filter fun b => b.todo != 0#256 }

/-- The device's own write, through the home slice to memory and to a copy that the slice holds. -/
def State.writeRaw (s : State) (pa : Nat) (bs : List Byte) : State :=
  { s.putHome pa bs with
    l2 := s.l2.map fun l => l.through pa bs.length
    zipped := s.zipped.filter fun a => decide (pa + bs.length ≤ a ∨ a + 256 ≤ pa) }

/-- A write that goes to memory through the home slice, and to a copy that the slice holds: a write-through,
write-around or uncached one (R267), and one without a translation. DESIGN CHOICE, safe: log entry 70. -/
def State.writePhys (s : State) (pa : Nat) (bs : List Byte) : State := s.writeRaw pa (s.writable pa bs)

/-- A write under a page's attributes (R267): write-back leaves memory as it is until the line is evicted. -/
def State.writeHome (s : State) (x : Xlat) (pa : Nat) (bs : List Byte) : State :=
  let s1 := if x.cl = 2 ∨ x.wp = 2 then s else s.l2Reach x pa
  if x.cl ≠ 2 ∧ x.wp = 0 ∧ (s1.l2Find pa).isSome = true then
    { s1.putHome pa (s1.writable pa bs) with l2 := s1.l2.map fun l => l.soil s1.mem pa bs.length }
  else s1.writePhys pa bs

/-- A byte that the memory below the slices holds. -/
def State.below (s : State) (pa : Nat) : Byte :=
  match s.l2.findSome? fun l => l.under.find? fun c => c.1 == pa with
  | some c => c.2
  | none => memGet s.mem pa

/-- What `n` bytes at `pa` read as under a page's attributes: an uncached read goes to memory (R267). -/
def State.homeBytes (s : State) (x : Xlat) (pa n : Nat) : List Byte :=
  if x.cl = 2 then (List.range n).map fun i => s.below (pa + i) else memBytes s.mem pa n

/-- What a read at the home leaves: the line allocated there where the page lets it be (R267). -/
def State.readHome (s : State) (x : Xlat) (pa : Nat) : State := if x.cl = 2 then s else s.l2Reach x pa

end Sys2Proof.Machine
end

