-- ==== Sys2Proof/Machine/Objects.lean ====
section
/-! DEFINITION. What lies behind the lanes: the region binding table
(R345, R352, R355), the package error ring (R406, R407) and the interrupt vectors (R412). -/

namespace Sys2Proof.Machine

/-! ### The region binding table (R345) -/

/-- A region binding table entry. -/
structure RbEntry where
  base : Nat
  kind : Nat
  scope : Nat
  size : Nat
  inst : Nat
  rels : Word
  issued : Word
deriving DecidableEq, Repr

def State.rbAddr (s : State) (part soid : Nat) : Nat := (s.part part).rbtPA + 32 * soid

def RbEntry.free : RbEntry := ⟨0, 0, 0, 0, 0, 0#32, 0#32⟩

/-- An entry of a partition; one that is not configured has no table. -/
def State.rbEntry (s : State) (part soid : Nat) : RbEntry :=
  if (s.parts.get (partIx part)).st = .unconfigured then RbEntry.free else
  let a := s.rbAddr part soid
  let d0 := memNat s.mem a 8
  let d1 := memNat s.mem (a + 8) 8
  { base := bitsOf d0 0 57, kind := bitsOf d0 57 3, scope := bitsOf d0 60 3, size := bitsOf d1 0 40, inst := bitsOf d1 40 24,
    rels := BitVec.ofNat 32 (memNat s.mem (a + 16) 4), issued := BitVec.ofNat 32 (memNat s.mem (a + 20) 4) }

/-- Write an entry whole; the DBELL doubleword reads as zero. -/
def State.putRb (s : State) (part soid : Nat) (e : RbEntry) : State :=
  s.writeRaw (s.rbAddr part soid)
    (natBytes 8 (e.base + 2 ^ 57 * e.kind + 2 ^ 60 * e.scope) ++ natBytes 8 (e.size + 2 ^ 40 * e.inst)
      ++ natBytes 4 e.rels.toNat ++ natBytes 4 e.issued.toNat ++ natBytes 8 0)

/-- A release performed at its home slice: RELS advances; on a free entry it is not counted (R352, R442). -/
def State.performRelease (s : State) (part soid : Nat) : State :=
  let e := s.rbEntry part soid
  if e.kind = 0 then s else s.putRb part soid { e with rels := e.rels + 1#32 }

/-- A sequence number of an ordered object, taken at issue (R355). -/
def State.takeSeq (s : State) (part soid : Nat) : Option Word × State :=
  let e := s.rbEntry part soid
  if e.kind = 2 then (some e.issued, s.putRb part soid { e with issued := e.issued + 1#32 }) else (none, s)

/-! ### Interrupts (R412, R419, R424) -/

def vecIx (v : Nat) : Fin 4 := Fin.ofNat 4 v

/-- An in-band interrupt on the side-band port; a restarting service core holds it back (R419, R424). -/
def State.inBand (s : State) : State :=
  if s.svc.restarting.isSome then { s with svc := { s.svc with held := s.svc.held ++ [4] } }
  else { s with svc := { s.svc with ibi := s.svc.ibi + 1 } }

/-- An MSI-X vector counted as signalled (R412). DEDUCED, safe: log entry 62. -/
def State.vector (s : State) (v : Nat) : State :=
  { s with svc := { s.svc with msix := s.svc.msix.set (vecIx v) (s.svc.msix.get (vecIx v) + 1) } }

/-- Signal an MSI-X vector; the events of vector 3 raise an in-band interrupt too, and a restarting service core holds
both back (R412, R419, R424). -/
def State.signal (s : State) (v : Nat) : State :=
  if v = 3 then
    (if s.svc.restarting.isSome then { s with svc := { s.svc with held := s.svc.held ++ [3] } } else s.vector 3).inBand
  else s.vector v

/-! ### Error logs (R275) -/

/-- The SRC of an address: HBM, the second tier, or a peer (R275). -/
def errorSrc (pa : Nat) : Nat := if pa < 2 ^ 52 then 0 else if pa < 2 * 2 ^ 52 then 1 else 3

def LogEntry.same (a b : LogEntry) : Bool :=
  a.die == b.die && a.slice == b.slice && a.pa == b.pa && a.sect == b.sect && a.kind == b.kind && a.src == b.src

/-- Room for one more entry of a slice: the oldest corrected entry goes first. -/
def dropOldest (l : List LogEntry) (die slice : Nat) : List LogEntry :=
  let mine := l.filter fun e => e.die == die && e.slice == slice
  if mine.length < 32 then l else
  match (mine.find? fun e => e.kind == 0).orElse fun _ => mine.head? with
  | some e => l.erase e
  | none => l

/-- An error logged in the slice of an address; kinds 1 to 3 raise an in-band interrupt (R419). -/
def State.logError (s : State) (pa kind src mask : Nat) : State :=
  let e : LogEntry := ⟨homeDie pa, homeSlice pa, pa % 2 ^ 52 / 1024 * 1024, pa / 256 % 4, kind, src, 1, mask⟩
  let logs :=
    if s.logs.any (fun x => x.same e) then
      s.logs.map fun x => if x.same e then { x with count := (x.count + 1) % 2 ^ 32, parts := x.parts ||| mask } else x
    else dropOldest s.logs e.die e.slice ++ [e]
  let s1 := { s with logs := logs }
  if kind = 0 then s1 else s1.inBand

/-- No plane of Kazot Link can carry an access to a peer module (R420). -/
def State.cutOff (s : State) (pa : Nat) : Bool := decide (2 * 2 ^ 52 ≤ pa) && s.svc.ports == 0#48

/-- A read of a byte meets an uncorrectable error: its sector holds one, or a peer gives no reply (R274, R420). -/
def State.lost (s : State) (pa : Nat) : Bool := s.cutOff pa || s.bad.any fun b => b.addr == pa / 256 * 256

/-- A write to a byte gets no reply from its peer (R420). -/
def State.unanswered (s : State) (pa : Nat) : Bool := decide (2 * 2 ^ 52 ≤ pa) && s.lost pa

/-- What an access that has met an error in a sector leaves: the error is gone where its slice does not retain it, and an
access that no plane could carry is logged, with SRC 3 (R274, R420). -/
def State.consume (s : State) (pa mask : Nat) : State :=
  if s.cutOff pa then s.logError pa 1 3 mask
  else { s with bad := s.bad.filter fun b => b.retained || b.addr != pa / 256 * 256 }

/-! ### Rings (R406) -/

/-- TAIL − HEAD of a ring equals its size. -/
def State.ringFull (s : State) (r : Ring) : Bool :=
  (memNat s.mem r.pa 4 + 2 ^ 32 - memNat s.mem (r.pa + 8) 4) % 2 ^ 32 == 2 ^ r.log2

/-- Append a record of `n` bytes to a ring that has room, and advance TAIL. -/
def State.ringPut (s : State) (r : Ring) (n : Nat) (bs : List Byte) : State :=
  let tail := memNat s.mem r.pa 4
  (s.writePhys (r.pa + 0x40 + n * (tail % 2 ^ r.log2)) bs).writePhys r.pa (natBytes 4 (tail + 1))

/-- An error record (R407), as nine doublewords; the other bytes are zero. -/
def State.errorRecord (s : State) (ds : List DWord) : State :=
  match s.svc.errRing with
  | none => s
  | some r =>
    if s.ringFull r then s.writePhys (r.pa + 4) (natBytes 4 (memNat s.mem (r.pa + 4) 4 + 1))
    else (s.ringPut r 128 ((ds.flatMap fun d => natBytes 8 d.toNat) ++ List.replicate 56 0#8)).signal 1

/-- The first two doublewords of an error record. -/
def errorHead (kind code qidx gid node : Nat) (runid seq : Word) : List DWord :=
  [BitVec.ofNat 64 (kind + 2 ^ 8 * code + 2 ^ 16 * qidx + 2 ^ 28 * gid + 2 ^ 40 * node), seq ++ runid]

/-- The dies have power and have not been stopped at the critical temperature (R418, R419). -/
def State.diesRun (s : State) : Bool := s.svc.diesOn && !s.svc.stopped

/-- May anything of a team run now? -/
def State.teamRuns (s : State) (t : Team) : Bool :=
  (t.st == .resident || t.st == .waiting) && (s.part (partOf t.core)).st == .running && s.svc.diesOn && !s.svc.stopped

end Sys2Proof.Machine
end

