-- ==== Sys2Proof/Machine/Banker.lean ====
section
/-! DEFINITION. The resource pools of a core, the banker's check, grants and releases (R47, R50,
R135 to R140). -/

namespace Sys2Proof.Machine

/-! ### Holdings in core units (R135) -/

def coreCapacity : Claim := ⟨512, 64, 8, 256⟩
def Claim.units (c : Claim) (groups : Nat) : Claim := { c with reg := c.reg * groups }
/-- The number of live groups of a team. -/
def State.liveGroups (s : State) (uid : Nat) : Nat := (s.groupsOf uid).length
/-- The resident teams of a core (R139); a team that is returning has its grant already. -/
def State.residents (s : State) (core : Nat) : List Team := s.teams.filter fun t => t.core == core && t.st != .swapped

/-- What the check needs of a team: what it holds and what it may still need. -/
structure Load where
  hold : Claim
  max : Claim
deriving DecidableEq, Repr

def State.teamLoad (s : State) (t : Team) : Load := ⟨t.hold.units (s.liveGroups t.uid), t.info.claim.units t.info.gpt⟩
/-- The teams of a gang plan that core `k` would take (R144). -/
def GangPlan.share (p : GangPlan) (k : Nat) : Nat :=
  let c := if p.dom = 3 then 4 else 96
  if p.leader ≤ k ∧ k < p.leader + c then (p.size + c - 1 - (k - p.leader)) / c else 0
/-- The teams of gang plans for which the core holds a reservation. -/
def State.reservations (s : State) (core : Nat) : List GangPlan :=
  (s.fe.gangs.filter fun p => p.answers.contains (core, true)).flatMap fun p => List.replicate (p.share core) p
def State.reserved (s : State) (core : Nat) : List Load := (s.reservations core).map fun p => ⟨p.init, p.max⟩
/-- What the check of a core counts: its teams and its reservations. -/
def State.loads (s : State) (core : Nat) : List Load := (s.residents core).map s.teamLoad ++ s.reserved core
def sumHold (l : List Load) : Claim := l.foldl (fun a x => a.add x.hold) Claim.zero
/-- The free resources of a core. -/
def freeOf (l : List Load) : Claim := coreCapacity.sub (sumHold l)

/-- Can the teams be ordered as R139 asks? A team that fits is taken first; `fuel` bounds the number of teams. -/
def safeFrom : Nat → Claim → List Load → Bool
  | 0, _, l => l.isEmpty
  | n + 1, f, l =>
    match l.find? fun x => (x.max.sub x.hold).le f with
    | some x => safeFrom n (f.add x.hold) (l.erase x)
    | none => l.isEmpty
def safe (l : List Load) : Bool := (sumHold l).le coreCapacity && safeFrom (l.length + 1) (freeOf l) l

/-- R140: a request of a resident team, in core units. -/
def State.mayGrant (s : State) (t : Team) (q : Claim) : Bool :=
  let others := (s.residents t.core).filter fun u => u.uid != t.uid
  let me := s.teamLoad t
  q.le (freeOf (s.loads t.core)) && safe ({ me with hold := me.hold.add q } :: (others.map s.teamLoad ++ s.reserved t.core))

/-- R140: a team added to a core. -/
def State.mayPlace (s : State) (core : Nat) (init : Claim) (max : Claim) : Bool :=
  init.le (freeOf (s.loads core)) && safe (⟨init, max⟩ :: s.loads core)

/-! ### Accumulator names (R47, R305) -/

def accValid (b : Byte) : Bool := b.getLsbD 7
def accSlot (b : Byte) : Nat := (b.setWidth 3).toNat
def slotIx (n : Nat) : Fin 8 := Fin.ofNat 8 n

/-- The free physical slots of a core, in increasing order. -/
def Core.freeSlots (c : Core) : List Nat := (List.range 8).filter fun i => (c.acc.get (slotIx i)).team.isNone

/-- Give `n` slots to a team: the lowest names that are clear, physical slots in increasing order. -/
def grantSlots (s : State) (t : Team) (n : Nat) : State × Team :=
  let c := s.core t.core
  let names := ((List.range 8).filter fun i => !accValid (t.acc.get (slotIx i))).take n
  let pairs := names.zip c.freeSlots
  let c' := pairs.foldl (fun (c : Core) p => { c with acc := c.acc.set (slotIx p.2) { AccSlot.reset with team := some t.uid } }) c
  let t' := pairs.foldl (fun (t : Team) p => { t with acc := t.acc.set (slotIx p.1) (0x80#8 ||| BitVec.ofNat 8 p.2) }) t
  (s.putCore t.core c', t')

/-- The `n` highest valid names, which a release clears. -/
def Team.lastNames (t : Team) (n : Nat) : List Nat :=
  (((List.range 8).filter fun i => accValid (t.acc.get (slotIx i))).reverse).take n

def dropSlots (s : State) (t : Team) (n : Nat) : State × Team :=
  let names := t.lastNames n
  let c' := names.foldl (fun (c : Core) i =>
    { c with acc := c.acc.set (slotIx (accSlot (t.acc.get (slotIx i)))) AccSlot.reset }) (s.core t.core)
  let t' := names.foldl (fun (t : Team) i => { t with acc := t.acc.set (slotIx i) 0#8 }) t
  (s.putCore t.core c', t')

/-! ### Grants and releases (R50, R136) -/

/-- The registers of the granules from `lo` on, below `hi`, read as zero (R50). -/
def Group.zeroGranules (g : Group) (lo hi : Nat) : Group :=
  let fresh (isV : Bool) (i : Nat) : Bool := decide (lo ≤ granuleOf isV i ∧ granuleOf isV i < hi)
  { g with
    x := Tab.ofFn fun i => if fresh false i.val then Tab.const 32 0#32 else g.x.get i
    v := Tab.ofFn fun i => if fresh true i.val then Tab.const 32 0#64 else g.v.get i }

def Barrier.idle : Barrier := ⟨0#16, 0, false, 0⟩

/-- HOLD := HOLD + Q, with the window, granules, names and barriers that come with it. -/
def State.grant (s : State) (uid : Nat) (q : Claim) : State :=
  match s.team uid with
  | none => s
  | some t =>
    let a := grantSlots s t q.acc
    let t1 := { a.2 with
      hold := t.hold.add q
      scr := memDrop t.scr (t.hold.scr * 4096) ((t.hold.scr + q.scr) * 4096)
      full := t.full.filter fun n => decide (n < t.hold.scr * 32)
      bad := t.bad.filter fun a => decide (a < t.hold.scr * 4096)
      bars := t.bars ++ List.replicate q.bar Barrier.idle }
    (a.1.putTeam t1).mapGroups uid fun g => g.zeroGranules t.hold.reg (t.hold.reg + q.reg)

/-- HOLD := HOLD − L, everything from the top (R136). -/
def State.release (s : State) (uid : Nat) (l : Claim) : State :=
  match s.team uid with
  | none => s
  | some t =>
    let a := dropSlots s t l.acc
    let h := t.hold.sub l
    a.1.putTeam { a.2 with
      hold := h
      scr := t.scr.filter fun c => decide (c.1 < h.scr * 4096)
      full := t.full.filter fun n => decide (n < h.scr * 32)
      bad := t.bad.filter fun a => decide (a < h.scr * 4096)
      bars := t.bars.take h.bar }

/-! ### CLAIMX (R145, R146) -/

/-- The INFO bits of a vector against its limit; 0 for a legal one. -/
def claimInfo (w : Word) (limit : Claim) (rel busy : Bool) : Nat :=
  let q := claimOf w.toNat
  let bits :=
    (if limit.reg < q.reg then 1 else 0) + (if limit.scr < q.scr then 2 else 0) + (if limit.acc < q.acc then 4 else 0)
      + (if limit.bar < q.bar then 8 else 0) + (if w.extractLsb' 25 7 != 0#7 then 32 else 0) + (if busy then 64 else 0)
  if bits = 0 then 0 else bits + (if rel then 16 else 0)

def Team.headroom (t : Team) : Claim := t.info.claim.sub t.hold

end Sys2Proof.Machine
end

