-- ==== Sys2Proof/Machine/Kill.lean ====
section
/-! DEFINITION. The context kill (R387, R388) and the release of everything a team holds (R154). -/

namespace Sys2Proof.Machine

/-- The registers of the group whose trap or fault caused a kill, as the error record holds them (R388). -/
structure KillRegs where
  gslot : Nat
  tl : Nat
  tca1 : Word
  tca2 : Word
  tepc1 : VAddr
  tepc2 : VAddr
  tfa1 : VAddr
  tfa2 : VAddr
deriving DecidableEq, Repr

def Group.killRegs (g : Group) : KillRegs := ⟨g.slot, g.tl.val, g.tca1, g.tca2, g.tepc1, g.tepc2, g.tfa1, g.tfa2⟩

/-- The registers for the reasons 3 to 5: those of group index 0, or of the first live group (R388). -/
def State.firstRegs (s : State) (uid : Nat) : KillRegs :=
  match ((s.groupsOf uid).find? fun g => g.idx == 0).orElse fun _ => (s.groupsOf uid).head? with
  | some g => g.killRegs
  | none => ⟨0, 0, 0#32, 0#32, 0#57, 0#57, 0#57, 0#57⟩

/-- The error record of a killed team (R407). -/
def killRecord (t : Team) (reason : Nat) (r : KillRegs) : List DWord :=
  errorHead 1 reason t.info.qidx t.info.graph t.info.node (BitVec.ofNat 32 t.info.runid) (BitVec.ofNat 32 t.info.seq)
    ++ [BitVec.ofNat 64 t.info.t, BitVec.ofNat 64 (r.gslot + 2 ^ 8 * t.core + 2 ^ 24 * r.tl), r.tca2 ++ r.tca1,
        r.tepc1.setWidth 64, r.tepc2.setWidth 64, r.tfa1.setWidth 64, r.tfa2.setWidth 64]

/-! ### Ordered releases of a dead party (R355) -/

/-- Perform an ordered release whose turn it is, or leave it to its turn. -/
def State.turnOrWait (s : State) (r : PendingRel) : State :=
  if (s.rbEntry r.part r.soid).rels = r.seq then s.performRelease r.part r.soid
  else { s with rels := s.rels ++ [r] }

/-- The SOID of a record's command block (R309, R328). -/
def Record.soidWord (r : Record) : Nat :=
  if r.fn < 11 ∨ r.fn = 16 then (r.block[6]?.getD 0#64).toNat else (r.block[10]?.getD 0#64).toNat
def Record.soid (r : Record) : Nat := bitsOf r.soidWord 16 12
def Record.sov (r : Record) : Bool := bitsOf r.soidWord 33 1 == 1

/-- A record that stands in its core's queue: one of a team that is out is part of its saved context, and names its slots by
their names (R63, R152). -/
def State.queued (s : State) (r : Record) : Bool :=
  s.teams.all fun t => t.uid != r.team || !(t.st == .swapped || t.st == .returning)

/-- A team's ordered releases that no party will perform any more. -/
def State.orphanReleases (s : State) (t : Team) : List PendingRel :=
  (s.rels.filter fun r => r.team == some t.uid) ++
  (s.records.filter fun r => r.team == t.uid && !r.released).filterMap fun r =>
    r.relSeq.map fun n => ⟨partOf t.core, r.soid, n, some t.uid⟩

/-! ### The queues of a Twill directory (R240) -/

/-- The core whose directory holds the item's queue. -/
def Item.coreOf (i : Item) : Nat :=
  match i.home with
  | .core k => k
  | .pool _ k => k

/-- The key of R240: FREE items leave the team out. -/
def Item.teamKey (i : Item) : Option Nat := if i.free then none else some i.teamT
def TwillQueue.holds (q : TwillQueue) (i : Item) : Bool :=
  q.entry == i.entry && q.seq == i.seq && q.team == i.teamKey
/-- The items of a queue of core `k`, in the order they were produced. -/
def State.queueItems (s : State) (k : Nat) (q : TwillQueue) : List Item :=
  s.items.filter fun i => i.coreOf == k && q.holds i

/-- Close the queues of a core that hold no item (R240). -/
def State.closeQueues (s : State) (k : Nat) : State :=
  let c := s.core k
  s.putCore k { c with queues := c.queues.filter fun q => !(s.queueItems k q).isEmpty }

/-! ### What a team leaves behind -/

/-- A copy of a killed team stops and fails by R300. -/
def Copy.orphan (x : Copy) (uid : Nat) : Copy :=
  match x.owner with
  | .handle t _ _ _ => if t = uid then { x with failed := true, stopped := false } else x
  | _ => x

/-- The team's physical slots freed. -/
def Core.freeTeamSlots (c : Core) (uid : Nat) : Core :=
  { c with acc := Tab.ofFn fun i => if (c.acc.get i).team = some uid then AccSlot.reset else c.acc.get i }

def Partition.freeArea (p : Partition) (a : Nat × Nat) : Partition := { p with saveUsed := p.saveUsed.filter fun x => x != a }

/-- Everything the team holds is released, and its records of the part are gone (R154, R402). -/
def State.dropTeam (s : State) (t : Team) : State :=
  let p := partOf t.core
  let s1 := { s.putCore t.core ((s.core t.core).freeTeamSlots t.uid) with
    teams := s.teams.filter fun u => u.uid != t.uid
    groups := s.groups.filter fun g => g.team != t.uid
    items := s.items.filter fun i => i.owner != t.uid || i.free
    records := s.records.filter fun r => r.team != t.uid }
  -- the queues that its discarded items have left empty close (R240)
  let cores := ((s.items.filter fun i => i.owner == t.uid && !i.free).map Item.coreOf).eraseDups
  let s2 := cores.foldl State.closeQueues s1
  s2.putPart p ((s2.part p).freeArea t.saveArea)

def lstIx (die i : Nat) : Fin 256 := Fin.ofNat 256 (die * 64 + i)
def State.entry (s : State) (die i : Nat) : LstEntry := s.fe.lst.get (lstIx die i)
def State.putEntry (s : State) (die i : Nat) (e : LstEntry) : State :=
  { s with fe := { s.fe with lst := s.fe.lst.set (lstIx die i) e } }

/-- DONEVA + 1, with the count of killed teams; an entry whose count reaches its range is drained (R127, R143). -/
def State.countDone (s : State) (t : Team) (killed : Bool) : State :=
  let e := s.entry t.info.die t.info.lst
  if e.st ≠ 0 ∧ e.seq = BitVec.ofNat 32 t.info.seq then
    s.putEntry t.info.die t.info.lst { e with done := e.done + 1, killed := if killed then e.killed + 1 else e.killed }
  else s

/-- The run that a team belongs to has lost a team (R405). -/
def State.markKill (s : State) (t : Team) : State :=
  let f (r : Run) : Run :=
    if r.qidx = t.info.qidx ∧ r.runid = BitVec.ofNat 32 t.info.runid then { r with kill := true } else r
  { s with fe := { s.fe with runs := s.fe.runs.map f } }

/-- The partners of a joint whose member is gone fail. -/
def State.failJoints (s : State) (uid : Nat) : State :=
  let joints := (s.records.filter fun r => r.team == uid).filterMap fun r => r.joint
  let f (r : Record) : Record := if r.joint.any joints.contains = true then { r with failed := true } else r
  { s with records := s.records.map f }

/-- The writes of a team's lanes that have not been performed are discarded (R359). -/
def State.dropFlights (s : State) (uid : Nat) : State :=
  let gids := (s.groupsOf uid).map fun g => g.gid
  { s with flights := s.flights.filter fun f => match f.who with
      | .lane g _ => !gids.contains g
      | .host _ _ => true }

/-- R388: stop, discard, write the record, release, count; the re-decision of R154 follows the step (`State.redecideAll`). -/
def killTeam (s : State) (t : Team) (reason : Nat) (r : KillRegs) : State :=
  let orphans := s.orphanReleases t
  let s1 := (s.dropFlights t.uid).failJoints t.uid
  let s2 := { s1 with copies := s1.copies.map fun x => x.orphan t.uid, rels := s1.rels.filter fun x => x.team != some t.uid }
  let s3 := (orphans.foldl State.turnOrWait s2).errorRecord (killRecord t reason r)
  ((s3.dropTeam t).markKill t).countDone t true

end Sys2Proof.Machine
end

