-- ==== Sys2Proof/Machine/Trap.lean ====
section
/-! DEFINITION. Taking a trap (R380, R381), a fault at TL0 (R385), the return from a trap (R174), and how every word
starts: the checks of R103 in their order, ILLOP, then PRIV, then REGX. -/

namespace Sys2Proof.Machine

/-- The group with the trap registers of level `n + 1` written (R381). -/
def Group.enterTrap (g : Group) (t : TrapRec) (ret : VAddr) : Group :=
  if g.tl = 0 then { g with tl := 1, tca1 := t.tca, tepc1 := ret, tfa1 := t.fa.setWidth 57 }
  else { g with tl := 2, tca2 := t.tca, tepc2 := ret, tfa2 := t.fa.setWidth 57 }

/-- The trapping path at the vector, one level up; its EM, registers and JOIN are unchanged (R381). -/
def Path.toVector (p : Path) (vec : VAddr) (lvl : Fin 3) : Path :=
  { p with pc := vec, level := lvl, pfx := none, wait := none }

/-- Enter a trap at level 1 or 2 (R381). -/
def enterAt (s : State) (g : Group) (pid : Nat) (t : TrapRec) (ret vec : VAddr) : State :=
  let g1 := g.enterTrap t ret
  match g1.path pid with
  | some p => s.putGroup (g1.putPath (p.toVector vec g1.tl))
  | none => s.putGroup g1

/-- R380: route a trap of path `pid` of group `g`; the group is given as it stands before the trap. -/
def trapTo (s : State) (g : Group) (tm : Team) (pid : Nat) (t : TrapRec) (ret : VAddr) : State :=
  if g.tl = 2 then killTeam s tm 1 g.killRegs
  else if g.tl = 1 then enterAt s g pid t ret (stubVector tm)
  else if noVector tm then
    -- reason 2: the record holds what the entry at TL1 would have written (R388)
    killTeam s tm 2 { g.killRegs with tl := 1, tca1 := t.tca, tepc1 := ret, tfa1 := t.fa.setWidth 57 }
  else enterAt s g pid t ret (kernelVector tm)

/-- The word traps: it has no effect, and its return address is its own or its prefix's (R99, R381). -/
def takeTrap (s : State) (c : Ctx) (t : TrapRec) : Out := .next (trapTo s c.g c.t c.cur.pid t c.cur.ret)

/-- The word's effect stands in `g`, and the trap's return address is the next word (R173, R366). -/
def takeTrapAfter (s : State) (c : Ctx) (g : Group) (t : TrapRec) : Out :=
  .next (trapTo (s.putGroup (c.pathAt g c.cur.next)) (c.pathAt g c.cur.next) c.t c.cur.pid t c.cur.next)

/-- Does the fault service hold a request for the region of an address (R269)? -/
def State.serving (s : State) (part va : Nat) : Bool :=
  s.faults.any fun q => q.part == part && q.region == va / 65536 && q.answer.isNone

/-- Does a fault wait for the service? At TL0 each does (R385); at a trap level the walk of a region that is already under
service does (R269). -/
def faultWaits (s : State) (part tl : Nat) (t : TrapRec) : Bool :=
  isFaultCause t.cause && (tl == 0 || (t.cause == causeTfault && s.serving part t.fa.toNat))

/-- A translation or protection fault waits for the fault service, or traps (R269, R380, R385). -/
def takeFault (s : State) (c : Ctx) (t : TrapRec) : Out :=
  if faultWaits s c.part c.g.tl.val t then waitAt s c c.g (.fault t) else takeTrap s c t

/-! ### How a word starts -/

/-- The registers named by the word and by its prefix's fourth operand (R49). -/
def namedRegs (i : Instr) (c : Ctx) : List Opnd :=
  i.sig.ops ++ (match i.sig.takes.fourth, c.fourth with
    | some k, some r => [⟨k, r, false⟩]
    | _, _ => [])

/-- The static conditions of the word with its prefix (R96 to R98). -/
def wordLegal (i : Instr) (c : Ctx) : Bool :=
  i.wf && (match c.p.pfx with
    | none => !i.needsF
    | some l => Instr.prefixOk l.form i && (!i.needsF || l.form.f))

/-- The first named register outside the window, in the order D, A, B, fourth operand (R49).
DEDUCED, unsafe: log entry 42. -/
def firstOutside (t : Team) (ops : List Opnd) : Option (Bool × Nat) :=
  (windowRegs ops).find? fun r => !inWindow t r.1 r.2

/-- The register of a word that names one outside the window; a word that has issued and waits keeps the window that it was
issued under (R50). -/
def regxOf (i : Instr) (c : Ctx) : Option (Bool × Nat) :=
  if c.p.wait.any fun w => w.issued.isSome && w.kind != .stall then none else firstOutside c.t (namedRegs i c)

def regxInfo (isV : Bool) (r : Nat) : Nat := r + (if isV then 64 else 0)

/-- A word's step, where some of its ILLOP conditions come with a record of their own: what `illegal` answers comes after the
encoding's checks and before the register window (R103). -/
def startChecked (i : Instr) (s : State) (illegal : Ctx → Option Out) (k : Ctx → Out) : Out :=
  withCtx s fun c =>
    if !wordLegal i c then takeTrap s c (groupTrap causeIllop 0)
    else match illegal c with
      | some o => o
      | none =>
        match regxOf i c with
        | some (isV, r) => takeTrap s c (groupTrap causeRegx (regxInfo isV r))
        | none => k c

/-- A word's step: ILLOP conditions first, then privilege, then the register window (R103), then its meaning. -/
def startWord (i : Instr) (s : State) (illegal : Ctx → Bool) (allowed : Ctx → Bool) (k : Ctx → Out) : Out :=
  withCtx s fun c =>
    if !wordLegal i c || illegal c then takeTrap s c (groupTrap causeIllop 0)
    else if !allowed c then takeTrap s c (groupTrap causePriv 0)
    else match regxOf i c with
      | some (isV, r) => takeTrap s c (groupTrap causeRegx (regxInfo isV r))
      | none => k c

/-- A word with no illegal use beyond its encoding, and no privilege. -/
def word (i : Instr) (s : State) (k : Ctx → Out) : Out := startWord i s (fun _ => false) (fun _ => true) k

end Sys2Proof.Machine
end

