-- ==== Sys2Proof/Machine/Operands.lean ====
section
/-! DEFINITION. The operand forms of a lane instruction (R93 to R95, R206) as values per lane. -/

namespace Sys2Proof.Machine

/-- An x operand: the lane's register, or an s-register for every lane (R95). -/
def Ctx.xOp (c : Ctx) (u : Bool) (r : Reg) (l : Lane) : Word := if u then c.g.getS r else c.g.getX r l

/-- A v operand, canonicalised (R67), or an s-register as an FP32 point (R95). -/
def Ctx.vOp (c : Ctx) (u : Bool) (r : Reg) (l : Lane) : Itv × Flags :=
  if u then scalarF32 (c.g.getS r) else readF32 (c.g.getV r l)

/-- The fourth operand as an x-register, when F = 1. -/
def Ctx.xFourth (c : Ctx) (l : Lane) : Option Word := c.fourth.map fun r => c.g.getX r l
/-- The fourth operand as a v-register, when F = 1. -/
def Ctx.vFourth (c : Ctx) (l : Lane) : Option (Itv × Flags) := c.fourth.map fun r => readF32 (c.g.getV r l)

/-- An FP64 pair read as an interval (R69). -/
def Ctx.pairOp (c : Ctx) (r : Reg) (l : Lane) : Itv × Flags :=
  let p := itvOfBits fmtF64 (c.g.getV r l).toNat (c.g.getV (r + 1#6) l).toNat
  (p.1, flagIf p.2 fINV)

/-- A signed immediate as a 32-bit word. -/
def immWord {n : Nat} (i : BitVec n) : Word := i.signExtend 32

end Sys2Proof.Machine
end

