-- ==== Sys2Proof/Machine/Flags.lean ====
section
/-! DEFINITION. The flags that the active lanes set (R53, R83, R206), and the completion of a lane instruction: its
destination under EM, the prefix mask and Z (R98), its flags, and the path at the next word. -/

namespace Sys2Proof.Machine

/-- The flags of the lanes of a mask together. -/
def flagsOver (on : Mask) (f : Lane → Flags) : Flags := (lanesOf on).foldl (fun a l => a ||| f l) 0#6

/-- A lane result in an x-register, with the flags the active lanes raise. -/
def Ctx.writeX (c : Ctx) (d : Reg) (f : Lane → Word × Flags) : Group :=
  ((c.g.setX d c.active fun l => (f l).1).setX d c.zeroed fun _ => 0#32).flag (flagsOver c.active fun l => (f l).2)
/-- A lane result in a v-register. -/
def Ctx.writeV (c : Ctx) (d : Reg) (f : Lane → DWord × Flags) : Group :=
  ((c.g.setV d c.active fun l => (f l).1).setV d c.zeroed fun _ => 0#64).flag (flagsOver c.active fun l => (f l).2)
/-- A lane result in a q-register. -/
def Ctx.writeQ (c : Ctx) (d : Reg) (f : Lane → BitVec 2 × Flags) : Group :=
  ((c.g.setQ d c.active fun l => (f l).1).setQ d c.zeroed fun _ => 0#2).flag (flagsOver c.active fun l => (f l).2)

/-- The whole step of a lane instruction with an x destination and no flags. -/
def laneX (i : Instr) (s : State) (d : Reg) (f : Ctx → Lane → Word) : Out :=
  word i s fun c => finish s c (c.writeX d fun l => (f c l, 0#6))
def laneXF (i : Instr) (s : State) (d : Reg) (f : Ctx → Lane → Word × Flags) : Out :=
  word i s fun c => finish s c (c.writeX d (f c))
def laneV (i : Instr) (s : State) (d : Reg) (f : Ctx → Lane → DWord × Flags) : Out :=
  word i s fun c => finish s c (c.writeV d (f c))
def laneQ (i : Instr) (s : State) (d : Reg) (f : Ctx → Lane → BitVec 2 × Flags) : Out :=
  word i s fun c => finish s c (c.writeQ d (f c))

end Sys2Proof.Machine
end

