-- ==== Sys2Proof/Machine/Paths.lean ====
section
/-! DEFINITION. Splits, parked paths and the reconvergence stack: divergence, merging, finishing, completion, the
splits that waits give up, and the waits of SYNCJ and of the collective words (R162 to R169, R382). -/

namespace Sys2Proof.Machine

/-- The packet address of a code address (R90). -/
def packetOf (a : VAddr) : VAddr := BitVec.ofNat 57 (a.toNat / 12 * 12)
/-- The offset in its packet. -/
def slotOf (a : VAddr) : Nat := a.toNat % 12

/-! ### Entries and their paths -/

def Group.entry (g : Group) (eid : Nat) : Option Entry := g.entries.find? fun e => e.eid == eid

/-- Is entry `e` the innermost entry `at?` or one that encloses it? `fuel` bounds the walk outward. -/
def Group.under (g : Group) (e : Nat) : Nat → Option Nat → Bool
  | 0, _ => false
  | _ + 1, none => false
  | fuel + 1, some k => k == e || g.under e fuel ((g.entry k).bind fun x => x.enclosing)

/-- The paths of an entry, those of its inner entries among them. -/
def Group.pathsUnder (g : Group) (e : Nat) : List Path :=
  g.paths.filter fun p => g.under e (g.entries.length + 1) p.entry

/-- The other paths of a path's innermost entry. -/
def Group.others (g : Group) (p : Path) : List Path :=
  match p.entry with
  | none => []
  | some e => (g.pathsUnder e).filter fun q => q.pid != p.pid

/-- The lowest split index that no live path has (R162: four live splits). -/
def Group.freeSplit (g : Group) : Option (Fin 4) :=
  (List.finRange 4).find? fun i => g.paths.all fun p => p.split != some i

/-! ### Divergence (R164) -/

/-- Add the paths after the first: each takes a free split, or is parked in the entry. -/
def Group.addPaths (g : Group) (e : Nat) (lvl : Fin 3) : List (VAddr × Mask) → Group
  | [] => g
  | (pc, lanes) :: rest =>
    let p : Path := { pid := g.nextPid, split := g.freeSplit, pc := pc, members := lanes, em := lanes,
                      departing := 0#32, join := none, entry := some e, level := lvl, wait := none, pfx := none, readySince := none, restart := none }
    Group.addPaths { g with paths := g.paths ++ [p], nextPid := g.nextPid + 1 } e lvl rest

/-- R164: divide a path over the paths that have lanes; none where the stack is full (DIVX). A transfer
divergence makes an entry with RP none and keeps JOIN. -/
def Group.diverge (g : Group) (p : Path) (transfer : Bool) (paths : List (VAddr × Mask)) (dflt : VAddr) :
    Option Group :=
  match paths.filter fun q => q.2 != 0#32 with
  | [] => some (g.putPath (p.past dflt))
  | [(pc, _)] => some (g.putPath (p.past pc))
  | (pc, lanes) :: rest =>
    if 16 ≤ g.entries.length then none else
    let taken := rest.foldl (fun m q => m ||| q.2) 0#32
    let e : Entry := { eid := g.nextEid, rp := if transfer then none else p.join, enclosing := p.entry, level := p.level }
    let p0 := { p.past pc with members := p.members &&& ~~~taken, em := lanes, entry := some e.eid,
                               join := if transfer then p.join else none }
    some (Group.addPaths { g.putPath p0 with entries := g.entries ++ [e], nextEid := g.nextEid + 1 } e.eid p.level rest)

/-- A diverging word's step. -/
def divergeTo (s : State) (c : Ctx) (g : Group) (transfer : Bool) (paths : List (VAddr × Mask)) (dflt : VAddr) : Out :=
  match g.path c.cur.pid with
  | none => .next (s.putGroup g)
  | some p =>
    match g.diverge p transfer paths dflt with
    | some g' => .next (s.putGroup g')
    | none => takeTrap s c (groupTrap causeDivx 0)

/-! ### Merging and completion (R165, R166) -/

/-- Two paths made one: `p` keeps its place. Departing lanes are removed when `drop` is set (R165, R169). -/
def Path.absorb (p q : Path) (drop : Bool) : Path :=
  let mem := p.members ||| q.members
  let dep := p.departing ||| q.departing
  { p with
    members := if drop then mem &&& ~~~dep else mem
    departing := if drop then 0#32 else dep
    em := p.em ||| q.em
    join := if p.join = q.join then p.join else none
    split := p.split.orElse fun _ => q.split }

def Group.dropPath (g : Group) (pid : Nat) : Group := { g with paths := g.paths.filter fun q => q.pid != pid }

/-- A path that has not issued the word that it stands at: in no wait, or in one whose word issues anew (R165). A wait that
has ended has issued its word: DEDUCED, safe: log entry 73. -/
def Path.unissued (p : Path) : Bool :=
  match p.wait with
  | none => true
  | some w => !w.ended && (w.kind == .syncj || w.kind.refetched)

/-- Do two paths merge by R165? -/
def mergeable (p q : Path) : Bool :=
  p.pid != q.pid && p.split.isSome && q.split.isSome && p.pc == q.pc && slotOf p.pc == 0 && p.entry == q.entry
    && p.level == q.level && p.unissued && q.unissued

/-- The merge of R165: the word at the packet is issued by the path that remains. -/
def Path.merge (p q : Path) : Path := { p.absorb q true with wait := none }

/-- The first pair that merges, the lower split index keeping its place. -/
def Group.mergePair (g : Group) : Option (Path × Path) :=
  g.paths.findSome? fun p => (g.paths.find? fun q => mergeable p q && decide (p.split.getD 0 < q.split.getD 0)).map
    fun q => (p, q)

/-- An entry that completes: of its paths none remains, or one that is not parked (R166). A path that has divided
again counts as the one path its inner entry stands for. -/
def Group.completing (g : Group) : Option Entry :=
  g.entries.reverse.find? fun e =>
    let inner := g.entries.filter fun x => x.enclosing == some e.eid
    match g.paths.filter (fun p => p.entry == some e.eid), inner with
    | [], [] => true
    | [p], [] => p.split.isSome
    | [], [_] => true
    | _, _ => false

/-- The entry gone, and its last path hoisted to the enclosing entry. Its departing lanes are removed, but for those that
a frame's pop keeps (R166, R169); a collective word that waited for the entry's other paths issues anew. -/
def Group.complete (g : Group) (e : Entry) (kept : Mask) : Group :=
  let hoist (p : Path) : Path :=
    if p.entry = some e.eid then
      { p with
        entry := e.enclosing
        members := p.members &&& ~~~(p.departing &&& ~~~kept)
        departing := p.departing &&& kept
        wait := p.wait.bind fun w => if w.kind = .collective then none else some w }
    else p
  { g with
    entries := (g.entries.filter fun x => x.eid != e.eid).map fun x =>
      if x.enclosing = some e.eid then { x with enclosing := e.enclosing } else x
    paths := g.paths.map hoist }

/-- A path of the running level with no member that is not departing (R166). -/
def Group.finished (g : Group) : Option Path :=
  g.paths.find? fun p => p.members &&& ~~~p.departing == 0#32 && g.tl == 0

/-! ### Waits for the paths of an entry (R167, R168) -/

/-- A path that stands in a wait of R167 or R168, or that a trap has stopped (R382). A path whose collective wait has ended
goes on to its word, and is settled no more: log entry 73. -/
def Group.settled (g : Group) (q : Path) : Bool :=
  q.level != g.tl || (match q.wait with
    | some w => !w.ended && (w.kind == .syncj || w.kind == .collective)
    | none => false)

/-- The other paths of a waiting path's entry are all settled (R168). -/
def Group.collectiveReady (g : Group) (p : Path) : Bool := (g.others p).all g.settled

/-- Every other path of the entry stands at the same SYNCJ word (R167); a path that a trap has stopped joins none (R382). -/
def Group.syncReady (g : Group) (p : Path) : Bool :=
  (g.others p).all fun q => q.pc == p.pc && q.entry == p.entry && q.level == p.level && (match q.wait with
    | some w => w.kind == .syncj
    | none => false)

def waitsAs (k : WaitKind) (p : Path) : Bool :=
  match p.wait with
  | some w => w.kind == k && !w.ended
  | none => false

def Path.endWait (p : Path) (data : Word) : Path :=
  { p with wait := p.wait.map fun w => { w with ended := true, data := data } }

/-- The collective waits that end together: those whose other paths are settled (R168). -/
def Group.releasable (g : Group) : List Path :=
  g.paths.filter fun p => p.level == g.tl && waitsAs .collective p && g.collectiveReady p

/-- Of the waits that end, those at one word of one entry become one path. -/
def mergeSame : List Path → List Path
  | [] => []
  | p :: rest =>
    let m := mergeSame rest
    match m.find? fun q => q.pc == p.pc && q.entry == p.entry with
    | some q => (p.absorb q true).endWait 0#32 :: m.filter fun r => r.pid != q.pid
    | none => p.endWait 0#32 :: m

/-- R168: end the collective waits that are ready, merging those at one word. -/
def Group.releaseCollective (g : Group) : Option Group :=
  match g.releasable with
  | [] => none
  | ps =>
    let merged := mergeSame ps
    let gone := (ps.filter fun p => merged.all fun q => q.pid != p.pid).map fun p => p.pid
    some { g with paths := (g.paths.filter fun p => !gone.contains p.pid).map fun p =>
      (merged.find? fun q => q.pid == p.pid).getD p }

/-- R167: a path whose SYNCJ wait is over. -/
def Group.joining (g : Group) : Option Path :=
  g.paths.find? fun p => p.level == g.tl && waitsAs .syncj p && g.syncReady p

/-- The paths of an entry made one at the word after SYNCJ, their departing lanes still with them. -/
def Group.join (g : Group) (p : Path) (next : VAddr) : Group :=
  let merged := (g.others p).foldl (fun p q => p.absorb q false) p
  (g.others p).foldl (fun g q => g.dropPath q.pid) (g.putPath { merged.past next with join := none })

/-! ### Splits given to parked paths (R164, R167, R168, R364) -/

/-- The waits in which a split goes to a parked path. -/
def yields : WaitKind → Bool
  | .syncj | .collective | .bar .. | .barw .. | .barx .. => true
  | _ => false

/-- A parked path that could issue. -/
def Group.wantsSplit (g : Group) (p : Path) : Bool :=
  p.split.isNone && p.level == g.tl && (match p.wait with
    | none => true
    | some w => w.ended || !yields w.kind)

/-- The parked path that is given a split next: of the newest entry, the earliest in push order (R164). -/
def Group.nextParked (g : Group) : Option Path :=
  (g.entries.reverse.findSome? fun e => g.paths.find? fun p => p.entry == some e.eid && g.wantsSplit p).orElse
    fun _ => g.paths.find? g.wantsSplit

/-- A live path in a wait that gives up its split. -/
def Group.yielding (g : Group) : Option Path :=
  g.paths.find? fun p => p.split.isSome && (match p.wait with
    | some w => yields w.kind && !w.ended
    | none => false)

/-- Give a split to a parked path, taking one from a waiting path where none is free. -/
def Group.unpark (g : Group) : Option Group :=
  match g.nextParked with
  | none => none
  | some p =>
    match g.freeSplit with
    | some i => some (g.putPath { p with split := some i })
    | none =>
      match g.yielding with
      | some w => some ((g.putPath { w with split := none }).putPath { p with split := w.split })
      | none => none

end Sys2Proof.Machine
end

