-- ==== Sys2Proof/Machine/Twill.lean ====
section
/-! DEFINITION. Work items, kept-register sets and the Twill pool: sizes, keys, room and placing (R231 to R241). -/

namespace Sys2Proof.Machine

/-! ### Kept-register sets (R34, R232) -/

def Team.keep (t : Team) (k : Nat) : Option Keep := t.info.keeps[k]?

def allRegs : List Reg := (List.range 64).map (BitVec.ofNat 6)
def regsIn (m : DWord) : List Reg := allRegs.filter fun r => m.getLsbD r.toNat

/-- The kept x-registers and v-registers (R49 checks them at the site). -/
def Keep.windowed (k : Keep) : List (Bool × Nat) :=
  (regsIn k.x).map (fun r => (false, r.toNat)) ++ (regsIn k.v).map (fun r => (true, r.toNat))

def keepOutside (t : Team) (k : Keep) : Option (Bool × Nat) := k.windowed.find? fun r => !inWindow t r.1 r.2

def Carried.bytes : Carried → Nat
  | .none => 0
  | .x _ _ => 4
  | .v _ _ => 8

/-- The payload's bytes before its padding (R232). -/
def payloadBytes (k : Keep) (c : Carried) : Nat :=
  4 + 4 * (regsIn k.x).length + 8 * (regsIn k.v).length + 4 * (regsIn k.s).length + c.bytes

/-- The q and m word of a lane: q0 to q7 in [15:0], m1 to m7 in [22:16] (R232). -/
def Group.qmWord (g : Group) (l : Lane) : BitVec 23 :=
  let q := (List.finRange 8).foldl (fun n i => n + ((g.q.get i).get l).toNat * 4 ^ i.val) 0
  let m := (List.finRange 8).foldl (fun n i => if i ≠ 0 && laneOn (g.m.get i) l then n + 2 ^ (15 + i.val) else n) 0
  BitVec.ofNat 23 (q + m)

/-- The item of a lane, with the registers of its kept set (R231, R232). -/
def Ctx.item (c : Ctx) (g : Group) (kind : Nat) (entry : VAddr) (free : Bool) (ks : Nat) (k : Keep) (l : Lane)
    (lin : DWord) (carried : Carried) : Item where
  entry := entry
  kind := kind
  free := free
  lin := lin
  teamT := c.t.info.t
  owner := c.t.uid
  ks := ks
  srcg := g.idx
  seq := c.t.info.seq
  qm := g.qmWord l
  xs := (regsIn k.x).map fun r => (r, g.getX r l)
  vs := (regsIn k.v).map fun r => (r, g.getV r l)
  ss := (regsIn k.s).map fun r => (r, g.getS r)
  carried := carried
  keep := k
  home := .core c.t.core

/-! ### The item as bytes (R231, R232) -/

def Carried.image : Carried → List Byte
  | .none => []
  | .x _ val => natBytes 4 val.toNat
  | .v _ val => natBytes 8 val.toNat

/-- The payload's bytes, before its padding. -/
def Item.payload (i : Item) : List Byte :=
  natBytes 4 i.qm.toNat ++ i.xs.flatMap (fun r => natBytes 4 r.2.toNat) ++ i.vs.flatMap (fun r => natBytes 8 r.2.toNat)
    ++ i.ss.flatMap (fun r => natBytes 4 r.2.toNat) ++ i.carried.image

/-- NUNIT: the payload's length in units of 32 bytes. -/
def Item.nunit (i : Item) : Nat := (payloadBytes i.keep i.carried + 31) / 32
/-- The units that an item occupies (R240). -/
def Item.units (i : Item) : Nat := 1 + i.nunit

/-- The header, 32 bytes; its reserved bits are zero. -/
def Item.header (i : Item) : List Byte :=
  natBytes 8 (i.entry.toNat + 2 ^ 57 * (i.kind % 8) + (if i.free then 2 ^ 60 else 0))
    ++ natBytes 8 i.lin.toNat
    ++ natBytes 8 (i.teamT % 2 ^ 32 + 2 ^ 32 * (i.ks % 16) + 2 ^ 40 * (i.srcg % 64) + 2 ^ 48 * (i.nunit % 256))
    ++ natBytes 8 (i.seq % 2 ^ 32)
/-- The item as its units hold it: the header, the payload, and zero bytes up to a whole unit. -/
def Item.image (i : Item) : List Byte :=
  i.header ++ i.payload ++ List.replicate (32 * i.nunit - i.payload.length) 0#8

/-! ### Queues and room (R240, R241) -/

def regionUnits : Nat := 512

def Item.inRegion (k : Nat) (i : Item) : Bool := i.home == .core k
def Item.inPool (p : Nat) (i : Item) : Bool :=
  match i.home with
  | .pool q _ => q == p
  | .core _ => false
def unitsOf (l : List Item) : Nat := l.foldl (fun n i => n + i.units) 0
def State.regionUsed (s : State) (k : Nat) : Nat := unitsOf (s.items.filter (Item.inRegion k))
def State.poolUsed (s : State) (p : Nat) : Nat := unitsOf (s.items.filter (Item.inPool p))

/-- An item held in a partition's share of the die pool, for core `k`, and its units in memory. The share starts at DPOOLPA, and
where in it an item lies is open: log entry 60. -/
def State.inPool (s : State) (i : Item) (p k : Nat) : State :=
  let q := s.part p
  let at_ := q.dpoolPA + 32 * (Config.poolUnit s.draws % (q.dpoolU - i.units + 1))
  { s.writeRaw at_ i.image with items := s.items ++ [{ i with home := .pool p k }], draws := s.draws + 1 }

/-- The lowest queue number not open. -/
def Core.freeQueue (c : Core) : Option Nat := (List.range 64).find? fun n => c.queues.all fun q => q.num != n

/-- A queue opened for an item whose key has none, where a number is free (R240). -/
def State.openFor (s : State) (k : Nat) (i : Item) : State :=
  let c := s.core k
  if c.queues.any fun q => q.holds i then s else
  match c.freeQueue with
  | some n => s.putCore k { c with queues := c.queues ++ [⟨n, i.entry, i.seq, i.teamKey, s.now⟩] }
  | none => s
/-- Queues opened for the items of a core, in the order they were produced. -/
def State.openQueues (s : State) (k : Nat) : State :=
  (s.items.filter fun i => i.coreOf == k).foldl (fun s i => s.openFor k i) s

/-- Has a core's region room for an item, whose queue is open? -/
def State.regionTakes (s : State) (k : Nat) (i : Item) : Bool :=
  decide (s.regionUsed k + i.units ≤ regionUnits) && (s.core k).queues.any fun q => q.holds i

/-- Place one item: in the core's region, else in its partition's share of the die pool (R241); its queue opens wherever it
lies (R240). -/
def State.placeItem (s : State) (k : Nat) (i : Item) : Option State :=
  let s1 := s.openFor k i
  let p := partOf k
  if s1.regionTakes k i then some { s1 with items := s1.items ++ [{ i with home := .core k }] }
  else if s.poolUsed p + i.units ≤ (s.part p).dpoolU then some (s1.inPool i p k)
  else none

/-- Place every item of a word, or none (R170, R237). -/
def State.placeAll (s : State) (k : Nat) : List Item → Option State
  | [] => some s
  | i :: rest =>
    match s.placeItem k i with
    | some s' => State.placeAll s' k rest
    | none => none

/-- R233. -/
def linOf (p : DWord) (j : Nat) : DWord := p * 0x00000100000001B3#64 + BitVec.ofNat 64 j + 1#64

/-! ### A lane started from an item (R232, R244) -/

/-- The kept registers of an item put into a lane; of the q and m word only the named ones. -/
def Group.takeItem (g : Group) (l : Lane) (i : Item) : Group :=
  let on : Mask := 1#32 <<< l.val
  let g := i.xs.foldl (fun g r => g.setX r.1 on fun _ => r.2) g
  let g := i.vs.foldl (fun g r => g.setV r.1 on fun _ => r.2) g
  let g := (List.range 8).foldl (fun g n =>
    let g := if i.keep.q.getLsbD n then g.setQ (BitVec.ofNat 6 n) on fun _ => i.qm.extractLsb' (2 * n) 2 else g
    if n ≠ 0 && i.keep.m.getLsbD n then
      let r := BitVec.ofNat 6 n
      g.setM r (if i.qm.getLsbD (15 + n) then g.getM r ||| on else g.getM r &&& ~~~on)
    else g) g
  match i.carried with
  | .none => g
  | .x r v => g.setX r on fun _ => v
  | .v r v => g.setV r on fun _ => v

end Sys2Proof.Machine
end

