-- ==== Sys2Proof/Machine/Flight.lean ====
section
/-! DEFINITION. Parties, where they stand and what they see (R343, R344, R347): writes on their way to their home slices,
what releases perform them to (R349, R352, R353), and the posted writes of the host (R356). -/

namespace Sys2Proof.Machine

/-! ### Parties (R343, R344) -/

/-- Where a party stands: a lane, its commands and an agent at their core, a front-end core at its die, the host in the
package, a peer party in the domain. -/
inductive Station where
  | core (k : Nat)
  | die (d : Nat)
  | package
  | domain
deriving DecidableEq, Repr

/-- A party, by the bit of its observer class (0 C, 1 Y, 2 T, 3 P, 4 H) and its station. -/
structure Party where
  cls : Nat
  at_ : Station
deriving DecidableEq, Repr

def laneParty (core : Nat) : Party := ⟨0, .core core⟩
def copyParty (core : Nat) : Party := ⟨1, .core core⟩
def recordParty (core : Nat) : Party := ⟨2, .core core⟩
def frontEndParty (die : Nat) : Party := ⟨0, .die die⟩
def peerParty : Party := ⟨3, .domain⟩
def hostParty : Party := ⟨4, .package⟩

/-- The instance of a scope that contains a core (R345, R369). -/
def scopeInst (scope core : Nat) : Nat :=
  match scope with
  | 2 => core
  | 3 => quadOf core
  | 4 => partOf core
  | 5 => dieOf core
  | _ => 0

/-- The instance of a scope around a station, where the station stands in one (R344, R347). -/
def Station.inst (w : Station) (scope : Nat) : Option Nat :=
  if scope = 7 then some 0 else
  match w with
  | .core k => if 2 ≤ scope ∧ scope ≤ 6 then some (scopeInst scope k) else none
  | .die d => if scope = 5 then some d else if scope = 6 then some 0 else none
  | .package => if scope = 6 then some 0 else none
  | .domain => none

/-- Does a station lie within an instance of a scope? -/
def Station.within (w : Station) (scope inst : Nat) : Bool := w.inst scope == some inst

/-- A party stands inside an object (R347); none stands inside a free entry (R442). -/
def RbEntry.inside (e : RbEntry) (w : Station) : Bool := e.kind != 0 && w.within e.scope e.inst

/-! ### Writes on their way -/

/-- A party sees a write on its way where it stands on the writer's core in class C, or where a release has performed the
write to its class within a scope that it stands in (R352). -/
def Flight.seenBy (f : Flight) (p : Party) : Bool :=
  match f.who with
  | .lane _ k => p == laneParty k || f.seen.any fun v => v.1.getLsbD p.cls && p.at_.within v.2.1 v.2.2
  | .host _ _ => false

/-- The bytes at `pa` with those of a write laid over them. -/
def Flight.lay (f : Flight) (pa : Nat) (bs : List Byte) : List Byte :=
  bs.mapIdx fun i b => if f.pa ≤ pa + i ∧ pa + i < f.pa + f.bytes.length then f.bytes.getD (pa + i - f.pa) b else b

/-- Bytes of the home as a party sees them, the latest write on its way over the earlier ones. -/
def State.overlay (s : State) (p : Party) (pa : Nat) (bs : List Byte) : List Byte :=
  s.flights.foldl (fun bs f => if f.seenBy p then f.lay pa bs else bs) bs

/-- What is left of a write where `n` bytes at `pa` have been written after it. -/
def Flight.cut (f : Flight) (pa n : Nat) : List Flight :=
  if f.pa + f.bytes.length ≤ pa ∨ pa + n ≤ f.pa then [f] else
  [{ f with bytes := f.bytes.take (pa - f.pa) }, { f with pa := pa + n, bytes := f.bytes.drop (pa + n - f.pa) }].filter
    fun x => !x.bytes.isEmpty

/-- A party writes `n` bytes at `pa`: the writes on their way that it sees come before its own (R350, R351). -/
def State.overtake (s : State) (p : Party) (pa n : Nat) : State :=
  { s with flights := s.flights.flatMap fun f => if f.seenBy p then f.cut pa n else [f] }

/-- A write reaches its home slice. -/
def State.arrive (s : State) (f : Flight) : State :=
  match f.attr with
  | some x => s.writeHome x f.pa f.bytes
  | none => s.writePhys f.pa f.bytes

/-- The writes of a kind reach their home slices, the oldest first. -/
def State.landThose (s : State) (which : Flight → Bool) : State :=
  (s.flights.filter which).foldl State.arrive { s with flights := s.flights.filter fun f => !which f }
def State.landAll (s : State) : State := s.landThose fun _ => true
def State.landSeen (s : State) (p : Party) : State := s.landThose fun f => f.seenBy p

/-- The write at a place of the list reaches its home slice ahead of the others; of an earlier write of a party that it
follows, the bytes under it are overtaken. -/
def State.landOne (s : State) (k : Nat) : State :=
  match s.flights[k]? with
  | none => s
  | some f =>
    let earlier := s.flights.take k
    let cut := match f.who with
      | .lane _ core => earlier.flatMap fun e => if e.seenBy (laneParty core) then e.cut f.pa f.bytes.length else [e]
      | .host _ _ => earlier
    ({ s with flights := cut ++ s.flights.drop (k + 1) } : State).arrive f

/-! ### Releases and acquires (R349, R352, R353) -/

/-- The scope of a release: widened to the package for H and to the domain for P (R352). -/
def widened (mask : BitVec 5) (scope : Nat) : Nat :=
  max scope (if mask.getLsbD 3 then 7 else if mask.getLsbD 4 then 6 else 0)

/-- Every write that happens before a release of a party is performed to the classes of its mask, within its scope: at
the home where that reaches the host, a peer, or every class of the package (R352, R357). -/
def State.publish (s : State) (p : Party) (mask : BitVec 5) (scope : Nat) : State :=
  let sc := widened mask scope
  if mask.getLsbD 3 || mask.getLsbD 4 || (decide (6 ≤ sc) && mask.extractLsb' 0 3 == 7#3) then s.landSeen p
  else match p.at_.inst sc with
    | none => s
    | some n => { s with flights := s.flights.map fun f => if f.seenBy p then { f with seen := (mask, sc, n) :: f.seen } else f }

/-- The first step of a release of an object: the writes of a party inside it are performed within the object's scope; of
one outside, the release forms no edge (R347); on a free entry, within the package (R442). -/
def State.releaseWrites (s : State) (p : Party) (part soid : Nat) (mask : BitVec 5) : State :=
  let e := s.rbEntry part soid
  if e.kind = 0 then s.publish p mask 6 else if e.inside p.at_ then s.publish p mask e.scope else s

/-- A release of an object by a party, both its steps (R352): it is counted wherever the party stands. -/
def State.releaseBy (s : State) (p : Party) (part soid : Nat) (mask : BitVec 5) : State :=
  (s.releaseWrites p part soid mask).performRelease part soid

/-- A release by a party that names no object: its writes are performed to the classes of the mask in the package (R297,
R309). DEDUCED, safe: log entry 79. -/
def State.releaseMask (s : State) (p : Party) (mask : BitVec 5) : State := s.publish p mask 6

/-- An acquire that names no object, on behalf of every class of a mask (R297, R309). -/
def State.acquireMask (s : State) (w : Station) (mask : BitVec 5) : State :=
  s.landThose fun f => (List.range 5).any fun c => mask.getLsbD c && f.seenBy ⟨c, w⟩

/-- An acquire on behalf of every class of a mask: the writes that a release has performed to one of them, where the party
stands inside the object, have been performed for all that follows it (R348, R349). -/
def State.acquireFor (s : State) (w : Station) (part soid : Nat) (mask : BitVec 5) : State :=
  if (s.rbEntry part soid).inside w then s.acquireMask w mask else s

/-- What `n` bytes of the home read as to a party. -/
def State.partySees (s : State) (p : Party) (x : Xlat) (pa n : Nat) : List Byte := s.overlay p pa (s.homeBytes x pa n)

/-- A party writes at the home, after the writes on their way that it sees (R350). -/
def State.partyWrites (s : State) (p : Party) (x : Xlat) (pa : Nat) (bs : List Byte) : State :=
  (s.overtake p pa bs.length).writeHome x pa bs

/-- The scope of the sync object bound to an address, or package where none is (R353). The lowest SOID counts where
regions overlap: DESIGN CHOICE, safe: log entry 71. -/
def State.regionScope (s : State) (part va : Nat) : Nat :=
  match (List.range 4096).find? fun n =>
      let e := s.rbEntry part n
      e.kind != 0 && (e.size == 0 || decide (e.base ≤ va ∧ va < e.base + e.size)) with
  | some n => (s.rbEntry part n).scope
  | none => 6

/-! ### The host's posted writes (R356) -/

/-- A doorbell of an ordering stream: every posted write of the stream that was received before it has been performed; one
with the Relaxed Ordering attribute belongs to no stream. -/
def State.ringStream (s : State) (stream : Nat) : State :=
  s.landThose fun f => f.who == .host stream false

end Sys2Proof.Machine
end

