-- ==== Sys2Proof/Machine/Xlate.lean ====
section
/-! DEFINITION. Translation: the image map, the page-table walk, the TLBs (R264 to R269, R440), the L1 data cache
(R261), and reading and writing global memory through them. -/

namespace Sys2Proof.Machine

/-! ### The walk (R264 to R266) -/

/-- A translation, or a fault: `false` for no mapping, `true` for a malformed entry (R266). -/
inductive Walk where
  | ok (x : Xlat)
  | fault (malformed : Bool)
deriving DecidableEq, Repr

/-- The first VA bit and the number of index bits of a level (R264). -/
def levelShift : Nat → Nat
  | 0 => 16
  | 1 => 21
  | 2 => 30
  | 3 => 39
  | _ => 48
def levelBits : Nat → Nat
  | 0 => 5
  | _ => 9

/-- Where a leaf's page lies: the memory it names and whether it is within it (R265, R266). -/
def leafKey (e : Nat) : Nat × Bool :=
  let pa := bitsOf e 16 36 * 2 ^ 16
  if bitsOf e 13 1 = 1 then (peerKey (bitsOf e 56 8) pa, decide (bitsOf e 56 8 < 192 ∧ pa < Config.peerExport (bitsOf e 56 8)))
  else if bitsOf e 12 1 = 1 then (tierKey pa, decide (pa < 2 ^ 40))
  else (pa, decide (pa < 0x6000000000))

/-- R266: is a leaf entry at this level malformed? -/
def leafBad (e lvl : Nat) : Bool :=
  decide (3 ≤ lvl) || bitsOf e 14 2 != 0 || bitsOf e 52 4 != 0 || bitsOf e 5 2 == 3 || bitsOf e 7 2 == 3
    || (bitsOf e 13 1 == 0 && bitsOf e 56 8 != 0)
    || bitsOf e 16 (levelShift lvl - 16) != 0 || !(leafKey e).2

/-- R266: is a table entry at this level malformed? -/
def tableBad (e lvl : Nat) : Bool :=
  lvl == 0 || bitsOf e 2 6 != 0 || bitsOf e 52 12 != 0 || (decide (2 ≤ lvl) && bitsOf e 8 4 != 0)
    || decide (0x6000000000 ≤ bitsOf e 8 44 * 256)

/-- The walk from level `n` down (R264). -/
def walkFrom (m : Memory) (part va : Nat) : Nat → Nat → Walk
  | lvl, table =>
    let e := memNat m (table + 8 * bitsOf va (levelShift lvl) (levelBits lvl)) 8
    if bitsOf e 0 1 = 0 then .fault false
    else if bitsOf e 1 1 = 1 then
      if leafBad e lvl then .fault true else
      .ok { part := part, vbase := va / 2 ^ levelShift lvl * 2 ^ levelShift lvl, log2 := levelShift lvl,
            pbase := (leafKey e).1, rd := bitsOf e 4 1 == 1, wr := bitsOf e 2 1 == 1, ex := bitsOf e 3 1 == 1,
            cl := bitsOf e 5 2, wp := bitsOf e 7 2, evp := bitsOf e 10 2, cmp := bitsOf e 9 1 == 1, fromImage := false }
    else if tableBad e lvl then .fault true
    else match lvl with
      | 0 => .fault true
      | k + 1 => walkFrom m part va k (bitsOf e 8 44 * 256)

/-- The rights of a section kind (R33): read, write, execute. -/
def sectionRights : Nat → Bool × Bool × Bool
  | 1 | 2 => (true, false, true)
  | 7 => (true, true, false)
  | _ => (true, false, false)

/-- The image map (R440): the 64 KiB page of a loaded image with the union of its sections' rights (R37). -/
def imageXlat (img : Image) (va : Nat) : Option Xlat :=
  let off := (va - img.base) / 65536 * 65536
  let on := img.sections.filter fun q => decide (q.2.1 < off + 65536 ∧ off < q.2.1 + q.2.2)
  if on.isEmpty then none else
  some { part := 8, vbase := img.base + off, log2 := 16, pbase := img.pa + off,
         rd := on.any fun q => (sectionRights q.1).1, wr := on.any fun q => (sectionRights q.1).2.1,
         ex := on.any fun q => (sectionRights q.1).2.2, cl := 0, wp := 0, evp := 0, cmp := false, fromImage := true }

/-- The loaded image whose pages hold an address. -/
def State.imageAt (s : State) (va : Nat) : Option Image :=
  s.images.find? fun i => decide (i.base ≤ va ∧ va < i.base + (i.size + 65535) / 65536 * 65536)

/-- The translation of an address in a partition, from the tables (R264, R440). -/
def State.walk (s : State) (part va : Nat) : Walk :=
  match s.imageAt va with
  | some i => match imageXlat i va with
    | some x => .ok x
    | none => .fault false
  | none => if (s.part part).st = .unconfigured then .fault false else walkFrom s.mem part va 4 (s.part part).ptRoot

/-! ### Held translations (R268) -/

def Xlat.covers (x : Xlat) (part va : Nat) : Bool :=
  (x.part == part || x.part == 8) && x.vbase / 2 ^ x.log2 == va / 2 ^ x.log2
def quadIx (q : Nat) : Fin 192 := Fin.ofNat 192 q

/-- A held translation, of the core or of its quad; on a page of a loaded image, the image map's alone (R440). -/
def State.held (s : State) (core part va : Nat) : Option Xlat :=
  let fits (x : Xlat) : Bool := x.covers part va && (x.fromImage || (s.imageAt va).isNone)
  ((s.core core).tlb.find? fits).orElse fun _ => (s.quadTlb.get (quadIx (quadOf core))).find? fits

/-- Of the entries that fall into one set, the first `n`; every other entry stays. -/
def firstWays {α : Type} (inSet : α → Bool) : Nat → List α → List α
  | _, [] => []
  | 0, y :: ys => if inSet y then firstWays inSet 0 ys else y :: firstWays inSet 0 ys
  | n + 1, y :: ys => if inSet y then y :: firstWays inSet n ys else y :: firstWays inSet (n + 1) ys

/-- The set of a quad TLB of 2,048 entries in 8 ways: the page number modulo 256. PRESUMED, safe: log entry 27. -/
def Xlat.quadSet (x : Xlat) : Nat := x.vbase / 2 ^ x.log2 % 256

/-- Hold a translation, the most recent first: 64 in the core, and 8 ways of a set in the quad. -/
def State.hold (s : State) (core : Nat) (x : Xlat) : State :=
  let c := s.core core
  let q := quadIx (quadOf core)
  let others (l : List Xlat) : List Xlat := l.filter fun y => y != x
  { s.putCore core { c with tlb := (x :: others c.tlb).take 64 } with
    quadTlb := s.quadTlb.set q (firstWays (fun y => y.quadSet == x.quadSet) 8 (x :: others (s.quadTlb.get q))) }

/-- The translation a core uses: a held one, or that of a walk, which waits while its region is under service (R268,
R269). DEDUCED, unsafe: log entry 26. -/
def State.xlate (s : State) (core part va : Nat) : Walk :=
  match s.held core part va with
  | some x => .ok x
  | none => if s.serving part va then .fault false else s.walk part va

/-! ### Access -/

def Xlat.allows (x : Xlat) : Need → Bool
  | .read => x.rd
  | .write => x.wr
  | .exec => x.ex
def Xlat.phys (x : Xlat) (va : Nat) : Nat := x.pbase + va % 2 ^ x.log2

/-- Is a page within the ranges assigned to its partition (R266)? Image pages are not checked (R440). -/
def Partition.assigned (p : Partition) (x : Xlat) : Bool :=
  x.fromImage ||
  (if x.pbase < 2 ^ 52 then decide (p.hbmBase ≤ x.pbase ∧ x.pbase + 2 ^ x.log2 ≤ p.hbmBase + p.hbmSize)
   else if x.pbase < 2 * 2 ^ 52 then
     decide (p.tierBase ≤ x.pbase - 2 ^ 52 ∧ x.pbase - 2 ^ 52 + 2 ^ x.log2 ≤ p.tierBase + p.tierSize)
   else true)

/-- What an access to an address comes to: its page, or the fault service's status (R179, R266). -/
inductive Reach where
  | page (x : Xlat)
  | noMap (malformed : Bool)
  | denied
deriving DecidableEq, Repr

def State.reach (s : State) (core part va : Nat) (n : Need) : Reach :=
  match s.xlate core part va with
  | .fault m => .noMap m
  | .ok x => if x.allows n && (s.part part).assigned x then .page x else .denied

/-- The trap record of an access that cannot be made (R378, R379). -/
def reachTrap (r : Reach) (n : Need) (gathered : Bool) (lane : Option Lane) (va : Nat) : Option TrapRec :=
  let info (m : Bool) : BitVec 16 := BitVec.ofNat 16
    ((if n = .write then 1 else 0) + (if n = .exec then 2 else 0) + (if gathered then 4 else 0) + (if m then 8 else 0))
  match r with
  | .page _ => none
  | .noMap m => some ⟨causeTfault, lane, info m, BitVec.ofNat 64 va⟩
  | .denied => some ⟨causePfault, lane, info false, BitVec.ofNat 64 va⟩

/-! ### The L1 data cache (R261) -/

/-- PRESUMED, safe: log entry 27. -/
def l1Set (a : Nat) : Nat := a / 1024 % 16
/-- The distinct lines of a set, the most recent first. -/
def l1Lines (l : List L1Sector) (set : Nat) : List Nat :=
  ((l.filter fun e => l1Set e.addr == set).map fun e => e.addr / 1024).eraseDups

/-- A cached sector, by the address that it was filled through: a read through another mapping fills it anew.
PRESUMED, safe: log entry 27. -/
def Core.l1Find (c : Core) (pa va : Nat) : Option L1Sector :=
  c.l1.find? fun e => e.addr == pa / 256 * 256 && e.vaddr == va / 256 * 256

/-- Fill a sector with the bytes that its reader sees; a ninth line of its set evicts the least recently used (R261). -/
def Core.l1Fill (c : Core) (bytes : List Byte) (pa va : Nat) : Core :=
  let b := pa / 256 * 256
  let l := ⟨b, va / 256 * 256, bytes, false⟩ :: c.l1.filter fun e => e.addr != b
  match (l1Lines l (l1Set b))[8]? with
  | some line => { c with l1 := l.filter fun e => e.addr / 1024 != line }
  | none => { c with l1 := l }
/-- The sector made the most recent. -/
def Core.l1Touch (c : Core) (e : L1Sector) : Core := { c with l1 := e :: c.l1.filter fun x => x.addr != e.addr }
/-- A store through the cache updates a sector that is present (R261). -/
def Core.l1Store (c : Core) (pa : Nat) (bs : List Byte) : Core :=
  { c with l1 := c.l1.map fun e =>
      if e.addr == pa / 256 * 256 then
        { e with bytes := e.bytes.take (pa % 256) ++ bs ++ e.bytes.drop (pa % 256 + bs.length) }
      else e }
/-- Drop the line of an address. -/
def Core.l1Drop (c : Core) (pa : Nat) : Core := { c with l1 := c.l1.filter fun e => e.addr / 1024 != pa / 1024 }
/-- Drop the lines of a virtual range (R352). -/
def Core.l1DropRange (c : Core) (base size : Nat) : Core :=
  { c with l1 := c.l1.filter fun e => decide (e.vaddr / 1024 * 1024 + 1024 ≤ base ∨ base + size ≤ e.vaddr / 1024 * 1024) }
def Core.l1Clear (c : Core) : Core := { c with l1 := [] }
/-- A core's L1 emptied. -/
def State.clearL1 (s : State) (core : Nat) : State := s.putCore core (s.core core).l1Clear

/-- What the lanes of a core see of `n` bytes at the home (R350). -/
def State.seen (s : State) (core : Nat) (x : Xlat) (pa n : Nat) : List Byte :=
  s.partySees (laneParty core) x pa n

/-- A lane's plain read of `n` bytes that lie in one sector, at a page it may read: through L1 where the page allocates
there, else at the home (R261, R267). -/
def State.loadAt (s : State) (core : Nat) (x : Xlat) (va n : Nat) : List Byte × State :=
  let pa := x.phys va
  let s := s.hold core x
  if x.cl = 0 then
    match (s.core core).l1Find pa va with
    | some e => ((e.bytes.drop (pa % 256)).take n, s.putCore core ((s.core core).l1Touch e))
    | none => (s.seen core x pa n,
        (s.readHome x pa).putCore core ((s.core core).l1Fill (s.seen core x (pa / 256 * 256) 256) pa va))
  else (s.seen core x pa n, s.readHome x pa)

/-- A lane's read at the home, past its L1, as a window, a command block or a multicast read makes it: the line is dropped
from L1, so that no later plain read is older (R272, R289, R351). -/
def State.passL1 (s : State) (core : Nat) (x : Xlat) (pa : Nat) : State :=
  let s := (s.hold core x).readHome x pa
  s.putCore core ((s.core core).l1Drop pa)

/-- A lane's plain write: to a copy in its core's L1 (R261), and to the home slice, at once or later (R352). -/
def State.storeAt (s : State) (core gid : Nat) (x : Xlat) (va : Nat) (bs : List Byte) : State :=
  let pa := x.phys va
  let s := s.hold core x
  let s := s.putCore core ((s.core core).l1Store pa bs)
  if s.late then { s with flights := s.flights ++ [⟨.lane gid core, pa, bs, some x, []⟩] }
  else s.partyWrites (laneParty core) x pa bs

/-! ### Code -/

/-- The word at a code position, where its page may be fetched. -/
def State.peekWord (s : State) (core part : Nat) (va : VAddr) : Option Word :=
  match s.reach core part va.toNat .exec with
  | .page x => some (BitVec.ofNat 32 (memNat s.mem (x.phys va.toNat) 4))
  | _ => none

/-- Does a code address name something (R90)? A low code names something where its slot holds a pair. -/
def State.namesCode (s : State) (core part : Nat) (a : VAddr) : Bool :=
  let o := a.toNat % 12
  if o < 3 then true
  else if 4 ≤ o ∧ o < 7 then
    match s.peekWord core part (BitVec.ofNat 57 (a.toNat / 12 * 12 + 4 * (o - 4))) with
    | some w => w.extractLsb' 26 5 == 0x1F#5 && w.extractLsb' 0 16 != 0#16
    | none => true
  else false

end Sys2Proof.Machine
end

