-- ==== Sys2Proof/Machine/Access.lean ====
section
/-! DEFINITION. The four address spaces as a lane reaches them (R252 to R257, R271, R272): reading and writing
bytes, the checks of R280 and R282 in their order, and reads of command blocks. -/

namespace Sys2Proof.Machine

/-! ### A team's own scratchpad (R253) -/

def veneerBase : Nat := 0x40000
/-- Offsets in the claimable granules. -/
def Team.inGranules (t : Team) (off n : Nat) : Bool := decide (off + n ≤ t.hold.scr * 4096)
/-- Offsets in the front bank of the Veneer. -/
def Team.inVeneer (t : Team) (off n : Nat) : Bool :=
  decide (veneerBase ≤ off ∧ off + n ≤ veneerBase + t.info.ven * 2048)
/-- Offsets that the team holds; 64 granules and the Veneer adjoin. -/
def Team.inHeld (t : Team) (off n : Nat) : Bool :=
  t.inGranules off n || t.inVeneer off n
    || decide (t.hold.scr * 4096 = veneerBase ∧ off ≤ veneerBase ∧ off + n ≤ veneerBase + t.info.ven * 2048)

def Team.scrGet (t : Team) (off : Nat) : Byte :=
  if veneerBase ≤ off then memGet t.venFront (off - veneerBase) else memGet t.scr off
def Team.scrBytes (t : Team) (off n : Nat) : List Byte := (List.range n).map fun i => t.scrGet (off + i)
def Team.scrPut (t : Team) (off : Nat) (bs : List Byte) : Team :=
  if veneerBase ≤ off then { t with venFront := memPut t.venFront (off - veneerBase) bs }
  else
    { t with
      scr := memPut t.scr off (bs.take (veneerBase - off)), venFront := memPut t.venFront 0 (bs.drop (veneerBase - off)),
      bad := t.bad.filter fun a => decide (a < off ∨ off + bs.length ≤ a) }
/-- Some of `n` bytes hold an uncorrectable error (R274). -/
def Team.scrBad (t : Team) (off n : Nat) : Bool := t.bad.any fun a => decide (off ≤ a ∧ a < off + n)
def Team.scrNat (t : Team) (off n : Nat) : Nat := bytesNat (t.scrBytes off n)

/-! ### The teams of a gang (R254) -/

/-- Team `j` of a team's gang; none where there is no such team or it has retired. DEDUCED, unsafe: log entry 59. -/
def State.gangTeam (s : State) (t : Team) (j : Nat) : Option Team :=
  match t.info.gang with
  | none => none
  | some g =>
    if g.size ≤ j then none else
    (s.teams.find? fun u => u.info.seq == t.info.seq && u.info.gang == t.info.gang && u.info.t == g.t0 + j).bind
      fun u => s.team u.uid

/-- The team and offset of an own (1) or cluster (2) address. -/
def State.scratch (s : State) (t : Team) (space a : Nat) : Option (Team × Nat) :=
  if space = 1 then some (t, a) else (s.gangTeam t (a / 2 ^ 19)).map fun u => (u, a % 2 ^ 19)

/-! ### Global bytes without L1 -/

/-- A byte at its home slice; MEMERR where its sector holds an uncorrectable error (R274). -/
def State.byteAt (s : State) (core part : Nat) (lane : Option Lane) (gathered : Bool) (va : Nat) : Except TrapRec Byte :=
  if 2 ^ 57 ≤ va then .error ⟨causeTfault, lane, if gathered then 4#16 else 0#16, BitVec.ofNat 64 va⟩ else
  match s.reach core part va .read with
  | .page x =>
    if s.lost (x.phys va) then .error ⟨causeMemerr, lane, 0#16, BitVec.ofNat 64 va⟩
    else .ok ((s.seen core x (x.phys va) 1).headD emptyByte)
  | r => match reachTrap r .read gathered lane va with
    | some t => .error t
    | none => .ok emptyByte

/-- The bytes from `va`, or the first fault. -/
def State.bytesAt (s : State) (core part : Nat) (lane : Option Lane) : Nat → Nat → Except TrapRec (List Byte)
  | _, 0 => .ok []
  | va, n + 1 =>
    match s.byteAt core part lane false va, s.bytesAt core part lane (va + 1) n with
    | .ok b, .ok bs => .ok (b :: bs)
    | .error t, _ => .error t
    | _, .error t => .error t

/-- What reading `n` bytes at their homes leaves: the pages held, the lines in their slices, and none of them in the
reading core's L1. -/
def State.passBytes (s : State) (core part : Nat) : Nat → Nat → State
  | _, 0 => s
  | va, n + 1 =>
    match s.reach core part va .read with
    | .page x => State.passBytes (s.passL1 core x (x.phys va)) core part (va + 1) n
    | _ => State.passBytes s core part (va + 1) n

/-- The doublewords of a command block in global memory (R297, R309, R328). -/
def State.blockAt (s : State) (core part va n : Nat) : Except TrapRec (List DWord) :=
  match s.bytesAt core part none va (8 * n) with
  | .error t => .error t
  | .ok bs => .ok ((List.range n).map fun i => BitVec.ofNat 64 (bytesNat ((bs.drop (8 * i)).take 8)))

/-- Does a write of `n` bytes at `va` reach a page that allows it? The first fault otherwise. -/
def State.canWrite (s : State) (core part : Nat) : Nat → Nat → Option TrapRec
  | _, 0 => none
  | va, n + 1 =>
    if 2 ^ 57 ≤ va then some ⟨causeTfault, none, 1#16, BitVec.ofNat 64 va⟩ else
    match reachTrap (s.reach core part va .write) .write false none va with
    | some t => some t
    | none => s.canWrite core part (va + 1) n

/-- Some of `n` bytes at `va` lie in a peer module that gives no reply (R420). -/
def State.writeLost (s : State) (core part va n : Nat) : Bool :=
  (List.range n).any fun i => match s.reach core part (va + i) .write with
    | .page x => s.unanswered (x.phys (va + i))
    | _ => false

/-- Write bytes at their home slices, at the translations that the step saw in `s0`, dropping nothing else. -/
def State.putAt (s s0 : State) (core part : Nat) : Nat → List Byte → State
  | _, [] => s
  | va, b :: bs =>
    match s0.reach core part va .write with
    | .page x => State.putAt (s.writeHome x (x.phys va) [b]) s0 core part (va + 1) bs
    | _ => s

/-! ### Gather windows (R271, R272) -/

def winIx (w : Nat) : Fin 16 := Fin.ofNat 16 w

/-- Byte `o` of a bound window. -/
def State.windowByte (s : State) (core part : Nat) (lane : Option Lane) (w : Window) (o : Nat) : Except TrapRec Byte :=
  if w.count * w.rowSize ≤ o then .ok 0#8 else
  match s.bytesAt core part lane (w.idx.toNat + 4 * (o / w.rowSize)) 4 with
  | .error t => .error t
  | .ok ix => s.byteAt core part lane true ((w.base.toNat + bytesNat ix * w.stride + o % w.rowSize) % 2 ^ 64)

/-- Bytes of a window, or the fault that is reported: a translation fault of any byte, then a protection fault, then
MEMERR (R282). -/
def State.windowBytes (s : State) (core part : Nat) (lane : Option Lane) (w : Window) (o n : Nat) : Except TrapRec (List Byte) :=
  let each := (List.range n).map fun i => s.windowByte core part lane w (o + i)
  let met (cause : Byte) : Option TrapRec := each.findSome? fun e => match e with
    | .error t => if t.cause = cause then some t else none
    | .ok _ => none
  match ((met causeTfault).orElse fun _ => met causePfault).orElse fun _ => met causeMemerr with
  | some t => .error t
  | none => .ok (each.map fun e => match e with
    | .ok b => b
    | .error _ => emptyByte)

/-- What reading bytes of a window leaves: its index entries and rows read at their homes (R272). -/
def State.windowPass (s : State) (core part : Nat) (w : Window) (o n : Nat) : State :=
  (List.range n).foldl (fun t i =>
    if w.count * w.rowSize ≤ o + i then t else
    let ia := w.idx.toNat + 4 * ((o + i) / w.rowSize)
    match s.bytesAt core part none ia 4 with
    | .error _ => t
    | .ok ix => (t.passBytes core part ia 4).passBytes core part
        ((w.base.toNat + bytesNat ix * w.stride + (o + i) % w.rowSize) % 2 ^ 64) 1) s

/-! ### A lane's access: its address (R279) and its checks (R280, R282) -/

/-- The address of a lane under an LD or ST word. -/
def Ctx.address (c : Ctx) (f : FormL) (size : Nat) (l : Lane) : Nat :=
  let r (b : Reg) : Nat := (if f.ub then c.g.getS b else c.g.getX b l).toNat
  let idx : Int := ((c.xFourth l).getD 0#32).toNat
  let off : Int := f.off.toInt * size
  if f.space = 0#2 then (((r f.base + 2 ^ 32 * r (f.base + 1#6) : Nat) + idx + off) % (2 ^ 64 : Int)).toNat
  else ((r f.base + idx + off) % (2 ^ 32 : Int)).toNat

/-- What an access may touch beside the plain rule of its space. -/
inductive AccKind where
  | plain | atomic | fullEmpty | veneerBack
deriving DecidableEq, Repr

/-- One access of a lane, or of the word as a whole. -/
structure Acc where
  lane : Option Lane
  a : Nat
deriving DecidableEq, Repr

def Acc.trap (x : Acc) (cause : Byte) (info : Nat) : TrapRec := ⟨cause, x.lane, BitVec.ofNat 16 info, BitVec.ofNat 64 x.a⟩

def alignTrap (n : Nat) (x : Acc) : Option TrapRec := if x.a % n = 0 then none else some (x.trap causeAlign 0)

/-- SPRANGE (R280, R291). -/
def State.rangeTrap (s : State) (t : Team) (space n : Nat) (k : AccKind) (x : Acc) : Option TrapRec :=
  let ok :=
    if space = 0 then true
    else if space = 3 then (t.windows.get (winIx (x.a / 2 ^ 28))).isSome
    else match s.scratch t space x.a with
      | none => false
      | some (u, off) => match k with
        | .plain | .atomic => u.inHeld off n
        | .fullEmpty => u.inGranules off n
        | .veneerBack => u.inVeneer off n
  if ok then none else some (x.trap causeSprange 0)

/-- A translation or protection fault of an access (R266, R272). -/
def State.mapTrap (s : State) (core part : Nat) (t : Team) (space n : Nat) (need : Need) (x : Acc) : Option TrapRec :=
  if space = 0 then
    if 2 ^ 57 ≤ x.a then some (x.trap causeTfault (if need = .write then 1 else 0))
    else reachTrap (s.reach core part x.a need) need false x.lane x.a
  else if space = 3 then
    match t.windows.get (winIx (x.a / 2 ^ 28)) with
    | none => none
    | some w => match s.windowBytes core part x.lane w (x.a % 2 ^ 28) n with
      | .ok _ => none
      | .error e => some e
  else none

/-- A read that meets an uncorrectable error: in a team's scratchpad, in the copy that the core's L1 holds, or at the home
(R274, R420). -/
def State.errTrap (s : State) (core part : Nat) (t : Team) (space n : Nat) (cached : Bool) (x : Acc) : Option TrapRec :=
  let met : Bool :=
    if space = 0 then
      match s.reach core part x.a .read with
      | .page p => match (if cached && p.cl == 0 then (s.core core).l1Find (p.phys x.a) x.a else none) with
        | some e => e.bad
        | none => s.lost (p.phys x.a)
      | _ => false
    else if space = 3 then false
    else match s.scratch t space x.a with
      | some (u, off) => u.scrBad off n
      | none => false
  if met then some (x.trap causeMemerr 0) else none

/-- A write that gets no reply from a peer module (R420). -/
def State.replyTrap (s : State) (core part space : Nat) (k : AccKind) (x : Acc) : Option TrapRec :=
  if space ≠ 0 ∨ k = .atomic then none else
  match s.reach core part x.a .write with
  | .page p => if s.unanswered (p.phys x.a) then some (x.trap causeMemerr 0) else none
  | _ => none

/-- The first trap that some access meets, the checks taken in order. -/
def firstTrap (xs : List Acc) : List (Acc → Option TrapRec) → Option TrapRec
  | [] => none
  | chk :: rest =>
    match xs.findSome? chk with
    | some t => some t
    | none => firstTrap xs rest

def onlyCause (cause : Byte) (t : Option TrapRec) : Option TrapRec :=
  match t with
  | some r => if r.cause = cause then some r else none
  | none => none

/-- The checks of R282 over the accesses of a word, in their order. -/
def State.accessTrap (s : State) (c : Ctx) (space n : Nat) (need : Need) (k : AccKind) (cached : Bool) (xs : List Acc) :
    Option TrapRec :=
  let map (x : Acc) : Option TrapRec := s.mapTrap c.t.core c.part c.t space n need x
  firstTrap xs [alignTrap n, s.rangeTrap c.t space n k, fun x => onlyCause causeTfault (map x),
    fun x => onlyCause causePfault (map x),
    fun x => if need = .read then (s.errTrap c.t.core c.part c.t space n cached x).orElse fun _ => onlyCause causeMemerr (map x)
      else s.replyTrap c.t.core c.part space k x]

/-- An error at a global address has been consumed (R274, R420); a copy in the core's L1 that holds one is dropped. -/
def State.consumeBad (s : State) (core part va : Nat) : State :=
  match s.xlate core part va with
  | .ok p =>
    let c := s.core core
    if c.l1.any fun e => e.bad && e.addr == p.phys va / 256 * 256 then
      s.putCore core { c with l1 := c.l1.filter fun e => !(e.bad && e.addr == p.phys va / 256 * 256) }
    else s.consume (p.phys va) (2 ^ part)
  | _ => s

/-- The trap of a memory word: MEMERR consumes an error of global memory; a fault may wait for the service. -/
def accessFails (s : State) (c : Ctx) (space : Nat) (t : TrapRec) : Out :=
  if t.cause ≠ causeMemerr then takeFault s c t
  else takeTrap (if space = 1 ∨ space = 2 then s else s.consumeBad c.t.core c.part t.fa.toNat) c t

/-- Read `n` bytes for a lane whose checks have passed, at the translation that they saw in `s0`. -/
def State.laneRead (s : State) (s0 : State) (c : Ctx) (space n a : Nat) : List Byte × State :=
  if space = 0 then
    match s0.reach c.t.core c.part a .read with
    | .page x => s.loadAt c.t.core x a n
    | _ => ([], s)
  else if space = 3 then
    match c.t.windows.get (winIx (a / 2 ^ 28)) with
    | none => ([], s)
    | some w => match s0.windowBytes c.t.core c.part none w (a % 2 ^ 28) n with
      | .ok bs => (bs, s.windowPass c.t.core c.part w (a % 2 ^ 28) n)
      | .error _ => ([], s)
  else
    match (s.team c.t.uid).bind fun t => s.scratch t space a with
    | some (u, off) => (u.scrBytes off n, s)
    | none => ([], s)

/-- Write bytes for a lane whose checks have passed, at the translation that they saw in `s0`. -/
def State.laneWrite (s : State) (s0 : State) (c : Ctx) (space a : Nat) (bs : List Byte) : State :=
  if space = 0 then
    match s0.reach c.t.core c.part a .write with
    | .page x => s.storeAt c.t.core c.g.gid x a bs
    | _ => s
  else
    match (s.team c.t.uid).bind fun t => s.scratch t space a with
    | some (u, off) => s.putTeam (u.scrPut off bs)
    | none => s

end Sys2Proof.Machine
end

