-- ==== Sys2Proof/Machine/Load.lean ====
section
/-! DEFINITION. The LD members (R279 to R287, R289, R290). -/

namespace Sys2Proof.Machine

/-- The active lanes' accesses. -/
def Ctx.accs (c : Ctx) (f : FormL) (size : Nat) : List Acc :=
  (lanesOf c.active).map fun l => ⟨some l, c.address f size l⟩

/-- Little-endian word `k` of some bytes. -/
def wordIn (bs : List Byte) (k : Nat) : Word := BitVec.ofNat 32 (bytesNat ((bs.drop (4 * k)).take 4))

/-- Read every active lane's bytes in lane order and put them into the group. -/
def readLanes (s : State) (c : Ctx) (f : FormL) (size : Nat) (put : Lane → List Byte → Group → Group) :
    State × Group :=
  (lanesOf c.active).foldl (fun sg l =>
    let r := sg.1.laneRead s c f.space.toNat size (c.address f size l)
    (r.2, put l r.1 sg.2)) (s, c.g)

/-- The whole step of a plain load. -/
def loadWord (i : Instr) (f : FormL) (s : State) (size : Nat) (put : Lane → List Byte → Group → Group)
    (zero : Mask → Group → Group) : Out :=
  word i s fun c =>
    match s.accessTrap c f.space.toNat size .read .plain true (c.accs f size) with
    | some t => accessFails s c f.space.toNat t
    | none =>
      let r := readLanes s c f size put
      finish r.1 c (zero c.zeroed r.2)

def laneBit (l : Lane) : Mask := 1#32 <<< l.val

/-- `n` consecutive x-registers from D get the words of a lane's bytes. -/
def putWords (d : Reg) (n : Nat) (l : Lane) (bs : List Byte) (g : Group) : Group :=
  (List.range n).foldl (fun g k => g.setX (d + BitVec.ofNat 6 k) (laneBit l) fun _ => wordIn bs k) g
def zeroWords (d : Reg) (n : Nat) (on : Mask) (g : Group) : Group :=
  (List.range n).foldl (fun g k => g.setX (d + BitVec.ofNat 6 k) on fun _ => 0#32) g

def loadX (i : Instr) (f : FormL) (s : State) (size n : Nat) : Out :=
  loadWord i f s size (putWords f.d n) (zeroWords f.d n)

def execLdb (f : FormL) (s : State) : Out := loadX (.ldb f) f s 1 1
def execLdh (f : FormL) (s : State) : Out := loadX (.ldh f) f s 2 1
def execLdw (f : FormL) (s : State) : Out := loadX (.ldw f) f s 4 1
def execLdd (f : FormL) (s : State) : Out := loadX (.ldd f) f s 8 2
def execLdq (f : FormL) (s : State) : Out := loadX (.ldq f) f s 16 4

/-- An interval into a v-register, with its flags. -/
def putItv (d : Reg) (conv : Nat → DWord × Flags) (l : Lane) (bs : List Byte) (g : Group) : Group :=
  let r := conv (bytesNat bs)
  (g.setV d (laneBit l) fun _ => r.1).flag r.2
def zeroItv (d : Reg) (on : Mask) (g : Group) : Group := g.setV d on fun _ => 0#64

/-- R67 as a load does it: the canonical image and INV. DEDUCED, unsafe: log entry 46. -/
def canonF32 (n : Nat) : DWord × Flags :=
  let r := readF32 (BitVec.ofNat 64 n)
  ((writeF32 r.1).1, r.2)

/-- LDV (R285). -/
def execLdv (f : FormL) (s : State) : Out := loadWord (.ldv f) f s 8 (putItv f.d canonF32) (zeroItv f.d)
/-- LDVC (R285, R73). -/
def execLdvc (f : FormL) (s : State) : Out := loadWord (.ldvc f) f s 4 (putItv f.d mrcDecode) (zeroItv f.d)

/-! ### LDFF (R286) -/

/-- The lanes after the first: read until one faults. -/
def ldffLoop (c : Ctx) (f : FormL) : List Lane → State → Group → Mask → State × Group × Mask
  | [], s, g, m => (s, g, m)
  | l :: rest, s, g, m =>
    let a : Acc := ⟨some l, c.address f 4 l⟩
    match s.accessTrap c f.space.toNat 4 .read .plain true [a] with
    | some _ => (s, g, m)
    | none =>
      let r := s.laneRead s c f.space.toNat 4 a.a
      ldffLoop c f rest r.2 (putWords f.d 1 l r.1 g) (m ||| laneBit l)

/-- LDFF: the first active lane traps, a later one stops the loop; m7 holds the lanes written. -/
def execLdff (f : FormL) (s : State) : Out :=
  word (.ldff f) s fun c =>
    let all := c.accs f 4
    let first := all.take 1
    match firstTrap all [alignTrap 4, s.rangeTrap c.t f.space.toNat 4 .plain] with
    | some t => accessFails s c 0 t
    | none =>
    match s.accessTrap c f.space.toNat 4 .read .plain true first with
    | some t => accessFails s c f.space.toNat t
    | none =>
      let r := ldffLoop c f (lanesOf c.active) s c.g 0#32
      finish r.1 c ((zeroWords f.d 1 c.zeroed r.2.1).setM 7#6 r.2.2)

/-! ### LDFE (R287) -/

/-- The lines that a list of (lane, team, offset) touches. -/
def linesOf (l : List (Lane × Nat × Nat)) : List (Nat × Nat) := (l.map fun a => (a.2.1, a.2.2 / 128)).eraseDups

def State.lineFull (s : State) (k : Nat × Nat) : Bool :=
  match s.team k.1 with
  | some t => t.full.contains k.2
  | none => false

/-- The waits in LDFE that began before `start`, serviceable now, on some of these lines. -/
def State.ldfeAhead (s : State) (start : Nat) (lines : List (Nat × Nat)) : Bool :=
  s.groups.any fun g => g.paths.any fun p => match p.wait with
    | some w => match w.kind with
      | .ldfe _ ad _ _ => decide (w.start < start) && (linesOf ad).all s.lineFull && (linesOf ad).any lines.contains
      | _ => false
    | none => false

/-- Read the words and clear the lines, as one action on each line. -/
def ldfeServe (s : State) (g : Group) (d : Reg) (ad : List (Lane × Nat × Nat)) (zeroed : Mask) : State × Group :=
  let read (g : Group) (a : Lane × Nat × Nat) : Group :=
    match s.team a.2.1 with
    | some t => putWords d 1 a.1 (t.scrBytes a.2.2 4) g
    | none => g
  let s' := (linesOf ad).foldl (fun s k => match s.team k.1 with
    | some t => s.putTeam { t with full := t.full.filter fun n => n != k.2 }
    | none => s) s
  (s', zeroWords d 1 zeroed (ad.foldl read g))

/-- LDFE: served at once when its lines are full and none is ahead of it; else it waits (R150). -/
def execLdfe (f : FormL) (s : State) : Out :=
  word (.ldfe f) s fun c =>
    match s.accessTrap c f.space.toNat 4 .read .fullEmpty false (c.accs f 4) with
    | some t => accessFails s c f.space.toNat t
    | none =>
      let ad := (lanesOf c.active).filterMap fun l =>
        (s.scratch c.t f.space.toNat (c.address f 4 l)).map fun u => (l, u.1.uid, u.2)
      if (linesOf ad).all s.lineFull && !s.ldfeAhead s.now (linesOf ad) then
        let r := ldfeServe s c.g f.d ad c.zeroed
        finish r.1 c r.2
      else waitAt s c c.g (.ldfe f ad c.zeroed c.cur.next)

/-! ### LDMC (R278, R289) and LDUN (R290) -/

/-- The cycles an entry stays open after its reply (R278). -/
def mcastOpen : Nat := 64

/-- A multicast read: from the open entry of its sector, or a new one (R278). -/
def State.mcastRead (s : State) (x : Xlat) (pa n : Nat) : List Byte × State :=
  let b := pa / 256 * 256
  match s.mcasts.find? fun e => e.addr == b && decide (s.now ≤ e.replied + mcastOpen) with
  | some e => ((e.bytes.drop (pa % 256)).take n, s)
  | none =>
    let e : McastEntry := ⟨b, s.homeBytes x b 256, s.now⟩
    (s.homeBytes x pa n, { s.readHome x pa with mcasts := e :: s.mcasts.filter fun x => x.addr != b })

def execLdmc (f : FormL) (s : State) : Out :=
  word (.ldmc f) s fun c =>
    match s.accessTrap c 0 4 .read .plain false (c.accs f 4) with
    | some t => accessFails s c 0 t
    | none =>
      let r := (lanesOf c.active).foldl (fun (sg : State × Group) l =>
        match s.reach c.t.core c.part (c.address f 4 l) .read with
        | .page x =>
          let pa := x.phys (c.address f 4 l)
          let r := (sg.1.passL1 c.t.core x pa).mcastRead x pa 4
          (r.2, putWords f.d 1 l r.1 sg.2)
        | _ => sg) (s, c.g)
      finish r.1 c (zeroWords f.d 1 c.zeroed r.2)

/-- LDUN: once per word, from the s-base or the lowest active lane's. -/
def execLdun (f : FormL) (s : State) : Out :=
  word (.ldun f) s fun c =>
    match lanesOf c.active with
    | [] => finish s c c.g
    | l :: _ =>
      let a : Acc := ⟨if f.ub then none else some l, c.address f 4 l⟩
      match s.accessTrap c f.space.toNat 4 .read .plain true [a] with
      | some t => accessFails s c f.space.toNat t
      | none =>
        let r := s.laneRead s c f.space.toNat 4 a.a
        finish r.2 c (c.g.setS f.d (wordIn r.1 0))

end Sys2Proof.Machine
end

