-- ==== Sys2Proof/Machine/Store.lean ====
section
/-! DEFINITION. The ST members (R283 to R285, R288, R291). -/

namespace Sys2Proof.Machine

/-- Write every active lane's bytes in lane order, so that the highest lane's bytes stand (R284). -/
def writeLanes (s : State) (c : Ctx) (f : FormL) (size : Nat) (val : Lane → List Byte) : State :=
  (lanesOf c.active).foldl (fun t l => t.laneWrite s c f.space.toNat (c.address f size l) (val l)) s

/-- The whole step of a plain store. -/
def storeWord (i : Instr) (f : FormL) (s : State) (size : Nat) (val : Ctx → Lane → List Byte × Flags) : Out :=
  word i s fun c =>
    match s.accessTrap c f.space.toNat size .write .plain false (c.accs f size) with
    | some t => accessFails s c f.space.toNat t
    | none =>
      finish (writeLanes s c f size fun l => (val c l).1) c (c.g.flag (flagsOver c.active fun l => (val c l).2))

/-- The low bytes of `n` consecutive x-registers. -/
def xBytes (c : Ctx) (d : Reg) (n : Nat) (l : Lane) : List Byte :=
  (List.range n).flatMap fun k => natBytes 4 (c.g.getX (d + BitVec.ofNat 6 k) l).toNat

def storeX (i : Instr) (f : FormL) (s : State) (size n : Nat) : Out :=
  storeWord i f s size fun c l => ((xBytes c f.d n l).take size, 0#6)

def execStb (f : FormL) (s : State) : Out := storeX (.stb f) f s 1 1
def execSth (f : FormL) (s : State) : Out := storeX (.sth f) f s 2 1
def execStw (f : FormL) (s : State) : Out := storeX (.stw f) f s 4 1
def execStd (f : FormL) (s : State) : Out := storeX (.std f) f s 8 2
def execStq (f : FormL) (s : State) : Out := storeX (.stq f) f s 16 4

/-- STV: the image unchanged (R285). -/
def execStv (f : FormL) (s : State) : Out :=
  storeWord (.stv f) f s 8 fun c l => (natBytes 8 (c.g.getV f.d l).toNat, 0#6)

/-- STVC: the MRC word (R74), INV from canonicalisation alone. -/
def execStvc (f : FormL) (s : State) : Out :=
  storeWord (.stvc f) f s 4 fun c l =>
    let r := readF32 (c.g.getV f.d l)
    (natBytes 4 (mrcEncode r.1), r.2)

/-- STFE: writes every word, then sets the bit of each touched line (R257, R288). -/
def execStfe (f : FormL) (s : State) : Out :=
  word (.stfe f) s fun c =>
    match s.accessTrap c f.space.toNat 4 .write .fullEmpty false (c.accs f 4) with
    | some t => accessFails s c f.space.toNat t
    | none =>
      let ad := (lanesOf c.active).filterMap fun l =>
        (s.scratch c.t f.space.toNat (c.address f 4 l)).map fun u => (l, u.1.uid, u.2)
      let s1 := writeLanes s c f 4 fun l => xBytes c f.d 1 l
      let s2 := (linesOf ad).foldl (fun s k => match s.team k.1 with
        | some t => s.putTeam { t with full := if t.full.contains k.2 then t.full else k.2 :: t.full }
        | none => s) s1
      finish s2 c c.g

/-- STX: the back bank of the gang team that the address names (R256, R291). -/
def execStx (f : FormL) (s : State) : Out :=
  word (.stx f) s fun c =>
    match s.accessTrap c 2 4 .write .veneerBack false (c.accs f 4) with
    | some t => accessFails s c 2 t
    | none =>
      let s1 := (lanesOf c.active).foldl (fun s l =>
        match (s.team c.t.uid).bind fun t => s.scratch t 2 (c.address f 4 l) with
        | some (u, off) => s.putTeam { u with venBack := memPut u.venBack (off - veneerBase) (xBytes c f.d 1 l) }
        | none => s) s
      finish s1 c c.g

end Sys2Proof.Machine
end

