-- ==== Sys2Proof/Machine/Atomic.lean ====
section
/-! DEFINITION. The ATOM members and the bank ALU that performs them (R263, R292 to R295). -/

namespace Sys2Proof.Machine

/-- An acquire fence by a lane: its core's L1 is invalidated whole (R353). -/
def State.acquireFence (s : State) (core : Nat) : State := s.clearL1 core

/-- A lane's bank operation on the word of `n` bytes at a physical address: the old value as the lane sees it, and the new
one written, after the writes on their way that the lane sees (R263, R267, R351). -/
def State.bankOp (s : State) (core : Nat) (x : Xlat) (pa n : Nat) (f : Nat → Nat) : Nat × State :=
  let old := bytesNat (s.seen core x pa n)
  (old, (s.readHome x pa).partyWrites (laneParty core) x pa (natBytes n (f old)))

/-- An uncorrectable sector under a bank's word, at the translation that the word's checks saw in `s0` (R295). -/
def State.bankError (s s0 : State) (c : Ctx) (x : Acc) : Option TrapRec :=
  match s0.reach c.t.core c.part x.a .write with
  | .page p => if s.lost (p.phys x.a) then some (x.trap causeMemerr 0x8000) else none
  | _ => none

/-- The observer mask of an atomic: C, and what SEL adds (R293). -/
def Ctx.atomMask (c : Ctx) : BitVec 5 := BitVec.ofNat 5 (1 + 2 * (c.sel % 16))

/-- The release fence of an atomic with REL, before its first lane: in the scope of the object bound to each active lane's
address (R293, R353). -/
def State.atomRelease (s : State) (c : Ctx) (xs : List Acc) : State :=
  if s.flights.isEmpty then s else
  xs.foldl (fun t x => t.publish (laneParty c.t.core) c.atomMask (s.regionScope c.part x.a)) s

/-- The address of a lane's atomic. -/
def Ctx.atomAddr (c : Ctx) (a : Reg) (l : Lane) : Nat := (c.g.getX a l).toNat + 2 ^ 32 * (c.g.getX (a + 1#6) l).toNat

/-- Perform the lanes in increasing order until one meets an uncorrectable error (R292, R295), at the translations that
the word's checks saw in `s0`. -/
def atomLoop (s0 : State) (c : Ctx) (a : Reg) (n : Nat) (new : Lane → Nat → Nat) (put : Lane → Nat → Group → Group) :
    List Lane → State → Group → State × Group × Option TrapRec
  | [], s, g => (s, g, none)
  | l :: rest, s, g =>
    let x : Acc := ⟨some l, c.atomAddr a l⟩
    match s.bankError s0 c x with
    | some t => (s, g, some t)
    | none =>
      match s0.reach c.t.core c.part x.a .write with
      | .page p =>
        let s1 := s.hold c.t.core p
        let s2 := s1.putCore c.t.core ((s1.core c.t.core).l1Drop (p.phys x.a))
        let r := s2.bankOp c.t.core p (p.phys x.a) n (new l)
        atomLoop s0 c a n new put rest r.2 (put l r.1 g)
      | _ => (s, g, none)

/-- The whole step of an atomic. -/
def atomWord (i : Instr) (f : FormAt) (s : State) (n : Nat) (new : Ctx → Lane → Nat → Nat)
    (put : Ctx → Lane → Nat → Group → Group) (zero : Mask → Group → Group) : Out :=
  word i s fun c =>
    let xs := (lanesOf c.active).map fun l => (⟨some l, c.atomAddr f.a l⟩ : Acc)
    match s.accessTrap c 0 n .write .atomic false xs with
    | some t => accessFails s c 0 t
    | none =>
      let s0 := if f.rel then s.atomRelease c xs else s
      let r := atomLoop s c f.a n (new c) (put c) (lanesOf c.active) s0 c.g
      match r.2.2 with
      | some t => .next (trapTo ((r.1.consumeBad c.t.core c.part t.fa.toNat).putGroup r.2.1) r.2.1 c.t c.cur.pid t c.cur.ret)
      | none =>
        let s1 := if f.acq then r.1.acquireFence c.t.core else r.1
        finish s1 c (zero c.zeroed r.2.1)

/-- A word atomic: D gets the old word. -/
def atomX (i : Instr) (f : FormAt) (s : State) (op : Word → Word → Word) : Out :=
  atomWord i f s 4 (fun c l old => (op (BitVec.ofNat 32 old) (c.g.getX f.b l)).toNat)
    (fun _ l old g => g.setX f.d (laneBit l) fun _ => BitVec.ofNat 32 old) (zeroWords f.d 1)

def execAadd (f : FormAt) (s : State) : Out := atomX (.aadd f) f s fun a b => a + b
def execAmin (f : FormAt) (s : State) : Out := atomX (.amin f) f s fun a b => if b.slt a then b else a
def execAmax (f : FormAt) (s : State) : Out := atomX (.amax f) f s fun a b => if a.slt b then b else a
def execAminu (f : FormAt) (s : State) : Out := atomX (.aminu f) f s fun a b => if b.ult a then b else a
def execAmaxu (f : FormAt) (s : State) : Out := atomX (.amaxu f) f s fun a b => if a.ult b then b else a
def execAand (f : FormAt) (s : State) : Out := atomX (.aand f) f s fun a b => a &&& b
def execAor (f : FormAt) (s : State) : Out := atomX (.aor f) f s fun a b => a ||| b
def execAxor (f : FormAt) (s : State) : Out := atomX (.axor f) f s fun a b => a ^^^ b
def execAxch (f : FormAt) (s : State) : Out := atomX (.axch f) f s fun _ b => b

/-- ACAS: the compare value is the fourth operand's (R293, R294). -/
def execAcas (f : FormAt) (s : State) : Out :=
  atomWord (.acas f) f s 4
    (fun c l old => if BitVec.ofNat 32 old = (c.xFourth l).getD 0#32 then (c.g.getX f.b l).toNat else old)
    (fun _ l old g => g.setX f.d (laneBit l) fun _ => BitVec.ofNat 32 old) (zeroWords f.d 1)

/-- The old doubleword in x[D] and x[D+1]; D = 0 discards both (R292). -/
def putPair (d : Reg) (l : Lane) (old : Nat) (g : Group) : Group :=
  if d = 0#6 then g else
  (g.setX d (laneBit l) fun _ => BitVec.ofNat 32 old).setX (d + 1#6) (laneBit l) fun _ => BitVec.ofNat 32 (old / 2 ^ 32)
def zeroPair (d : Reg) (on : Mask) (g : Group) : Group := if d = 0#6 then g else zeroWords d 2 on g

/-- AINC, the ticket operation. -/
def execAinc (f : FormAt) (s : State) : Out :=
  atomWord (.ainc f) f s 8 (fun c l old => (old + (c.g.getX f.b l).toNat) % 2 ^ 64)
    (fun _ => putPair f.d) (zeroPair f.d)

/-- AMIND: unsigned 64-bit minimum with the pair x[B], x[B+1]. -/
def execAmind (f : FormAt) (s : State) : Out :=
  atomWord (.amind f) f s 8
    (fun c l old => min old ((c.g.getX f.b l).toNat + 2 ^ 32 * (c.g.getX (f.b + 1#6) l).toNat))
    (fun _ => putPair f.d) (zeroPair f.d)

/-- AVADD on memory images: both operands canonicalised, the sum by R85. -/
def avaddNew (b : DWord) (old : Nat) : DWord × Flags :=
  let x := readF32 (BitVec.ofNat 64 old)
  let y := readF32 b
  let r := writeF32 (itvAdd x.1 y.1)
  (r.1, x.2 ||| y.2 ||| r.2)

/-- AVADD: v[D] gets the old value in canonical form, and the group its flags; D = 0 discards the old value (R292,
R294). -/
def execAvadd (f : FormAt) (s : State) : Out :=
  atomWord (.avadd f) f s 8 (fun c l old => (avaddNew (c.g.getV f.b l) old).1.toNat)
    (fun c l old g =>
      (if f.d = 0#6 then g else g.setV f.d (laneBit l) fun _ => (canonF32 old).1).flag (avaddNew (c.g.getV f.b l) old).2)
    (fun on g => if f.d = 0#6 then g else zeroItv f.d on g)

end Sys2Proof.Machine
end

