-- ==== Sys2Proof/Machine/Control.lean ====
section
/-! DEFINITION. The prefix word and the branch and control words (R97 to R99, R164, R167 to R171, R180 to R184). -/

namespace Sys2Proof.Machine

/-- PFX: latched for the next word of its path (R97), which issues with it (R99) and meets what is wrong with the prefix
(R79, R98); another prefix before it is ILLOP (R98). -/
def execPfx (f : FormP) (s : State) : Out :=
  startWord (.pfx f) s (fun c => c.p.pfx.isSome) (fun _ => true) fun c =>
    .next (s.putGroup (c.g.putPath { c.p with pc := c.cur.next, pfx := some ⟨f, c.cur.addr⟩ }))

/-! ### Branch targets and loop bodies (R94, R157) -/

/-- The packet address of the word plus a count of packets. -/
def Ctx.packetPlus (c : Ctx) {n : Nat} (off : BitVec n) : VAddr := packetOf c.cur.addr + 12#57 * off.signExtend 57

def bodyTotal (l : List LoopBody) : Nat := l.foldl (fun n b => n + b.n) 0
/-- The most recent bodies that fit in 96 packets. -/
def fitBodies : Nat → List LoopBody → List LoopBody
  | _, [] => []
  | room, b :: rest => if b.n ≤ room then b :: fitBodies (room - b.n) rest else []

/-- A body that a group uses. -/
def LoopBody.usedBy (b : LoopBody) (gid : Nat) (dict : Bool) : LoopBody :=
  { b with users := if b.users.contains gid then b.users else gid :: b.users, dict := b.dict || dict }

/-- R157: a backward transfer taken: its body becomes the most recent, captured as it is next fetched.
DEDUCED, unsafe: log entry 67. -/
def State.noteBody (s : State) (c : Ctx) (off : BitVec 19) (target : VAddr) : State :=
  if off.toInt ≤ 0 ∧ 1 - off.toInt ≤ 96 then
    let k := c.t.core
    let i := Fin.ofNat 4 c.g.slot
    let bodies := (s.core k).loops.get i
    let same (b : LoopBody) : Bool := b.part == c.part && b.base == target && b.n == (1 - off.toInt).toNat
    let use : LoopBody :=
      match bodies.find? same with
      | some b => b.usedBy c.g.gid c.t.info.dict
      | none => { part := c.part, image := c.t.info.image, base := target, n := (1 - off.toInt).toNat, words := [],
                  users := [c.g.gid], dict := c.t.info.dict }
    s.putCore k { s.core k with loops := (s.core k).loops.set i (fitBodies 96 (use :: bodies.filter fun b => !same b)) }
  else s

/-! ### BR (R180 to R182) -/

/-- A uniform branch: every lane of the split goes to one place. -/
def branchAll (s : State) (c : Ctx) (g : Group) (off : BitVec 19) (taken : Bool) : Out :=
  if taken then finishAt (s.noteBody c off (c.packetPlus off)) c g (c.packetPlus off) else finish s c g

/-- R181: BQT to BQNF, by the set of q values that go to the target. DEDUCED, unsafe: log entry 40. -/
def branchQ (i : Instr) (f : FormSO) (s : State) (on : BitVec 2 → Bool) : Out :=
  word i s fun c =>
    let taken := c.active &&& maskOf fun l => on (c.g.getQ (f.sel.setWidth 6) l)
    let rest := c.p.em &&& ~~~taken
    let target := c.packetPlus f.off
    if rest = 0#32 then branchAll s c c.g f.off true
    else if taken = 0#32 then finish s c c.g
    else
      -- a full stack traps with no effect, so that no body is noted (R161, R164)
      let s1 := if c.g.entries.length < 16 then s.noteBody c f.off target else s
      divergeTo s1 c c.g false [(target, taken), (c.cur.next, rest)] c.cur.next

def execBqt (f : FormSO) (s : State) : Out := branchQ (.bqt f) f s fun q => q == 1#2
def execBqf (f : FormSO) (s : State) : Out := branchQ (.bqf f) f s fun q => q == 0#2
def execBqu (f : FormSO) (s : State) : Out := branchQ (.bqu f) f s fun q => q == 2#2
def execBqnt (f : FormSO) (s : State) : Out := branchQ (.bqnt f) f s fun q => q != 1#2
def execBqnf (f : FormSO) (s : State) : Out := branchQ (.bqnf f) f s fun q => q != 0#2

/-- BQ3 (R181). -/
def execBq3 (f : FormQ3) (s : State) : Out :=
  word (.bq3 f) s fun c =>
    let on (v : BitVec 2) : Mask := c.active &&& maskOf fun l => c.g.getQ (f.q.setWidth 6) l == v
    divergeTo s c c.g false [(c.packetPlus f.offT, on 1#2), (c.cur.next, on 0#2), (c.packetPlus f.offU, on 2#2)] c.cur.next

def execBra (f : FormO) (s : State) : Out := word (.bra f) s fun c => branchAll s c c.g f.off true
def execBmz (f : FormSO) (s : State) : Out :=
  word (.bmz f) s fun c => branchAll s c c.g f.off (c.g.getM (f.sel.setWidth 6) &&& c.p.em == 0#32)
def execBmnz (f : FormSO) (s : State) : Out :=
  word (.bmnz f) s fun c => branchAll s c c.g f.off (c.g.getM (f.sel.setWidth 6) &&& c.p.em != 0#32)

/-- LOOP: s(56 + k) counts down; a start at 0 wraps (R182). -/
def execLoop (f : FormSO) (s : State) : Out :=
  word (.loop f) s fun c =>
    let r : Reg := 56#6 + f.sel.setWidth 6
    let n := c.g.getS r - 1#32
    branchAll s c (c.g.setS r n) f.off (n != 0#32)

/-! ### CALL (R183, R184) -/

/-- The link of a call: the code offset of the next word in program order. -/
def Ctx.link (c : Ctx) : Word := (c.cur.next - c.t.info.base).setWidth 32

/-- CALL: the lanes that take the transfer write their link; masked lanes go on as a false path. -/
def execCall (f : FormDI) (s : State) : Out :=
  word (.call f) s fun c =>
    let masked := c.p.em &&& ~~~c.pmask
    divergeTo s c (c.g.setX f.d c.active fun _ => c.link) true
      [(c.packetPlus f.imm, c.active), (c.cur.next, masked)]
      (c.packetPlus f.imm)

/-! ### Lane-varying transfers (R170) -/

/-- The first kept register outside the window at the site (R49, R184). -/
def Ctx.keepTrap (c : Ctx) (k : Keep) : Option TrapRec :=
  (keepOutside c.t k).map fun r => groupTrap causeRegx (regxInfo r.1 r.2)

/-- Lanes taken out of a path's membership (R170). -/
def Path.without (p : Path) (gone : Mask) : Path := { p with members := p.members &&& ~~~gone, em := p.em &&& ~~~gone }

/-- What R170 divides a transfer into: the lanes that follow the lowest active one, those that leave, and those that the
prefix masks out; and where the first go. -/
structure TransferLanes where
  target : VAddr
  stay : Mask
  leave : Mask
  masked : Mask

/-- The code address that a lane's register names. -/
def Ctx.laneTarget (c : Ctx) (a : Reg) (l : Lane) : VAddr := codeAt c.t.info.base (c.g.getX a l).toNat

/-- The division of the active lanes; none where no lane is active. -/
def Ctx.transferLanes (c : Ctx) (a : Reg) : Option TransferLanes :=
  (lanesOf c.active).head?.map fun l0 =>
    let t0 := c.laneTarget a l0
    let stay := c.active &&& maskOf fun l => c.laneTarget a l == t0
    ⟨t0, stay, c.active &&& ~~~stay, c.p.em &&& ~~~c.pmask⟩

/-- The ILLOP conditions of a transfer beyond its encoding, reported before REGX (R103): a kept set without a record (R184), the
lowest lane whose target names nothing (R90, R170), and lanes that would leave a group in a trap handler (R382). A target is
known only where its register lies in the window: DEDUCED, safe: log entry 74. -/
def transferIllop (s : State) (c : Ctx) (a : Reg) (k : BitVec 4) : Option Out :=
  if (c.t.keep k.toNat).isNone then some (takeTrap s c (groupTrap causeIllop 0))
  else if !inWindow c.t false a.toNat then none
  else match (lanesOf c.active).find? fun l => !s.namesCode c.t.core c.part (c.laneTarget a l) with
    | some l => some (.next (trapTo s c.g c.t c.cur.pid ⟨causeIllop, some l, 0#16, 0#64⟩ (c.laneTarget a l)))
    | none =>
      if c.g.tl ≠ 0 ∧ ((c.transferLanes a).any fun q => q.leave != 0#32) = true then some (takeTrap s c (groupTrap causeIllop 0))
      else none

/-- R170, with the link register of CALLI. -/
def transfer (i : Instr) (s : State) (a : Reg) (k : BitVec 4) (link : Option Reg) : Out :=
  startChecked i s (fun c => transferIllop s c a k) fun c =>
    match c.t.keep k.toNat, c.transferLanes a with
    | some ks, some q =>
      match c.keepTrap ks with
      | some t => takeTrap s c t
      | none =>
      let links (g : Group) (on : Mask) : Group :=
        match link with
        | some d => g.setX d on fun _ => c.link
        | none => g
      let gAll := links c.g c.active
      let items := (lanesOf q.leave).map fun l =>
        c.item gAll 2 (c.laneTarget a l) false k.toNat ks l (c.g.lin.get l) .none
      match s.placeAll c.t.core items with
      | some s' =>
        match gAll.path c.cur.pid with
        | none => .next s'
        | some p =>
          match (gAll.putPath (p.without q.leave)).diverge (p.without q.leave) true [(q.target, q.stay), (c.cur.next, q.masked)]
              q.target with
          | some g' => .next (s'.putGroup g')
          | none => takeTrap s c (groupTrap causeDivx 0)
      | none =>
        divergeTo s c (links c.g q.stay) true [(q.target, q.stay), (c.cur.next, q.masked), (c.cur.ret, q.leave)] q.target
    | some ks, none =>
      match c.keepTrap ks with
      | some t => takeTrap s c t
      | none => finish s c c.g
    | none, _ => takeTrap s c (groupTrap causeIllop 0)

def execCalli (f : FormDAK) (s : State) : Out := transfer (.calli f) s f.a f.k (some f.d)
def execJmpi (f : FormAK) (s : State) : Out := transfer (.jmpi f) s f.a f.k none
def execRet (f : FormAK) (s : State) : Out := transfer (.ret f) s f.a f.k none

/-! ### EXIT and EXITS (R169, R171) -/

/-- EXIT: the active lanes depart; a trap handler may not (R382). -/
def execExit (f : FormC) (s : State) : Out :=
  startWord (.exit f) s (fun c => c.g.tl != 0) (fun _ => true) fun c =>
    finish s c (c.g.putPath { c.p with departing := c.p.departing ||| c.active, em := c.p.em &&& ~~~c.active })

/-- The registers of a group at team start (R41, R58 aside): parameters by R18. -/
def Group.teamStart (g : Group) (t : Team) : Group :=
  { g with
    x := Tab.const 64 (Tab.const 32 0#32)
    v := Tab.const 64 (Tab.const 32 0#64)
    s := Tab.ofFn fun i => t.info.paramOf i.val
    q := Tab.const 8 (Tab.const 32 0#2)
    m := Tab.const 8 0#32
    h := Tab.const 16 0#32
    n := Tab.const 16 true
    gsr := 0#32
    tl := 0
    tca1 := 0#32
    tca2 := 0#32
    tepc1 := 0#57
    tepc2 := 0#57
    tfa1 := 0#57
    tfa2 := 0#57
    depth := 0#8
    limit := 8#8
    entries := []
    frames := [] }

/-- The one path of a group that starts at `pc` with some lanes. -/
def startPath (pid : Nat) (pc : VAddr) (lanes : Mask) : Path where
  pid := pid
  split := some 0
  pc := pc
  members := lanes
  em := lanes
  departing := 0#32
  join := none
  entry := none
  level := 0
  wait := none
  pfx := none
  readySince := none
  restart := none

/-- The kept s-registers of an item put into a group (R232). -/
def Group.takeS (g : Group) (i : Item) : Group := i.ss.foldl (fun g r => g.setS r.1 r.2) g

/-- EXITS: the members leave as work items, or start again in place when the pool refuses them. A successor that is not at
offset 0 is ILLOP at the word's own address, as R184 has it, and not at the target, as R90 has it of a transfer.
DEDUCED, unsafe: log entry 75. -/
def execExits (f : FormDK) (s : State) : Out :=
  startWord (.exits f) s (fun c => (c.t.keep f.k.toNat).isNone) (fun c => c.g.slot == 63 || c.g.tl != 0) fun c =>
    match c.t.keep f.k.toNat with
    | none => takeTrap s c (groupTrap causeIllop 0)
    | some ks =>
    let target := codeAt c.t.info.base (c.g.getS f.d).toNat
    if 1 < c.g.paths.length || !c.g.entries.isEmpty || slotOf target != 0 then takeTrap s c (groupTrap causeIllop 0) else
    match c.keepTrap ks with
    | some t => takeTrap s c t
    | none =>
    let lanes := c.p.members &&& ~~~c.p.departing
    let items := (lanesOf lanes).map fun l => c.item c.g 4 target false f.k.toNat ks l (c.g.lin.get l) .none
    match s.placeAll c.t.core items with
    | some s' => .next (s'.putGroup { c.g with paths := [], frames := [] })
    | none =>
      let g0 := c.g.teamStart c.t
      let g1 := ((lanesOf lanes).zip items).foldl (fun g li => (g.takeItem li.1 li.2).takeS li.2) g0
      .next (s.putGroup { g1 with paths := [startPath c.p.pid target lanes] })

/-! ### JOINAT and the mask words (R183) -/

def execJoinat (f : FormI) (s : State) : Out :=
  word (.joinat f) s fun c => finish s c (c.g.putPath { c.p with join := some (c.packetPlus f.imm) })

/-- MSAVE, a collective word (R168). -/
def execMsave (f : FormD) (s : State) : Out := word (.msave f) s fun c => finish s c (c.g.setM f.d c.p.em)

/-- MREST widens EM only up to the members that are not departing. -/
def execMrest (f : FormA) (s : State) : Out :=
  word (.mrest f) s fun c =>
    finish s c (c.g.putPath { c.p with em := c.g.getM f.a &&& (c.p.members &&& ~~~c.p.departing) })

def execMand (f : FormDAB) (s : State) : Out :=
  word (.mand f) s fun c => finish s c (c.g.setM f.d (c.g.getM f.a &&& c.g.getM f.b))
def execMor (f : FormDAB) (s : State) : Out :=
  word (.mor f) s fun c => finish s c (c.g.setM f.d (c.g.getM f.a ||| c.g.getM f.b))
def execMxor (f : FormDAB) (s : State) : Out :=
  word (.mxor f) s fun c => finish s c (c.g.setM f.d (c.g.getM f.a ^^^ c.g.getM f.b))
def execMnot (f : FormDA) (s : State) : Out :=
  word (.mnot f) s fun c => finish s c (c.g.setM f.d (~~~c.g.getM f.a))

/-- The conditions of MFROMQ (R184). -/
def condOf (cnd : Reg) (q : BitVec 2) : Bool :=
  if cnd = 0#6 then q == 1#2
  else if cnd = 1#6 then q == 0#2
  else if cnd = 2#6 then q == 2#2
  else if cnd = 3#6 then q == 1#2 || q == 2#2
  else q == 0#2 || q == 2#2

/-- MFROMQ: all 32 lanes, whatever EM holds. -/
def execMfromq (f : FormDAB) (s : State) : Out :=
  word (.mfromq f) s fun c => finish s c (c.g.setM f.d (maskOf fun l => condOf f.b (c.g.getQ f.a l)))

def execMcnt (f : FormDA) (s : State) : Out :=
  word (.mcnt f) s fun c => finish s c (c.g.setS f.d (BitVec.ofNat 32 (popCount (c.g.getM f.a))))

end Sys2Proof.Machine
end

