-- ==== Sys2Proof/Machine/Pool.lean ====
section
/-! DEFINITION. SPLIT, FORK, the frames of inline children, LINID and POOLQ (R231 to R239, R250, R251). -/

namespace Sys2Proof.Machine

/-! ### Payloads in memory (R232) -/

/-- Registers read back from bytes, `n` bytes each. -/
def regsFrom {w : Nat} (n : Nat) : List Reg → List Byte → List (Reg × BitVec w) × List Byte
  | [], bs => ([], bs)
  | r :: rs, bs =>
    let q := regsFrom n rs (bs.drop n)
    ((r, BitVec.ofNat w (bytesNat (bs.take n))) :: q.1, q.2)

/-- An item whose registers are those of some payload bytes. -/
def Item.fromPayload (i : Item) (bs : List Byte) : Item :=
  let x := regsFrom (w := 32) 4 (regsIn i.keep.x) (bs.drop 4)
  let v := regsFrom (w := 64) 8 (regsIn i.keep.v) x.2
  let s := regsFrom (w := 32) 4 (regsIn i.keep.s) v.2
  { i with
    qm := BitVec.ofNat 23 (bytesNat (bs.take 4))
    xs := x.1
    vs := v.1
    ss := s.1
    carried := match i.carried with
      | .none => .none
      | .x r _ => .x r (BitVec.ofNat 32 (bytesNat (s.2.take 4)))
      | .v r _ => .v r (BitVec.ofNat 64 (bytesNat (s.2.take 8))) }

/-! ### Inline children (R237) -/

def frameReg : Reg := 61#6

/-- The size of a frame. -/
def frameSize (k : Keep) (c : Carried) : Nat := (16 + 32 * payloadBytes k c + 15) / 16 * 16

/-- What SPLIT and FORK have in common: the kept set and the carried register. -/
structure ForkArgs where
  kind : Nat
  lanes : Mask
  entry : VAddr
  free : Bool
  ks : Nat
  keep : Keep
  /-- The carried register as the producer holds it, and as the child gets it. -/
  mine : Lane → Carried
  child : Lane → Carried

/-- The frame's bytes: next address, EM, forking lanes, then every lane's payload as the producer holds it. -/
def frameBytes (c : Ctx) (g : Group) (a : ForkArgs) : List Byte :=
  natBytes 8 c.cur.next.toNat ++ natBytes 4 c.p.em.toNat ++ natBytes 4 a.lanes.toNat
    ++ allLanes.flatMap fun l => (c.item g a.kind a.entry a.free a.ks a.keep l (g.lin.get l) (a.mine l)).payload

/-- A child's carried register put into its lane. -/
def Group.takeCarried (g : Group) (l : Lane) : Carried → Group
  | .none => g
  | .x r val => g.setX r (1#32 <<< l.val) fun _ => val
  | .v r val => g.setV r (1#32 <<< l.val) fun _ => val

/-- R237: to the pool, or inline, or a trap. A DEPTH above a LIMIT that was lowered under it is not at the limit: DESIGN CHOICE, unsafe:
log entry 90. `g` is the group with the producer's registers written by R235. -/
def forkTo (s : State) (c : Ctx) (g : Group) (a : ForkArgs) : Out :=
  let forks := lanesOf a.lanes
  let gLin := g.setLin a.lanes fun l => linOf (g.lin.get l) 0
  let items := forks.map fun l =>
    c.item g a.kind a.entry a.free a.ks a.keep l (linOf (g.lin.get l) 1) (a.child l)
  match s.placeAll c.t.core items with
  | some s' => finish s' c gLin
  | none =>
    if g.depth = g.limit then takeTrap s c (groupTrap causePoolx 0) else
    let size := frameSize a.keep (a.mine 0)
    let off := (g.getS frameReg - BitVec.ofNat 32 size).toNat
    if !c.t.inHeld off size then takeTrap s c (groupTrap causeSprange 0 (BitVec.ofNat 64 off)) else
    let fr : Frame :=
      { off := off, size := size, forked := a.lanes, mark := g.nextEid, ks := a.ks, carried := a.mine 0,
        members := c.p.members, lin := gLin.lin }
    let g1 := (g.setS frameReg (BitVec.ofNat 32 off)).setLin a.lanes fun l => linOf (g.lin.get l) 1
    let g2 := forks.foldl (fun g l => g.takeCarried l (a.child l)) g1
    let g3 := { g2 with depth := g2.depth + 1#8, frames := g2.frames ++ [fr] }
    finishAt (s.putTeam (c.t.scrPut off ((frameBytes c gLin a).take size))) c
      (g3.updatePath c.cur.pid fun p => { p with em := a.lanes }) a.entry

/-- The control word and entry of a fork site (R234). -/
def Ctx.forkEntry (c : Ctx) (b : Reg) : VAddr := codeAt c.t.info.base (c.g.getS b).toNat
def Ctx.forkIllegal (c : Ctx) (b : Reg) : Bool :=
  let w := c.g.getS (b + 1#6)
  c.g.tl != 0 || w.extractLsb' 5 27 != 0#27 || (c.t.keep (w.extractLsb' 0 4).toNat).isNone
    || (c.g.getS b).toNat % 12 != 0

/-- SPLIT and FORK: the checks of R234, then R237. -/
def forkWord (i : Instr) (s : State) (b : Reg) (run : Ctx → (Nat × Bool × Keep) → Out) : Out :=
  startWord i s (fun c => c.forkIllegal b) (fun _ => true) fun c =>
    let w := c.g.getS (b + 1#6)
    match c.t.keep (w.extractLsb' 0 4).toNat with
    | none => takeTrap s c (groupTrap causeIllop 0)
    | some k =>
      match c.keepTrap k with
      | some t => takeTrap s c t
      | none => run c ((w.extractLsb' 0 4).toNat, w.getLsbD 4, k)

/-- SPLIT (R235). -/
def execSplit (f : FormDAB) (s : State) : Out :=
  forkWord (.split f) s f.b fun c k =>
    let halves (l : Lane) : Itv × Itv := itvHalves (readF32 (c.g.getV f.a l)).1
    let lower (l : Lane) : DWord := (writeF32 (halves l).1).1
    let upper (l : Lane) : DWord := (writeF32 (halves l).2).1
    let lanes := c.active &&& maskOf fun l => !itvIsEmpty (readF32 (c.g.getV f.a l)).1
    let g := c.g.setV f.d c.active lower
    if lanes = 0#32 then finish s c g else
    forkTo s c g ⟨0, lanes, c.forkEntry f.b, k.2.1, k.1, k.2.2, fun l => .v f.d (g.getV f.d l), fun l => .v f.d (upper l)⟩

/-- FORK (R236). -/
def execFork (f : FormDS) (s : State) : Out :=
  forkWord (.fork f) s f.s fun c k =>
    if c.active = 0#32 then finish s c c.g else
    let g := c.g.setX f.d c.active fun _ => 0#32
    forkTo s c g ⟨1, c.active, c.forkEntry f.s, k.2.1, k.1, k.2.2, fun l => .x f.d (g.getX f.d l), fun _ => .x f.d 1#32⟩

/-! ### LINID and POOLQ (R250, R251) -/

/-- LINID. -/
def execLinid (f : FormLin) (s : State) : Out :=
  word (.linid f) s fun c =>
    let v (l : Lane) : DWord := if f.m then linOf (c.g.lin.get l) (c.g.getX f.a l).toNat else c.g.lin.get l
    let g := (c.g.setX f.d c.active fun l => (v l).setWidth 32).setX (f.d + 1#6) c.active fun l => (v l >>> 32).setWidth 32
    finish s c ((g.setX f.d c.zeroed fun _ => 0#32).setX (f.d + 1#6) c.zeroed fun _ => 0#32)

/-- The items owned by a team, its FREE items on their way to another core among them (R245). -/
def State.ownedItems (s : State) (uid : Nat) : List Item :=
  (s.items ++ s.steals.flatMap fun q => q.items).filter fun i => i.owner == uid
/-- An item on a core, or in the die pool of its die. -/
def Item.near (core : Nat) (i : Item) : Bool :=
  match i.home with
  | .core k => k == core
  | .pool p _ => p / 2 == dieOf core

/-- POOLQ. -/
def execPoolq (f : FormPool) (s : State) : Out :=
  word (.poolq f) s fun c =>
    let mine := s.ownedItems c.t.uid
    let n :=
      if f.s = 0 then (mine.filter fun i => i.near c.t.core && i.entry == codeAt c.t.info.base (c.g.getS f.a).toNat).length
      else if f.s = 1 then mine.length
      else regionUnits - s.regionUsed c.t.core
    finish s c (c.g.setS f.d (BitVec.ofNat 32 n))

end Sys2Proof.Machine
end

