-- ==== Sys2Proof/Machine/System.lean ====
section
/-! DEFINITION. The SYS members and the system registers (R51 to R61, R172 to R179). -/

namespace Sys2Proof.Machine

/-! ### System registers -/

def loWord {n : Nat} (v : BitVec n) : Word := v.setWidth 32
def hiWord {n : Nat} (v : BitVec n) : Word := (v >>> 32).setWidth 32
def withLo {n : Nat} (v : BitVec n) (w : Word) : BitVec n := (v >>> 32 <<< 32) ||| w.setWidth n
def withHi {n : Nat} (v : BitVec n) (w : Word) : BitVec n := (v.setWidth 32).setWidth n ||| (w.setWidth n <<< 32)

/-- The core's cycle counter (R57). -/
def State.cyc (s : State) (core : Nat) : DWord := BitVec.ofNat 64 (s.now - (s.core core).cycBase)

/-- PEND: the request that RACQ has pending, 0 when none (R60, R142). -/
def Team.pendWord (t : Team) : Word :=
  match t.reqs with
  | r :: _ => r.want.word
  | [] => 0#32

def dieIx (d : Nat) : Fin 4 := Fin.ofNat 4 d

/-- CAPID of a core (R61). -/
def State.capid (s : State) (core : Nat) : Word :=
  (s.core core).agentRel ++ s.fe.rel.get (dieIx (dieOf core)) ++ 0x10#8 ++ 0xB0#8
/-- CAPLOC of a core (R61). -/
def caploc (core : Nat) : Word :=
  BitVec.ofNat 32 (core + quadOf core * 2 ^ 10 + partOf core * 2 ^ 18 + dieOf core * 2 ^ 21)
/-- CAPWAKE (R61). -/
def capwake : Nat := 180

/-- A register of the uniform kind (R51). -/
def State.sysRead (s : State) (c : Ctx) (num : Nat) : Word :=
  let g := c.g
  match num with
  | 0x00 => g.gsr
  | 0x01 => BitVec.ofNat 32 g.tl.val
  | 0x02 => g.tca1
  | 0x03 => g.tca2
  | 0x04 => loWord g.tepc1
  | 0x05 => hiWord g.tepc1
  | 0x06 => loWord g.tepc2
  | 0x07 => hiWord g.tepc2
  | 0x08 => loWord g.tfa1
  | 0x09 => hiWord g.tfa1
  | 0x0A => loWord g.tfa2
  | 0x0B => hiWord g.tfa2
  | 0x10 => 0#16 ++ g.limit ++ g.depth
  | 0x11 => loWord (s.cyc c.t.core)
  | 0x12 => hiWord (s.cyc c.t.core)
  | 0x18 => loWord g.rngKey
  | 0x19 => hiWord g.rngKey
  | 0x1A => loWord g.rngCtr
  | 0x1B => hiWord g.rngCtr
  | 0x28 => c.t.info.claim.word
  | 0x29 => c.t.hold.word
  | 0x2A => c.t.pendWord
  | 0x30 => c.t.info.tx
  | 0x31 => c.t.info.tyz
  | 0x32 => BitVec.ofNat 32 c.t.info.t
  | 0x33 => BitVec.ofNat 32 (g.idx + g.slot * 2 ^ 8)
  | 0x40 => s.capid c.t.core
  | 0x41 => caploc c.t.core
  | 0x42 => BitVec.ofNat 32 capwake
  | _ => 0#32

/-- SRD (R175). -/
def execSrd (f : FormDR) (s : State) : Out :=
  word (.srd f) s fun c =>
    let n := f.num.toNat
    if sysKind n = some true then
      finish s c (c.g.setX f.d c.active fun l =>
        if n = 0x20 then loWord (c.g.lin.get l) else hiWord (c.g.lin.get l))
    else finish s c (c.g.setS f.d (s.sysRead c n))

/-- The trap level from which a register may be written; none for slot 63 alone (R51, R52). -/
def sysLevel (num : Nat) : Option Nat :=
  if num = 0x02 ∨ num = 0x04 ∨ num = 0x05 ∨ num = 0x08 ∨ num = 0x09 then some 1
  else if num = 0x03 ∨ num = 0x06 ∨ num = 0x07 ∨ num = 0x0A ∨ num = 0x0B then some 2
  else if num = 0x20 ∨ num = 0x21 then none
  else some 0

/-- Privilege of SWR (R52). -/
def mayWrite (c : Ctx) (num : Nat) : Bool :=
  c.g.slot == 63 || (match sysLevel num with
    | some n => decide (n ≤ c.g.tl.val)
    | none => false)

/-- GSR after a write: a 1 clears a flag, ARM is written (R53). -/
def gsrWrite (old w : Word) : Word := (old &&& ~~~w &&& 0x3F#32) ||| (w &&& 0x3F00#32)

/-- The bits of TCA that exist (R55). -/
def tcaMask : Word := 0xFFFF3FFF#32

/-- A uniform register written; a write to a read-only one is ignored. -/
def Group.sysWrite (g : Group) (num : Nat) (w : Word) : Group :=
  match num with
  | 0x00 => { g with gsr := gsrWrite g.gsr w }
  | 0x02 => { g with tca1 := w &&& tcaMask }
  | 0x03 => { g with tca2 := w &&& tcaMask }
  | 0x04 => { g with tepc1 := withLo g.tepc1 w }
  | 0x05 => { g with tepc1 := withHi g.tepc1 w }
  | 0x06 => { g with tepc2 := withLo g.tepc2 w }
  | 0x07 => { g with tepc2 := withHi g.tepc2 w }
  | 0x08 => { g with tfa1 := withLo g.tfa1 w }
  | 0x09 => { g with tfa1 := withHi g.tfa1 w }
  | 0x0A => { g with tfa2 := withLo g.tfa2 w }
  | 0x0B => { g with tfa2 := withHi g.tfa2 w }
  | 0x10 => { g with limit := w.extractLsb' 8 8 }
  | 0x18 => { g with rngKey := withLo g.rngKey w }
  | 0x19 => { g with rngKey := withHi g.rngKey w }
  | 0x1A => { g with rngCtr := withLo g.rngCtr w }
  | 0x1B => { g with rngCtr := withHi g.rngCtr w }
  | _ => g

/-- SWR (R52, R175). -/
def execSwr (f : FormDR) (s : State) : Out :=
  startWord (.swr f) s (fun _ => false) (fun c => mayWrite c f.num.toNat) fun c =>
    let n := f.num.toNat
    if n = 0x20 then finish s c (c.g.setLin c.active fun l => withLo (c.g.lin.get l) (c.g.getX f.d l))
    else if n = 0x21 then finish s c (c.g.setLin c.active fun l => withHi (c.g.lin.get l) (c.g.getX f.d l))
    else finish s c (c.g.sysWrite n (c.g.getS f.d))

/-! ### NOP, TRAP, BKPT, TRET (R172 to R174) -/

def execNop (s : State) : Out := word .nop s fun c => finish s c c.g

/-- TRAP: SWTRAP, returning to the next word. -/
def execTrap (f : FormN14) (s : State) : Out :=
  word (.trap f) s fun c => takeTrapAfter s c c.g (groupTrap causeSwtrap f.imm.toNat)
def execBkpt (f : FormN14) (s : State) : Out :=
  word (.bkpt f) s fun c => takeTrapAfter s c c.g (groupTrap causeBkpt f.imm.toNat)

/-- TRET may not run beside another handler split, or inside an entry created since the trap (R382). -/
def tretIllegal (c : Ctx) : Bool :=
  c.g.tl != 0 && ((c.g.paths.any fun p => p.pid != c.p.pid && p.level == c.g.tl)
    || c.g.entries.any fun e => e.level == c.g.tl)

/-- TRET: one level down, at TEPCn (R174). -/
def execTret (s : State) : Out :=
  startWord .tret s tretIllegal (fun c => c.g.tl != 0) fun c =>
    let target := if c.g.tl = 1 then c.g.tepc1 else c.g.tepc2
    if !s.namesCode c.t.core c.part target then .next (trapTo s c.g c.t c.cur.pid (groupTrap causeIllop 0) target)
    else
      let lvl : Fin 3 := if c.g.tl = 1 then 0 else 1
      .next (s.putGroup ({ c.g with tl := lvl }.updatePath c.cur.pid fun p => { p.past target with
        level := lvl
        restart := p.restart.bind fun r => if r.addr = target then some r else none }))

/-! ### CYC, IFENCE, DICTLD, FSVC (R176 to R179) -/

def execCyc (f : FormD) (s : State) : Out :=
  word (.cyc f) s fun c =>
    finish s c ((c.g.setS f.d (loWord (s.cyc c.t.core))).setS (f.d + 1#6) (hiWord (s.cyc c.t.core)))

/-- A word of another path of the group that issued before this one and has not completed (R177). -/
def Ctx.earlierWord (c : Ctx) (now : Nat) : Bool :=
  let from_ := match c.p.wait with
    | some w => w.start
    | none => now
  c.g.paths.any fun p => p.pid != c.p.pid && p.wait.any fun w => w.issued.isSome && w.kind != .stall && decide (w.start < from_)

/-- IFENCE waits for the earlier words of the group, then drops the loop bodies that the group has used from its
partition's buffer (R177). -/
def execIfence (s : State) : Out :=
  word .ifence s fun c =>
    let i := Fin.ofNat 4 c.g.slot
    let k := s.core c.t.core
    if c.earlierWord s.now then waitAt s c c.g .stall else
    finish (s.putCore c.t.core { k with loops := k.loops.set i ((k.loops.get i).filter fun b => !b.users.contains c.g.gid) })
      c c.g

def bankIx (b : Nat) : Fin 4 := Fin.ofNat 4 b
/-- The teams of a core that have a dictionary, by the image whose bank they use (R137). -/
def State.bankUsed (s : State) (core b : Nat) : Bool :=
  match ((s.core core).dict.get (bankIx b)).image with
  | none => false
  | some im => s.teams.any fun t => t.core == core && t.info.dict && t.info.image == im && t.st != .swapped

/-- The image whose DICT section is loaded at an address. -/
def State.dictAt (s : State) (va : Nat) : Option Nat :=
  (s.images.find? fun i => i.sections.any fun q => q.1 == 3 && i.base + q.2.1 == va).map fun i => i.base

/-- Words into a bank from entry 0 on. -/
def bankFill (old new : List Word) : List Word := new ++ old.drop new.length

/-- A bank filled, and the loop bodies of teams that used it dropped (R178). -/
def Core.putBank (c : Core) (b : Fin 4) (d : DictBank) : Core :=
  let old := (c.dict.get b).image
  { c with
    dict := c.dict.set b d
    loops := Tab.ofFn fun i => (c.loops.get i).filter fun x => !(x.dict && old == some x.image) }

/-- DICTLD, for the firmware agent alone (R178). DEDUCED, unsafe: log entry 28. -/
def execDictld (f : FormDict) (s : State) : Out :=
  startWord (.dictld f) s
    (fun c => s.bankUsed c.t.core f.bank.toNat || (c.g.getS f.d).toNat % 4 != 0) (fun c => c.g.slot == 63) fun c =>
    let va := (c.g.getS f.d).toNat + 2 ^ 32 * (c.g.getS (f.d + 1#6)).toNat
    let n := f.cnt.toNat + 1
    match s.bytesAt c.t.core c.part none va (4 * n) with
    | .error t => accessFails s c 0 t
    | .ok bs =>
      let k := s.core c.t.core
      let b := k.dict.get (bankIx f.bank.toNat)
      finish (s.putCore c.t.core (k.putBank (bankIx f.bank.toNat) ⟨s.dictAt va, bankFill b.words ((List.range n).map (wordAt bs))⟩))
        c c.g
where
  wordAt (bs : List Byte) (i : Nat) : Word := BitVec.ofNat 32 (bytesNat ((bs.drop (4 * i)).take 4))

/-- What the access recorded in TCA needs (R379). -/
def needOf (tca : Word) : Need :=
  if tca.getLsbD 17 then .exec else if tca.getLsbD 16 then .write else .read

/-- FSVC at TL2: the fault service's status, or 3 where no access is recorded (R179). -/
def execFsvc (f : FormD) (s : State) : Out :=
  startWord (.fsvc f) s (fun _ => false) (fun c => c.g.tl == 2) fun c =>
    if !isFaultCause (c.g.tca2.setWidth 8) then finish s c (c.g.setS f.d 3#32)
    else match c.ended with
      | some d => finish s c (c.g.setS f.d d)
      | none => waitAt s c c.g (.fsvc c.g.tfa2 (needOf c.g.tca2))

end Sys2Proof.Machine
end

