-- ==== Sys2Proof/Machine/Bank.lean ====
section
/-! DEFINITION. The RES members (R145 to R149). -/

namespace Sys2Proof.Machine

/-! ### RACQ, RTRY, RREL, RQRY (R145 to R149) -/

def takeClaimx (s : State) (c : Ctx) (info : Nat) : Out := takeTrap s c (groupTrap causeClaimx info)

/-- RACQ. -/
def execRacq (f : FormA) (s : State) : Out :=
  word (.racq f) s fun c =>
    if c.ended = some 0#32 then finish s c c.g else
    let w := c.g.getS f.a
    let q := claimOf w.toNat
    let info := claimInfo w c.t.headroom false false
    if info ≠ 0 then takeClaimx s c info
    else if w = 0#32 then finish s c c.g
    else if c.t.reqs.isEmpty && s.mayGrant c.t (q.units (s.liveGroups c.t.uid)) then
      let s1 := s.grant c.t.uid q
      match s1.group c.g.gid with
      | some g => finish s1 c g
      | none => .next s1
    else
      let r : Request := ⟨c.g.gid, c.p.pid, q, s.now⟩
      waitAt (s.putTeam { c.t with reqs := c.t.reqs ++ [r] }) c c.g (.racq q)

/-- RTRY: one decision, without PEND and without waiting. -/
def execRtry (f : FormDA) (s : State) : Out :=
  word (.rtry f) s fun c =>
    let w := c.g.getS f.a
    let q := claimOf w.toNat
    let info := claimInfo w c.t.headroom false false
    if info ≠ 0 then takeClaimx s c info
    else if w = 0#32 then finish s c (c.g.setS f.d 0#32)
    else if s.mayGrant c.t (q.units (s.liveGroups c.t.uid)) then
      let s1 := s.grant c.t.uid q
      match s1.group c.g.gid with
      | some g => finish s1 c (g.setS f.d 0#32)
      | none => .next s1
    else finish s c (c.g.setS f.d 1#32)

/-- Does a path wait at a named barrier in BAR or BARW? -/
def Path.waitsOn (p : Path) (b : Nat) : Bool :=
  match p.wait with
  | some w => !w.ended && (match w.kind with
    | .bar n _ _ => n == b
    | .barw n _ _ _ => n == b
    | _ => false)
  | none => false

/-- Arrivals pending on a barrier (R362). -/
def State.barBusy (s : State) (t : Team) (b : Nat) : Bool :=
  (match t.bars[b]? with
    | some x => x.opened
    | none => false)
    || (s.groupsOf t.uid).any fun g => g.paths.any fun p => p.waitsOn b

/-- Records of a core that name one of some physical slots (R148). -/
def State.slotsNamed (s : State) (core : Nat) (slots : List Nat) : Bool :=
  s.records.any fun r => r.core == core && s.queued r && r.slots.any slots.contains

/-- RREL. After its wait for records it is performed anew, so that s[A] is read and checked again: DEDUCED, unsafe: log
entry 77. The re-decision of R141 follows the step (`State.redecideAll`). -/
def execRrel (f : FormA) (s : State) : Out :=
  word (.rrel f) s fun c =>
    let w := c.g.getS f.a
    let l := claimOf w.toNat
    let beyond := claimInfo w c.t.hold true false
    let busy := (List.range l.bar).any fun i => s.barBusy c.t (c.t.hold.bar - l.bar + i)
    if beyond ≠ 0 then takeClaimx s c beyond
    else if busy then takeClaimx s c (claimInfo w c.t.hold true true)
    else if w = 0#32 then finish s c c.g
    else if s.slotsNamed c.t.core ((c.t.lastNames l.acc).map fun i => accSlot (c.t.acc.get (slotIx i))) then
      waitAt s c c.g .rrel
    else finish (s.release c.t.uid l) c c.g

/-- RQRY. -/
def execRqry (f : FormDS) (s : State) : Out :=
  word (.rqry f) s fun c =>
    let free := freeOf (s.loads c.t.core)
    let v :=
      if f.s = 0 then c.t.info.claim.word
      else if f.s = 1 then c.t.hold.word
      else if f.s = 2 then c.t.pendWord
      else if f.s = 3 then c.t.headroom.word
      else (Claim.mk (min 24 (free.reg / c.t.info.gpt)) (min 64 free.scr) (min 8 free.acc) (min 256 free.bar)).word
    finish s c (c.g.setS f.d v)

end Sys2Proof.Machine
end

