-- ==== Sys2Proof/Machine/Integer.lean ====
section
/-! DEFINITION. The lane integer instructions: IALU, IALUI, IMM, SHF and IMUL (R185 to R193), and the uniform
instructions UNI (R194). -/

namespace Sys2Proof.Machine

/-! ### Word arithmetic -/

def boolWord (b : Bool) : Word := if b then 1#32 else 0#32
def absWord (a : Word) : Word × Flags := (if a.slt 0#32 then -a else a, flagIf (a == 0x80000000#32) fOVF)
/-- R190: shifts by eight bits of the amount. -/
def shlWord (a n : Word) : Word := if n.toNat % 256 < 32 then a <<< (n.toNat % 256) else 0#32
def shrWord (a n : Word) : Word := if n.toNat % 256 < 32 then a >>> (n.toNat % 256) else 0#32
def sarWord (a n : Word) : Word := a.sshiftRight (min (n.toNat % 256) 32)
def rotlWord (a n : Word) : Word := a.rotateLeft (n.toNat % 32)
/-- R191: position, effective width and sign flag of a field. -/
def fieldPos (b : Word) : Nat := b.toNat % 32
def fieldWidth (b : Word) : Nat := min (min (bitsOf b.toNat 8 6) 32) (32 - fieldPos b)
def bfxWord (a b : Word) : Word :=
  let e := fieldWidth b
  let v := bitsOf a.toNat (fieldPos b) e
  if b.getLsbD 15 && e != 0 then BitVec.ofInt 32 (sInt e v) else BitVec.ofNat 32 v
def bfiWord (old a b : Word) : Word :=
  let m : Word := (BitVec.ofNat 32 (2 ^ fieldWidth b - 1)) <<< fieldPos b
  (old &&& ~~~m) ||| ((a <<< fieldPos b) &&& m)
def popWord (a : Word) : Word := BitVec.ofNat 32 (popCount a)
/-- Zeros above the highest one. -/
def clzWord (a : Word) : Word := BitVec.ofNat 32 (if a = 0#32 then 32 else 31 - Nat.log2 a.toNat)
/-- Zeros below the lowest one. -/
def ctzWord (a : Word) : Word := BitVec.ofNat 32 (((List.range 32).find? fun i => a.getLsbD i).getD 32)
def brevWord (a : Word) : Word := a.reverse
/-- R191: a byte permutation of the eight bytes of A and the fourth operand. -/
def bpermWord (a c b : Word) : Word :=
  let src := a.toNat + 2 ^ 32 * c.toNat
  let byte (i : Nat) : Nat :=
    let s := bitsOf b.toNat (4 * i) 4
    let v := bitsOf src (8 * (s % 8)) 8
    if s < 8 then v else if v < 128 then 0 else 255
  BitVec.ofNat 32 (byte 0 + 2 ^ 8 * byte 1 + 2 ^ 16 * byte 2 + 2 ^ 24 * byte 3)
def mulhWord (a b : Word) : Word := BitVec.ofInt 32 (a.toInt * b.toInt / 2 ^ 32)
def mulhuWord (a b : Word) : Word := BitVec.ofNat 32 (a.toNat * b.toNat / 2 ^ 32)
/-- R193. -/
def divWord (a b : Word) : Word × Flags :=
  if a == 0x80000000#32 && b == 0xFFFFFFFF#32 then (a, fOVF) else (BitVec.ofInt 32 (a.toInt.tdiv b.toInt), 0#6)
def remWord (a b : Word) : Word := BitVec.ofInt 32 (a.toInt.tmod b.toInt)

/-! ### Shapes -/

def binX (i : Instr) (s : State) (f : FormR) (op : Word → Word → Word) : Out :=
  laneX i s f.d fun c l => op (c.xOp f.ua f.a l) (c.xOp f.ub f.b l)
def unX (i : Instr) (s : State) (f : FormRU) (op : Word → Word) : Out :=
  laneX i s f.d fun c l => op (c.xOp f.ua f.a l)
def immX (i : Instr) (s : State) (f : FormI11) (op : Word → Word → Word) : Out :=
  laneX i s f.d fun c l => op (c.g.getX f.a l) (immWord f.imm)
/-- A division: IDIVZ at the lowest active lane whose divisor is zero, before any effect (R193). -/
def divX (i : Instr) (s : State) (f : FormR) (op : Word → Word → Word × Flags) : Out :=
  word i s fun c =>
    match (lanesOf c.active).find? fun l => c.xOp f.ub f.b l == 0#32 with
    | some l => takeTrap s c ⟨causeIdivz, some l, 0#16, 0#64⟩
    | none => finish s c (c.writeX f.d fun l => op (c.xOp f.ua f.a l) (c.xOp f.ub f.b l))
def uniS (i : Instr) (s : State) (f : FormDAB) (op : Word → Word → Word) : Out :=
  word i s fun c => finish s c (c.g.setS f.d (op (c.g.getS f.a) (c.g.getS f.b)))

/-! ### IALU (R186, R187) -/

/-- ADD. -/
def execAdd (f : FormR) (s : State) : Out :=
  binX (.add f) s f fun a b => a + b

/-- SUB. -/
def execSub (f : FormR) (s : State) : Out :=
  binX (.sub f) s f fun a b => a - b

/-- AND. -/
def execAnd (f : FormR) (s : State) : Out :=
  binX (.and f) s f fun a b => a &&& b

/-- OR. -/
def execOr (f : FormR) (s : State) : Out :=
  binX (.or f) s f fun a b => a ||| b

/-- XOR. -/
def execXor (f : FormR) (s : State) : Out :=
  binX (.xor f) s f fun a b => a ^^^ b

/-- ANDN. -/
def execAndn (f : FormR) (s : State) : Out :=
  binX (.andn f) s f fun a b => a &&& ~~~b

/-- MIN. -/
def execMin (f : FormR) (s : State) : Out :=
  binX (.min f) s f fun a b => if b.slt a then b else a

/-- MAX. -/
def execMax (f : FormR) (s : State) : Out :=
  binX (.max f) s f fun a b => if a.slt b then b else a

/-- MINU. -/
def execMinu (f : FormR) (s : State) : Out :=
  binX (.minu f) s f fun a b => if b.ult a then b else a

/-- MAXU. -/
def execMaxu (f : FormR) (s : State) : Out :=
  binX (.maxu f) s f fun a b => if a.ult b then b else a

/-- SLT. -/
def execSlt (f : FormR) (s : State) : Out :=
  binX (.slt f) s f fun a b => boolWord (a.slt b)

/-- SLTU. -/
def execSltu (f : FormR) (s : State) : Out :=
  binX (.sltu f) s f fun a b => boolWord (a.ult b)

/-- SEQ. -/
def execSeq (f : FormR) (s : State) : Out :=
  binX (.seq f) s f fun a b => boolWord (a == b)

/-- ABS. -/
def execAbs (f : FormRU) (s : State) : Out :=
  laneXF (.abs f) s f.d fun c l => absWord (c.xOp f.ua f.a l)

/-- LEA. -/
def execLea (f : FormR) (s : State) : Out :=
  binX (.lea f) s f fun a b => a + (b <<< 2)

/-- SELM: the fourth operand selects (R187). -/
def execSelm (f : FormR) (s : State) : Out :=
  laneX (.selm f) s f.d fun c l =>
    let on := match c.fourth with
      | some r => laneOn (c.g.getM r) l
      | none => false
    if on then c.xOp f.ua f.a l else c.xOp f.ub f.b l

/-! ### IALUI and IMM (R188, R189) -/

/-- ADDI. -/
def execAddi (f : FormI11) (s : State) : Out :=
  immX (.addi f) s f fun a b => a + b

/-- ANDI. -/
def execAndi (f : FormI11) (s : State) : Out :=
  immX (.andi f) s f fun a b => a &&& b

/-- ORI. -/
def execOri (f : FormI11) (s : State) : Out :=
  immX (.ori f) s f fun a b => a ||| b

/-- XORI. -/
def execXori (f : FormI11) (s : State) : Out :=
  immX (.xori f) s f fun a b => a ^^^ b

/-- SLTI. -/
def execSlti (f : FormI11) (s : State) : Out :=
  immX (.slti f) s f fun a b => boolWord (a.slt b)

/-- SLTIU. -/
def execSltiu (f : FormI11) (s : State) : Out :=
  immX (.sltiu f) s f fun a b => boolWord (a.ult b)

/-- LEAI. -/
def execLeai (f : FormI11) (s : State) : Out :=
  immX (.leai f) s f fun a b => a + (b <<< 2)

/-- SHLI. -/
def execShli (f : FormI5) (s : State) : Out :=
  laneX (.shli f) s f.d fun c l => c.g.getX f.a l <<< f.amt.toNat

/-- MOVI. -/
def execMovi (f : FormM) (s : State) : Out :=
  laneX (.movi f) s f.d fun _ _ => immWord f.imm

/-- MOVHI. -/
def execMovhi (f : FormMH) (s : State) : Out :=
  laneX (.movhi f) s f.d fun c l => (f.imm ++ 0#19) ||| (c.g.getX f.d l &&& 0x7FFFF#32)

/-! ### SHF (R190, R191) -/

/-- SHL. -/
def execShl (f : FormR) (s : State) : Out :=
  binX (.shl f) s f shlWord

/-- SHR. -/
def execShr (f : FormR) (s : State) : Out :=
  binX (.shr f) s f shrWord

/-- SAR. -/
def execSar (f : FormR) (s : State) : Out :=
  binX (.sar f) s f sarWord

/-- ROTL. -/
def execRotl (f : FormR) (s : State) : Out :=
  binX (.rotl f) s f rotlWord

/-- BFX. -/
def execBfx (f : FormR) (s : State) : Out :=
  binX (.bfx f) s f bfxWord

/-- BFI. -/
def execBfi (f : FormR) (s : State) : Out :=
  laneX (.bfi f) s f.d fun c l => bfiWord (c.g.getX f.d l) (c.xOp f.ua f.a l) (c.xOp f.ub f.b l)

/-- POPC. -/
def execPopc (f : FormRU) (s : State) : Out :=
  unX (.popc f) s f popWord

/-- CLZ. -/
def execClz (f : FormRU) (s : State) : Out :=
  unX (.clz f) s f clzWord

/-- CTZ. -/
def execCtz (f : FormRU) (s : State) : Out :=
  unX (.ctz f) s f ctzWord

/-- BREV. -/
def execBrev (f : FormRU) (s : State) : Out :=
  unX (.brev f) s f brevWord

/-- BPERM. -/
def execBperm (f : FormR) (s : State) : Out :=
  laneX (.bperm f) s f.d fun c l => bpermWord (c.xOp f.ua f.a l) ((c.xFourth l).getD 0#32) (c.xOp f.ub f.b l)

/-! ### IMUL (R192, R193) -/

/-- MUL. -/
def execMul (f : FormR) (s : State) : Out :=
  binX (.mul f) s f fun a b => a * b

/-- MULH. -/
def execMulh (f : FormR) (s : State) : Out :=
  binX (.mulh f) s f mulhWord

/-- MULHU. -/
def execMulhu (f : FormR) (s : State) : Out :=
  binX (.mulhu f) s f mulhuWord

/-- MAD. -/
def execMad (f : FormR) (s : State) : Out :=
  laneX (.mad f) s f.d fun c l => c.xOp f.ua f.a l * c.xOp f.ub f.b l + (c.xFourth l).getD (c.g.getX f.d l)

/-- DIV. -/
def execDiv (f : FormR) (s : State) : Out :=
  divX (.div f) s f divWord

/-- DIVU. -/
def execDivu (f : FormR) (s : State) : Out :=
  divX (.divu f) s f fun a b => (a.udiv b, 0#6)

/-- REM. -/
def execRem (f : FormR) (s : State) : Out :=
  divX (.rem f) s f fun a b => (remWord a b, 0#6)

/-- REMU. -/
def execRemu (f : FormR) (s : State) : Out :=
  divX (.remu f) s f fun a b => (a.umod b, 0#6)

/-! ### UNI (R194) -/

/-- UADD. -/
def execUadd (f : FormDAB) (s : State) : Out :=
  uniS (.uadd f) s f fun a b => a + b

/-- USUB. -/
def execUsub (f : FormDAB) (s : State) : Out :=
  uniS (.usub f) s f fun a b => a - b

/-- UAND. -/
def execUand (f : FormDAB) (s : State) : Out :=
  uniS (.uand f) s f fun a b => a &&& b

/-- UOR. -/
def execUor (f : FormDAB) (s : State) : Out :=
  uniS (.uor f) s f fun a b => a ||| b

/-- UXOR. -/
def execUxor (f : FormDAB) (s : State) : Out :=
  uniS (.uxor f) s f fun a b => a ^^^ b

/-- USHL. -/
def execUshl (f : FormDAB) (s : State) : Out :=
  uniS (.ushl f) s f shlWord

/-- USHR. -/
def execUshr (f : FormDAB) (s : State) : Out :=
  uniS (.ushr f) s f shrWord

/-- UMUL. -/
def execUmul (f : FormDAB) (s : State) : Out :=
  uniS (.umul f) s f fun a b => a * b

/-- USLT. -/
def execUslt (f : FormDAB) (s : State) : Out :=
  uniS (.uslt f) s f fun a b => boolWord (a.slt b)

/-- UMOVX: the lowest lane of the split's EM. -/
def execUmovx (f : FormDA) (s : State) : Out :=
  word (.umovx f) s fun c =>
    let w := match lanesOf c.p.em with
      | l :: _ => c.g.getX f.a l
      | [] => 0#32
    finish s c (c.g.setS f.d w)

/-- UMOVS. -/
def execUmovs (f : FormDA) (s : State) : Out :=
  word (.umovs f) s fun c => finish s c (c.g.setX f.d c.p.em fun _ => c.g.getS f.a)

/-- UADDI. -/
def execUaddi (f : FormDI) (s : State) : Out :=
  word (.uaddi f) s fun c => finish s c (c.g.setS f.d (c.g.getS f.d + immWord f.imm))

end Sys2Proof.Machine
end

