-- ==== Sys2Proof/Machine/Sfu.lean ====
section
/-! DEFINITION. The special functions of R220 and R221: enclosures by exact dyadic arithmetic at a growing
precision until both ends round to the same FP32 value, which is then the tightest bound. The exact cases
(zero, one) are answered exactly; elsewhere the value is no FP32 number, so more precision always decides. -/

namespace Sys2Proof.Machine

/-- An enclosure of a real number by two dyadic numbers. -/
structure Ap where
  lo : Dy
  hi : Dy
deriving DecidableEq, Repr

/-- Keep `p` bits of the mantissa, rounding toward minus infinity. -/
def dyDown (p : Nat) (d : Dy) : Dy :=
  let k := Nat.log2 d.m.natAbs + 1 - p
  if k = 0 then d else ⟨d.m.fdiv ((2 : Int) ^ k), d.e + k⟩
/-- Keep `p` bits of the mantissa, rounding toward plus infinity. -/
def dyUp (p : Nat) (d : Dy) : Dy := dyNeg (dyDown p (dyNeg d))

def apOf (d : Dy) : Ap := ⟨d, d⟩
def apInt (n : Int) : Ap := apOf (dyOfInt n)
def apTrunc (p : Nat) (a : Ap) : Ap := ⟨dyDown p a.lo, dyUp p a.hi⟩
def apNeg (a : Ap) : Ap := ⟨dyNeg a.hi, dyNeg a.lo⟩
def apAdd (p : Nat) (a b : Ap) : Ap := apTrunc p ⟨dyAdd a.lo b.lo, dyAdd a.hi b.hi⟩
def apSub (p : Nat) (a b : Ap) : Ap := apAdd p a (apNeg b)
def apMul (p : Nat) (a b : Ap) : Ap :=
  let w := dyMul a.lo b.lo
  let x := dyMul a.lo b.hi
  let y := dyMul a.hi b.lo
  let z := dyMul a.hi b.hi
  apTrunc p ⟨dyMin (dyMin w x) (dyMin y z), dyMax (dyMax w x) (dyMax y z)⟩
/-- The quotient of dyadic numbers with positive divisor, `p` bits, rounded down. -/
def dyQuot (p : Nat) (a b : Dy) : Dy :=
  let k := p + Nat.log2 b.m.natAbs + 1
  ⟨(a.m * (2 : Int) ^ k).fdiv b.m, a.e - b.e - k⟩
/-- The reciprocal-style quotient by an enclosure of positive numbers. -/
def apDiv (p : Nat) (a b : Ap) : Ap :=
  let f (x y : Dy) : Dy := dyQuot p x y
  let g (x y : Dy) : Dy := dyNeg (dyQuot p (dyNeg x) y)
  apTrunc p ⟨dyMin (f a.lo b.lo) (f a.lo b.hi), dyMax (g a.hi b.lo) (g a.hi b.hi)⟩
def apScale (a : Ap) (n : Int) : Ap := ⟨dyShift a.lo n, dyShift a.hi n⟩
/-- Widen by `2^n` on both sides. -/
def apWiden (p : Nat) (a : Ap) (n : Int) : Ap :=
  apTrunc p ⟨dySub a.lo ⟨1, n⟩, dyAdd a.hi ⟨1, n⟩⟩
/-- The root of a positive enclosure. -/
def apSqrt (p : Nat) (a : Ap) : Ap :=
  let f (d : Dy) : Int × Int :=
    let pad := 2 * p
    let k := if (d.e - pad) % 2 = 0 then pad else pad + 1
    ((isqrt (d.m.natAbs * 2 ^ k) : Nat), (d.e - k) / 2)
  let l := f a.lo
  let h := f a.hi
  apTrunc p ⟨⟨l.1, l.2⟩, ⟨h.1 + 1, h.2⟩⟩

/-- `atan (1/n)` scaled by `2^p`, with its error in units: the alternating series. -/
def atanInvLoop (n2 : Nat) : Nat → Nat → Nat → Int → Int → Int × Nat
  | 0, _, k, s, _ => (s, k + 2)
  | f + 1, t, k, s, sg =>
    if t = 0 then (s, k + 2)
    else atanInvLoop n2 f (t / n2) (k + 1) (s + sg * (t / (2 * k + 1) : Nat)) (-sg)
def atanInv (p n : Nat) : Ap :=
  let r := atanInvLoop (n * n) (p + 8) (2 ^ p / n) 0 0 1
  ⟨⟨r.1 - 2 * r.2, -(p : Int)⟩, ⟨r.1 + 2 * r.2, -(p : Int)⟩⟩
/-- Machin's formula. -/
def apPi (p : Nat) : Ap :=
  apSub p (apMul p (apInt 16) (atanInv (p + 16) 5)) (apMul p (apInt 4) (atanInv (p + 16) 239))

/-- Horner's rule over the terms `k .. n` of `Σ z2^k / (2k+1)`. -/
def oddHorner (p : Nat) (z2 : Ap) : Nat → Nat → Ap
  | 0, k => apDiv p (apInt 1) (apInt (2 * k + 1))
  | f + 1, k => apAdd p (apDiv p (apInt 1) (apInt (2 * k + 1))) (apMul p z2 (oddHorner p z2 f (k + 1)))

/-- `2 atanh z`, |z| at most 1/2: `p` terms leave an error below `2^(1-2p)` of the sum. -/
def ap2Atanh (p : Nat) (z : Ap) : Ap :=
  let s := apWiden p (oddHorner p (apMul p z z) p 0) (2 - 2 * (p : Int))
  apScale (apMul p z s) 1

def apLn2 (p : Nat) : Ap := ap2Atanh p (apDiv p (apInt 1) (apInt 3))

/-- Horner's rule for the exponential: `1 + r/k (1 + r/(k+1) (…))`, `f` more terms. -/
def expHorner (p : Nat) (r : Ap) : Nat → Nat → Ap
  | 0, _ => apInt 1
  | f + 1, k => apAdd p (apInt 1) (apMul p (apDiv p r (apInt k)) (expHorner p r f (k + 1)))

def apSquareN (p : Nat) : Nat → Ap → Ap
  | 0, a => a
  | n + 1, a => apSquareN p n (apMul p a a)

/-- `e^r` for |r| below 2: reduce by `2^8`, sum, square eight times. -/
def expSmall (p : Nat) (r : Ap) : Ap :=
  let n := p / 6 + 4
  apSquareN p 8 (apWiden p (expHorner p (apScale r (-8)) n 1) (2 - 7 * (n : Int)))

/-- The integer nearest below a dyadic number. -/
def dyFloor (d : Dy) : Int :=
  if d.e < 0 then d.m.fdiv ((2 : Int) ^ (-d.e).toNat) else d.m * (2 : Int) ^ d.e.toNat

/-- `e^x` for an enclosure of moderate size. -/
def apExp (p : Nat) (x : Ap) : Ap :=
  let k := dyFloor (apDiv 32 (apOf (dyDown 40 x.lo)) (apLn2 32)).lo
  let r := apSub p x (apMul p (apInt k) (apLn2 p))
  apScale (expSmall p r) k

/-- `ln x` of a positive dyadic number. -/
def apLn (p : Nat) (x : Dy) : Ap :=
  let k0 := (Nat.log2 x.m.natAbs : Int) + x.e
  -- scale into [3/4, 3/2)
  let y0 := dyShift x (-k0)
  let hi := !dyLt y0 ⟨3, -1⟩
  let y := if hi then dyShift y0 (-1) else y0
  let k := if hi then k0 + 1 else k0
  let z := apDiv p (apOf (dySub y dyOne)) (apOf (dyAdd y dyOne))
  let l := ap2Atanh p z
  if k = 0 then l else apAdd p (apMul p (apInt k) (apLn2 p)) l

/-- `1 / (1 + e^-x)`. -/
def apSigm (p : Nat) (x : Dy) : Ap :=
  apDiv p (apInt 1) (apAdd p (apInt 1) (apExp p (apOf (dyNeg x))))

/-- `tanh x = (e^2x - 1) / (e^2x + 1)`. -/
def apTanh (p : Nat) (x : Dy) : Ap :=
  let e := apExp p (apOf (dyShift x 1))
  apDiv p (apSub p e (apInt 1)) (apAdd p e (apInt 1))

def apSilu (p : Nat) (x : Dy) : Ap := apMul p (apOf x) (apSigm p x)

/-- `Σ x^(2n+1) / (2n+1)!!` by Horner: `x (1 + x²/3 (1 + x²/5 (…)))`. -/
def phiHorner (p : Nat) (x2 : Ap) : Nat → Nat → Ap
  | 0, _ => apInt 1
  | f + 1, k => apAdd p (apInt 1) (apMul p (apDiv p x2 (apInt (2 * k + 1))) (phiHorner p x2 f (k + 1)))

/-- The standard normal distribution function at `x`, |x| at most 16. -/
def apPhi (p : Nat) (x : Dy) : Ap :=
  let ax := dyAbs x
  let x2 := apMul p (apOf ax) (apOf ax)
  -- beyond term 512 each factor x²/(2k+1) is at most 1/4, so p more terms leave less than 2^-p of the sum
  let s0 := phiHorner p x2 (512 + p) 1
  let s := apTrunc p ⟨s0.lo, dyMul s0.hi ⟨(2 : Int) ^ p + 1, -(p : Int)⟩⟩
  let phi := apDiv p (apExp p (apNeg (apScale x2 (-1)))) (apSqrt p (apScale (apPi p) 1))
  let half : Ap := apOf ⟨1, -1⟩
  let t := apMul p phi (apMul p (apOf ax) s)
  if x.m < 0 then apSub p half t else apAdd p half t

def apGelu (p : Nat) (x : Dy) : Ap := apMul p (apOf x) (apPhi p x)

/-- `Σ (-1)^k r^(2k) / ((2k+1)!/1)`-style Horner for the sine over `r` and the cosine. -/
def sinHorner (p : Nat) (r2 : Ap) : Nat → Nat → Ap
  | 0, _ => apInt 1
  | f + 1, k => apSub p (apInt 1) (apMul p (apDiv p r2 (apInt ((2 * k) * (2 * k + 1)))) (sinHorner p r2 f (k + 1)))
def cosHorner (p : Nat) (r2 : Ap) : Nat → Nat → Ap
  | 0, _ => apInt 1
  | f + 1, k => apSub p (apInt 1) (apMul p (apDiv p r2 (apInt ((2 * k - 1) * (2 * k)))) (cosHorner p r2 f (k + 1)))

/-- The quadrant number nearest to `x / (π/2)`, and the rest `x - n π/2`. -/
def trigReduce (p : Nat) (x : Dy) : Int × Ap :=
  let q := apDiv (p + 32) (apOf x) (apScale (apPi (p + 32)) (-1))
  let n := dyFloor (dyAdd q.lo ⟨1, -1⟩)
  (n, apSub p (apOf x) (apMul (p + 64) (apInt n) (apScale (apPi (p + 64)) (-1))))

/-- `sin (x + s π/2)`. -/
def apSinQ (s : Int) (p : Nat) (x : Dy) : Ap :=
  let t := trigReduce p x
  let r2 := apMul p t.2 t.2
  let n := p / 3 + 8
  let w (a : Ap) : Ap := apWiden p a (-(2 * n : Int))
  let sn := apMul p t.2 (w (sinHorner p r2 n 1))
  let cs := w (cosHorner p r2 n 1)
  match (t.1 + s) % 4 with
  | 0 => sn
  | 1 => cs
  | 2 => apNeg sn
  | _ => apNeg cs

/-! ### Rounding by growing precision -/

/-- The precisions tried in turn. UNVERIFIED, unsafe: log entry 44. -/
def zivPrecisions : List Nat := [64, 128, 256, 512, 1024]

/-- Round the number that `F` encloses: the first precision at which both ends agree. -/
def zivRound (F : Nat → Ap) (dir : Dir) : List Nat → Nat × Bool
  | [] => roundFr fmtF32 dir (frOfDy ((if dir = .down then (F 2048).lo else (F 2048).hi)))
  | p :: ps =>
    let a := F p
    let l := roundFr fmtF32 dir (frOfDy a.lo)
    let h := roundFr fmtF32 dir (frOfDy a.hi)
    if l = h then l else zivRound F dir ps

def ziv (F : Nat → Ap) (dir : Dir) : Nat × Bool := zivRound F dir zivPrecisions

def dyGe (x : Dy) (n : Int) : Bool := dyLe (dyOfInt n) x
def dyLeI (x : Dy) (n : Int) : Bool := dyLe x (dyOfInt n)

/-- A number just below (or above, for the other direction) the exact dyadic `x`. -/
def justBelow (x : Dy) (dir : Dir) : Nat × Bool :=
  match dir with
  | .down => roundFr fmtF32 .down (frOfDy (dySub x ⟨1, -2000⟩))
  | d => roundFr fmtF32 d (frOfDy x)
/-- A number just above `x`. -/
def justAbove (x : Dy) (dir : Dir) : Nat × Bool :=
  match dir with
  | .up => roundFr fmtF32 .up (frOfDy (dyAdd x ⟨1, -2000⟩))
  | d => roundFr fmtF32 d (frOfDy x)

/-- Rounded value of each function at a finite point. -/
def expAt (x : Dy) (dir : Dir) : Nat × Bool :=
  if x.m = 0 then roundFr fmtF32 dir ⟨1, 1⟩
  else if dyGe x 128 then roundFr fmtF32 dir (frOfDy ⟨1, 129⟩)
  else if dyLeI x (-128) then justAbove dyZero dir
  else ziv (fun p => apExp p (apOf x)) dir
def lnAt (x : Dy) (dir : Dir) : Nat × Bool :=
  if (dySub x dyOne).m = 0 then (0, false)
  else ziv (fun p => apLn p x) dir
def tanhAt (x : Dy) (dir : Dir) : Nat × Bool :=
  if x.m = 0 then (0, false)
  else if dyGe x 64 then justBelow dyOne dir
  else if dyLeI x (-64) then justAbove (dyOfInt (-1)) dir
  else ziv (fun p => apTanh p x) dir
def sigmAt (x : Dy) (dir : Dir) : Nat × Bool :=
  if x.m = 0 then roundFr fmtF32 dir ⟨1, 2⟩
  else if dyGe x 128 then justBelow dyOne dir
  else if dyLeI x (-128) then justAbove dyZero dir
  else ziv (fun p => apSigm p x) dir
def siluAt (x : Dy) (dir : Dir) : Nat × Bool :=
  if x.m = 0 then (0, false)
  else if dyGe x 128 then justBelow x dir
  else if dyLeI x (-128) then justBelow dyZero dir
  else ziv (fun p => apSilu p x) dir
def geluAt (x : Dy) (dir : Dir) : Nat × Bool :=
  if x.m = 0 then (0, false)
  else if dyGe x 16 then justBelow x dir
  else if dyLeI x (-16) then justBelow dyZero dir
  else ziv (fun p => apGelu p x) dir
def sinAt (s : Int) (x : Dy) (dir : Dir) : Nat × Bool :=
  if x.m = 0 then roundFr fmtF32 dir ⟨if s = 0 then 0 else 1, 1⟩
  else ziv (fun p => apSinQ s p x) dir

/-! ### The images (R220) -/

/-- A monotone function of an interval, with its limits at the two ends. -/
def sfuMono (f : Dy → Dir → Nat × Bool) (limLo limHi : Bd) : Itv → DWord × Flags
  | .empty => (imgEmpty, 0#6)
  | .mk a b =>
    let at' (x : Bd) (dir : Dir) : Nat × Bool := match x with
      | .ninf => bdBits fmtF32 dir limLo
      | .pinf => bdBits fmtF32 dir limHi
      | .fin d => f d dir
    let l := at' a .down
    let h := at' b .up
    (packF32 l.1 h.1, flagIf (l.2 || h.2) fOVF)

def sfuExp : Itv → DWord × Flags := sfuMono expAt bdZero .pinf
def sfuTanh : Itv → DWord × Flags := sfuMono tanhAt (.fin ⟨-1, 0⟩) (.fin dyOne)
def sfuSigm : Itv → DWord × Flags := sfuMono sigmAt bdZero (.fin dyOne)

/-- ln over A ∩ (0, +inf): EMPTY where nothing of A is positive. -/
def sfuLog : Itv → DWord × Flags
  | .empty => (imgEmpty, 0#6)
  | .mk a b =>
    if bdLe b bdZero then (imgEmpty, fEMPTY) else
    let l := if bdLe a bdZero then bdBits fmtF32 .down .ninf else match a with
      | .fin d => lnAt d .down
      | x => bdBits fmtF32 .down x
    let h := match b with
      | .fin d => lnAt d .up
      | x => bdBits fmtF32 .up x
    (packF32 l.1 h.1, flagIf (l.2 || h.2) fOVF)

/-- A function that falls to its least value at a point and rises after it. `xmin` is the FP32 number next
below that point and `least` the rounded-down least value. -/
def sfuValley (f : Dy → Dir → Nat × Bool) (xmin : Dy) (least : Nat) : Itv → DWord × Flags
  | .empty => (imgEmpty, 0#6)
  | .mk a b =>
    let at' (x : Bd) (dir : Dir) : Nat × Bool := match x with
      | .ninf => (0, false)
      | .pinf => bdBits fmtF32 dir .pinf
      | .fin d => f d dir
    let left (x : Bd) : Bool := bdLe x (.fin xmin)
    let toBd (n : Nat) : Bd := (bitsBd fmtF32 n).getD bdZero
    let lo : Nat × Bool :=
      if left a && !left b then (least, false)
      else if left b then at' b .down else at' a .down
    let ua := at' a .up
    let ub := at' b .up
    let hi := if bdLt (toBd ua.1) (toBd ub.1) then ub else ua
    (packF32 lo.1 hi.1, flagIf (lo.2 || hi.2) fOVF)

/-- R220: minimum ≈ −0.278464543 at x ≈ −1.278464543. -/
def siluXmin : Dy := ⟨-5362269, -22⟩
def siluLeast : Nat := 0xBE8E92E8
/-- R220: minimum ≈ −0.169971207 at x ≈ −0.751791525. -/
def geluXmin : Dy := ⟨-12612969, -24⟩
def geluLeast : Nat := 0xBE2E0CEF

def sfuSilu : Itv → DWord × Flags := sfuValley siluAt siluXmin siluLeast
def sfuGelu : Itv → DWord × Flags := sfuValley geluAt geluXmin geluLeast

/-- The number of quarter turns at or below a point, decided at growing precision. -/
def quarterLoop (x : Dy) : List Nat → Int
  | [] => dyFloor (apDiv 2048 (apOf x) (apScale (apPi 2048) (-1))).lo
  | p :: ps =>
    let q := apDiv p (apOf x) (apScale (apPi p) (-1))
    if dyFloor q.lo = dyFloor q.hi then dyFloor q.lo else quarterLoop x ps
def quarter (x : Dy) : Int := if x.m = 0 then 0 else quarterLoop x zivPrecisions

/-- Is some integer congruent to `r` modulo 4 above `lo` and at most `hi`? -/
def hitsMod4 (r lo hi : Int) : Bool := decide (lo < hi - (hi - r) % 4)

/-- The image of the interval [-1, 1]. -/
def imgUnit : DWord := 0x3F800000BF800000#64

/-- R221; `s` is 0 for the sine and 1 for the cosine. -/
def sfuTrig (s : Int) : Itv → DWord × Flags
  | .empty => (imgEmpty, 0#6)
  | .mk (.fin a) (.fin b) =>
    let big : Dy := ⟨1, 20⟩
    if dyLt big (dyAbs a) || dyLt big (dyAbs b) || dyLe (fmtMag fmtF32 0x40C90FDA) (dySub b a) then (imgUnit, 0#6)
    else
      let qa := quarter a
      let qb := quarter b
      let toBd (n : Nat) : Bd := (bitsBd fmtF32 n).getD bdZero
      let hi : Nat := if hitsMod4 (1 - s) qa qb then 0x3F800000 else
        let x := (sinAt s a .up).1
        let y := (sinAt s b .up).1
        if bdLt (toBd x) (toBd y) then y else x
      let lo : Nat := if hitsMod4 (3 - s) qa qb then 0xBF800000 else
        let x := (sinAt s a .down).1
        let y := (sinAt s b .down).1
        if bdLt (toBd y) (toBd x) then y else x
      (packF32 lo hi, 0#6)
  | .mk _ _ => (imgUnit, 0#6)

end Sys2Proof.Machine
end

