-- ==== Sys2Proof/Machine/Interval.lean ====
section
/-! DEFINITION. Interval arithmetic, set operations, comparisons, predicate logic and the special functions: VADD,
VMUL, VSET, VCMP and VSFU (R206 to R221). -/

namespace Sys2Proof.Machine

/-! ### Shapes -/

/-- The flags of reading two operands beside those of the result. -/
def withFlags {α : Type} (r : α × Flags) (f : Flags) : α × Flags := (r.1, r.2 ||| f)

def binV (i : Instr) (s : State) (f : FormR) (op : Itv → Itv → DWord × Flags) : Out :=
  laneV i s f.d fun c l =>
    let a := c.vOp f.ua f.a l
    let b := c.vOp f.ub f.b l
    withFlags (op a.1 b.1) (a.2 ||| b.2)
def unV (i : Instr) (s : State) (f : FormRU) (op : Itv → DWord × Flags) : Out :=
  laneV i s f.d fun c l =>
    let a := c.vOp f.ua f.a l
    withFlags (op a.1) a.2
/-- A bound's bits moved to an x-register (R214): the raw bits, so that the sign of a zero bound stays; the empty
set gives its own bound. An s-register is first made a degenerate interval (R95, R78). -/
def boundV (i : Instr) (s : State) (f : FormRU) (hi : Bool) : Out :=
  laneXF i s f.d fun c l =>
    let a := c.vOp f.ua f.a l
    let img : DWord := if a.1 = .empty then imgEmpty else if f.ua then (writeF32 a.1).1 else c.g.getV f.a l
    ((if hi then img >>> 32 else img).setWidth 32, a.2)
/-- The bits of a v operand moved to an x-register. -/
def bitsV (i : Instr) (s : State) (f : FormRU) (op : Itv → Word) : Out :=
  laneXF i s f.d fun c l =>
    let a := c.vOp f.ua f.a l
    (op a.1, a.2)
def cmpV (i : Instr) (s : State) (f : FormR) (op : Itv → Itv → BitVec 2) : Out :=
  laneQ i s f.d fun c l =>
    let a := c.vOp f.ua f.a l
    let b := c.vOp f.ub f.b l
    (op a.1 b.1, a.2 ||| b.2)
def binQ (i : Instr) (s : State) (f : FormDAB) (op : BitVec 2 → BitVec 2 → BitVec 2) : Out :=
  laneQ i s f.d fun c l => (op (c.g.getQ f.a l) (c.g.getQ f.b l), 0#6)
def unQ (i : Instr) (s : State) (f : FormDA) (op : BitVec 2 → BitVec 2) : Out :=
  laneQ i s f.d fun c l => (op (c.g.getQ f.a l), 0#6)

/-! ### The operations of the rules -/

/-- R212: A × B + C with one rounding of each bound. -/
def itvFma (a b c : Itv) : DWord × Flags := writeF32 (itvAdd (itvMul a b) c)
/-- [MAX, +inf], the width of an interval with an infinite bound (R214). -/
def imgMaxInf : DWord := 0x7F8000007F7FFFFF#64
/-- The width, or half of it (R214). -/
def itvWidth (half : Bool) : Itv → DWord × Flags
  | .empty => (imgEmpty, 0#6)
  | .mk (.fin a) (.fin b) =>
    let w := dyShift (dySub b a) (if half then -1 else 0)
    writeF32 (.mk (.fin w) (.fin w))
  | .mk _ _ => (imgMaxInf, 0#6)
/-- R214 VMID. -/
def itvMidV (a : Itv) : DWord × Flags :=
  match itvMid a with
  | some m => writeF32 (.mk (.fin m) (.fin m))
  | none => (imgEmpty, 0#6)
/-- R214 VISECT. -/
def itvIsectV (a b : Itv) : DWord × Flags :=
  let r := itvIsect a b
  ((writeF32 r).1, flagIf (itvIsEmpty r && !itvIsEmpty a && !itvIsEmpty b) fEMPTY)

def qF : BitVec 2 := 0#2
def qT : BitVec 2 := 1#2
def qU : BitVec 2 := 2#2
/-- T where the first holds, F where the second does, else U. -/
def triOf (t f : Bool) : BitVec 2 := if t then qT else if f then qF else qU
/-- A scale beyond which every finite bound has left the format: larger ones give the same bits (R213). -/
def clampScale (n : Int) : Int := max (-1000) (min 1000 n)
/-- R217: a comparison of two non-empty sets; an empty operand gives U. -/
def cmpItv (t f : Bd → Bd → Bd → Bd → Bool) : Itv → Itv → BitVec 2
  | .mk a b, .mk c d => triOf (t a b c d) (f a b c d)
  | _, _ => qU
def bdEq (a b : Bd) : Bool := bdLe a b && bdLe b a
/-- R218 VCSUB. -/
def itvSub3 : Itv → Itv → BitVec 2
  | .empty, _ => qT
  | .mk _ _, .empty => qF
  | .mk a b, .mk c d => if bdLe c a && bdLe b d then qT else qF
/-- R218 VCDIS. -/
def itvDis3 (a b : Itv) : BitVec 2 := if itvIsEmpty (itvIsect a b) then qT else qF
/-- R218 VCIN. -/
def itvIn3 : Itv → Itv → BitVec 2
  | .mk a b, .mk c d =>
    let lo := c == .ninf || bdLt c a
    let hi := d == .pinf || bdLt b d
    if lo && hi then qT else if itvIsEmpty (itvIsect (.mk a b) (.mk c d)) then qF else qU
  | _, _ => qU
/-- R219: Kleene's operations on T, F, U. -/
def qAnd (a b : BitVec 2) : BitVec 2 := if a = qF ∨ b = qF then qF else if a = qT ∧ b = qT then qT else qU
def qOr (a b : BitVec 2) : BitVec 2 := if a = qT ∨ b = qT then qT else if a = qF ∧ b = qF then qF else qU
def qNot (a : BitVec 2) : BitVec 2 := if a = qT then qF else if a = qF then qT else qU

/-! ### VADD (R208) -/

/-- VADD. -/
def execVadd (f : FormR) (s : State) : Out :=
  binV (.vadd f) s f fun a b => writeF32 (itvAdd a b)

/-- VSUB. -/
def execVsub (f : FormR) (s : State) : Out :=
  binV (.vsub f) s f fun a b => writeF32 (itvSub a b)

/-- VNEG. -/
def execVneg (f : FormRU) (s : State) : Out :=
  unV (.vneg f) s f fun a => writeF32 (itvNeg a)

/-- VABS. -/
def execVabs (f : FormRU) (s : State) : Out :=
  unV (.vabs f) s f fun a => writeF32 (itvAbs a)

/-- VMIN. -/
def execVmin (f : FormR) (s : State) : Out :=
  binV (.vmin f) s f fun a b => writeF32 (itvMin a b)

/-- VMAX. -/
def execVmax (f : FormR) (s : State) : Out :=
  binV (.vmax f) s f fun a b => writeF32 (itvMax a b)

/-! ### VMUL (R210 to R213) -/

/-- VMUL. -/
def execVmul (f : FormR) (s : State) : Out :=
  binV (.vmul f) s f fun a b => writeF32 (itvMul a b)

/-- VDIV. -/
def execVdiv (f : FormR) (s : State) : Out :=
  binV (.vdiv f) s f itvDiv

/-- VFMA: the addend is the fourth operand or the old D (R212). -/
def execVfma (f : FormR) (s : State) : Out :=
  laneV (.vfma f) s f.d fun c l =>
    let a := c.vOp f.ua f.a l
    let b := c.vOp f.ub f.b l
    let x := (c.vFourth l).getD (c.vOp false f.d l)
    withFlags (itvFma a.1 b.1 x.1) (a.2 ||| b.2 ||| x.2)

/-- VSQR. -/
def execVsqr (f : FormRU) (s : State) : Out :=
  unV (.vsqr f) s f fun a => writeF32 (itvSqr a)

/-- VSQRT. -/
def execVsqrt (f : FormRU) (s : State) : Out :=
  unV (.vsqrt f) s f itvSqrt

/-- VRCP. -/
def execVrcp (f : FormRU) (s : State) : Out :=
  unV (.vrcp f) s f (itvDiv (itvPoint dyOne))

/-- VSCALE. -/
def execVscale (f : FormR) (s : State) : Out :=
  laneV (.vscale f) s f.d fun c l =>
    let a := c.vOp f.ua f.a l
    withFlags (writeF32 (itvScale (clampScale (c.xOp f.ub f.b l).toInt) a.1)) a.2

/-! ### VSET (R214 to R216) -/

/-- VMK. -/
def execVmk (f : FormR) (s : State) : Out :=
  laneV (.vmk f) s f.d fun c l =>
    let r := readF32 (packF32 (c.xOp f.ua f.a l).toNat (c.xOp f.ub f.b l).toNat)
    ((writeF32 r.1).1, r.2)

/-- VLO. -/
def execVlo (f : FormRU) (s : State) : Out :=
  boundV (.vlo f) s f false

/-- VHI. -/
def execVhi (f : FormRU) (s : State) : Out :=
  boundV (.vhi f) s f true

/-- VMRC. -/
def execVmrc (f : FormRU) (s : State) : Out :=
  bitsV (.vmrc f) s f fun a => BitVec.ofNat 32 (mrcEncode a)

/-- VMID. -/
def execVmid (f : FormRU) (s : State) : Out :=
  unV (.vmid f) s f itvMidV

/-- VRAD. -/
def execVrad (f : FormRU) (s : State) : Out :=
  unV (.vrad f) s f (itvWidth true)

/-- VWID. -/
def execVwid (f : FormRU) (s : State) : Out :=
  unV (.vwid f) s f (itvWidth false)

/-- VHULL. -/
def execVhull (f : FormR) (s : State) : Out :=
  binV (.vhull f) s f fun a b => writeF32 (itvHull a b)

/-- VISECT. -/
def execVisect (f : FormR) (s : State) : Out :=
  binV (.visect f) s f itvIsectV

/-- VBIS: the lower half to D, the upper to D+1 (R215). -/
def execVbis (f : FormRU) (s : State) : Out :=
  word (.vbis f) s fun c =>
    let half (l : Lane) : (Itv × Itv) × Flags :=
      let a := c.vOp f.ua f.a l
      (itvHalves a.1, a.2)
    let g := c.writeV f.d fun l => ((writeF32 (half l).1.1).1, (half l).2)
    finish s c ({ c with g := g }.writeV (f.d + 1#6) fun l => ((writeF32 (half l).1.2).1, 0#6))

/-- VENT. -/
def execVent (f : FormD) (s : State) : Out :=
  laneV (.vent f) s f.d fun _ _ => (imgEntire, 0#6)

/-- VEMP. -/
def execVemp (f : FormD) (s : State) : Out :=
  laneV (.vemp f) s f.d fun _ _ => (imgEmpty, 0#6)

/-- VFMR. -/
def execVfmr (f : FormRU) (s : State) : Out :=
  laneV (.vfmr f) s f.d fun c l => mrcDecode (c.xOp f.ua f.a l).toNat

/-! ### VCMP (R217 to R219) -/

/-- VCLT. -/
def execVclt (f : FormR) (s : State) : Out :=
  cmpV (.vclt f) s f (cmpItv (fun _ b c _ => bdLt b c) (fun a _ _ d => bdLe d a))

/-- VCLE. -/
def execVcle (f : FormR) (s : State) : Out :=
  cmpV (.vcle f) s f (cmpItv (fun _ b c _ => bdLe b c) (fun a _ _ d => bdLt d a))

/-- VCGT. -/
def execVcgt (f : FormR) (s : State) : Out :=
  cmpV (.vcgt f) s f (cmpItv (fun a _ _ d => bdLt d a) (fun _ b c _ => bdLe b c))

/-- VCGE. -/
def execVcge (f : FormR) (s : State) : Out :=
  cmpV (.vcge f) s f (cmpItv (fun a _ _ d => bdLe d a) (fun _ b c _ => bdLt b c))

/-- VCEQ. -/
def execVceq (f : FormR) (s : State) : Out :=
  cmpV (.vceq f) s f (cmpItv (fun a b c d => bdEq a b && bdEq b c && bdEq c d) (fun a b c d => bdLt b c || bdLt d a))

/-- VCSUB. -/
def execVcsub (f : FormR) (s : State) : Out :=
  cmpV (.vcsub f) s f itvSub3

/-- VCDIS. -/
def execVcdis (f : FormR) (s : State) : Out :=
  cmpV (.vcdis f) s f itvDis3

/-- VCIN. -/
def execVcin (f : FormR) (s : State) : Out :=
  cmpV (.vcin f) s f itvIn3

/-- QAND. -/
def execQand (f : FormDAB) (s : State) : Out :=
  binQ (.qand f) s f qAnd

/-- QOR. -/
def execQor (f : FormDAB) (s : State) : Out :=
  binQ (.qor f) s f qOr

/-- QNOT. -/
def execQnot (f : FormDA) (s : State) : Out :=
  unQ (.qnot f) s f qNot

/-- QSURE. -/
def execQsure (f : FormDA) (s : State) : Out :=
  unQ (.qsure f) s f fun a => if a = qT then qT else qF

/-- QMAYBE. -/
def execQmaybe (f : FormDA) (s : State) : Out :=
  unQ (.qmaybe f) s f fun a => if a = qF then qF else qT

/-- QMOV. -/
def execQmov (f : FormDA) (s : State) : Out :=
  unQ (.qmov f) s f fun a => a

/-! ### VSFU (R220, R221) -/

/-- VEXP. -/
def execVexp (f : FormRU) (s : State) : Out :=
  unV (.vexp f) s f sfuExp

/-- VLOG. -/
def execVlog (f : FormRU) (s : State) : Out :=
  unV (.vlog f) s f sfuLog

/-- VTANH. -/
def execVtanh (f : FormRU) (s : State) : Out :=
  unV (.vtanh f) s f sfuTanh

/-- VSIGM. -/
def execVsigm (f : FormRU) (s : State) : Out :=
  unV (.vsigm f) s f sfuSigm

/-- VSILU. -/
def execVsilu (f : FormRU) (s : State) : Out :=
  unV (.vsilu f) s f sfuSilu

/-- VGELU. -/
def execVgelu (f : FormRU) (s : State) : Out :=
  unV (.vgelu f) s f sfuGelu

/-- VSIN. -/
def execVsin (f : FormRU) (s : State) : Out :=
  unV (.vsin f) s f (sfuTrig 0)

/-- VCOS. -/
def execVcos (f : FormRU) (s : State) : Out :=
  unV (.vcos f) s f (sfuTrig 1)

end Sys2Proof.Machine
end

