-- ==== Sys2Proof/Machine/Rng.lean ====
section
/-! DEFINITION. The stream function, a group's draws, and the RNG members (R201 to R205). -/

namespace Sys2Proof.Machine

/-- The working words of the stream function. -/
structure StreamRegs where
  a : Word
  b : Word
  c : Word
  d : Word
  k0 : Word
  k1 : Word

/-- One round of R201. -/
def streamRound (r : StreamRegs) : StreamRegs :=
  let a := r.a + (r.b ^^^ r.k0)
  let d := (r.d ^^^ a).rotateLeft 13
  let c := r.c + (d ^^^ r.k1)
  let b := (r.b ^^^ c).rotateLeft 9
  let a := a + b
  let d := (d ^^^ a).rotateLeft 11
  let c := c + d
  let b := (b ^^^ c).rotateLeft 5
  ⟨a, b, c, d, r.k0 + 0x9E3779B9#32, r.k1 + 0x7F4A7C15#32⟩

def streamRounds : Nat → StreamRegs → StreamRegs
  | 0, r => r
  | n + 1, r => streamRounds n (streamRound r)

/-- R201: key, position and lane word to a 32-bit value. -/
def stream (key ctr : DWord) (lane : Nat) : Word :=
  let r := streamRounds 10 ⟨ctr.setWidth 32, (ctr >>> 32).setWidth 32, BitVec.ofNat 32 lane, 0x9E3779B9#32,
    key.setWidth 32, (key >>> 32).setWidth 32⟩
  r.a ^^^ r.c

/-- Element `e` of lane `l` (R202). -/
def Group.draw (g : Group) (e : Nat) (l : Lane) : Word := stream g.rngKey (g.rngCtr + BitVec.ofNat 64 e) l.val
/-- The counter advanced by `n` (R202). -/
def Group.drew (g : Group) (n : Nat) : Group := { g with rngCtr := g.rngCtr + BitVec.ofNat 64 n }

/-- R204: the value of a population stream for a round. -/
def populationValue (seed : DWord) (round : Nat) : Word := stream seed (BitVec.ofNat 64 round) 32

/-- RNGN (R203). -/
def execRngn (f : FormD) (s : State) : Out :=
  word (.rngn f) s fun c => finish s c ((c.writeX f.d fun l => (c.g.draw 0 l, 0#6)).drew 1)

/-- RNGF: 24 bits of the draw as an FP32 point in [0, 1) (R203). -/
def execRngf (f : FormD) (s : State) : Out :=
  word (.rngf f) s fun c =>
    let v (l : Lane) : DWord := (writeF32 (itvPoint ⟨(c.g.draw 0 l).toNat / 256, -24⟩)).1
    finish s c ((c.writeV f.d fun l => (v l, 0#6)).drew 1)

end Sys2Proof.Machine
end

