-- ==== Sys2Proof/Machine/Convert.lean ====
section
/-! DEFINITION. Conversions (CVT) and packed dot products (PACK): R222 to R230. -/

namespace Sys2Proof.Machine

/-! ### Elements of an x-register (R43, R222) -/

/-- Element `i` of width `w`. -/
def elemOf (x : Word) (w i : Nat) : Nat := bitsOf x.toNat (w * i) w
/-- The word with element `i` of width `w` replaced. -/
def setElem (x : Word) (w i v : Nat) : Word :=
  let m : Word := BitVec.ofNat 32 ((2 ^ w - 1) * 2 ^ (w * i))
  (x &&& ~~~m) ||| (BitVec.ofNat 32 (v % 2 ^ w * 2 ^ (w * i)))
/-- The elements of a word. -/
def elemsOf (x : Word) (w : Nat) : List Nat := (List.range (32 / w)).map (elemOf x w)

/-! ### CVT -/

/-- An integer as an interval rounded to FP32 (R223). -/
def itvOfInt (n : Int) : DWord × Flags := writeF32 (itvPoint (dyOfInt n))

/-- CVTIV (R223). -/
def execCvtiv (f : FormRU) (s : State) : Out :=
  laneV (.cvtiv f) s f.d fun c l => itvOfInt (c.xOp f.ua f.a l).toInt
/-- CVTNIV (R223). -/
def execCvtniv (f : FormRU) (s : State) : Out :=
  laneV (.cvtniv f) s f.d fun c l => itvOfInt (c.xOp f.ua f.a l).toNat

/-- R224: to an integer range, one draw per lane under the stochastic mode. -/
def cvtInt (i : Instr) (s : State) (f : FormRU) (lo hi : Int) : Out :=
  word i s fun c =>
    let one (l : Lane) : Word × Flags :=
      let a := c.vOp f.ua f.a l
      match rndValue c.rnd a.1 with
      | none => (0#32, a.2 ||| fINV)
      | some x =>
        let r := bdToInt lo hi c.rnd (c.g.draw 0 l) x
        (BitVec.ofInt 32 r.1, a.2 ||| r.2)
    finish s c ((c.writeX f.d one).drew (if c.rnd = .st then 1 else 0))
/-- CVTVI (R224). -/
def execCvtvi (f : FormRU) (s : State) : Out := cvtInt (.cvtvi f) s f (-2147483648) 2147483647
/-- CVTVNI (R224). -/
def execCvtvni (f : FormRU) (s : State) : Out := cvtInt (.cvtvni f) s f 0 4294967295

/-- CVTDV: an FP64 pair to FP32 (R223). -/
def execCvtdv (f : FormDA) (s : State) : Out :=
  laneV (.cvtdv f) s f.d fun c l =>
    let a := c.pairOp f.a l
    withFlags (writeF32 a.1) a.2

/-- The FP64 bits of the two bounds of an interval (R69). -/
def pairBits : Itv → Nat × Nat
  | .empty => (0x7FF0000000000000, 0xFFF0000000000000)
  | .mk a b => ((bdBits fmtF64 .down a).1, (bdBits fmtF64 .up b).1)

/-- CVTVD: the same bounds in an FP64 pair (R223). -/
def execCvtvd (f : FormRU) (s : State) : Out :=
  word (.cvtvd f) s fun c =>
    let a (l : Lane) := c.vOp f.ua f.a l
    let g := c.writeV f.d fun l => (BitVec.ofNat 64 (pairBits (a l).1).1, (a l).2)
    finish s c ({ c with g := g }.writeV (f.d + 1#6) fun l => (BitVec.ofNat 64 (pairBits (a l).1).2, 0#6))

def pfmtOfCode (n : Nat) : PFmt := (pfmtOf n).getD .bf16

/-- CVTNV: one element decoded (R223, R225). -/
def execCvtnv (f : FormRF) (s : State) : Out :=
  laneV (.cvtnv f) s f.d fun c l =>
    let p := pfmtOfCode f.fmt.toNat
    pointF32 p (elemOf (c.xOp f.ua f.a l) (pfmtBits p) c.sel)

/-- The narrow results of the active lanes' elements, and how far the stream advances: under the stochastic mode by
the number of elements, otherwise only when some active lane's element underflows (R202). -/
def narrowDraws (c : Ctx) (p : PFmt) (n : Nat) (src : Lane → Nat → Itv) : Nat :=
  if c.rnd = .st then n
  else if (lanesOf c.active).any fun l => (List.range n).any fun e => (toPoint p c.rnd 0#32 (src l e)).underflow
  then n else 0

/-- CVTVN: one element written (R225). -/
def execCvtvn (f : FormRF) (s : State) : Out :=
  word (.cvtvn f) s fun c =>
    let p := pfmtOfCode f.fmt.toNat
    let one (l : Lane) : Word × Flags :=
      let a := c.vOp f.ua f.a l
      let r := toPoint p c.rnd (c.g.draw 0 l) a.1
      (setElem (c.g.getX f.d l) (pfmtBits p) c.sel r.bits, a.2 ||| r.flags)
    finish s c ((c.writeX f.d one).drew (narrowDraws c p 1 fun l _ => (c.vOp f.ua f.a l).1))

/-! ### PACK -/

/-- R226: an exact sum of products of elements, plus the addend. -/
def dotInt (i : Instr) (s : State) (f : FormR) (w : Nat) (sgn : Bool) : Out :=
  laneX i s f.d fun c l =>
    let val (n : Nat) : Int := if sgn then sInt w n else n
    let a := elemsOf (c.xOp f.ua f.a l) w
    let b := elemsOf (c.xOp f.ub f.b l) w
    let sum : Int := ((a.zip b).map fun p => val p.1 * val p.2).foldl (fun m n => m + n) 0
    BitVec.ofInt 32 sum + (c.xFourth l).getD (c.g.getX f.d l)
/-- DP4I8. -/
def execDp4i8 (f : FormR) (s : State) : Out := dotInt (.dp4i8 f) s f 8 true
/-- DP4N8. -/
def execDp4n8 (f : FormR) (s : State) : Out := dotInt (.dp4n8 f) s f 8 false
/-- DP8I4. -/
def execDp8i4 (f : FormR) (s : State) : Out := dotInt (.dp8i4 f) s f 4 true

/-- The exact sum of intervals, none of them empty. -/
def itvSum (l : List Itv) : Itv := l.foldl itvAdd itvZero

/-- R227: products of narrow elements summed exactly with the addend, each bound rounded once. -/
def dotFloat (i : Instr) (s : State) (f : FormR) (p : PFmt) : Out :=
  laneV i s f.d fun c l =>
    let w := pfmtBits p
    let a := (elemsOf (c.xOp f.ua f.a l) w).map (pointItv p)
    let b := (elemsOf (c.xOp f.ub f.b l) w).map (pointItv p)
    let x := (c.vFourth l).getD (c.vOp false f.d l)
    if (a ++ b).any fun e => e.isNone then (imgEmpty, x.2 ||| fINV)
    else if itvIsEmpty x.1 then (imgEmpty, x.2)
    else
      let prods := (a.zip b).map fun e => itvMul (e.1.getD .empty) (e.2.getD .empty)
      withFlags (writeF32 (itvAdd (itvSum prods) x.1)) x.2
/-- DP4E4. -/
def execDp4e4 (f : FormR) (s : State) : Out := dotFloat (.dp4e4 f) s f .e4m3
/-- DP4E5. -/
def execDp4e5 (f : FormR) (s : State) : Out := dotFloat (.dp4e5 f) s f .e5m2
/-- DP8F4. -/
def execDp8f4 (f : FormR) (s : State) : Out := dotFloat (.dp8f4 f) s f .e2m1

/-- PKSEL: one nibble, byte or halfword, extended (R229). -/
def execPksel (f : FormPK) (s : State) : Out :=
  laneX (.pksel f) s f.d fun c l =>
    let w := 4 * 2 ^ (f.k.toNat % 4)
    let v := elemOf (c.xOp f.ua f.a l) w c.sel
    if f.k.getLsbD 2 then BitVec.ofInt 32 (sInt w v) else BitVec.ofNat 32 v

/-- PKNARROW: v[A] and v[A+1] into elements 2n and 2n + 1 (R230). -/
def execPknarrow (f : FormRF) (s : State) : Out :=
  word (.pknarrow f) s fun c =>
    let p := pfmtOfCode f.fmt.toNat
    let src (l : Lane) (e : Nat) : Itv × Flags := c.vOp false (if e = 0 then f.a else f.a + 1#6) l
    let one (l : Lane) : Word × Flags :=
      let a := src l 0
      let b := src l 1
      let x := toPoint p c.rnd (c.g.draw 0 l) a.1
      let y := toPoint p c.rnd (c.g.draw 1 l) b.1
      (setElem (setElem (c.g.getX f.d l) (pfmtBits p) (2 * c.sel) x.bits) (pfmtBits p) (2 * c.sel + 1) y.bits,
        a.2 ||| b.2 ||| x.flags ||| y.flags)
    finish s c ((c.writeX f.d one).drew (narrowDraws c p 2 fun l e => (src l e).1))

end Sys2Proof.Machine
end

