-- ==== Sys2Proof/Machine/Sync.lean ====
section
/-! DEFINITION. Named barriers, the cluster barrier, sync objects, fences, futures and arrival words: the SYNC members
(R258, R259, R345 to R376). -/

namespace Sys2Proof.Machine

/-! ### The ends of barrier waits (R363, R366, R368) -/

/-- The armed flags that are set (R366). -/
def Group.armed (g : Group) : Nat := (g.gsr &&& (g.gsr >>> 8) &&& 0x3F#32).toNat

/-- What a barrier wait resumes with: ACQ and the next word. -/
def WaitKind.resume : WaitKind → Option (Bool × VAddr)
  | .bar _ acq next => some (acq, next)
  | .barw _ _ acq next => some (acq, next)
  | .barx acq next => some (acq, next)
  | _ => none

/-- The split of some paths that resumes first: the one of lowest index (R366). -/
def firstResuming (ps : List Path) : Option Path :=
  (List.finRange 4).findSome? fun i => ps.find? fun p => p.split == some i

/-- The path that keeps its barrier word, its wait ended, and is tested when it next issues: where an armed flag is set and
no split of those that resume can take the trap now. At a trap level that is every path (R382, R383); at TL0 the first,
where all of them are parked. DEDUCED, unsafe: log entry 54. -/
def testedLater (g : Group) (ps : List Path) (p : Path) : Bool :=
  g.armed != 0 && (g.tl != 0 || ((firstResuming ps).isNone && ps.head?.any fun q => q.pid == p.pid))

/-- End the waits of some paths of a group: they stand at their next words, and where an armed flag is set, the first split
of them takes FLAGT (R366). -/
def endBarrierWaits (s : State) (t : Team) (gid : Nat) (sel : Path → Bool) : State :=
  match s.group gid with
  | none => s
  | some g =>
    let ps := g.paths.filter sel
    let acq := ps.any fun p => match p.wait.bind fun w => w.kind.resume with
      | some (a, _) => a
      | none => false
    let step (p : Path) : Path :=
      match sel p, p.wait.bind fun w => w.kind.resume with
      | true, some (_, next) => if testedLater g ps p then p.endWait 0#32 else p.past next
      | _, _ => p
    let g1 := { g with paths := g.paths.map step }
    let s1 := if acq then s.acquireFence t.core else s
    let s2 := s1.putGroup g1
    match firstResuming ps with
    | none => s2
    | some p =>
      if g.armed = 0 ∨ g.tl ≠ 0 then s2
      else trapTo s2 g1 t p.pid (groupTrap causeFlagt g.armed) ((g1.path p.pid).map (fun q => q.pc) |>.getD p.pc)

/-! ### Phases of a named barrier (R363) -/

def Team.bar (t : Team) (b : Nat) : Barrier := (t.bars[b]?).getD Barrier.idle
def Team.setBar (t : Team) (b : Nat) (x : Barrier) : Team := { t with bars := t.bars.set b x }

/-- The phase completes: PH advances and the waits on it end. -/
def completePhase (s : State) (uid b : Nat) : State :=
  match s.team uid with
  | none => s
  | some t =>
    let ph := (t.bar b).ph + 1#16
    let t1 := t.setBar b ⟨ph, 0, false, 0⟩
    let sel (p : Path) : Bool := match p.wait with
      | some w => !w.ended && (match w.kind with
        | .bar n _ _ => n == b
        | .barw n tok _ _ => n == b && tok != ph
        | _ => false)
      | none => false
    (s.groupsOf uid).foldl (fun s g => endBarrierWaits s t1 g.gid sel) (s.putTeam t1)

/-- A path that waits in BAR on `b`. -/
def Path.inBar (p : Path) (b : Nat) : Bool :=
  match p.wait with
  | some w => !w.ended && (match w.kind with
    | .bar n _ _ => n == b
    | _ => false)
  | none => false

/-- The test of mode all: every path of every live group waits in BAR on `b`. -/
def State.allIn (s : State) (uid b : Nat) : Bool := (s.groupsOf uid).all fun g => g.paths.all fun p => p.inBar b

/-- Complete the open phases of a team whose test holds. -/
def State.sweepBars (s : State) (uid : Nat) : State :=
  match s.team uid with
  | none => s
  | some t =>
    (List.range t.bars.length).foldl (fun s b =>
      match s.team uid with
      | none => s
      | some u =>
        let x := u.bar b
        if x.opened && (if x.exp = 0 then s.allIn uid b else decide (x.exp ≤ x.cnt)) then completePhase s uid b else s) s

/-! ### The cluster barrier (R367, R368) -/

def Path.inBarx (p : Path) : Bool :=
  match p.wait with
  | some w => !w.ended && (match w.kind with
    | .barx _ _ => true
    | _ => false)
  | none => false

/-- The teams of a gang that have not retired. -/
def State.gangTeams (s : State) (t : Team) : List Team :=
  s.teams.filter fun u => u.info.seq == t.info.seq && u.info.gang.isSome && u.info.gang == t.info.gang

def State.gangIn (s : State) (t : Team) : Bool :=
  let ts := s.gangTeams t
  ts.all (fun u => (s.groupsOf u.uid).all fun g => g.paths.all Path.inBarx)
    && ts.any fun u => (s.groupsOf u.uid).any fun g => !g.paths.isEmpty

/-- The last participant has arrived: every bank pair exchanged, then the waits ended. -/
def State.sweepGang (s : State) (uid : Nat) : State :=
  match s.team uid with
  | none => s
  | some t =>
    if t.info.gang.isSome && s.gangIn t then
      let ts := s.gangTeams t
      let s1 := ts.foldl (fun s u => s.putTeam { u with venFront := u.venBack, venBack := u.venFront }) s
      ts.foldl (fun s u => (s.groupsOf u.uid).foldl (fun s g => endBarrierWaits s u g.gid Path.inBarx) s) s1
    else s

/-! ### BAR, BARA, BARW, BARX (R364 to R368) -/

def takeSyncx (s : State) (c : Ctx) (code : Nat) : Out := takeTrap s c (groupTrap causeSyncx code)

/-- The SYNCX code of an arrival; 0 for a legal one (R361). -/
def arriveCode (t : Team) (b e : Nat) (split : Bool) : Nat :=
  if t.hold.bar ≤ b then 1
  else if 2016 < e || ((t.bar b).opened && (t.bar b).exp != e) || (split && e == 0) then 2
  else 0

/-- The arrival of a split with all of its members (R363). -/
def Team.arrive (t : Team) (b e : Nat) (p : Path) : Team :=
  let x := t.bar b
  t.setBar b { x with opened := true, exp := e, cnt := if e = 0 then x.cnt else x.cnt + popCount p.members }

/-- A path of the group in the wait `k`, at its word. -/
def Ctx.waiting (c : Ctx) (s : State) (k : WaitKind) : State :=
  s.putGroup (c.g.updatePath c.cur.pid fun p => c.stand p k s.now)

/-- A barrier word whose wait has ended while its path was stopped (R383). -/
def resumeBarrier (s : State) (c : Ctx) (acq : Bool) : Out :=
  let s1 := if acq then s.acquireFence c.t.core else s
  if c.g.armed = 0 then finish s1 c c.g else takeTrapAfter s1 c c.g (groupTrap causeFlagt c.g.armed)

/-- REL of a barrier word: a release fence with mask C, before the arrival (R365, R368). -/
def State.barrierRelease (s : State) (c : Ctx) (rel : Bool) (scope : Nat) : State :=
  if rel then s.publish (laneParty c.t.core) 1#5 scope else s

/-- BAR. -/
def execBar (f : FormBar) (s : State) : Out :=
  startWord (.bar f) s (fun c => c.g.tl != 0) (fun _ => true) fun c =>
    if c.ended.isSome then resumeBarrier s c f.acq else
    let b := (c.g.getS f.a).toNat
    let e := (c.g.getS f.b).toNat
    let code := arriveCode c.t b e false
    if code ≠ 0 then takeSyncx s c code
    else .next ((c.waiting ((s.barrierRelease c f.rel 2).putTeam (c.t.arrive b e c.p)) (.bar b f.acq c.cur.next)).sweepBars c.t.uid)

/-- BARA: the token is the phase it arrived in. -/
def execBara (f : FormBarA) (s : State) : Out :=
  startWord (.bara f) s (fun c => c.g.tl != 0) (fun _ => true) fun c =>
    let b := (c.g.getS f.a).toNat
    let e := (c.g.getS f.b).toNat
    let code := arriveCode c.t b e true
    if code ≠ 0 then takeSyncx s c code
    else match finish ((s.barrierRelease c f.rel 2).putTeam (c.t.arrive b e c.p)) c (c.g.setS f.d ((c.t.bar b).ph.setWidth 32)) with
      | .next s1 => .next (s1.sweepBars c.t.uid)
      | o => o

/-- BARW. -/
def execBarw (f : FormBarW) (s : State) : Out :=
  startWord (.barw f) s (fun c => c.g.tl != 0) (fun _ => true) fun c =>
    if c.ended.isSome then resumeBarrier s c f.acq else
    let b := (c.g.getS f.a).toNat
    let tok : BitVec 16 := (c.g.getS f.b).setWidth 16
    if c.t.hold.bar ≤ b then takeSyncx s c 1
    else if (c.t.bar b).ph ≠ tok then resumeBarrier s c f.acq
    else waitAt s c c.g (.barw b tok f.acq c.cur.next)

/-- BARX. -/
def execBarx (f : FormBarX) (s : State) : Out :=
  startWord (.barx f) s (fun c => c.g.tl != 0) (fun _ => true) fun c =>
    if c.ended.isSome then resumeBarrier s c f.acq
    else if c.t.info.gang.isNone then takeSyncx s c 3
    else .next ((c.waiting (s.barrierRelease c f.rel ((c.t.info.gang.map fun g => g.dom).getD 0)) (.barx f.acq c.cur.next)).sweepGang c.t.uid)

/-! ### Sync objects (R345 to R349, R369 to R371) -/

/-- Is a target reached (R352)? -/
def reached (rels target : Word) : Bool := decide ((rels - target).toNat < 2 ^ 31)

/-- A lane's acquire drops the object's lines, or every line, from its core's L1 (R352). -/
def State.dropRegion (s : State) (core : Nat) (e : RbEntry) : State :=
  s.putCore core (if e.size = 0 then (s.core core).l1Clear else (s.core core).l1DropRange e.base e.size)

/-- A waiting acquire on an object of a partition. -/
def State.acquireWaits (s : State) (part soid : Nat) : Bool :=
  s.groups.any fun g => (match s.team g.team with
    | some t => partOf t.core == part
    | none => false) && g.paths.any fun p => match p.wait with
      | some w => match w.kind with
        | .soacq n _ => n == soid && !w.ended
        | _ => false
      | none => false

/-- The SYNCX code of a SOBIND; 0 for a legal one (R361, R369). DEDUCED, unsafe: log entry 55. -/
def bindCode (s : State) (c : Ctx) (ctl : Word) (b1 b3 : Word) (size : Nat) : Nat :=
  let soid := (ctl.extractLsb' 0 12).toNat
  let kind := (ctl.extractLsb' 12 3).toNat
  let lvl := (ctl.extractLsb' 16 3).toNat
  let e := s.rbEntry c.part soid
  if ctl.getLsbD 15 || ctl.extractLsb' 19 13 != 0#13
    || (kind != 0 && (b1.extractLsb' 25 7 != 0#7 || b3.extractLsb' 8 24 != 0#24)) then 4
  else if kind = 0 then (if s.acquireWaits c.part soid || e.issued != e.rels then 6 else 0)
  else if 4 ≤ kind then 5
  else
    let scope : Nat := ((c.t.info.levels[lvl]?).map fun l => l.scope).getD 0
    if lvl < 2 || c.t.info.levels.length ≤ lvl || (kind == 3 && (size != 0 || decide (scope < 6))) || e.kind != 0 then 5
    else 0

/-- SOBIND. -/
def execSobind (f : FormAB) (s : State) : Out :=
  word (.sobind f) s fun c =>
    let ctl := c.g.getS f.a
    let b0 := c.g.getS f.b
    let b1 := c.g.getS (f.b + 1#6)
    let b2 := c.g.getS (f.b + 2#6)
    let b3 := c.g.getS (f.b + 3#6)
    let size := b2.toNat + 2 ^ 32 * b3.toNat
    let code := bindCode s c ctl b1 b3 size
    let soid := (ctl.extractLsb' 0 12).toNat
    let kind := (ctl.extractLsb' 12 3).toNat
    if code ≠ 0 then takeSyncx s c code
    else if kind = 0 then finish (s.putRb c.part soid RbEntry.free) c c.g
    else
      let scope := ((c.t.info.levels[(ctl.extractLsb' 16 3).toNat]?).map fun l => l.scope).getD 0
      finish (s.putRb c.part soid ⟨b0.toNat + 2 ^ 32 * b1.toNat, kind, scope, size, scopeInst scope c.t.core, 0#32, 0#32⟩)
        c c.g

/-- SOACQ (R370). -/
def execSoacq (f : FormDAB) (s : State) : Out :=
  word (.soacq f) s fun c =>
    let ow := c.g.getS f.a
    let soid := (ow.extractLsb' 0 12).toNat
    let e := s.rbEntry c.part soid
    match c.ended with
    | some rels => finish (s.dropRegion c.t.core e) c (c.g.setS f.d rels)
    | none =>
      if ow.extractLsb' 18 14 != 0#14 then takeSyncx s c 4
      else if e.kind = 0 then takeSyncx s c 7
      else if ow.getLsbD 17 && !reached e.rels (c.g.getS f.b) then waitAt s c c.g (.soacq soid (c.g.getS f.b))
      else finish (s.dropRegion c.t.core e) c (c.g.setS f.d e.rels)

/-- SOREL (R371): the split's writes are performed to the object's observers; then a plain release, or an ordered one whose
turn it is, is performed, and another waits for its turn. DEDUCED, safe: log entry 7. -/
def execSorel (f : FormA) (s : State) : Out :=
  word (.sorel f) s fun c =>
    let ow := c.g.getS f.a
    let soid := (ow.extractLsb' 0 12).toNat
    let e := s.rbEntry c.part soid
    if ow.extractLsb' 17 15 != 0#15 then takeSyncx s c 4
    else if e.kind = 0 || e.kind = 3 then takeSyncx s c 7
    else
      let s1 := s.releaseWrites (laneParty c.t.core) c.part soid (ow.extractLsb' 12 5)
      let r := s1.takeSeq c.part soid
      match r.1 with
      | some n =>
        if n = e.rels then finish (r.2.performRelease c.part soid) c c.g
        else finish { r.2 with rels := r.2.rels ++ [⟨c.part, soid, n, some c.t.uid⟩] } c c.g
      | none => finish (s1.performRelease c.part soid) c c.g

/-- FENCE (R353, R372): a release fence performs the split's writes to the mask's classes within the scope; an acquire fence
empties the core's L1. -/
def execFence (f : FormFence) (s : State) : Out :=
  word (.fence f) s fun c =>
    let s1 := if f.rel then s.publish (laneParty c.t.core) f.m f.s.toNat else s
    finish (if f.acq then s1.acquireFence c.t.core else s1) c c.g

/-! ### Futures (R46, R373, R374) -/

def handleState (h : Word) : Nat := (h.extractLsb' 0 2).toNat
def handleEng (h : Word) : Nat := (h.extractLsb' 8 4).toNat
def handleTag (h : Word) : BitVec 16 := h.extractLsb' 16 16
/-- A handle image. -/
def handleWord (st eng : Nat) (tag : BitVec 16) : Word := tag ++ BitVec.ofNat 16 (st + eng * 2 ^ 8)

def Group.pendingHandle (g : Group) (n : Nat) : Bool := handleState (g.getH (BitVec.ofNat 6 n)) == 1

/-- A handle read as complete: every access of its command comes before the split's later ones, so that the core's L1 keeps
nothing older (R348, R350). DEDUCED, safe: log entry 72. -/
def State.sawHandle (s : State) (c : Ctx) (r : Reg) : State :=
  if handleState (c.g.getH r) = 2 then s.clearL1 c.t.core else s

/-- HWAIT. -/
def execHwait (f : FormDA) (s : State) : Out :=
  word (.hwait f) s fun c =>
    if handleState (c.g.getH f.a) = 1 then waitAt s c c.g (.handle f.a.toNat)
    else finish (s.sawHandle c f.a) c (c.g.setS f.d (BitVec.ofNat 32 (handleState (c.g.getH f.a))))

/-- HTEST. -/
def execHtest (f : FormDA) (s : State) : Out :=
  word (.htest f) s fun c => finish (s.sawHandle c f.a) c (c.g.setS f.d (c.g.getH f.a))

/-- Is this copy the command pending in a handle? -/
def Copy.isFor (x : Copy) (gid h : Nat) (tag : BitVec 16) : Bool :=
  match x.owner with
  | .handle _ g n t => g == gid && n == h && t == tag
  | _ => false
def Record.isFor (r : Record) (gid h : Nat) (tag : BitVec 16) : Bool := r.hasH && r.gid == gid && r.h == h && r.tag == tag

/-! ### Arrival words (R258, R259, R376) -/

/-- The word at an offset of a team's granules. -/
structure Arrival where
  target : Nat
  gen : Nat
  count : Nat
  exceeded : Bool
  fail : Bool
  /-- The reserved bits, kept as they stand. -/
  rest : Nat
deriving DecidableEq, Repr

def Team.arrival (t : Team) (off : Nat) : Arrival :=
  let d0 := t.scrNat off 8
  let d1 := t.scrNat (off + 8) 8
  ⟨bitsOf d0 0 40, bitsOf d0 40 24, bitsOf d1 0 40, bitsOf d1 40 1 == 1, bitsOf d1 41 1 == 1, d1 / 2 ^ 42⟩

def Team.putArrival (t : Team) (off : Nat) (a : Arrival) : Team :=
  t.scrPut off (natBytes 8 (a.target + 2 ^ 40 * a.gen)
    ++ natBytes 8 (a.count + (if a.exceeded then 2 ^ 40 else 0) + (if a.fail then 2 ^ 41 else 0) + 2 ^ 42 * a.rest))

/-- R259: a contribution of `n` bytes. -/
def Arrival.contribute (a : Arrival) (n : Nat) (failed : Bool) : Arrival :=
  let c := a.count + n
  let a1 := { a with fail := a.fail || failed }
  if a.target ≤ c then
    { a1 with exceeded := a.exceeded || decide (a.target < c), count := (c - a.target) % 2 ^ 40, gen := (a.gen + 1) % 2 ^ 24 }
  else { a1 with count := c % 2 ^ 40 }

def Team.contribute (t : Team) (off n : Nat) (failed : Bool) : Team := t.putArrival off ((t.arrival off).contribute n failed)

/-- Has GEN passed the token (R376)? -/
def genPast (gen tok : Nat) : Bool := gen != tok && decide ((gen + 2 ^ 24 - tok) % 2 ^ 24 < 2 ^ 23)

/-- AWAIT. -/
def execAwait (f : FormDAB) (s : State) : Out :=
  word (.await f) s fun c =>
    let off := (c.g.getS f.a).toNat
    let tok := ((c.g.getS f.b).extractLsb' 0 24).toNat
    if off % 16 ≠ 0 then takeTrap s c (groupTrap causeAlign 0 (BitVec.ofNat 64 off))
    else if !c.t.inGranules off 16 then takeTrap s c (groupTrap causeSprange 0 (BitVec.ofNat 64 off))
    else
      let a := c.t.arrival off
      if genPast a.gen tok then
        -- the bytes of the contributions that it observes come before (R348, log entry 72)
        finish (s.clearL1 c.t.core) c (c.g.setS f.d (BitVec.ofNat 32
          (a.gen + (if a.fail then 2 ^ 24 else 0) + (if a.exceeded then 2 ^ 25 else 0))))
      else waitAt s c c.g (.await off tok)

end Sys2Proof.Machine
end

