-- ==== Sys2Proof/Machine/Copy.lean ====
section
/-! DEFINITION. The ASYNC members and the copy engines: control blocks, chunks and contributions (R296 to R303). -/

namespace Sys2Proof.Machine

/-! ### Command blocks (R297, R309, R328) -/

def dwAt (b : List DWord) (i : Nat) : Nat := (b[i]?.getD 0#64).toNat
/-- Field `[lo + n - 1 : lo]` of doubleword `i`. -/
def fieldAt (b : List DWord) (i lo n : Nat) : Nat := bitsOf (dwAt b i) lo n

/-- The address in a pair of s-registers. -/
def Ctx.pairAddr (c : Ctx) (a : Reg) : Nat := (c.g.getS a).toNat + 2 ^ 32 * (c.g.getS (a + 1#6)).toNat

/-- CMDX: the failing doubleword, and the block's address (R378). -/
def takeCmdx (s : State) (c : Ctx) (info va : Nat) : Out := takeTrap s c (groupTrap causeCmdx info (BitVec.ofNat 64 va))

/-- Read a block of `n` doublewords, aligned to `al`: ALIGN, the faults of the read, then MEMERR; and go on from the state
that the read leaves. -/
def withBlock (s : State) (c : Ctx) (va al n : Nat) (k : State → List DWord → Out) : Out :=
  if va % al ≠ 0 then takeTrap s c (groupTrap causeAlign 0 (BitVec.ofNat 64 va)) else
  match s.blockAt c.t.core c.part va n with
  | .error t => accessFails s c 0 t
  | .ok b => k (s.passBytes c.t.core c.part va (8 * n)) b

/-! ### The copy control block (R297) -/

structure Ccb where
  src : Nat
  ssp : Nat
  dst : Nat
  dsp : Nat
  bytes : Nat
  rows : Nat
  sstr : Nat
  dstr : Nat
  av : Nat
  avsp : Nat
  soid : Nat
  obs : BitVec 5
  sov : Bool
deriving DecidableEq, Repr

def ccbOf (b : List DWord) : Ccb :=
  { src := fieldAt b 0 0 57, ssp := fieldAt b 0 60 2, dst := fieldAt b 1 0 57, dsp := fieldAt b 1 60 2, bytes := fieldAt b 2 0 40,
    rows := fieldAt b 3 0 24, sstr := fieldAt b 4 0 40, dstr := dwAt b 5, av := fieldAt b 6 0 32, avsp := fieldAt b 6 32 2,
    soid := fieldAt b 7 0 12, obs := BitVec.ofNat 5 (fieldAt b 7 12 5), sov := fieldAt b 7 17 1 == 1 }

/-- The targets of a copy: one, or the selected teams of a CPYMC. -/
def Ccb.targets (q : Ccb) (kind : Nat) : List Nat :=
  if kind = 2 then ((List.range 64).filter fun i => bitsOf q.dstr i 1 == 1).map fun i => bitsOf q.sstr 0 32 + i else [0]

/-- The byte count of each target. -/
def Ccb.total (q : Ccb) (kind : Nat) : Nat := if kind = 1 then q.rows * q.bytes else q.bytes

def Ccb.srcOf (q : Ccb) (kind b : Nat) : Nat := if kind = 1 then q.src + b / q.bytes * q.sstr + b % q.bytes else q.src + b
def Ccb.dstOf (q : Ccb) (kind b : Nat) : Nat :=
  if kind = 1 then q.dst + b / q.bytes * bitsOf q.dstr 0 40 + b % q.bytes else q.dst + b

/-- The runs of bytes that a copy touches from `base`: one per row. -/
def Ccb.runs (q : Ccb) (kind base stride : Nat) : List (Nat × Nat) :=
  if kind = 1 then (List.range q.rows).map fun r => (base + r * stride, q.bytes) else [(base, q.bytes)]

/-- Is a run within what R253 and R254 allow? -/
def State.runHeld (s : State) (t : Team) (space : Nat) (r : Nat × Nat) : Bool :=
  r.2 == 0 || (decide (r.1 + r.2 ≤ 2 ^ 32) && (match s.scratch t space r.1 with
    | some (u, off) => u.inHeld off r.2
    | none => false))

/-- The byte offset of the first doubleword that fails; none for a legal block. DEDUCED, unsafe: log entry 51. -/
def State.ccbBad (s : State) (t : Team) (kind : Nat) (b : List DWord) : Option Nat :=
  let q := ccbOf b
  let gangP := match t.info.gang with
    | some g => g.size
    | none => 0
  let spaceBad (i sp : Nat) : Bool := fieldAt b i 57 3 != 0 || fieldAt b i 62 2 != 0 || (sp != 0 && fieldAt b i 32 25 != 0)
  let scratchy (sp : Nat) : Bool := sp == 1 || sp == 2
  let dstTeams : List Team := if kind = 2 then (q.targets kind).filterMap (s.gangTeam t) else [t]
  let avOk := q.avsp == 0 || (q.av % 16 == 0 && (if kind = 2 then dstTeams.all fun u => u.inGranules q.av 16
    else match s.scratch t q.avsp q.av with
      | some (u, off) => u.inGranules off 16
      | none => false))
  let bad : List Bool :=
    [ spaceBad 0 q.ssp || (kind == 2 && q.ssp != 0)
        || (scratchy q.ssp && !(q.runs kind q.src q.sstr).all (s.runHeld t q.ssp)),
      spaceBad 1 q.dsp || q.dsp == 3 || (kind == 2 && q.dsp != 1)
        || (scratchy q.dsp && !(if kind = 2 then q.bytes == 0 || dstTeams.all fun u => u.inHeld q.dst q.bytes
              else (q.runs kind q.dst (bitsOf q.dstr 0 40)).all (s.runHeld t q.dsp))),
      fieldAt b 2 40 24 != 0,
      fieldAt b 3 24 40 != 0 || (kind != 1 && q.rows != 0),
      fieldAt b 4 40 24 != 0 || (kind == 2 && fieldAt b 4 32 8 != 0),
      (kind == 1 && fieldAt b 5 40 24 != 0) || (kind == 2 && (q.dstr == 0 || (q.targets kind).any fun j => decide (gangP ≤ j))),
      fieldAt b 6 34 30 != 0 || q.avsp == 3 || (kind == 2 && q.avsp == 2) || !avOk,
      fieldAt b 7 18 46 != 0 ]
  (bad.findIdx? id).map fun i => 8 * i

/-! ### CPY, CPY2D, CPYMC (R296, R297) -/

/-- A handle made pending for a new command, with the group's next tag. DEDUCED, safe: log entry 56. -/
def Group.newHandle (g : Group) (h : Reg) (eng : Nat) : Group :=
  { g.setH h (handleWord 1 eng g.tag) with tag := g.tag + 1#16 }

/-- A copy word: the handle, the block, the checks, then the command. -/
def copyWord (i : Instr) (kind : Nat) (f : FormCpy) (s : State) : Out :=
  word i s fun c =>
    if c.g.pendingHandle f.d.toNat then waitAt s c c.g (.handle f.d.toNat) else
    withBlock s c (c.pairAddr f.a) 64 8 fun s b =>
      match s.ccbBad c.t kind b with
      | some info => takeCmdx s c info (c.pairAddr f.a)
      | none =>
        let q := ccbOf b
        let r := if f.rel && q.sov then s.takeSeq c.part q.soid else (none, s)
        let x : Copy :=
          { cid := s.fresh, owner := .handle c.t.uid c.g.gid f.d.toNat c.g.tag,
            gang := c.t.info.gang.map fun g => (c.t.info.seq, g), core := c.t.core, part := c.part, kind := kind,
            ccb := b, acq := f.acq, rel := f.rel, relSeq := r.1, acquired := false, done := [], failed := false,
            cancelled := false, stopped := false, lowest := false, released := false, fault := none }
        finish { r.2 with copies := r.2.copies ++ [x], fresh := s.fresh + 1 } c (c.g.newHandle f.d 1)

def execCpy (f : FormCpy) (s : State) : Out := copyWord (.cpy f) 0 f s
def execCpy2d (f : FormCpy) (s : State) : Out := copyWord (.cpy2d f) 1 f s
def execCpymc (f : FormCpy) (s : State) : Out := copyWord (.cpymc f) 2 f s

/-! ### GWBIND, GWFREE, ARRV (R302, R303) -/

/-- The failing doubleword of a window descriptor. -/
def windowBad (b : List DWord) : Option Nat :=
  let e := fieldAt b 1 0 32
  let bad : List Bool :=
    [ fieldAt b 0 57 7 != 0, decide (e < 4 ∨ 65536 < e) || e % 4 != 0 || fieldAt b 1 32 32 % 4 != 0,
      fieldAt b 2 57 7 != 0 || dwAt b 2 % 4 != 0, fieldAt b 3 25 39 != 0 || decide (2 ^ 24 < dwAt b 3 ∨ 2 ^ 28 < dwAt b 3 * e) ]
  (bad.findIdx? id).map fun i => 8 * i

def windowOf (b : List DWord) : Window :=
  ⟨BitVec.ofNat 57 (dwAt b 0), fieldAt b 1 0 32, fieldAt b 1 32 32, BitVec.ofNat 57 (dwAt b 2), fieldAt b 3 0 25⟩

def Team.setWindow (t : Team) (w : Reg) (x : Option Window) : Team := { t with windows := t.windows.set (winIx w.toNat) x }

def execGwbind (f : FormDA) (s : State) : Out :=
  word (.gwbind f) s fun c =>
    withBlock s c (c.pairAddr f.a) 8 4 fun s b =>
      match windowBad b with
      | some info => takeCmdx s c info (c.pairAddr f.a)
      | none => finish (s.putTeam (c.t.setWindow f.d (some (windowOf b)))) c c.g

def execGwfree (f : FormD) (s : State) : Out :=
  word (.gwfree f) s fun c => finish (s.putTeam (c.t.setWindow f.d none)) c c.g

def execArrv (f : FormDAB) (s : State) : Out :=
  word (.arrv f) s fun c =>
    let a := (c.g.getS f.a).toNat
    let fa := BitVec.ofNat 64 a
    if a % 16 ≠ 0 then takeTrap s c (groupTrap causeAlign 0 fa) else
    match s.scratch c.t f.d.toNat a with
    | none => takeTrap s c (groupTrap causeSprange 0 fa)
    | some (u, off) =>
      if !u.inGranules off 16 then takeTrap s c (groupTrap causeSprange 0 fa)
      else finish (s.putTeam (u.contribute off (c.g.getS f.b).toNat false)) c c.g

/-! ### The engine (R298 to R301) -/

def State.copy (s : State) (cid : Nat) : Option Copy := s.copies.find? fun x => x.cid == cid
def State.putCopy (s : State) (x : Copy) : State := { s with copies := s.copies.map fun y => if y.cid = x.cid then x else y }
def Copy.q (x : Copy) : Ccb := ccbOf x.ccb

/-- Chunks of a target: one for a copy of no bytes. -/
def Copy.chunks (x : Copy) : Nat := (x.q.total x.kind + 4095) / 4096
def Copy.chunkLen (x : Copy) (k : Nat) : Nat := min 4096 (x.q.total x.kind - 4096 * k)
/-- Every chunk of every target. -/
def Copy.allChunks (x : Copy) : List (Nat × Nat) :=
  (x.q.targets x.kind).flatMap fun j => (List.range (max 1 x.chunks)).map fun k => (j, k)
def Copy.remaining (x : Copy) : List (Nat × Nat) := x.allChunks.filter fun c => !x.done.contains c
def Copy.finished (x : Copy) : Bool := x.remaining.isEmpty

/-- May a chunk be the next: any that remains, and after a stop the lowest (R298, R301). -/
def Copy.mayTake (x : Copy) (ck : Nat × Nat) : Bool :=
  x.remaining.contains ck && (!x.lowest || x.remaining.all fun c => decide (ck.2 ≤ c.2))

/-- A copy stopped at a chunk boundary. -/
def Copy.stop (x : Copy) : Copy := { x with lowest := true }

/-- The team whose handle a copy holds. -/
def State.copyTeam (s : State) (x : Copy) : Option Team :=
  match x.owner with
  | .handle t _ _ _ => s.team t
  | _ => none

/-- A read or write that the engine could not make. -/
inductive EngStop where
  /-- To the fault service (R300). -/
  | fault (f : EngFault)
  /-- An uncorrectable error, or a range that is gone: the command fails. -/
  | fails
deriving DecidableEq, Repr

/-- What a read that a lane would trap on does to an engine. -/
def engStop (part : Nat) (t : TrapRec) : EngStop :=
  if t.cause = causeMemerr then .fails else .fault ⟨part, t.fa.toNat, .read⟩

/-- A byte of global memory as an engine's party reads it at its home, by multicast if `mc` (R278, R300, R323). -/
def State.engineRead (s : State) (p : Party) (r : Reach) (part va : Nat) (mc : Bool) : Except EngStop (Byte × State) :=
  if 2 ^ 57 ≤ va then .error (.fault ⟨part, va, .read⟩) else
  match r with
  | .page x =>
    let pa := x.phys va
    if s.lost pa then .error .fails
    else
      let r := if mc then s.mcastRead x pa 1 else (s.partySees p x pa 1, s.readHome x pa)
      .ok (r.1.headD emptyByte, r.2)
  | _ => .error (.fault ⟨part, va, .read⟩)
def State.engineByte (s : State) (p : Party) (core part va : Nat) (mc : Bool) : Except EngStop (Byte × State) :=
  s.engineRead p (s.reach core part va .read) part va mc

/-- What the front end reaches at a run-time target: nothing in a partition that is not configured (R441). -/
def State.feReach (s : State) (part va : Nat) (n : Need) : Reach :=
  if (s.part part).st = .unconfigured then .noMap false else
  match s.walk part va with
  | .fault m => .noMap m
  | .ok x => if x.allows n && (s.part part).assigned x then .page x else .denied

/-- What a copy reaches: a word's copy as its team does, a node's or a command's as the front end does (R300, R441). -/
def State.copyReach (s : State) (x : Copy) (va : Nat) (n : Need) : Reach :=
  match x.owner with
  | .handle _ _ _ _ => s.reach x.core x.part va n
  | _ => s.feReach x.part va n

/-- Bytes that an engine's party writes at their homes; none is written where the page of one does not allow it. -/
def State.partyPut (s : State) (p : Party) (core part : Nat) : Nat → List Byte → State
  | _, [] => s
  | va, b :: bs =>
    match s.reach core part va .write with
    | .page x => State.partyPut (s.partyWrites p x (x.phys va) [b]) p core part (va + 1) bs
    | _ => s

/-- A byte of a copy's source. -/
def State.copyByte (s : State) (x : Copy) (va : Nat) : Except EngStop (Byte × State) :=
  match x.q.ssp, s.copyTeam x with
  | 0, _ => s.engineRead (copyParty x.core) (s.copyReach x va .read) x.part va (x.kind == 2)
  | 3, some t =>
    match t.windows.get (winIx (va / 2 ^ 28)) with
    | none => .error .fails
    | some w => match s.windowByte x.core x.part none w (va % 2 ^ 28) with
      | .ok b => .ok (b, s.windowPass x.core x.part w (va % 2 ^ 28) 1)
      | .error r => .error (engStop x.part r)
  | sp, some t =>
    match s.scratch t sp va with
    | some (u, off) => if u.inHeld off 1 && !u.scrBad off 1 then .ok (u.scrGet off, s) else .error .fails
    | none => .error .fails
  | _, none => .error .fails

/-- The source bytes of indices `b` to `b + n - 1`. -/
def State.copyBytes (s : State) (x : Copy) : Nat → Nat → Except EngStop (List Byte × State)
  | _, 0 => .ok ([], s)
  | b, n + 1 =>
    match s.copyByte x (x.q.srcOf x.kind b) with
    | .error e => .error e
    | .ok (v, s1) => match State.copyBytes s1 x (b + 1) n with
      | .error e => .error e
      | .ok (vs, s2) => .ok (v :: vs, s2)

/-- Team `j` of the gang that a copy was issued in, whether or not the issuing team is still there (R254, R388). -/
def State.gangMate (s : State) (x : Copy) (j : Nat) : Option Team :=
  match x.gang with
  | none => none
  | some (q, g) =>
    if g.size ≤ j then none
    else s.teams.find? fun u => u.info.seq == q && u.info.gang == some g && u.info.t == g.t0 + j

/-- The team and offset of an address in a scratchpad that a copy names, for target `j` of a CPYMC. -/
def State.copyPlace (s : State) (x : Copy) (j space a : Nat) : Option (Team × Nat) :=
  if x.kind = 2 then (s.gangMate x j).map fun u => (u, a)
  else if space = 1 then (s.copyTeam x).map fun t => (t, a)
  else (s.gangMate x (a / 2 ^ 19)).map fun u => (u, a % 2 ^ 19)

/-- A byte written at a copy's destination. -/
def State.copyPut (s : State) (x : Copy) (j va : Nat) (b : Byte) : Except EngStop State :=
  if x.q.dsp = 0 then
    if 2 ^ 57 ≤ va then .error (.fault ⟨x.part, va, .write⟩) else
    match s.copyReach x va .write with
    | .page p => if s.unanswered (p.phys va) then .error .fails else .ok (s.partyWrites (copyParty x.core) p (p.phys va) [b])
    | _ => .error (.fault ⟨x.part, va, .write⟩)
  else
    match s.copyPlace x j x.q.dsp va with
    | some (u, off) => if u.inHeld off 1 then .ok (s.putTeam (u.scrPut off [b])) else .error .fails
    | none => .error .fails

def State.copyPutAll (s : State) (x : Copy) (j : Nat) : Nat → List Byte → Except EngStop State
  | _, [] => .ok s
  | b, v :: vs =>
    match s.copyPut x j (x.q.dstOf x.kind b) v with
    | .error e => .error e
    | .ok s1 => State.copyPutAll s1 x j (b + 1) vs

/-- A contribution to a copy's arrival word in target `j`; none where the word is gone. -/
def State.copyArrive (s : State) (x : Copy) (j n : Nat) (failed : Bool) : State :=
  if x.q.avsp = 0 then s else
  match s.copyPlace x j x.q.avsp x.q.av with
  | some (u, off) => if u.inGranules off 16 then s.putTeam (u.contribute off n failed) else s
  | none => s

/-- May the engine work on a copy now? -/
def State.copyRuns (s : State) (x : Copy) : Bool :=
  !x.stopped && !x.failed && !x.cancelled && x.fault.isNone && (x.acquired || !x.acq)
    && (match x.owner with
      | .handle .. => (s.part x.part).st == .running
      | _ => true) && s.svc.diesOn && !s.svc.stopped

/-- COPY_CHUNK: chunk `size` of target `addr` of copy `item` (R298, R299), which after a stop is the lowest (R301). A chunk that meets a fault is not
written; the command waits for the service, or fails (R300). -/
def execCopyChunk (s : State) : Out :=
  let ck := (s.arg.addr, s.arg.size)
  match s.copy s.arg.item with
  | none => .next s
  | some x =>
    if !s.copyRuns x || !x.mayTake ck then .next s else
    let n := x.chunkLen ck.2
    let r : Except EngStop State := match s.copyBytes x (4096 * ck.2) n with
      | .error e => .error e
      | .ok (bs, s1) => s1.copyPutAll x ck.1 (4096 * ck.2) bs
    match r with
    | .error (.fault f) => .next (s.putCopy { x with fault := some f })
    | .error .fails => .next (s.putCopy { x with failed := true })
    | .ok s1 => .next ((s1.copyArrive x ck.1 n false).putCopy { x with done := x.done ++ [ck], lowest := false })

/-- The contribution that a failed copy makes for a target, with FAIL: every byte not yet contributed, of which there may be
none (R300). -/
def State.failArrive (s : State) (x : Copy) (j : Nat) : State :=
  s.copyArrive x j (((x.remaining.filter fun c => c.1 == j).foldl (fun n c => n + x.chunkLen c.2) 0)) true

/-- The contributions that are left of a copy that stops, after which none is. -/
def State.settleCopy (s : State) (x : Copy) : State × Copy :=
  if (x.failed || x.cancelled) && !x.finished then
    ((x.q.targets x.kind).foldl (fun s j => s.failArrive x j) s, { x with done := x.allChunks, failed := true })
  else (s, x)

/-- Perform the release of a finished copy, if it has one and its turn has come (R298, R352, R355, R442). -/
def State.releaseCopy (s : State) (x : Copy) : State × Copy :=
  let free := s.releaseBy (copyParty x.core) x.part x.q.soid x.q.obs
  if !x.rel || x.released then (s, x)
  else if !x.q.sov then (s.releaseMask (copyParty x.core) x.q.obs, { x with released := true })
  else match x.relSeq with
    | none => (free, { x with released := true })
    | some n => if (s.rbEntry x.part x.q.soid).rels = n then (free, { x with released := true }) else (s, x)

/-- The acquire of a copy, before its first read (R298, R352). -/
def State.acquireCopy (s : State) (x : Copy) : State :=
  let w : Station := .core x.core
  (if x.q.sov then s.acquireFor w x.part x.q.soid x.q.obs else s.acquireMask w x.q.obs).putCopy { x with acquired := true }

/-- The records that name a handle learn how its command ended, whether or not their group is still there (R322). -/
def Record.depEnd (gid h : Nat) (tag : BitVec 16) (failed : Bool) (r : Record) : Record :=
  if r.gid = gid ∧ r.pend.getLsbD h = true ∧ r.dtags.getD h 0#16 = tag then
    { r with pend := r.pend &&& ~~~(BitVec.ofNat 16 (2 ^ h)), badDep := r.badDep || failed }
  else r

/-- The handle of a command that has ended (R46, R296). -/
def State.endHandle (s0 : State) (gid h eng : Nat) (tag : BitVec 16) (failed : Bool) : State :=
  let s : State := { s0 with records := s0.records.map (Record.depEnd gid h tag failed) }
  match s.group gid with
  | none => s
  | some g =>
    let r : Reg := BitVec.ofNat 6 h
    if g.getH r = handleWord 1 eng tag then s.putGroup (g.setH r (handleWord (if failed then 3 else 2) eng tag)) else s

end Sys2Proof.Machine
end

