-- ==== Sys2Proof/Machine/Capture.lean ====
section
/-! DEFINITION. Capture mode: the capture ring of a run and its records (R409, R410). -/

namespace Sys2Proof.Machine

def State.run (s : State) (qidx : Nat) (runid : Word) : Option Run :=
  s.fe.runs.find? fun r => r.qidx == qidx && r.runid == runid
def State.putRun (s : State) (r : Run) : State :=
  { s with fe := { s.fe with runs := s.fe.runs.map fun x => if x.qidx = r.qidx ∧ x.runid = r.runid then r else x } }

/-- A partition's capture ring at a base. -/
def State.captureRing (s : State) (part base : Nat) : CaptureRing :=
  ((s.part part).rings.find? fun r => r.base == base).getD ⟨base, 0, []⟩

/-- The lengths of the records of a ring that software has not consumed: TAIL and HEAD count records (R406, R409). -/
def State.captureKept (s : State) (part base : Nat) : List Nat :=
  (s.captureRing part base).lens.take ((memNat s.mem base 4 + 2 ^ 32 - memNat s.mem (base + 8) 4) % 2 ^ 32)

/-- The free bytes of a capture ring of `size` bytes. -/
def State.captureFree (s : State) (part base size : Nat) : Nat := size - (s.captureKept part base).foldl (· + ·) 0

/-- Bytes put into a ring of `size` bytes from offset `o` on. -/
def State.ringBytes (s : State) (base size : Nat) : Nat → List Byte → State
  | _, [] => s
  | o, b :: bs => State.ringBytes (s.writePhys (base + 0x40 + o % size) [b]) base size (o + 1) bs

/-- A capture record (R409): the header, the kind's two values, and the payload padded to 32 bytes. -/
def captureRecord (r : Run) (kind : Nat) (v1 v2 : DWord) (payload : List Byte) : List Byte :=
  let n := (payload.length + 31) / 32 * 32
  natBytes 8 (kind + 2 ^ 8 * r.qidx + 2 ^ 20 * r.gid + 2 ^ 32 * r.runid.toNat) ++ natBytes 8 (32 + n)
    ++ natBytes 8 v1.toNat ++ natBytes 8 v2.toNat ++ payload ++ List.replicate (n - payload.length) 0#8

/-- Write a capture record of a captured run, after the last of its ring; one that finds no room is lost, and counted in DROPPED and
in the run's LOST (R406, R409, R410). -/
def State.capture (s : State) (qidx : Nat) (runid : Word) (kind : Nat) (v1 v2 : DWord) (payload : List Byte) : State :=
  match s.run qidx runid with
  | none => s
  | some r =>
    match r.capture with
    | none => s
    | some (base, size) =>
      let bs := captureRecord r kind v1 v2 payload
      if s.captureFree r.home base size < bs.length then
        (s.putRun { r with lost := r.lost + 1 }).writePhys (base + 4) (natBytes 4 (memNat s.mem (base + 4) 4 + 1))
      else
        let c := s.captureRing r.home base
        let c1 : CaptureRing := ⟨base, c.written + bs.length, bs.length :: s.captureKept r.home base⟩
        let p := s.part r.home
        ((s.ringBytes base size c.written bs).writePhys base (natBytes 4 (memNat s.mem base 4 + 1))).putPart r.home
          { p with rings := c1 :: p.rings.filter fun x => x.base != base }

end Sys2Proof.Machine
end

