-- ==== Sys2Proof/Machine/FrontEnd.lean ====
section
/-! DEFINITION. The front end: host registers, device physical addresses, queue state blocks, run lists, triggers, the
walker, and the command ring (R113 to R122, R413, R441). -/

namespace Sys2Proof.Machine

/-! ### Who can reach what -/

/-- The dies work. -/
def State.dieUp (s : State) : Bool := s.svc.powered && s.svc.diesOn && !s.svc.stopped
/-- The host reaches the part; after a critical stop only the side-band port answers (R418). -/
def State.hostUp (s : State) : Bool := s.svc.powered && s.svc.hostLink && !s.svc.stopped

def hbmBytes : Nat := 0x6000000000

/-- A number of `n` bytes at a device physical address. -/
def State.feNat (s : State) (a n : Nat) : Nat := if a + n ≤ hbmBytes then memNat s.mem a n else 0
def State.fePut (s : State) (a n v : Nat) : State := if a + n ≤ hbmBytes then s.writePhys a (natBytes n v) else s

/-- An entry of the queue table. -/
def State.qtabEntry (s : State) (q : Nat) : Nat := s.feNat (s.fe.regs.qtabBase.toNat + 8 * q) 8

/-! ### Registers of BAR0 -/

/-- `n` bytes of `v` written at byte `o` of a register of `size` bytes. -/
def mergeBytes (size old o n v : Nat) : Nat :=
  let k := min n (size - o)
  old - bitsOf old (8 * o) (8 * k) * 2 ^ (8 * o) + v % 2 ^ (8 * k) * 2 ^ (8 * o)

/-- The bytes of a write that fall into a register of `size` bytes at `at_`: its new value. -/
def hitReg (a n v at_ size old : Nat) : Option Nat :=
  if at_ ≤ a ∧ a < at_ + size then some (mergeBytes size old (a - at_) n v) else none

/-- The host control region (R113); the trigger window has a step of its own, and so has a write of CMDTAIL alone.
DEDUCED, unsafe: log entry 34. -/
def HostRegs.write (r : HostRegs) (queues : Bool) (a n v : Nat) : HostRegs :=
  match hitReg a n v 0x18 8 r.cmdTail.toNat with
  | some x => { r with cmdTail := BitVec.ofNat 32 x }
  | none =>
  if queues then r else
  match hitReg a n v 0 8 r.cmdBase.toNat, hitReg a n v 8 8 r.cmdLog2.toNat, hitReg a n v 0x20 8 r.qtabBase.toNat,
      hitReg a n v 0x28 8 r.prioBase.toNat with
  | some x, _, _, _ => { r with cmdBase := BitVec.ofNat 57 x }
  | _, some x, _, _ => if 4 ≤ x % 16 ∧ x % 16 ≤ 12 then { r with cmdLog2 := BitVec.ofNat 4 x } else r
  | _, _, some x, _ => { r with qtabBase := BitVec.ofNat 57 x }
  | _, _, _, some x => { r with prioBase := BitVec.ofNat 57 x }
  | _, _, _, _ => r

/-- The translation control region of a die, but for GO (R270). -/
def TinvRegs.write (r : TinvRegs) (a n v : Nat) : TinvRegs :=
  match hitReg a n v 0 8 r.va.toNat, hitReg a n v 8 8 (r.size.toNat + 2 ^ 8 * r.part.toNat + 2 ^ 12 * r.hsoid.toNat) with
  | some x, _ => { r with va := BitVec.ofNat 57 x }
  | _, some x => { r with size := BitVec.ofNat 2 x, part := BitVec.ofNat 3 (x / 2 ^ 8), hsoid := BitVec.ofNat 12 (x / 2 ^ 12) }
  | none, none => r

/-- MBCMD and MBDOOR (R414, R415): a submission made while the last command is unfinished is dropped. -/
def Mailbox.write (m : Mailbox) (a n v : Nat) : Mailbox :=
  if a < 0x40 then
    let i := a / 8
    { m with cmd := m.cmd.set i (BitVec.ofNat 64 (mergeBytes 8 (dwAt m.cmd i) (a % 8) n v)) }
  else if a < 0x48 ∧ m.job = none then { m with job := some m.cmd, begun := false }
  else m


/-- A priority table at its reset values: empty lists, and SWAPTH 4,096 (R120). -/
def prioTable : List Byte := (List.range 8).flatMap fun _ => natBytes 16 0 ++ natBytes 8 4096 ++ natBytes 8 0

/-- A write of PRIOBASE places the table, which takes its reset values (R113, R120). DEDUCED, unsafe: log entry 20. -/
def State.placePrio (s : State) (a : Nat) : State :=
  let base := s.fe.regs.prioBase.toNat
  if 0x28 ≤ a ∧ a < 0x30 ∧ s.fe.queues.isEmpty = true ∧ base ≠ 0 ∧ base + 256 ≤ hbmBytes then s.writePhys base prioTable else s

/-- A part of a host write to BAR0 that lies within one doubleword. -/
def State.bar0Write (s : State) (a n v : Nat) : State :=
  if a < 0x40000 then
    if s.dieUp then State.placePrio { s with fe := { s.fe with regs := s.fe.regs.write (!s.fe.queues.isEmpty) a n v } } a else s
  else if 0x100000 ≤ a ∧ a < 0x100400 then
    if s.dieUp then
      let d := dieIx ((a - 0x100000) / 0x100)
      { s with tinv := s.tinv.set d ((s.tinv.get d).write (a % 0x100) n v) }
    else s
  else if 0x200000 ≤ a ∧ a < 0x200060 then { s with svc := { s.svc with host := s.svc.host.write (a - 0x200000) n v } }
  else s

/-- Up to eight bytes of a write, at the one or two doublewords that they touch. -/
def State.bar0Put (s : State) (a n v : Nat) : State :=
  let k := 8 - a % 8
  if n ≤ k then (if n = 0 then s else s.bar0Write a n v)
  else (s.bar0Write a k (v % 2 ^ (8 * k))).bar0Write (a + k) (n - k) (v / 2 ^ (8 * k))

/-- The doublewords of a write, one after another. -/
def State.bar0Writes (s : State) : Nat → Nat → List DWord → State
  | _, _, [] => s
  | a, n, v :: vs => State.bar0Writes (s.bar0Put a (min n 8) v.toNat) (a + 8) (n - 8) vs

/-! ### Reads of the host (R412, R413) -/

/-- The doubleword at an aligned offset of the host control region; the trigger window can not be read (R113). -/
def HostRegs.read (r : HostRegs) (a : Nat) : Nat :=
  match a with
  | 0 => r.cmdBase.toNat
  | 8 => r.cmdLog2.toNat
  | 0x10 => r.cmdHead.toNat
  | 0x18 => r.cmdTail.toNat
  | 0x20 => r.qtabBase.toNat
  | 0x28 => r.prioBase.toNat
  | 0x30 => r.trigBad.toNat
  | _ => 0

/-- The doubleword at an aligned offset of a translation control region; GO can not be read (R270). -/
def TinvRegs.read (r : TinvRegs) (a : Nat) : Nat :=
  match a with
  | 0 => r.va.toNat
  | 8 => r.size.toNat + 2 ^ 8 * r.part.toNat + 2 ^ 12 * r.hsoid.toNat
  | 0x10 => (if r.busy then 1 else 0) + 2 ^ 32 * r.done.toNat
  | _ => 0

/-- The doubleword at an aligned offset of the mailbox; MBCMD and MBDOOR can not be read (R414). -/
def Mailbox.read (m : Mailbox) (a : Nat) : Nat :=
  match a with
  | 0x48 => m.stat.toNat
  | 0x50 => m.done.toNat
  | _ => 0

/-- The doubleword at an aligned offset of BAR0; an offset that is not listed reads as zero (R413). -/
def State.bar0Reg (s : State) (a : Nat) : Nat :=
  if a < 0x80000 then s.fe.regs.read a
  else if 0x100000 ≤ a ∧ a < 0x100400 then (s.tinv.get (dieIx ((a - 0x100000) / 0x100))).read (a % 0x100)
  else if 0x200000 ≤ a ∧ a < 0x200060 then s.svc.host.read (a - 0x200000)
  else 0

/-- What a host read of `n` bytes at an offset of BAR0 returns; nothing while the host does not reach the part. -/
def State.bar0Read (s : State) (a n : Nat) : Option (List Byte) :=
  if s.hostUp then some ((List.range n).map fun i => BitVec.ofNat 8 (bitsOf (s.bar0Reg ((a + i) / 8 * 8)) (8 * ((a + i) % 8)) 8))
  else none

/-- What a host read of `n` bytes at an offset of BAR2 returns: HBM at the home slices, and all ones beyond it (R412). The
posted writes of the reading stream are performed first: DEDUCED, safe: log entry 5. -/
def State.bar2Read (s : State) (stream a n : Nat) : Option (List Byte) :=
  if s.hostUp && s.dieUp then
    let t := s.ringStream stream
    some ((List.range n).map fun i => if a + i < hbmBytes then memGet t.mem (a + i) else 0xFF#8)
  else none

/-- REGISTER_WRITE of `data`, `size` bytes at offset `addr` of BAR0 (R413). -/
def execRegisterWrite (s : State) : Out :=
  if s.hostUp then .next (s.bar0Writes s.arg.addr s.arg.size s.arg.data) else .next s

/-- CMDTAIL: the first doubleword of `data` (R113, R114). -/
def execCmdtail (s : State) : Out :=
  if s.hostUp && s.dieUp then
    .next { s with fe := { s.fe with regs := { s.fe.regs with cmdTail := (s.arg.data.headD 0#64).setWidth 32 } } }
  else .next s

/-! ### Queue state blocks (R119) -/

structure Qsb where
  addr : Nat
  next : Nat
  prio : Nat
  state : Nat
  mask : Nat
  hsoid : Nat
  log2 : Nat
  ring : Nat
  head : Nat
  tail : Nat
deriving DecidableEq, Repr

def State.qsbAt (s : State) (a : Nat) : Qsb :=
  let w := s.feNat (a + 8) 8
  { addr := a, next := bitsOf (s.feNat a 8) 0 57, prio := bitsOf w 0 3, state := bitsOf w 4 2, mask := bitsOf w 8 8,
    hsoid := bitsOf w 16 12, log2 := bitsOf w 48 4, ring := bitsOf (s.feNat (a + 0x10) 8) 0 57,
    head := s.feNat (a + 0x18) 4, tail := s.feNat (a + 0x1C) 4 }

/-- The QSB of a queue in use. -/
def State.qsb (s : State) (q : Nat) : Option Qsb :=
  let a := s.qtabEntry q
  if a = 0 then none else some (s.qsbAt (bitsOf a 0 57))

/-- The lowest partition of a mask: the home partition of a queue (R441). -/
def lowestPart (mask : Nat) : Nat := ((List.range 8).find? fun i => bitsOf mask i 1 == 1).getD 0
def Qsb.home (b : Qsb) : Nat := lowestPart b.mask
/-- Triggers stored and not yet completed. -/
def Qsb.stored (b : Qsb) : Nat := (b.tail + 2 ^ 32 - b.head) % 2 ^ 32
/-- Ring entry `n`. -/
def Qsb.slot (b : Qsb) (n : Nat) : Nat := b.ring + 64 * (n % 2 ^ b.log2)

def State.setQState (s : State) (b : Qsb) (st : Nat) : State :=
  let w := s.feNat (b.addr + 8) 1
  s.fePut (b.addr + 8) 1 (w - bitsOf w 4 2 * 16 + st * 16)
/-- Add to a counter of 32 bits. -/
def State.feAdd (s : State) (a n : Nat) : State := s.fePut a 4 (s.feNat a 4 + n)

/-! ### STATE (R121, R123) -/

def State.activeRun (s : State) (q : Nat) : Option Run := s.fe.runs.find? fun r => r.qidx == q

def RunNode.held (n : RunNode) : Bool :=
  match n.st with
  | .watching _ _ | .noPage _ _ _ => true
  | _ => false
def RunNode.parked (n : RunNode) : Bool :=
  match n.st with
  | .noPage _ p _ => p
  | _ => false

/-- The STATE that firmware gives a queue that is not parked. DEDUCED, unsafe: log entry 30. -/
def State.queueState (s : State) (q : Nat) (b : Qsb) : Nat :=
  match s.activeRun q with
  | none => if b.stored = 0 then 0 else 1
  | some r =>
    if r.nodes.any fun n => n.st == .ready then 1
    else if r.nodes.any RunNode.held then 2 else 0

def State.refresh (s : State) (q : Nat) : State :=
  match s.qsb q with
  | none => s
  | some b =>
    if (s.activeRun q).any fun r => r.nodes.any RunNode.parked then s.setQState b 3
    else s.setQState b (s.queueState q b)

/-! ### Run lists (R120 to R122) -/

def State.prioAt (s : State) (p : Nat) : Nat := s.fe.regs.prioBase.toNat + 32 * p
def State.headq (s : State) (p : Nat) : Nat := bitsOf (s.feNat (s.prioAt p) 8) 0 57
def State.tailq (s : State) (p : Nat) : Nat := bitsOf (s.feNat (s.prioAt p + 8) 8) 0 57
def State.swapTh (s : State) (p : Nat) : Nat := s.feNat (s.prioAt p + 0x10) 4
def State.walkgen (s : State) (p : Nat) : Nat := s.feNat (s.prioAt p + 0x18) 4

/-- The QSBs of a list, in order; `fuel` bounds them. -/
def State.runList (s : State) : Nat → Nat → List Nat
  | 0, _ => []
  | n + 1, a => if a = 0 then [] else a :: State.runList s n (bitsOf (s.feNat a 8) 0 57)
def State.listOf (s : State) (p : Nat) : List Nat := s.runList 4096 (s.headq p)

/-- May a QSB be linked, two passes after its removal? -/
def State.mayLink (s : State) (a : Nat) : Bool :=
  s.fe.removed.all fun r => r.1 != a || decide (2 ≤ (s.walkgen r.2.1 + 2 ^ 32 - r.2.2.toNat) % 2 ^ 32)

/-- Insertion at the tail. -/
def State.link (s : State) (a p : Nat) : State :=
  let s0 := { s with fe := { s.fe with removed := s.fe.removed.filter fun r => r.1 != a } }
  let s1 := s0.fePut a 8 0
  let s2 := if s.headq p = 0 then s1.fePut (s.prioAt p) 8 a else s1.fePut (s.tailq p) 8 a
  s2.fePut (s.prioAt p + 8) 8 a

/-- Removal, with the list's WALKGEN recorded. -/
def State.unlink (s : State) (a p : Nat) : State :=
  let l := s.listOf p
  if !l.contains a then s else
  let pred := (l.zip (l.drop 1)).find? fun x => x.2 == a
  let next := bitsOf (s.feNat a 8) 0 57
  let s1 := match pred with
    | some x => s.fePut x.1 8 next
    | none => s.fePut (s.prioAt p) 8 next
  let s2 := if s.tailq p = a then s1.fePut (s.prioAt p + 8) 8 ((pred.map fun x => x.1).getD 0) else s1
  { s2 with fe := { s2.fe with removed := s2.fe.removed ++ [(a, p, BitVec.ofNat 32 (s.walkgen p))] } }

/-- WALKER_PASS: QSBs with STATE 1 are handed to firmware in list order, and every list's WALKGEN advances (R121); no table
is walked before PRIOBASE names one. -/
def execWalkerPass (s : State) : Out :=
  if !s.dieUp || s.fe.regs.prioBase == 0#57 then .next s else
  let pass (s : State) (p : Nat) : State :=
    let due := (s.listOf p).filter fun a => (s.qsbAt a).state == 1 && !s.fe.handed.contains a
    ({ s with fe := { s.fe with handed := s.fe.handed ++ due } } : State).feAdd (s.prioAt p + 0x18) 1
  .next ((List.range 8).foldl pass s)

/-! ### Trigger writes (R116) -/

/-- A doorbell of a host stream object of a partition: a release of every posted write that the host write's own ordering
stream holds (R356). DEDUCED, unsafe: log entry 64. -/
def State.doorbell (s : State) (part soid : Nat) : State :=
  if (s.part part).st ≠ .unconfigured ∧ (s.rbEntry part soid).kind = 3 then (s.ringStream s.arg.stream).performRelease part soid
  else s

/-- TRIGGER_WRITE of the eight doublewords `data`, `size` bytes at offset `addr` of BAR0. -/
def execTriggerWrite (s : State) : Out :=
  if !(s.hostUp && s.dieUp) || decide (s.arg.addr < 0x40000 ∨ 0x80000 ≤ s.arg.addr) then .next s else
  let q := (s.arg.addr - 0x40000) / 64
  let bad : Out := .next { s with fe := { s.fe with regs := { s.fe.regs with trigBad := s.fe.regs.trigBad + 1#32 } } }
  if s.arg.size ≠ 64 ∨ s.arg.addr % 64 ≠ 0 then bad else
  match s.qsb q with
  | none => bad
  | some b =>
    if b.stored = 2 ^ b.log2 then .next (s.feAdd (b.addr + 0x20) 1) else
    let put (s : State) (i : Nat) : State := s.fePut (b.slot b.tail + 8 * i) 8 (dwAt s.arg.data i)
    let s1 := (List.range 8).foldl put s
    let s2 : State := { s1 with fe := { s1.fe with trigs := s1.fe.trigs ++ [(q, b.tail)] } }
    .next (((s2.fePut (b.addr + 0x1C) 4 (b.tail + 1)).doorbell b.home b.hsoid).refresh q)

/-! ### The command ring (R114, R115) -/

def State.cmdAddr (s : State) : Nat := s.fe.regs.cmdBase.toNat + 64 * (s.fe.regs.cmdHead.toNat % 2 ^ s.fe.regs.cmdLog2.toNat)
def State.cmdDw (s : State) (i : Nat) : Nat := s.feNat (s.cmdAddr + 8 * i) 8

/-- RESULT, if any, then the status doubleword, then CMDHEAD (R39, R114). -/
def State.endCommand (s : State) (code index : Nat) (result : Option Nat) : State :=
  let s1 := match result with
    | some r => s.fePut (s.cmdAddr + 0x30) 8 r
    | none => s
  let s2 := s1.fePut (s.cmdDw 7) 8 (code + 2 ^ 32 * index)
  { s2 with fe := { s2.fe with wait := none, regs := { s2.fe.regs with cmdHead := s2.fe.regs.cmdHead + 1#32 } } }

def Cmd.done (s : State) (code index : Nat) : Out := .next (s.endCommand code index none)

/-- The bits that a command may set in its operand doublewords. -/
def cmdMask : Nat → List Nat
  | 1 => [2 ^ 64 - 1, 2 ^ 64 - 1, 2 ^ 52 - 2 ^ 16, 0, 0]
  | 2 | 3 => [2 ^ 64 - 1, 0, 0, 0, 0]
  | 4 | 6 => [0xFFF, 0, 0, 0, 0]
  | 5 => [0xFFF, 2 ^ 64 - 1, 0, 0, 0]
  | 7 => [0xFFF, 7, 0, 0, 0]
  | 8 => [7, 0xFFFFFFFF, 0, 0, 0]
  | 9 => [2 ^ 64 - 1, 2 ^ 64 - 1, 2 ^ 40 - 1, 0x7FFFF, 7]
  | _ => [0, 0, 0, 0, 0]

/-- CMDOP of the command at CMDHEAD. -/
def State.cmdBad (s : State) : Bool :=
  let op := s.cmdDw 0
  decide (op % 256 = 0 ∨ 9 < op ∨ 256 ≤ op)
    || (List.range 5).any fun i => s.cmdDw (i + 1) &&& (2 ^ 64 - 1 - ((cmdMask op)[i]?).getD 0) != 0

/-- The step of command `op`: the command at CMDHEAD when it is one, or one with CMDOP; `resume` goes on with one that
waits. -/
def feCommand (op : Nat) (s : State) (resume : CmdWait → Out) (run : Out) : Out :=
  if !s.dieUp || s.fe.regs.cmdHead == s.fe.regs.cmdTail then .next s else
  match s.fe.wait with
  | some w => if s.cmdDw 0 % 256 = op then resume w else .next s
  | none =>
    if s.cmdBad then Cmd.done s 0x40 0
    else if s.cmdDw 0 % 256 = op then run
    else .next s

/-- A command without a wait. -/
def feSimple (op : Nat) (s : State) (run : Out) : Out := feCommand op s (fun _ => .next s) run

/-! ### QCREATE, QDESTROY, QPRIO, SETTH (R115, R120, R129, R130) -/

/-- QSBBAD. -/
def State.qsbBad (s : State) (a : Nat) : Bool :=
  let d (i : Nat) : Nat := s.feNat (a + 8 * i) 8
  a % 128 != 0 || bitsOf (d 0) 57 7 != 0 || bitsOf (d 1) 3 1 != 0 || bitsOf (d 1) 6 2 != 0 || bitsOf (d 1) 28 20 != 0
    || bitsOf (d 1) 52 12 != 0 || bitsOf (d 2) 57 7 != 0 || bitsOf (d 4) 32 32 != 0 || bitsOf (d 5) 32 32 != 0
    || (List.range 10).any (fun i => d (i + 6) != 0) || decide (12 < bitsOf (d 1) 48 4) || d 2 % 64 != 0
    || bitsOf (d 1) 8 8 == 0

/-- QCREATE: a QSB still in use by the walker is linked once it may be (R122). -/
def execQcreate (s : State) : Out :=
  feSimple 5 s <|
    let q := s.cmdDw 1
    let a := s.cmdDw 2
    if s.qtabEntry q ≠ 0 then Cmd.done s 0x41 q
    else if s.qsbBad a then Cmd.done s 0x42 q
    else if !s.mayLink a then .next s
    else
      let s1 := [0, 0x18, 0x20, 0x28].foldl (fun (s : State) o => s.fePut (a + o) 8 0) s
      let s2 := (s1.setQState (s1.qsbAt a) 0).fePut (s.fe.regs.qtabBase.toNat + 8 * q) 8 a
      let s3 := { s2 with fe := { s2.fe with queues := q :: s2.fe.queues } }
      Cmd.done (s3.link a (s3.qsbAt a).prio) 0 0

/-- The stored triggers of a queue leave the order of triggers, but for those that `keep` names. -/
def State.forgetTriggers (s : State) (q : Nat) (keep : Nat → Bool) : State :=
  { s with fe := { s.fe with trigs := s.fe.trigs.filter fun t => t.1 != q || keep t.2 } }

/-- The triggers that no run has taken, discarded and counted. -/
def State.discardTriggers (s : State) (q : Nat) : State :=
  match s.qsb q with
  | none => s
  | some b =>
    let keep := if (s.activeRun q).isSome then 1 else 0
    let s := s.forgetTriggers q fun n => keep = 1 && n == b.head
    if b.stored ≤ keep then s
    else (s.feAdd (b.addr + 0x20) (b.stored - keep)).fePut (b.addr + 0x1C) 4 (b.head + keep)

/-- The queue's QSB unlinked and its table entry cleared. -/
def State.dropQueue (s : State) (q : Nat) : State :=
  match s.qsb q with
  | none => s
  | some b =>
    let s1 := ((s.setQState b 0).unlink b.addr b.prio).fePut (s.fe.regs.qtabBase.toNat + 8 * q) 8 0
    let handed := s1.fe.handed.filter fun a => a != b.addr
    { s1 with fe := { s1.fe with handed := handed, queues := s1.fe.queues.filter fun n => n != q } }

/-- QDESTROY: at once where no run is active, else it waits for the run. Its status does not wait for the walker to have passed the
list that the QSB left: DESIGN CHOICE, unsafe: log entry 81. -/
def execQdestroy (s : State) : Out :=
  let go (q : Nat) : Out :=
    let s1 := (s.discardTriggers q).refresh q
    if (s1.activeRun q).isSome then .next { s1 with fe := { s1.fe with wait := some (.qdestroy q) } }
    else Cmd.done (s1.dropQueue q) 0 0
  feCommand 6 s (fun w => match w with
    | .qdestroy q => go q
    | _ => .next s) <|
    let q := s.cmdDw 1
    if s.qtabEntry q = 0 then Cmd.done s 0x41 q else go q

/-- PRIO of the bind records of a queue (R129). -/
def State.reprioritise (s : State) (q p : Nat) : State :=
  { s with fe := { s.fe with lst := Tab.ofFn fun i =>
      let e := s.fe.lst.get i
      if e.st ≠ 0 ∧ e.qidx = q then { e with prio := p } else e } }

/-- QPRIO: removal, then insertion once the old list has been walked twice; a parked queue is in no list. -/
def execQprio (s : State) : Out :=
  let finish (s : State) (q p : Nat) : Out :=
    match s.qsb q with
    | none => Cmd.done s 0x41 q
    | some b =>
      let w := s.feNat (b.addr + 8) 1
      let s1 := if b.state = 3 then s else s.link b.addr p
      Cmd.done ((s1.fePut (b.addr + 8) 1 (w - w % 8 + p)).reprioritise q p) 0 0
  feCommand 7 s (fun w => match w with
    | .relink q p => if (s.qsb q).all (fun b => s.mayLink b.addr || b.state == 3) = true then finish s q p else .next s
    | _ => .next s) <|
    let q := s.cmdDw 1
    match s.qsb q with
    | none => Cmd.done s 0x41 q
    | some b =>
      let s1 := if b.state = 3 then s else s.unlink b.addr b.prio
      .next { s1 with fe := { s1.fe with wait := some (.relink q (s.cmdDw 2)) } }

/-- SETTH. -/
def execSetth (s : State) : Out :=
  feSimple 8 s (Cmd.done (s.fePut (s.prioAt (s.cmdDw 1) + 0x10) 4 (s.cmdDw 2)) 0 0)

end Sys2Proof.Machine
end

