-- ==== Sys2Proof/Machine/Loader.lean ====
section
/-! DEFINITION. The loader: NCO files, their sections and relocations, the image map, and unloading (R32 to R40, R439,
R440). -/

namespace Sys2Proof.Machine

/-! ### The file (R32) -/

structure Sect where
  kind : Nat
  align : Nat
  off : Nat
  size : Nat
  load : Nat
deriving DecidableEq, Repr

def State.sectAt (s : State) (a : Nat) : Sect :=
  { kind := s.feNat a 1, align := s.feNat (a + 4) 4, off := s.feNat (a + 8) 8, size := s.feNat (a + 0x10) 8,
    load := s.feNat (a + 0x18) 8 }

structure Nco where
  file : Nat
  size : Nat
  sects : List Sect
  image : Nat
deriving DecidableEq, Repr

def loadedKind (k : Nat) : Bool := decide (1 ≤ k ∧ k ≤ 7)
/-- The alignment that a load offset needs beside the field's: 192 for TEXT and RUNTIME (R439). -/
def codeKind (k : Nat) : Bool := k == 1 || k == 2
def notLoaded : Nat := 2 ^ 64 - 1

def Nco.sect (n : Nco) (k : Nat) : Option Sect := n.sects.find? fun q => q.kind == k

def Sect.overlaps (a b : Sect) : Bool :=
  loadedKind a.kind && loadedKind b.kind && decide (a.load < b.load + b.size ∧ b.load < a.load + a.size ∧ 0 < a.size ∧ 0 < b.size)

/-- The lowest index that fails a check of a section against the ones before it. -/
def Nco.failing (n : Nco) (bad : List Sect → Sect → Bool) : Option Nat :=
  (List.range n.sects.length).find? fun i => match n.sects[i]? with
    | some q => bad (n.sects.take i) q
    | none => false

/-- The checks 2 to 6 of R439, then DICTSIZE: the first failing one's code and INDEX. -/
def Nco.bad (n : Nco) : Option (Nat × Nat) :=
  let sectionFails (bad : List Sect → Sect → Bool) : Option (Nat × Nat) := (n.failing bad).map fun i => (2, i)
  let outOfFile (before : List Sect) (q : Sect) : Bool :=
    decide (n.size < q.off + q.size) || q.kind == 0 || decide (10 < q.kind) || before.any fun p => p.kind == q.kind
  let misplaced (_ : List Sect) (q : Sect) : Bool :=
    loadedKind q.kind && (q.load == notLoaded || decide (n.image < q.load + q.size))
  let misaligned (_ : List Sect) (q : Sect) : Bool :=
    decide (16 < q.align) || (loadedKind q.kind && q.load % 2 ^ q.align != 0) || (codeKind q.kind && q.load % 192 != 0)
  let missing : Option (Nat × Nat) :=
    ([1, 2, 5].find? fun k => (n.sect k).isNone).map fun k => (2, 0x80000000 + k)
  let tooBig (_ : List Sect) (q : Sect) : Bool :=
    (q.kind == 3 && (decide (4096 < q.size) || q.size % 4 != 0)) || (q.kind == 4 && (decide (512 < q.size) || q.size % 32 != 0))
  (sectionFails outOfFile).orElse fun _ => (sectionFails misplaced).orElse fun _ => (sectionFails misaligned).orElse fun _ =>
    (sectionFails fun before q => before.any q.overlaps).orElse fun _ => missing.orElse fun _ =>
      (n.failing tooBig).map fun i => (3, i)

/-- The header and the section table (check 1 of R439). -/
def State.readNco (s : State) (file size : Nat) : Except (Nat × Nat) Nco :=
  let nsect := s.feNat (file + 6) 2
  let tab := s.feNat (file + 8) 8
  if size < 64 ∨ s.feNat file 4 ≠ 0x004F434E ∨ s.feNat (file + 4) 2 ≠ 1 then .error (1, 0)
  else if size < tab + 32 * nsect then
    .error (2, ((List.range nsect).find? fun i => decide (size < tab + 32 * (i + 1))).getD 0)
  else
    let n : Nco := ⟨file, size, (List.range nsect).map fun i => s.sectAt (file + tab + 32 * i), s.feNat (file + 0x10) 8⟩
    match n.bad with
    | some e => .error e
    | none => .ok n

/-! ### The base (R37) -/

def imageStep : Nat := 196608
def windowLow : Nat := 0x8000000000
def windowHigh : Nat := 0xC000000000
def pagesOf (size : Nat) : Nat := (size + 65535) / 65536 * 65536

/-- The lowest base from `b` on at which the pages overlap no image; a page overlap moves the base past that image, so
`fuel` is at most one more than the number of images. DEDUCED, unsafe: log entry 37. -/
def findBase (imgs : List Image) (size : Nat) : Nat → Nat → Option Nat
  | 0, _ => none
  | fuel + 1, b =>
    if windowHigh < b + pagesOf size then none else
    match imgs.find? fun i => decide (i.base < b + pagesOf size ∧ b < i.base + pagesOf i.size) with
    | none => some b
    | some i => findBase imgs size fuel ((i.base + pagesOf i.size + imageStep - 1) / imageStep * imageStep)

def State.imageBase (s : State) (size : Nat) : Option Nat :=
  findBase s.images size (s.images.length + 1) ((windowLow + imageStep - 1) / imageStep * imageStep)

/-! ### Relocations (R35, R36, R38) -/

/-- What a relocation writes: the bytes patched, the value, and the field's lowest bit and width; none where it does not
fit. -/
def relocField (ty : Nat) (sa va p : Int) : Option (Nat × Nat × Nat × Nat) :=
  let field (v : Int) (lo width : Nat) (signedFit : Bool) : Option (Nat × Nat × Nat × Nat) :=
    if signedFit && decide (-(2 ^ (width - 1) : Int) ≤ v ∧ v < 2 ^ (width - 1)) then
      some (4, (v % (2 ^ width : Int)).toNat, lo, width) else none
  let packets (lo width : Nat) : Option (Nat × Nat × Nat × Nat) :=
    if sa % 12 = 0 then field ((sa - p) / 12) lo width true else none
  match ty with
  | 1 => if 0 ≤ sa ∧ sa < 2 ^ 57 then some (8, sa.toNat, 0, 64) else none
  | 2 => if 0 ≤ sa ∧ sa < 2 ^ 32 then some (4, sa.toNat, 0, 32) else none
  | 3 => packets 0 19
  | 4 => packets 10 9
  | 5 => packets 1 9
  | 6 => field va 0 11 true
  | 7 => packets 0 14
  | _ => none

/-- One relocation record at `a`, of an image at `base` whose bytes lie at `pa`. -/
def State.relocate (s : State) (n : Nco) (base pa a : Nat) : Except Nat State :=
  let off := s.feNat a 4
  let ty := s.feNat (a + 5) 1
  let symIx := s.feNat (a + 8) 4
  let w := if ty = 1 then 8 else 4
  let syms := n.sect 9
  let symAt := n.file + (syms.map fun q => q.off).getD 0 + 24 * symIx
  let symSec := s.feNat (symAt + 4) 1
  let val := s.feNat (symAt + 8) 8
  match n.sects[s.feNat (a + 4) 1]? with
  | none => .error 4
  | some q =>
    let known := decide (24 * (symIx + 1) ≤ (syms.map fun q => q.size).getD 0)
    let target := n.sects[symSec]?
    let badSym := symSec != 0xFF && !(target.any fun t => loadedKind t.kind)
    if ty = 0 ∨ 7 < ty ∨ !loadedKind q.kind ∨ !known ∨ badSym ∨ q.size < off + w ∨ (base + q.load + off) % w ≠ 0 then .error 4
    else if symSec = 0xFF then .error 6
    else
      let va : Int := val + (BitVec.ofNat 64 (s.feNat (a + 0x10) 8)).toInt
      let sa : Int := base + ((target.map fun t => t.load).getD 0 : Nat) + va
      let p : Int := ((base + q.load + off) / 12 * 12 : Nat)
      match relocField ty sa va p with
      | none => .error 5
      | some (bytes, v, lo, width) =>
        let at_ := pa + q.load + off
        let old := s.feNat at_ bytes
        .ok (s.fePut at_ bytes (old - bitsOf old lo width * 2 ^ lo + v * 2 ^ lo))

/-- Every relocation in index order; the first that fails, by its code and index. -/
def State.relocateAll (s : State) (n : Nco) (base pa a : Nat) : Nat → Nat → Except (Nat × Nat) State
  | 0, _ => .ok s
  | k + 1, i =>
    match s.relocate n base pa (a + 24 * i) with
    | .error c => .error (c, i)
    | .ok s1 => State.relocateAll s1 n base pa a k (i + 1)

/-! ### Loading (R37) -/

/-- Every core changed. -/
def State.mapCores (s : State) (f : Core → Core) : State := { s with cores := Tab.ofFn fun i => f (s.cores.get i) }

/-- Instruction caches, loop buffers and dictionary banks without the image that lay, or comes to lie, at a base: none of them
keeps a word of an earlier image there (R37, R137, R158). -/
def Core.dropCode (c : Core) (base size : Nat) : Core :=
  { c with
    icache := c.icache.filter fun l => decide (l.line * 192 + 192 ≤ base ∨ base + size ≤ l.line * 192)
    loops := Tab.ofFn fun i => (c.loops.get i).filter fun b => b.image != base
    dict := Tab.ofFn fun i => if (c.dict.get i).image = some base then ⟨none, []⟩ else c.dict.get i }

/-- A run of zero bytes, or a copy of bytes, at a device physical address. -/
def State.feZero (s : State) (a n : Nat) : State := if a + n ≤ hbmBytes then s.writePhys a (List.replicate n 0#8) else s
def State.feCopy (s : State) (src dst n : Nat) : State :=
  if src + n ≤ hbmBytes ∧ dst + n ≤ hbmBytes then s.writePhys dst (memBytes s.mem src n) else s

/-- LOAD (R37, R38). After a relocation that fails, IMGPA holds the zeroed pages and the copied sections, and none of the
relocations: DESIGN CHOICE, unsafe: log entry 37. -/
def execLoad (s : State) : Out :=
  feSimple 1 s <|
    let pa := s.cmdDw 3
    match s.readNco (s.cmdDw 1) (s.cmdDw 2) with
    | .error e => Cmd.done s e.1 e.2
    | .ok n =>
      match s.imageBase n.image with
      | none => Cmd.done s 7 0
      | some base =>
        let s1 := s.feZero pa (pagesOf n.image)
        let loaded := n.sects.filter fun q => loadedKind q.kind
        let s2 := loaded.foldl (fun s q => s.feCopy (n.file + q.off) (pa + q.load) q.size) s1
        let rel := ((n.sect 8).map fun q => (n.file + q.off, q.size / 24)).getD (0, 0)
        match s2.relocateAll n base pa rel.1 rel.2 0 with
        | .error e => Cmd.done s2 e.1 e.2
        | .ok s3 =>
          let img : Image := ⟨base, n.image, pa, loaded.map fun q => (q.kind, q.load, q.size)⟩
          let s4 := ({ s3 with images := s3.images ++ [img] } : State).mapCores fun c => c.dropCode base (pagesOf n.image)
          .next (s4.endCommand 0 0 (some base))

/-! ### Unloading (R38, R440) -/

/-- The doublewords of a node of an installed graph, from its body on (R26). -/
def State.nodeBody (s : State) (g : Graph) (i : Nat) : List DWord :=
  (List.range 8).map fun k => BitVec.ofNat 64 (s.feNat (g.nodeVA + 96 * i + 0x20 + 8 * k) 8)
def State.nodeKind (s : State) (g : Graph) (i : Nat) : Nat := s.feNat (g.nodeVA + 96 * i) 1 % 16

/-- Does an installed graph name an image? -/
def State.graphNames (s : State) (base : Nat) (g : Graph) : Bool :=
  (List.range g.nnode).any fun i => s.nodeKind g i == 0 && dwAt (s.nodeBody g i) 0 == base

/-- Held translations of the whole package without those that `p` names. -/
def State.dropXlats (s : State) (p : Xlat → Bool) : State :=
  { s.mapCores (fun c => { c with tlb := c.tlb.filter fun x => !p x }) with
    quadTlb := Tab.ofFn fun i => (s.quadTlb.get i).filter fun x => !p x }

/-- UNLOAD: BUSY, with the GID of the graph among those that name the image which was installed first (DESIGN CHOICE, unsafe: log
entry 82), or the pages unmapped, and the wait for the accesses under way. -/
def execUnload (s : State) : Out :=
  feSimple 2 s <|
    let base := s.cmdDw 1
    match s.images.find? fun i => i.base == base with
    | none => Cmd.done s 0x11 0
    | some img =>
      match s.fe.graphs.find? (s.graphNames base) with
      | some g => Cmd.done s 8 g.gid
      | none =>
        let s1 := { s with images := s.images.filter fun i => i.base != base }
        let s2 := s1.dropXlats fun x => x.fromImage && decide (base ≤ x.vbase ∧ x.vbase < base + pagesOf img.size)
        .next { s2.mapCores (fun c => c.dropCode base (pagesOf img.size)) with fe := { s2.fe with wait := some (.unload base img.size) } }

/-- UNLOAD_DRAINED: the accesses translated through the image's pages have been performed, and the status is written (R440). -/
def execUnloadDrained (s : State) : Out :=
  match s.fe.wait with
  | some (.unload base size) =>
    let through (x : Xlat) : Bool := x.fromImage && decide (base ≤ x.vbase ∧ x.vbase < base + pagesOf size)
    if s.dieUp then Cmd.done (s.landThose fun f => f.attr.any through) 0 0 else .next s
  | _ => .next s

end Sys2Proof.Machine
end

