-- ==== Sys2Proof/Machine/Install.lean ====
section
/-! DEFINITION. Launch records and their checks (R9 to R24), and the installing and removing of task graphs (R25, R26,
R31). -/

namespace Sys2Proof.Machine

/-! ### Launch records (R10, R11, R17) -/

/-- The number of levels. -/
def lrLevels (r : List DWord) : Nat := fieldAt r 1 22 3 + 1
def lrGpt (r : List DWord) : Nat := fieldAt r 1 16 6
def lrX (r : List DWord) : Nat := fieldAt r 2 0 32
def lrY (r : List DWord) : Nat := fieldAt r 2 32 16
def lrZ (r : List DWord) : Nat := fieldAt r 2 48 16
/-- The number of teams of the grid. -/
def lrTeams (r : List DWord) : Nat := lrX r * lrY r * lrZ r
def lrLevel (r : List DWord) (k : Nat) : Level := ⟨fieldAt r 3 (8 * k) 4, fieldAt r 3 (8 * k + 4) 4⟩
def lrExtent (r : List DWord) (k : Nat) : Nat := fieldAt r 4 (16 * (k - 3)) 16
def lrInitial (r : List DWord) : Claim := claimOf (fieldAt r 5 0 32)
def lrArgSlot (r : List DWord) : Nat := fieldAt r 6 8 7
def lrArgN (r : List DWord) : Nat := fieldAt r 6 16 5
def lrSoid (r : List DWord) : Nat := fieldAt r 6 24 12
def lrObs (r : List DWord) : BitVec 5 := BitVec.ofNat 5 (fieldAt r 6 36 5)
def lrAcq (r : List DWord) : Bool := fieldAt r 6 41 1 == 1
def lrRel (r : List DWord) : Bool := fieldAt r 6 42 1 == 1
def lrComplVa (r : List DWord) : Nat := fieldAt r 7 0 57

/-- P_k: the product of the extents from level 3 to `k`. -/
def lrProduct (r : List DWord) (k : Nat) : Nat := ((List.range (k + 1)).drop 3).foldl (fun p i => p * lrExtent r i) 1
/-- The teams of one instance of level `k`: the whole grid at the top. -/
def lrInstance (r : List DWord) (k : Nat) : Nat := if k + 1 = lrLevels r then lrTeams r else lrProduct r k

/-- The levels from 3 on. -/
def lrUpper (r : List DWord) : List Nat := (List.range (lrLevels r)).drop 3
/-- The highest level bound to one of some domains. -/
def lrHighest (r : List DWord) (doms : List Nat) : Option Nat :=
  (lrUpper r).reverse.find? fun k => doms.contains (lrLevel r k).dom

/-- R10. -/
def lrLevelsOk (r : List DWord) : Bool :=
  lrLevel r 0 == ⟨0, 2⟩ && lrLevel r 1 == ⟨1, 2⟩ && lrLevel r 2 == ⟨2, 2⟩
    && (lrUpper r).all (fun k =>
      let l := lrLevel r k
      let b := lrLevel r (k - 1)
      decide (3 ≤ l.dom ∧ l.dom ≤ 7 ∧ l.scope ≤ 7 ∧ b.dom ≤ l.dom ∧ l.dom ≤ l.scope ∧ b.scope ≤ l.scope))
    && ((List.range 8).drop (lrLevels r)).all fun k => lrLevel r k == ⟨0, 0⟩

/-- R11: the extents that are needed, the ones that are not, and the grid. -/
def lrExtentsBad (r : List DWord) : Bool :=
  let n := lrLevels r
  ((List.range 7).drop 3).any (fun k => if k + 2 ≤ n then lrExtent r k == 0 else lrExtent r k != 0)
    || (decide (4 ≤ n) && lrTeams r % lrProduct r (n - 2) != 0)

/-! ### Kernel descriptors (R21) -/

structure Kernel where
  entryOff : Nat
  trapOff : Nat
  claim : Claim
  ven : Nat
  dict : Bool
deriving DecidableEq, Repr

def Image.sectOf (i : Image) (k : Nat) : Option (Nat × Nat) :=
  (i.sections.find? fun q => q.1 == k).map fun q => q.2

def State.kernel (s : State) (i : Image) (n : Nat) : Option Kernel :=
  match i.sectOf 5 with
  | none => none
  | some (off, size) =>
    if size / 16 ≤ n then none else
    let d0 := s.feNat (i.pa + off + 16 * n) 8
    let d1 := s.feNat (i.pa + off + 16 * n + 8) 8
    some ⟨bitsOf d0 0 32, bitsOf d0 32 32, claimOf (bitsOf d1 0 32), bitsOf d1 32 5, bitsOf d1 37 1 == 1⟩

def State.imageBy (s : State) (base : Nat) : Option Image := s.images.find? fun i => i.base == base

/-! ### The checks of a launch record (R23, R24) -/

/-- Does a gang of `p` teams over `c` cores fit an idle domain? -/
def gangFits (k : Kernel) (init : Claim) (gpt p c : Nat) : Bool :=
  let t := (p + c - 1) / c
  decide (t * gpt ≤ 63 ∧ t * init.reg * gpt ≤ 512 ∧ t * init.scr ≤ 64 ∧ t * init.acc ≤ 8 ∧ t * init.bar ≤ 256 ∧ t * k.ven ≤ 16)

/-- The reserved bits of a launch record. -/
def lrReserved (r : List DWord) : Bool :=
  fieldAt r 0 57 7 != 0 || fieldAt r 1 25 39 != 0 || fieldAt r 5 25 39 != 0 || fieldAt r 6 0 8 != 0 || fieldAt r 6 15 1 != 0
    || fieldAt r 6 21 3 != 0 || fieldAt r 6 43 21 != 0 || fieldAt r 7 57 7 != 0

/-- The code of the first failing check; none for a record that passes. -/
def State.recordBad (s : State) (r : List DWord) (nparam : Nat) : Option Nat :=
  if lrReserved r then some 0x10 else
  match (s.imageBy (dwAt r 0)).bind fun i => s.kernel i (fieldAt r 1 0 16) with
  | none => some 0x11
  | some k =>
    let c := k.claim
    let i := lrInitial r
    let gangs := (lrUpper r).filter fun l => (lrLevel r l).dom == 3 || (lrLevel r l).dom == 4
    let fits (l : Nat) : Bool := gangFits k i (lrGpt r) (lrInstance r l) (if (lrLevel r l).dom = 3 then 4 else 96)
    if lrGpt r = 0 ∨ lrLevels r < 3 then some 0x12
    else if !lrLevelsOk r then some 0x13
    else if lrExtentsBad r then some 0x14
    else if lrX r = 0 ∨ lrY r = 0 ∨ lrZ r = 0 then some 0x15
    else if nparam < lrArgSlot r + lrArgN r then some 0x16
    else if 24 < c.reg ∨ 512 < c.reg * lrGpt r ∨ 64 < c.scr ∨ 8 < c.acc ∨ 256 < c.bar ∨ 63 < lrGpt r then some 0x17
    else if !i.le c then some 0x18
    else if !gangs.all fits then some 0x19
    else none

/-! ### Nodes of a graph in the store (R26) -/

def State.nodeHead (s : State) (g : Graph) (i k : Nat) : Nat := s.feNat (g.nodeVA + 96 * i + 8 * k) 8
/-- The successors of a node. -/
def State.nodeSuccs (s : State) (g : Graph) (i : Nat) : List Nat :=
  (List.range (bitsOf (s.nodeHead g i 0) 8 8)).map fun j => s.feNat (bitsOf (s.nodeHead g i 1) 0 57 + 2 * j) 2
def State.nodePreds (s : State) (g : Graph) (i : Nat) : Nat := bitsOf (s.nodeHead g i 0) 16 16
/-- The valid substitutions of a node: body doubleword and slot. -/
def State.nodeSubs (s : State) (g : Graph) (i : Nat) : List (Nat × Nat) :=
  ((List.range 4).map fun j => bitsOf (s.nodeHead g i 2) (16 * j) 16).filterMap fun w =>
    if bitsOf w 15 1 = 1 then some (bitsOf w 7 3, bitsOf w 0 7) else none

/-- The nodes left when nodes without a remaining predecessor are taken away again and again. -/
def cyclic (succs : Nat → List Nat) : Nat → List Nat → List Nat
  | 0, l => l
  | n + 1, l =>
    let kept := l.filter fun i => l.any fun j => (succs j).contains i
    if kept.length = l.length then l else cyclic succs n kept

/-! ### INSTALL and REMOVE (R31) -/

def State.graphHeader (s : State) (a : Nat) : Graph :=
  let w := s.feNat a 8
  { gid := bitsOf w 0 12, nnode := bitsOf w 16 13, nparam := bitsOf w 32 8, nodeVA := bitsOf (s.feNat (a + 8) 8) 0 57,
    paramVA := bitsOf (s.feNat (a + 0x10) 8) 0 57, doneVA := bitsOf (s.feNat (a + 0x18) 8) 0 57 }

/-- The first failing code of a graph and its node. DEDUCED, unsafe: log entry 31. -/
def State.graphBad (s : State) (g : Graph) : Option (Nat × Nat) :=
  let nodes := List.range g.nnode
  let first (code : Nat) (bad : Nat → Bool) : Option (Nat × Nat) := (nodes.find? bad).map fun i => (code, i)
  let named := nodes.flatMap (s.nodeSuccs g)
  if g.nnode = 0 ∨ 4096 < g.nnode ∨ 128 < g.nparam then some (0x20, 0) else
  (first 0x21 fun i => decide (3 < s.nodeKind g i)).orElse fun _ =>
  (first 0x22 fun i => (s.nodeSuccs g i).any fun j => decide (g.nnode ≤ j)).orElse fun _ =>
  (first 0x23 fun i => named.count i != s.nodePreds g i).orElse fun _ =>
  (((cyclic (s.nodeSuccs g) g.nnode nodes).head?).map fun i => (0x24, i)).orElse fun _ =>
  (first 0x25 fun i => (s.nodeSubs g i).any fun x => decide (g.nparam ≤ x.2)).orElse fun _ =>
  (if s.fe.runs.any fun r => r.gid == g.gid then some (0x26, 0) else none).orElse fun _ =>
  nodes.findSome? fun i =>
    if s.nodeKind g i = 0 then (s.recordBad (s.nodeBody g i) g.nparam).map fun c => (c, i) else none

/-- INSTALL: the graph takes its GID's place. -/
def execInstall (s : State) : Out :=
  feSimple 3 s <|
    let g := s.graphHeader (s.cmdDw 1)
    match s.graphBad g with
    | some e => Cmd.done s e.1 e.2
    | none => Cmd.done { s with fe := { s.fe with graphs := (s.fe.graphs.filter fun h => h.gid != g.gid) ++ [g] } } 0 0

/-- REMOVE: GBUSY while a run of the graph is runnable. -/
def execRemove (s : State) : Out :=
  feSimple 4 s <|
    let gid := s.cmdDw 1
    if s.fe.runs.any fun r => r.gid == gid then Cmd.done s 0x26 0
    else Cmd.done { s with fe := { s.fe with graphs := s.fe.graphs.filter fun h => h.gid != gid } } 0 0

end Sys2Proof.Machine
end

