-- ==== Sys2Proof/Machine/Sha3.lean ====
section
/-! DEFINITION. SHA3-512 (FIPS 202), which capture records, image measurements and measurement registers use
(R409, R421, R425). -/

namespace Sys2Proof.Machine

def keccakRounds : List DWord :=
  [0x0000000000000001#64, 0x0000000000008082#64, 0x800000000000808A#64, 0x8000000080008000#64, 0x000000000000808B#64,
   0x0000000080000001#64, 0x8000000080008081#64, 0x8000000000008009#64, 0x000000000000008A#64, 0x0000000000000088#64,
   0x0000000080008009#64, 0x000000008000000A#64, 0x000000008000808B#64, 0x800000000000008B#64, 0x8000000000008089#64,
   0x8000000000008003#64, 0x8000000000008002#64, 0x8000000000000080#64, 0x000000000000800A#64, 0x800000008000000A#64,
   0x8000000080008081#64, 0x8000000000008080#64, 0x0000000080000001#64, 0x8000000080008008#64]

/-- The rotation of lane (x, y), at x + 5y. -/
def keccakTurns : List Nat :=
  [0, 1, 62, 28, 27, 36, 44, 6, 55, 20, 3, 10, 43, 25, 39, 41, 45, 15, 21, 8, 18, 2, 61, 56, 14]

def kLane (a : List DWord) (x y : Nat) : DWord := a.getD (x % 5 + 5 * (y % 5)) 0#64

def keccakRound (rc : DWord) (a : List DWord) : List DWord :=
  let c := (List.range 5).map fun x => (List.range 5).foldl (fun v y => v ^^^ kLane a x y) 0#64
  let d := (List.range 5).map fun x => c.getD ((x + 4) % 5) 0#64 ^^^ (c.getD ((x + 1) % 5) 0#64).rotateLeft 1
  let t := (List.range 25).map fun i => kLane a i (i / 5) ^^^ d.getD (i % 5) 0#64
  let b := (List.range 25).map fun i =>
    let x := (i % 5 + 3 * (i / 5)) % 5
    let y := i % 5
    (kLane t x y).rotateLeft (keccakTurns.getD (x + 5 * y) 0)
  (List.range 25).map fun i =>
    let x := i % 5
    let y := i / 5
    let v := kLane b x y ^^^ (~~~(kLane b (x + 1) y) &&& kLane b (x + 2) y)
    if i = 0 then v ^^^ rc else v

def keccakF (a : List DWord) : List DWord := keccakRounds.foldl (fun a rc => keccakRound rc a) a

/-- The little-endian doublewords of a block. -/
def lanesOfBytes (bs : List Byte) : List DWord :=
  (List.range 9).map fun i =>
    (List.range 8).foldl (fun v j => v ||| ((bs.getD (8 * i + j) 0#8).setWidth 64 <<< (8 * j))) 0#64

/-- Absorb blocks of 72 bytes; `n` is their number. -/
def absorb : Nat → List DWord → List Byte → List DWord
  | 0, a, _ => a
  | n + 1, a, bs =>
    let m := lanesOfBytes (bs.take 72)
    absorb n (keccakF ((List.range 25).map fun i => a.getD i 0#64 ^^^ m.getD i 0#64)) (bs.drop 72)

/-- SHA3-512 of bytes, with byte 0 of the digest lowest. -/
def sha3 (bs : List Byte) : BitVec 512 :=
  let n := bs.length / 72 + 1
  let fill := 72 * n - bs.length
  let pad : List Byte :=
    if fill = 1 then [0x86#8] else 0x06#8 :: (List.replicate (fill - 2) 0#8 ++ [0x80#8])
  let a := absorb n (List.replicate 25 0#64) (bs ++ pad)
  (List.range 8).foldl (fun v i => v ||| ((a.getD i 0#64).setWidth 512 <<< (64 * i))) 0#512

/-- The 64 bytes of a digest. -/
def digestBytes (d : BitVec 512) : List Byte := (List.range 64).map fun i => d.extractLsb' (8 * i) 8

end Sys2Proof.Machine
end

