-- ==== Sys2Proof/Machine/Queue.lean ====
section
/-! DEFINITION. Runs: starting a run, serving its nodes, distributing kernel nodes, and the ends of nodes, runs and copies
(R26 to R30, R117 to R131, R298 to R301, R404 to R410, R441, R443). -/

namespace Sys2Proof.Machine

/-! ### Nodes of a run -/

def State.runNode (s : State) (q i : Nat) : Option (Run × RunNode) :=
  (s.activeRun q).bind fun r => (r.nodes[i]?).map fun n => (r, n)
def State.setNode (s : State) (q i : Nat) (f : RunNode → RunNode) : State :=
  match s.activeRun q with
  | none => s
  | some r => s.putRun { r with nodes := r.nodes.modify i f }
def State.setNodeSt (s : State) (q i : Nat) (st : NodeState) : State := s.setNode q i fun n => { n with st := st }

/-- A node that has started and not completed. -/
def RunNode.inProgress (n : RunNode) : Bool := !(n.st == .blocked || n.st == .ready || n.st == .done)

/-! ### Accesses to run-time targets (R441, R443) -/

/-- The physical address of a target in a partition, or the fault service's status. -/
def State.fePage (s : State) (part va : Nat) (need : Need) : Except Nat Nat :=
  if 2 ^ 57 ≤ va ∨ (s.part part).st = .unconfigured then .error 1 else
  match s.walk part va with
  | .fault _ => .error 1
  | .ok x => if x.allows need && (s.part part).assigned x then .ok (x.phys va) else .error 2

/-- A write, an addition or an OR at a bank ALU (R27); another code changes nothing. -/
def FeAccess.apply (a : FeAccess) (s : State) (pa : Nat) : State :=
  let old := memNat s.mem pa 8
  if a.op = 0 then s.writePhys pa (natBytes 8 a.val.toNat)
  else if a.op = 1 then s.writePhys pa (natBytes 8 (old + a.val.toNat))
  else if a.op = 2 then s.writePhys pa (natBytes 8 (old ||| a.val.toNat))
  else s

/-- Make an access now; none where it must wait for the fault service. -/
def State.feMake (s : State) (a : FeAccess) : Option State :=
  match s.fePage a.part a.va .write with
  | .ok pa => some (a.apply s pa)
  | .error _ => none
/-- DEDUCED, unsafe: log entry 58. -/
def State.feWait (s : State) (a : FeAccess) : State := { s with fe := { s.fe with accesses := s.fe.accesses ++ [a] } }

/-- The error record of an access that failed (R407). -/
def FeAccess.record (a : FeAccess) (node seq status : Nat) : List DWord :=
  errorHead 4 status a.qidx a.gid node a.runid (BitVec.ofNat 32 seq) ++ [BitVec.ofNat 64 a.va]

/-! ### The end of a run (R123, R405, R409) -/

/-- R405. -/
def Run.doneWord (r : Run) : DWord :=
  BitVec.ofNat 64 (r.runid.toNat + 2 ^ 32 * r.code + 2 ^ 40 * r.failNode + (if r.kill then 2 ^ 62 else 0) + 2 ^ 63)

/-- The run is over: its end record, HEAD and RUNSDONE. -/
def State.finishRun (s : State) (r : Run) : State :=
  let s1 := match r.capture with
    | none => s
    | some _ => s.capture r.qidx r.runid 4 r.doneWord (BitVec.ofNat 64 r.lost) []
  let s2 := { s1 with fe := { s1.fe with runs := s1.fe.runs.filter fun x => !(x.qidx == r.qidx && x.runid == r.runid) } }
  match s2.qsb r.qidx with
  | none => s2
  | some b => ((s2.feAdd (b.addr + 0x18) 1).feAdd (b.addr + 0x28) 1).refresh r.qidx

/-- The run ends when every node is done, or, once a code has ended it, when none is in progress (R30, R123). -/
def State.tryEnd (s : State) (q : Nat) : State :=
  match s.activeRun q with
  | none => s
  | some r =>
    let ended := if r.code = 0 then r.nodes.all (fun n => n.st == .done) else !r.nodes.any RunNode.inProgress
    if !ended || s.fe.accesses.any (fun a => a.qidx == q && a.target == .donePost) then s
    else if r.doneVA = 0 then s.finishRun r
    else
      let a : FeAccess := ⟨q, r.gid, r.runid, .donePost, r.home, r.doneVA, r.doneWord, 0⟩
      match s.feMake a with
      | some s1 => s1.finishRun r
      | none => s.feWait a

/-- NODE_COMPLETE: successors lose a predecessor, and those without one become ready (R123). -/
def State.nodeDone (s : State) (q i : Nat) : State :=
  match s.runNode q i with
  | none => s
  | some (r, n) =>
    let less (ns : List RunNode) (j : Nat) : List RunNode := ns.modify j fun m =>
      { m with left := m.left - 1, st := if m.st = .blocked ∧ m.left ≤ 1 then .ready else m.st }
    let nodes := n.succs.foldl less (r.nodes.modify i fun m => { m with st := .done })
    (s.putRun { r with nodes := nodes }).tryEnd q

/-- A run ended early by a code at a node; a first code stays. -/
def State.failRun (s : State) (q i code : Nat) : State :=
  match s.activeRun q with
  | none => s
  | some r =>
    let r1 := if r.code = 0 then { r with code := code, failNode := i } else r
    (s.putRun { r1 with nodes := r1.nodes.modify i fun n => { n with st := .done } }).tryEnd q

/-! ### Releases of nodes (R20, R28, R355) -/

def RunNode.rel (n : RunNode) : Bool := if n.kind = 0 then lrRel n.body else fieldAt n.body 3 18 1 == 1
def RunNode.soid (n : RunNode) : Nat := if n.kind = 0 then lrSoid n.body else fieldAt n.body 3 0 12
def RunNode.obs (n : RunNode) : BitVec 5 := if n.kind = 0 then lrObs n.body else BitVec.ofNat 5 (fieldAt n.body 3 12 5)
def RunNode.acq (n : RunNode) : Bool := if n.kind = 0 then lrAcq n.body else fieldAt n.body 3 17 1 == 1

/-- The front-end core that serves runs: the master's, of die 0 (R114, R123). -/
def masterParty : Party := frontEndParty 0

/-- The acquire of a node, if it has one, on behalf of its observer mask: of a kernel node before its first bind record, of a wait
node when its condition holds (R19, R28, R352). -/
def State.nodeAcquire (s : State) (r : Run) (n : RunNode) : State :=
  if n.acq then s.acquireFor masterParty.at_ r.home n.soid n.obs else s
/-- The release of a node on behalf of its observer mask (R20, R28, R352). -/
def State.nodePublish (s : State) (r : Run) (n : RunNode) : State := s.releaseBy masterParty r.home n.soid n.obs

/-- What a node does after its release: COMPLVA of a kernel node (R404), the operation of a signal node (R28). -/
def State.afterRelease (s : State) (q i : Nat) : State :=
  match s.runNode q i with
  | none => s
  | some (r, n) =>
    let post (a : FeAccess) : State :=
      match s.feMake a with
      | some s1 => s1.nodeDone q i
      | none => (s.setNodeSt q i .running).feWait a
    if n.kind = 0 then
      let va := lrComplVa n.body
      let w := BitVec.ofNat 64 (n.seq.toNat + 2 ^ 32 * min n.killed (2 ^ 24 - 1) + 2 ^ 63)
      if va = 0 then s.nodeDone q i else post ⟨q, r.gid, r.runid, .complva i, r.home, va, w, 0⟩
    else post ⟨q, r.gid, r.runid, .signal i, r.home, dwAt n.body 0, BitVec.ofNat 64 (dwAt n.body 1), fieldAt n.body 2 0 2⟩

/-- The release of a node, if it has one, at once or in its turn; then what follows it. -/
def State.nodeRelease (s : State) (q i : Nat) : State :=
  match s.runNode q i with
  | none => s
  | some (r, n) =>
    if !n.rel || (s.part r.home).st == .unconfigured then s.afterRelease q i else
    let x := s.takeSeq r.home n.soid
    match x.1 with
    | none => (s.nodePublish r n).afterRelease q i
    | some k =>
      if (s.rbEntry r.home n.soid).rels = k then (x.2.nodePublish r n).afterRelease q i
      else x.2.setNodeSt q i (.syncing k)

/-- The turn of a node's ordered release. -/
def State.nodeTurn (s : State) (q i : Nat) : State :=
  match s.runNode q i with
  | some (r, n) => match n.st with
    | .syncing k =>
      if (s.rbEntry r.home n.soid).rels = k then ((s.nodePublish r n).afterRelease q i).refresh q else s
    | _ => s
  | none => s

/-! ### Wait nodes (R27, R123, R124) -/

/-- DEDUCED, unsafe: log entry 32. -/
def waitHolds (cond word val : Nat) : Bool :=
  if cond = 0 then word == val else if cond = 1 then word != val else if cond = 2 then decide (val ≤ word)
  else if cond = 3 then word &&& val == val else false

/-- The watches in use of a die's 64 (R123): nodes of the master's runs that hold one, but for node `i` of queue `q`. -/
def State.watchesUsed (s : State) (q i : Nat) : Nat :=
  s.fe.runs.foldl (fun n r => (r.nodes.zipIdx).foldl (fun n x => match x.1.st with
    | .watching _ (some _) => if r.qidx = q ∧ x.2 = i then n else n + 1
    | _ => n) n) 0

/-- Read SIGVA: the node completes with its acquire, or watches the word, or waits for its page. -/
def State.readWait (s : State) (q i : Nat) : State :=
  match s.runNode q i with
  | none => s
  | some (r, n) =>
    match s.fePage r.home (dwAt n.body 0) .read with
    | .error _ => s.setNodeSt q i (.noPage s.now false none)
    | .ok pa =>
      let word := memNat s.mem pa 8
      if waitHolds (fieldAt n.body 2 0 3) word (dwAt n.body 1) then (s.nodeAcquire r n).nodeDone q i
      else s.setNodeSt q i (.watching s.now (if s.watchesUsed q i < 64 then some word else none))

/-- The cycles between two reads of a word without a watch (R123). -/
def rereadCycles : Nat := 2250

/-- Is a wait node due to read its word again: with a watch, when the word has been written to another value, or its page is gone;
without one, every 2,250 cycles (R123). -/
def State.rereadDue (s : State) (r : Run) (n : RunNode) : Bool :=
  match n.st with
  | .watching _ (some old) => (match s.fePage r.home (dwAt n.body 0) .read with
    | .ok pa => memNat s.mem pa 8 != old
    | .error _ => true)
  | .watching since none => decide (since + rereadCycles ≤ s.now)
  | _ => false

/-- A wait node whose read the fault service refused (R443). -/
def State.waitFails (s : State) (q i status : Nat) : State :=
  match s.runNode q i with
  | none => s
  | some (r, n) =>
    let a : FeAccess := ⟨q, r.gid, r.runid, .signal i, r.home, dwAt n.body 0, 0#64, 0⟩
    (s.errorRecord (a.record i 0 status)).failRun q i 0x33

/-! ### Copies of the front end (R27, R114) -/

/-- The copy control block of a copy node's body or a COPY command. Bits [63:57] of SRCVA and DSTVA, for which the tables give no
width, are left out: DESIGN CHOICE, unsafe: log entry 80. -/
def feCcb (src dst bytes sync : Nat) : List DWord :=
  [BitVec.ofNat 64 (bitsOf src 0 57), BitVec.ofNat 64 (bitsOf dst 0 57), BitVec.ofNat 64 (bitsOf bytes 0 40), 0#64, 0#64, 0#64, 0#64,
   BitVec.ofNat 64 (bitsOf sync 0 17 + (if bitsOf sync 17 2 = 0 then 0 else 2 ^ 17))]

/-- A copy to a copy engine of die 0. -/
def State.feCopyStart (s : State) (owner : CopyOwner) (part : Nat) (src dst bytes sync : Nat) : State :=
  let rel := bitsOf sync 18 1 == 1
  let x := if rel then s.takeSeq part (bitsOf sync 0 12) else (none, s)
  let cp : Copy :=
    { cid := s.fresh, owner := owner, gang := none, core := 0, part := part, kind := 0, ccb := feCcb src dst bytes sync,
      acq := bitsOf sync 17 1 == 1, rel := rel, relSeq := x.1, acquired := false, done := [], failed := false,
      cancelled := false, stopped := false, lowest := false, released := false, fault := none }
  { x.2 with copies := x.2.copies ++ [cp], fresh := s.fresh + 1 }

/-! ### Distribution (R125, R126) -/

/-- The eligible dies of a mask, in increasing number. -/
def State.eligibleDies (s : State) (mask : Nat) : List Nat :=
  (List.range 4).filter fun d => [2 * d, 2 * d + 1].any fun p => bitsOf mask p 1 == 1 && (s.part p).st == .running

/-- The ranges of a node over the dies: die, first and end. -/
def dieRanges (total unit : Nat) (dies : List Nat) : List (Nat × Nat × Nat) :=
  let n := total / unit
  let d := dies.length
  let start (i : Nat) : Nat := (i * (n / d) + min i (n % d)) * unit
  ((dies.zipIdx).map fun x => (x.1, start x.2, start (x.2 + 1))).filter fun x => x.2.1 != x.2.2

/-- The distribution unit. -/
def lrUnit (r : List DWord) : Nat := match lrHighest r [3, 4, 5] with
  | some k => lrInstance r k
  | none => 1

/-- Sequence numbers still in use. -/
def State.liveSeqs (s : State) : List Nat :=
  ((List.finRange 256).filterMap fun i => let e := s.fe.lst.get i; if e.st = 0 then none else some e.seq.toNat)
    ++ s.teams.map (fun t => t.info.seq) ++ s.items.map (fun i => i.seq)
    ++ s.steals.flatMap fun r => r.items.map fun i => i.seq

/-- A bind record with its launch record, ticket counter and count at addresses of the die's own, which no rule gives (R126):
LRVA, TICKVA and DONEVA are free values. DESIGN CHOICE, safe: log entry 83. -/
def State.bindEntry (s : State) (die i : Nat) (e : LstEntry) : State :=
  let at_ (k : Nat) : VAddr := Config.bindPlace s.draws k
  { s.putEntry die i { e with lrVA := at_ 0, tickVA := at_ 1, doneVA := at_ 2 } with draws := s.draws + 1 }

/-- The 64 bytes of a bind record (R126). -/
def LstEntry.image (e : LstEntry) : List Byte :=
  natBytes 8 (e.st % 4 + 2 ^ 2 * (e.prio % 8) + 2 ^ 8 * (e.clmask % 4) + 2 ^ 32 * e.seq.toNat) ++ natBytes 8 e.lrVA.toNat
    ++ natBytes 8 e.tfirst ++ natBytes 8 e.tend ++ natBytes 8 e.tickVA.toNat ++ natBytes 8 e.doneVA.toNat
    ++ natBytes 8 (e.runid.toNat + 2 ^ 32 * (e.node % 2 ^ 16) + 2 ^ 48 * (e.qidx % 2 ^ 12)) ++ natBytes 8 0

def State.freeEntry (s : State) (die : Nat) : Option Nat := (List.range 64).find? fun i => (s.entry die i).st == 0

/-- KERNEL_NODE_DISTRIBUTE: the bind records of a node, or nothing. -/
def State.distribute (s : State) (q i : Nat) (b : Qsb) : State :=
  match s.runNode q i with
  | none => s
  | some (r, n) =>
    let seq := s.fe.nextSeq
    let ranges := dieRanges (lrTeams n.body) (lrUnit n.body) (s.eligibleDies b.mask)
    let old := s.liveSeqs.any fun a => decide (2 ^ 31 ≤ (seq.toNat + 2 ^ 32 - a) % 2 ^ 32)
    if ranges.isEmpty || old || ranges.any (fun x => (s.freeEntry x.1).isNone) then s else
    let bind (s : State) (x : Nat × Nat × Nat) : State :=
      match s.freeEntry x.1 with
      | none => s
      | some k => s.bindEntry x.1 k
          { LstEntry.free with
            st := 1, prio := b.prio, clmask := bitsOf b.mask (2 * x.1) 2, seq := seq, record := n.body, params := r.params,
            tfirst := x.2.1, tend := x.2.2, ticket := x.2.1, done := 0, killed := 0, runid := r.runid, node := i, qidx := q,
            gid := r.gid }
    let s0 := s.nodeAcquire r n
    let s1 := ranges.foldl bind { s0 with fe := { s0.fe with nextSeq := seq + 1#32 } }
    s1.setNode q i fun n => { n with st := .running, seq := seq, total := lrTeams n.body }

/-- One range of a node, distributed again over the eligible dies under its SEQ (R125, R400); none where a die has no
free entry. DEDUCED, unsafe: log entry 63. -/
def State.placeRange (s : State) (e : LstEntry) : Option State :=
  match s.qsb e.qidx with
  | none => none
  | some b =>
    let ranges := dieRanges (e.tend - e.tfirst) (lrUnit e.record) (s.eligibleDies b.mask)
    if ranges.isEmpty then none else
    ranges.foldl (fun (o : Option State) x => o.bind fun s => (s.freeEntry x.1).map fun k =>
      s.bindEntry x.1 k
        { e with st := 1, prio := b.prio, clmask := bitsOf b.mask (2 * x.1) 2, tfirst := e.tfirst + x.2.1,
                 tend := e.tfirst + x.2.2, ticket := e.tfirst + x.2.1, done := 0, killed := 0 }) (some s)

/-- The ranges that can be placed now. -/
def State.placeRanges (s : State) : State :=
  s.fe.ranges.foldl (fun s e => match s.placeRange e with
    | some s1 => { s1 with fe := { s1.fe with ranges := s1.fe.ranges.erase e } }
    | none => s) s

/-! ### Serving ready nodes (R123) -/

def State.serveNode (s : State) (q : Nat) (b : Qsb) (i : Nat) : State :=
  match s.runNode q i with
  | none => s
  | some (r, n) =>
    if r.code ≠ 0 ∨ n.st ≠ .ready then s
    else if n.kind = 0 then s.distribute q i b
    else if n.kind = 1 then
      (s.setNodeSt q i .running).feCopyStart (.node q i) r.home (dwAt n.body 0) (dwAt n.body 1) (dwAt n.body 2) (dwAt n.body 3)
    else if n.kind = 2 then s.readWait q i
    else s.nodeRelease q i

/-- Passes over the nodes in increasing index, so that nodes which become ready are served too. -/
def State.serveReady (s : State) (q : Nat) (b : Qsb) : Nat → State
  | 0 => s
  | k + 1 =>
    let n := match s.activeRun q with
      | some r => r.nodes.length
      | none => 0
    State.serveReady ((List.range n).foldl (fun s i => s.serveNode q b i) s) q b k

/-! ### Starting a run (R29, R117, R118, R123) -/

def setSlot (ps : List DWord) (i : Nat) (v : Nat) : List DWord := ps.set i (BitVec.ofNat 64 v)

/-- The entries of a long patch list, from its `k`-th on. -/
def State.longPatches (s : State) (nparam a : Nat) : Nat → Nat → List DWord → Except Nat (List DWord)
  | 0, _, ps => .ok ps
  | n + 1, k, ps =>
    let ix := s.feNat (a + 8 + 16 * k) 8
    if 128 ≤ ix then .error 0x32
    else if nparam ≤ ix then .error 0x31
    else State.longPatches s nparam a n (k + 1) (setSlot ps ix (s.feNat (a + 16 + 16 * k) 8))

/-- The parameter copy of a trigger, with the address and count of its patch list, or the code of R123.
DEDUCED, unsafe: log entry 35. -/
def State.triggerParams (s : State) (g : Graph) (t : List DWord) : Except Nat (List DWord × Nat × Nat) :=
  let pcnt := fieldAt t 0 12 3
  let idx (j : Nat) : Nat := fieldAt t 0 (15 + 7 * j) 7
  let long := pcnt == 7 && idx 6 == 0x7F
  let inline := List.range (if long then 6 else pcnt)
  if (List.range 7).any (fun j => decide (pcnt ≤ j) && idx j != 0) || inline.any (fun j => decide (g.nparam ≤ idx j)) then .error 0x31
  else
    let ps0 := (List.range g.nparam).map fun i => BitVec.ofNat 64 (s.feNat (g.paramVA + 8 * i) 8)
    let ps := inline.foldl (fun ps j => setSlot ps (idx j) (dwAt t (j + 1))) ps0
    if !long then .ok (ps, 0, 0) else
    let a := dwAt t 7
    let n := s.feNat a 8
    if a % 8 ≠ 0 ∨ n = 0 ∨ 128 < n then .error 0x32 else
    match s.longPatches g.nparam a n 0 ps with
    | .ok ps1 => .ok (ps1, a, n)
    | .error e => .error e

/-- The nodes of a run after substitution. -/
def State.runNodes (s : State) (g : Graph) (ps : List DWord) : List RunNode :=
  (List.range g.nnode).map fun i =>
    let body := (s.nodeSubs g i).foldl (fun b x => b.set x.1 (ps.getD x.2 0#64)) (s.nodeBody g i)
    { kind := s.nodeKind g i, body := body, succs := s.nodeSuccs g i, left := s.nodePreds g i,
      st := if s.nodePreds g i = 0 then .ready else .blocked, seq := 0#32, total := 0, reported := 0, killed := 0 }

/-- The capture table entry of a queue (R416): its address. -/
def State.captureEntry (s : State) (part q : Nat) : Option Nat :=
  let a := (s.part part).capPA
  if a = 0 then none else
  ((List.range (min 64 (s.feNat a 8))).map fun i => a + 8 + 144 * i).find? fun e => s.feNat e 2 % 4096 == q

/-- The bytes of a captured range, in the home partition; a byte that can not be read counts as zero.
DEDUCED, unsafe: log entry 36. -/
def State.rangeBytes (s : State) (part va n : Nat) : List Byte :=
  (List.range n).map fun i => match s.fePage part (va + i) .read with
    | .ok pa => memGet s.mem pa
    | .error _ => 0#8

/-- The run start record (R409). -/
def State.captureStart (s : State) (r : Run) (e : Nat) (t : List DWord) (list n : Nat) : State :=
  let image (ds : List DWord) : List Byte := ds.flatMap fun d => natBytes 8 d.toNat
  let ranges := (List.range 8).filterMap fun k =>
    let va := s.feNat (e + 0x10 + 16 * k) 8
    let len := s.feNat (e + 0x18 + 16 * k) 8
    if len = 0 then none else some (digestBytes (sha3 (s.rangeBytes r.home va len)))
  s.capture r.qidx r.runid 1 (BitVec.ofNat 64 r.params.length) (BitVec.ofNat 64 n)
    (image t ++ memBytes s.mem (list + 8) (16 * n) ++ digestBytes (sha3 (image r.params)) ++ ranges.flatMap id)

/-- The first kernel node that fails its check after substitution (R30). -/
def State.runBad (s : State) (r : Run) : Option (Nat × Nat) :=
  (r.nodes.zipIdx).findSome? fun x =>
    if x.1.kind = 0 then (s.recordBad x.1.body r.params.length).map fun c => (c, x.2) else none

/-- The GID of a stored trigger. -/
def State.trigGid (s : State) (q n : Nat) : Option Nat := (s.qsb q).map fun b => bitsOf (s.feNat (b.slot n) 8) 0 12

/-- A trigger of the same graph, in another queue, that was stored before a queue's oldest one and has started no run: its run
goes first (R29). -/
def State.earlierTrigger (s : State) (q n gid : Nat) : Bool :=
  s.fe.trigs.contains (q, n) && (s.fe.trigs.takeWhile fun t => t != (q, n)).any fun t => s.trigGid t.1 t.2 == some gid

/-- RUN_START of the oldest trigger, unless its graph is busy or has an earlier trigger, or its capture buffer is short of room. -/
def State.startRun (s : State) (q : Nat) (b : Qsb) : State :=
  let t := (List.range 8).map fun i => BitVec.ofNat 64 (s.feNat (b.slot b.head + 8 * i) 8)
  let gid := fieldAt t 0 0 12
  let blank : Run :=
    { qidx := q, gid := gid, runid := BitVec.ofNat 32 b.head, home := b.home, doneVA := 0, params := [], nodes := [], code := 0,
      failNode := 0, kill := false, capture := none, lost := 0 }
  let refuse (s : State) (r : Run) (code : Nat) : State :=
    let s1 := s.errorRecord (errorHead 3 code q gid 0 r.runid 0#32)
    ({ s1 with fe := { s1.fe with runs := s1.fe.runs ++ [{ r with code := code }] } } : State).tryEnd q
  if s.fe.runs.any (fun r => r.gid == gid) || s.earlierTrigger q b.head gid then s else
  let s0 := s
  let s := s.forgetTriggers q fun n => n != b.head
  match s.fe.graphs.find? fun g => g.gid == gid with
  | none => refuse s blank 0x30
  | some g =>
    match s.triggerParams g t with
    | .error c => refuse s { blank with doneVA := g.doneVA } c
    | .ok (ps, list, n) =>
      let e := s.captureEntry b.home q
      let buf := e.map fun a => let w := s.feNat (a + 8) 8; (bitsOf w 6 46 * 64, 2 ^ (w % 16) * 1024)
      if buf.any (fun x => decide (s.captureFree b.home x.1 x.2 < 4096)) = true then s0 else
      let r := { blank with doneVA := g.doneVA, params := ps, nodes := s.runNodes g ps, capture := buf }
      let s1 : State := { s with fe := { s.fe with runs := s.fe.runs ++ [r] } }
      let s2 := match e with
        | some a => s1.captureStart r a t list n
        | none => s1
      match s2.runBad r with
      | none => s2
      | some (c, i) => (s2.errorRecord (errorHead 2 c q gid i r.runid 0#32)).failRun q i c

/-! ### QUEUE_SERVICE and WAIT_NODE_REREAD -/

def State.queueOf (s : State) (a : Nat) : Option Nat := (List.range 4096).find? fun q => bitsOf (s.qtabEntry q) 0 57 == a

/-- QUEUE_SERVICE of the next QSB that the walker has handed over. -/
def execQueueService (s : State) : Out :=
  match s.fe.handed with
  | [] => .next s
  | a :: rest =>
    if !s.dieUp then .next s else
    let s0 := ({ s with fe := { s.fe with handed := rest } } : State).placeRanges
    match s0.queueOf a with
    | none => .next s0
    | some q =>
      let b := s0.qsbAt a
      let s1 := if (s0.activeRun q).isNone && b.stored != 0 && s0.fe.wait != some (.qdestroy q) then s0.startRun q b else s0
      let n := match s1.activeRun q with
        | some r => r.nodes.length
        | none => 0
      .next ((s1.serveReady q b (n + 1)).refresh q)

/-- WAIT_NODE_REREAD of node `team` of the run of queue `item`. -/
def execWaitNodeReread (s : State) : Out :=
  if !s.dieUp then .next s else
  match s.runNode s.arg.item s.arg.team with
  | some (r, n) => if s.rereadDue r n then .next ((s.readWait s.arg.item s.arg.team).refresh s.arg.item) else .next s
  | none => .next s

/-! ### Parking (R124) -/

/-- A QPRIO is moving a queue from one list to another. -/
def State.relinking (s : State) (q : Nat) : Bool :=
  match s.fe.wait with
  | some (.relink n _) => n == q
  | _ => false

/-- QUEUE_PARK: the page is still missing after SWAPTH cycles. -/
def execQueuePark (s : State) : Out :=
  let q := s.arg.item
  if !s.dieUp then .next s else
  match s.qsb q, s.runNode q s.arg.team with
  | some b, some (_, n) => match n.st with
    | .noPage since false a =>
      if s.now < since + s.swapTh b.prio then .next s
      else .next ((((s.unlink b.addr b.prio).setNodeSt q s.arg.team (.noPage since true a))).refresh q)
    | _ => .next s
  | _, _ => .next s

/-- A queue that goes back to its list: no wait node of it is parked any more. One that is answered reads its word or fails; one
that still waits has its threshold before it. DEDUCED, unsafe: log entry 84. -/
def State.unparkNodes (s : State) (q : Nat) : State :=
  let n := match s.activeRun q with
    | some r => r.nodes.length
    | none => 0
  (List.range n).foldl (fun s i =>
    match s.runNode q i with
    | some (_, n) => (match n.st with
      | .noPage _ true none => s.setNodeSt q i (.noPage s.now false none)
      | .noPage _ true (some a) =>
        let s1 := s.setNodeSt q i (.noPage s.now false none)
        if a = 0 then s1.readWait q i else s1.waitFails q i a
      | _ => s)
    | none => s) s

/-- QUEUE_UNPARK: the fault service has answered; the QSB goes back to its list, unless a QPRIO is moving it, and SIGVA is read
again. -/
def execQueueUnpark (s : State) : Out :=
  let q := s.arg.item
  if !s.dieUp then .next s else
  match s.qsb q, s.runNode q s.arg.team with
  | some b, some (_, n) => match n.st with
    | .noPage _ true (some _) =>
      if !s.mayLink b.addr || s.relinking q then .next s else
      .next (((s.link b.addr b.prio).unparkNodes q).refresh q)
    | _ => .next s
  | _, _ => .next s

/-! ### Counts of kernel nodes (R127, R128) -/

/-- A drained entry's count sent to the master; the entry is reported (R127, R128). -/
def State.report (s : State) (die i : Nat) : State :=
  let e := s.entry die i
  let s1 := s.putEntry die i { e with st := 3 }
  match s1.run e.qidx e.runid with
  | none => s1
  | some r => s1.putRun { r with nodes := r.nodes.modify e.node fun n =>
      { n with reported := n.reported + e.done, killed := n.killed + e.killed } }

/-- LST_REPORT of entry `item` of die `die`: a drained entry is reported, and a reported one is cleared by the master's
acknowledgement (R127). -/
def execLstReport (s : State) : Out :=
  let e := s.entry s.arg.die s.arg.item
  if !s.dieUp then .next s
  else if e.st = 2 ∧ e.done = e.tend - e.tfirst then .next (s.report s.arg.die s.arg.item)
  else if e.st = 3 then .next (s.putEntry s.arg.die s.arg.item LstEntry.free).placeRanges
  else .next s

/-- KERNEL_NODE_COMPLETE of node `team` of the run of queue `item`. -/
def execKernelNodeComplete (s : State) : Out :=
  let q := s.arg.item
  if !s.dieUp then .next s else
  match s.runNode q s.arg.team with
  | some (_, n) =>
    let waits := s.fe.accesses.any fun a => a.qidx == q && a.target == .complva s.arg.team
    if n.kind = 0 ∧ n.st = .running ∧ n.reported = n.total ∧ !waits then .next ((s.nodeRelease q s.arg.team).refresh q) else .next s
  | none => .next s

/-! ### COPY and COPY_COMPLETE -/

/-- COPY: CPART, or the copy, whose end writes the status. -/
def execCopy (s : State) : Out :=
  feSimple 9 s <|
    let p := s.cmdDw 5
    if (s.part p).st = .unconfigured then Cmd.done s 0x43 0 else
    let s1 := s.feCopyStart .command p (s.cmdDw 1) (s.cmdDw 2) (s.cmdDw 3) (s.cmdDw 4)
    .next { s1 with fe := { s1.fe with wait := some .copy } }

/-- Where a copy's end is told (R28, R114, R296). DEDUCED, unsafe: log entry 33. -/
def State.tellCopy (s : State) (x : Copy) : State :=
  match x.owner with
  | .handle _ gid h tag => s.endHandle gid h 1 tag x.failed
  | .node q i => (s.nodeDone q i).refresh q
  | .command => s.endCommand 0 0 none

/-- COPY_COMPLETE of copy `item`: the contributions left of a copy that stops, the release in its turn, then the end. -/
def execCopyComplete (s : State) : Out :=
  if !s.dieUp then .next s else
  match s.copy s.arg.item with
  | none => .next s
  | some x =>
    if x.stopped || !(x.finished || x.failed || x.cancelled) then .next s else
    let a := s.settleCopy x
    let r := a.1.releaseCopy a.2
    if x.rel && !r.2.released then .next (r.1.putCopy r.2) else
    .next (({ r.1 with copies := r.1.copies.filter fun y => y.cid != x.cid } : State).tellCopy r.2)

end Sys2Proof.Machine
end

