-- ==== Sys2Proof/Machine/Resample.lean ====
section
/-! DEFINITION. RNGSEED (R203), and RSMP with its population object (R88, R246 to R249). -/

namespace Sys2Proof.Machine

/-- RNGSEED: the key from an s-register pair, the counter at zero, and a capture record of kind 2 (R409). -/
def execRngseed (f : FormAB) (s : State) : Out :=
  word (.rngseed f) s fun c =>
    let key : DWord := c.g.getS f.b ++ c.g.getS f.a
    let s1 := s.capture c.t.info.qidx (BitVec.ofNat 32 c.t.info.runid) 2 (BitVec.ofNat 64 c.t.info.t)
      (BitVec.ofNat 64 (c.g.idx + 2 ^ 8 * c.g.slot)) (natBytes 8 key.toNat)
    finish s1 c { c.g with rngKey := key, rngCtr := 0#64 }

/-! ### The population object (R246) -/

structure PopObj where
  m : Nat
  n : Nat
  seed : DWord
  round : Nat
  ks : Nat
  free : Bool
  entry : Nat
  wbuf : Nat
  arrived : Nat
  done : Nat
  wtot : Nat
deriving DecidableEq, Repr

/-- The fields of an object's 64 bytes. -/
def popObj (bs : List Byte) : PopObj :=
  let at_ (o n : Nat) : Nat := bytesNat ((bs.drop o).take n)
  { m := at_ 0 4, n := at_ 4 4, seed := BitVec.ofNat 64 (at_ 8 8), round := at_ 0x10 4, ks := bitsOf (at_ 0x14 4) 0 4,
    free := bitsOf (at_ 0x14 4) 4 1 == 1, entry := at_ 0x18 4, wbuf := bitsOf (at_ 0x20 8) 0 57, arrived := at_ 0x28 4,
    done := at_ 0x2C 4, wtot := at_ 0x30 8 }

/-- The object at an address, read at its home slice; the address is translated at each use, so that no phase rests on a
translation that has been invalidated since (R270). -/
def State.popAt (s : State) (core part va : Nat) : PopObj :=
  match s.bytesAt core part none va 64 with
  | .ok bs => popObj bs
  | .error _ => popObj []

/-- Bytes of an object or of its entries written at their homes, at the translations that the step's checks saw in `s0`, and
no copy left in the core's L1. -/
def State.popPut (s s0 : State) (core part va : Nat) (bs : List Byte) : State :=
  (s.passBytes core part va bs.length).putAt s0 core part va bs

/-- Two addresses name the same object where they have one physical address. -/
def State.sameObject (s : State) (core part va core' part' va' : Nat) : Bool :=
  (part == part' && va == va') || (match s.xlate core part va, s.xlate core' part' va' with
    | .ok x, .ok y => x.phys va == y.phys va'
    | _, _ => false)

/-- Entry `i` of WBUF. -/
def PopObj.slot (o : PopObj) (i : Nat) : Nat := o.wbuf + 16 * i

/-- A number in an entry; 0 where it can not be read. -/
def State.popNat (s : State) (core part va n : Nat) : Nat :=
  match s.bytesAt core part none va n with
  | .ok bs => bytesNat bs
  | .error _ => 0

def State.slotArr (s : State) (core part : Nat) (o : PopObj) (i : Nat) : Bool := s.popNat core part (o.slot i + 4) 1 % 2 == 1

/-- The bank ALU's writes to the object at its slice. -/
def State.setCounts (s s0 : State) (core part va arrived done : Nat) : State :=
  s.popPut s0 core part (va + 0x28) (natBytes 4 arrived ++ natBytes 4 done)

/-! ### Phase 1: arrival -/

/-- R88: the weight of an interval, as FP32 bits, with INV where it counts as zero by R88. -/
def popWeight (v : DWord) : Nat × Flags :=
  match itvMid (readF32 v).1 with
  | none => (0, fINV)
  | some d => if d.m < 0 then (0, fINV) else ((bdBits fmtF32 .down (.fin d)).1, (readF32 v).2)

/-- The traps of a member: its slot, then its entry's reach. -/
def State.memberTrap (s : State) (c : Ctx) (o : PopObj) (slots : List (Lane × Nat)) (x : Lane × Nat) : Option TrapRec :=
  let bad : TrapRec := ⟨causePoolx, some x.1, 2#16, 0#64⟩
  if o.m ≤ x.2 ∨ slots.any (fun y => y.2 == x.2 && decide (y.1 < x.1)) = true then some bad else
  match s.bytesAt c.t.core c.part (some x.1) (o.slot x.2) 16 with
  | .error t => some t
  | .ok bs =>
    if (bytesNat (bs.drop 4)) % 2 = 1 then some bad
    else (s.canWrite c.t.core c.part (o.slot x.2) 16).map fun t => { t with lane := some x.1 }

/-- The first fault of the entries that phase 2 will touch. -/
def State.prefixTrap (s : State) (c : Ctx) (o : PopObj) : Option TrapRec :=
  (List.range o.m).findSome? fun i =>
    match s.bytesAt c.t.core c.part none (o.slot i) 16 with
    | .error t => some t
    | .ok _ => s.canWrite c.t.core c.part (o.slot i) 16

/-- One member's entry written. -/
def State.arriveSlot (s s0 : State) (c : Ctx) (o : PopObj) (i w : Nat) : State :=
  let flags := s.popNat c.t.core c.part (o.slot i + 4) 1
  s.popPut s0 c.t.core c.part (o.slot i) (natBytes 4 w ++ [BitVec.ofNat 8 (flags / 2 * 2 + 1)])

/-! ### Phase 2: prefixes, once per round -/

/-- The fixed-point weights of the round in slot order, and whether all were zero (R88, R247). -/
def State.popWeights (s : State) (core part : Nat) (o : PopObj) : List Nat × Bool :=
  let raw := (List.range o.m).map fun i =>
    (s.slotArr core part o i, s.popNat core part (o.slot i) 4)
  let pos := raw.filterMap fun r => if r.1 && r.2 != 0 && decide (r.2 ≤ fmtF32.maxCode) then
      some (fmtMag fmtF32 r.2) else none
  let top (d : Dy) : Int := (Nat.log2 d.m.toNat : Int) + d.e
  match pos with
  | [] => (raw.map fun r => if r.1 then 1 else 0, true)
  | d0 :: ds =>
    let e := ds.foldl (fun m d => max m (top d)) (top d0)
    let fix (r : Bool × Nat) : Nat :=
      if r.1 && decide (r.2 ≤ fmtF32.maxCode) then
        let d := dyShift (fmtMag fmtF32 r.2) (39 - e)
        if 0 ≤ d.e then d.m.toNat * 2 ^ d.e.toNat else d.m.toNat / 2 ^ (-d.e).toNat
      else 0
    (raw.map fix, false)

/-- Exclusive prefixes written to the entries; the sum of all is returned. -/
def State.writePrefixes (s s0 : State) (core part : Nat) (o : PopObj) : Nat → Nat → List Nat → State × Nat
  | _, acc, [] => (s, acc)
  | i, acc, w :: ws =>
    State.writePrefixes (s.popPut s0 core part (o.slot i + 8) (natBytes 8 acc)) s0 core part o (i + 1) (acc + w) ws

/-- The waits on an object end; 1 tells a member that every weight was zero. -/
def State.endRsmp (s : State) (core part va : Nat) (data : Word) : State :=
  let f (k : Nat) (p : Path) : Path := match p.wait with
    | some w => match w.kind with
      | .rsmp a _ => if s.sameObject core part va k (partOf k) a ∧ !w.ended then p.endWait data else p
      | _ => p
    | none => p
  { s with groups := s.groups.map fun g => match s.team g.team with
      | some t => { g with paths := g.paths.map (f t.core) }
      | none => g }

/-- The round closes: every ARR bit clear, ARRIVED and DONE zero, ROUND one more (R248). -/
def State.closeRound (s s0 : State) (core part va : Nat) (o : PopObj) : State :=
  let s1 := (List.range o.m).foldl (fun s i =>
    s.popPut s0 core part (o.slot i + 4) [BitVec.ofNat 8 (s.popNat core part (o.slot i + 4) 1 / 2 * 2)]) s
  (s1.setCounts s0 core part va 0 0).popPut s0 core part (va + 0x10) (natBytes 4 (o.round + 1))

/-- Phase 2, by the arrival that brings ARRIVED to M; with no ARR bit set the round closes at once (R248). -/
def State.rsmpPrefix (s s0 : State) (c : Ctx) (va : Nat) : State :=
  let o := s.popAt c.t.core c.part va
  if (List.range o.m).any fun i => s.slotArr c.t.core c.part o i then
    let w := s.popWeights c.t.core c.part o
    let r := s.writePrefixes s0 c.t.core c.part o 0 0 w.1
    let s1 := r.1.popPut s0 c.t.core c.part (va + 0x30) (natBytes 8 r.2)
    let s2 := s1.capture c.t.info.qidx (BitVec.ofNat 32 c.t.info.runid) 3 (BitVec.ofNat 64 va) (BitVec.ofNat 64 o.round)
      (natBytes 8 o.seed.toNat ++ natBytes 8 r.2)
    s2.endRsmp c.t.core c.part va (if w.2 then 1#32 else 0#32)
  else (s.popPut s0 c.t.core c.part (va + 0x30) (natBytes 8 0)).closeRound s0 c.t.core c.part va o

/-! ### Phases 3 and 4: counts and placement -/

/-- R247: the base slot and the count of a member, from its prefix and the next one. -/
def popCount4 (o : PopObj) (pfx next : Nat) : Nat × Nat :=
  let p := (populationValue o.seed o.round).toNat
  let at_ (x : Nat) : Nat := (x * o.n * 2 ^ 32 + p * o.wtot) / (o.wtot * 2 ^ 32)
  (at_ pfx, at_ next - at_ pfx)

/-- The counts of the members of a split: lane, base and count. -/
def State.memberCounts (s : State) (c : Ctx) (o : PopObj) : List (Lane × Nat) → Except TrapRec (List (Lane × Nat × Nat))
  | [] => .ok []
  | (l, i) :: rest =>
    let pfx := s.bytesAt c.t.core c.part (some l) (o.slot i + 8) 8
    let next := if i + 1 = o.m then .ok (natBytes 8 o.wtot) else s.bytesAt c.t.core c.part (some l) (o.slot (i + 1) + 8) 8
    match pfx, next, s.memberCounts c o rest with
    | .ok a, .ok b, .ok r => .ok ((l, popCount4 o (bytesNat a) (bytesNat b)) :: r)
    | .error t, _, _ => .error t
    | _, .error t, _ => .error t
    | _, _, .error t => .error t

def maskOfLanes (ls : List Lane) : Mask := ls.foldl (fun m l => m ||| (1#32 <<< l.val)) 0#32

/-- The context with the record of a restart in phase 3 on its path (R249). -/
def Ctx.restartAt (c : Ctx) (r : Option Restart) : Ctx :=
  let p := { c.p with restart := r, wait := if r.isSome then none else c.p.wait }
  { c with g := c.g.putPath p, p := p }

/-- Phases 3 and 4 of a split: the whole reservation, then each member; a trap restarts at phase 3 (R248, R249). -/
def rsmpPlace (f : FormDAB) (s : State) (c0 : Ctx) (r : Restart) : Out :=
  let c := c0.restartAt (some r)
  match (s.bytesAt c.t.core c.part none r.obj 64).map popObj with
  | .error t => accessFails s c 0 t
  | .ok o =>
  match (s.canWrite c.t.core c.part r.obj 64) with
  | some t => accessFails s c 0 t
  | none =>
  match c.t.keep o.ks with
  | none => takeTrap s c (groupTrap causeIllop 0)
  | some k =>
  match s.memberCounts c o r.slots with
  | .error t => accessFails s c 0 t
  | .ok counts =>
    let on := maskOfLanes ((counts.filter fun x => x.2.2 != 0).map fun x => x.1)
    let gone := maskOfLanes ((counts.filter fun x => x.2.2 == 0).map fun x => x.1)
    let base (l : Lane) : Word := BitVec.ofNat 32 (((counts.find? fun x => x.1 == l).map fun x => x.2.1).getD 0)
    let g1 := (if r.allZero then c.g.flag fINV else c.g).setX f.d on base
    let items := counts.flatMap fun x => (List.range (x.2.2 - 1)).map fun j =>
      c.item g1 3 (codeAt c.t.info.base o.entry) o.free o.ks k x.1 (linOf (g1.lin.get x.1) (j + 1))
        (.x f.d (BitVec.ofNat 32 (x.2.1 + j + 1)))
    match s.placeAll c.t.core items with
    | none => takeTrap s c (groupTrap causePoolx 1)
    | some s1 =>
      let g2 := g1.setLin on fun l => linOf (g1.lin.get l) 0
      let p2 := { c.p with departing := c.p.departing ||| gone, em := c.p.em &&& ~~~gone, restart := none }
      let done := o.done + counts.length
      let s2 := if done = o.m then s1.closeRound s c.t.core c.part r.obj o
        else s1.setCounts s c.t.core c.part r.obj o.arrived done
      finish s2 c (g2.putPath p2)

/-! ### RSMP -/

/-- Phase 1 for a split whose checks have passed: the weights, the counts, then the wait, or phase 2 and the rest. -/
def rsmpArrive (f : FormDAB) (s s0 : State) (c : Ctx) (va : Nat) (o : PopObj) (slots : List (Lane × Nat)) : Out :=
  let ws := slots.map fun x => (x.2, popWeight (c.g.getV f.a x.1))
  let g := c.g.flag (ws.foldl (fun a w => a ||| w.2.2) 0#6)
  let away := popCount (c.p.members &&& c.p.departing)
  let s1 := ws.foldl (fun s w => s.arriveSlot s0 c o w.1 w.2.1) s
  let arrived := o.arrived + slots.length + away
  let s2 := s1.setCounts s0 c.t.core c.part va arrived (o.done + away)
  let last := arrived == o.m
  if slots.isEmpty then finish (if last then s2.rsmpPrefix s0 c va else s2) c g
  else match waitAt s2 c g (.rsmp va slots) with
    | .next s3 =>
      if !last then .next s3 else
      withCtx (s3.rsmpPrefix s0 c va) fun c3 =>
        rsmpPlace f (s3.rsmpPrefix s0 c va) c3 ⟨c.cur.addr, va, slots, c3.ended == some 1#32⟩
    | x => x

/-- The checks of phase 1 in their order (R247), then the arrival. DEDUCED, unsafe: log entry 49. -/
def rsmpFresh (f : FormDAB) (s : State) (c : Ctx) : Out :=
  let va := (c.g.getS f.b).toNat + 2 ^ 32 * (c.g.getS (f.b + 1#6)).toNat
  let lanes := lanesOf c.active
  let poolx (n : Nat) : TrapRec := ⟨causePoolx, lanes.head?, BitVec.ofNat 16 n, 0#64⟩
  if va % 64 ≠ 0 then takeTrap s c (poolx 3) else
  match s.bytesAt c.t.core c.part lanes.head? va 64 with
  | .error t => accessFails s c 0 t
  | .ok bs =>
    let o := popObj bs
    if o.m = 0 ∨ 2 ^ 24 < o.m ∨ o.n = 0 ∨ 2 ^ 24 < o.n then takeTrap s c (poolx 3) else
    match c.t.keep o.ks with
    | none => takeTrap s c (groupTrap causeIllop 0)
    | some k =>
      if o.entry % 12 ≠ 0 then takeTrap s c (groupTrap causeIllop 0) else
      match c.keepTrap k with
      | some t => takeTrap s c t
      | none =>
        let slots := lanes.map fun l => (l, (c.g.getX f.d l).toNat)
        let away := popCount (c.p.members &&& c.p.departing)
        let trap := (slots.findSome? (s.memberTrap c o slots)).orElse fun _ =>
          (s.canWrite c.t.core c.part va 64).orElse fun _ =>
            if o.arrived + slots.length + away = o.m then s.prefixTrap c o else none
        match trap with
        | some t => accessFails s c 0 t
        | none => rsmpArrive f (s.passBytes c.t.core c.part va 64) s c va o slots

/-- RSMP: the arrival; the end of its wait; or a restart at phase 3 (R249). -/
def execRsmp (f : FormDAB) (s : State) : Out :=
  startWord (.rsmp f) s (fun c => f.b == 63#6 || c.g.tl != 0) (fun _ => true) fun c =>
    match c.p.restart with
    | some r => if r.addr = c.cur.addr then rsmpPlace f s c r else rsmpFresh f s c
    | none =>
    match c.p.wait with
    | some w => match w.kind with
      | .rsmp obj slots =>
        if w.ended then rsmpPlace f s c ⟨c.cur.addr, obj, slots, w.data == 1#32⟩ else waitAt s c c.g w.kind
      | _ => rsmpFresh f s c
    | none => rsmpFresh f s c

end Sys2Proof.Machine
end

