-- ==== Sys2Proof/Machine/Place.lean ====
section
/-! DEFINITION. The firmware agent: which entry it serves, what a team needs, and loading one (R12 to R18, R41, R59, R133 to
R144). -/

namespace Sys2Proof.Machine

/-! ### What a team needs (R135 to R138) -/

structure Need4 where
  init : Claim
  max : Claim
  gpt : Nat
  ven : Nat
  dict : Option Nat
  save : Nat
deriving DecidableEq, Repr

/-- The needs of a team of a launch record. -/
def needOfRecord (r : List DWord) (k : Kernel) : Need4 where
  init := (lrInitial r).units (lrGpt r)
  max := k.claim.units (lrGpt r)
  gpt := lrGpt r
  ven := k.ven
  dict := if k.dict then some (dwAt r 0) else none
  save := 8192 + 1024 * k.claim.reg * lrGpt r + 4096 * (k.claim.scr + k.ven) + 32768 * k.claim.acc

/-- The group slots of a core that its teams use. -/
def State.slotsUsed (s : State) (core : Nat) : List Nat :=
  s.groups.filterMap fun g =>
    match s.team g.team with
    | some t => if t.core = core ∧ t.st ≠ .swapped then some g.slot else none
    | none => none
def State.slotsFree (s : State) (core : Nat) : List Nat := (List.range 63).filter fun i => !(s.slotsUsed core).contains i
/-- The number of slots that no team and no reservation holds. -/
def State.slotRoom (s : State) (core : Nat) : Nat :=
  (s.slotsFree core).length - (s.reservations core).foldl (fun n p => n + p.gpt) 0

def State.veneerUsed (s : State) (core : Nat) : Nat :=
  ((s.teams.filter fun t => t.core == core).foldl (fun n t => n + t.info.ven) 0)
    + (s.reservations core).foldl (fun n p => n + p.ven) 0

/-- The images whose dictionary banks are in use. -/
def State.dictsUsed (s : State) (core : Nat) : List Nat :=
  (((s.residents core).filterMap fun t => if t.info.dict then some t.info.image else none)
    ++ (s.reservations core).filterMap fun p => p.dict).eraseDups
def State.dictRoom (s : State) (core : Nat) : Option Nat → Bool
  | none => true
  | some i => (s.dictsUsed core).contains i || decide ((s.dictsUsed core).length < 4)

/-- The lowest place of a save pool that no area overlaps. -/
def Partition.findArea (p : Partition) (size : Nat) : Option (Nat × Nat) :=
  let starts := p.savePA :: p.saveUsed.map fun a => a.1 + a.2
  let ok (b : Nat) : Bool :=
    decide (b + size ≤ p.savePA + p.saveSize) && p.saveUsed.all fun a => decide (a.1 + a.2 ≤ b ∨ b + size ≤ a.1)
  ((starts.filter ok).foldl (fun m b => match m with
    | some x => some (min x b)
    | none => some b) none).map fun b => (b, size)

/-- `n` teams can be added to what a core counts (R140). -/
def placeLoads (n4 : Need4) : Nat → List Load → Bool
  | 0, _ => true
  | n + 1, l => n4.init.le (freeOf l) && safe (⟨n4.init, n4.max⟩ :: l) && placeLoads n4 n (⟨n4.init, n4.max⟩ :: l)

/-- A core has room for `n` teams, their save areas aside. -/
def State.coreFits (s : State) (core : Nat) (n4 : Need4) (n : Nat) : Bool :=
  decide (n * n4.gpt ≤ s.slotRoom core) && decide (s.veneerUsed core + n * n4.ven ≤ 16) && s.dictRoom core n4.dict
    && placeLoads n4 n (s.loads core)

/-- Take `n` save areas of a partition's pool. -/
def State.takeAreas (s : State) (part size : Nat) : Nat → Option (List (Nat × Nat) × State)
  | 0 => some ([], s)
  | n + 1 =>
    match (s.part part).findArea size with
    | none => none
    | some a =>
      let p := s.part part
      match State.takeAreas (s.putPart part { p with saveUsed := p.saveUsed ++ [a] }) part size n with
      | none => none
      | some (l, s1) => some (a :: l, s1)

/-! ### Which entry an agent serves (R126, R134, R144) -/

/-- SEQ order (R126). -/
def seqBefore (a b : Word) : Bool := decide (1 ≤ (b - a).toNat ∧ (b - a).toNat ≤ 2 ^ 31 - 1)
def entryBefore (a b : LstEntry) : Bool := decide (a.prio < b.prio) || (a.prio == b.prio && seqBefore a.seq b.seq)

/-- A list in an order, by insertion; equals keep their places. -/
def insertBy {α : Type} (before : α → α → Bool) (a : α) : List α → List α
  | [] => [a]
  | b :: l => if before b a then b :: insertBy before a l else a :: b :: l
def sortBy {α : Type} (before : α → α → Bool) (l : List α) : List α := l.reverse.foldl (fun l a => insertBy before a l) []

/-- The gang level of a record: its domain and its size. DEDUCED, unsafe: log entry 38. -/
def lrGang (r : List DWord) : Option (Nat × Nat) := (lrHighest r [3, 4]).map fun k => ((lrLevel r k).dom, lrInstance r k)
def gangCores (dom : Nat) : Nat := if dom = 3 then 4 else 96
def gangLeader (dom core : Nat) : Nat := core / gangCores dom * gangCores dom
def GangPlan.covers (p : GangPlan) (core : Nat) : Bool := decide (p.leader ≤ core ∧ core < p.leader + gangCores p.dom)

/-- The entries in state 1 whose CLMASK sets the core's cluster, in service order, by index. -/
def State.openEntries (s : State) (core : Nat) : List (Nat × LstEntry) :=
  let d := dieOf core
  let all := ((List.range 64).map fun i => (i, s.entry d i)).filter fun x =>
    x.2.st == 1 && bitsOf x.2.clmask (partOf core % 2) 1 == 1
  sortBy (fun a b => entryBefore a.2 b.2) all

/-- The entries that the agent of a core may serve: gang entries of other leaders are passed by. -/
def State.servable (s : State) (core : Nat) : List (Nat × LstEntry) :=
  (s.openEntries core).filter fun x => match lrGang x.2.record with
    | some g => gangLeader g.1 core == core
    | none => true
/-- The first of them. -/
def State.firstEntry (s : State) (core : Nat) : Option (Nat × LstEntry) := (s.servable core).head?

/-- An entry that a refused gang holds back on a core (R144, step 7). Every core of the gang's domain is a member that holds
back, whether or not a team of the gang would go to it: DESIGN CHOICE, unsafe: log entry 78. -/
def State.heldBack (s : State) (core i : Nat) (e : LstEntry) : Bool :=
  s.fe.gangs.any fun p => p.refused && p.covers core && !(p.lst == i && p.die == dieOf core && p.seq == e.seq)
    && (match (s.entry p.die p.lst) with
      | x => x.st == 1 && x.seq == p.seq && decide (x.prio ≤ e.prio))

def State.agentRuns (s : State) (core : Nat) : Bool :=
  s.dieUp && (s.part (partOf core)).st == .running && (s.core core).agentOn

/-- The agent of a core is taking a new image: it claims no ticket and answers no to a reservation (R422). -/
def State.reloading (s : State) (core : Nat) : Bool := s.svc.reload.any fun r => r.1 == core

/-! ### Loading a team (R18, R41, R59, R143) -/

def blankGroup (gid team idx slot : Nat) (paths : List Path) : Group where
  gid := gid
  team := team
  idx := idx
  slot := slot
  x := Tab.const 64 (Tab.const 32 0#32)
  v := Tab.const 64 (Tab.const 32 0#64)
  s := Tab.const 64 0#32
  q := Tab.const 8 (Tab.const 32 0#2)
  m := Tab.const 8 0#32
  h := Tab.const 16 0#32
  n := Tab.const 16 true
  gsr := 0#32
  tl := 0
  tca1 := 0#32
  tca2 := 0#32
  tepc1 := 0#57
  tepc2 := 0#57
  tfa1 := 0#57
  tfa2 := 0#57
  depth := 0#8
  limit := 8#8
  rngKey := 0#64
  rngCtr := 0#64
  lin := Tab.const 32 0#64
  tag := 0#16
  paths := paths
  entries := []
  frames := []
  nextPid := 1
  nextEid := 0

/-- The kept-register sets of an image (R34). -/
def State.keepsOf (s : State) (i : Image) : List Keep :=
  match i.sectOf 4 with
  | none => []
  | some (off, size) => (List.range (size / 32)).map fun n =>
      let a := i.pa + off + 32 * n
      { x := BitVec.ofNat 64 (s.feNat a 8), v := BitVec.ofNat 64 (s.feNat (a + 8) 8), s := BitVec.ofNat 64 (s.feNat (a + 0x10) 8),
        q := BitVec.ofNat 8 (s.feNat (a + 0x18) 1), m := BitVec.ofNat 8 (s.feNat (a + 0x19) 1) }

/-- What a team of an entry is launched with. -/
def State.launchOf (s : State) (die i : Nat) (e : LstEntry) (img : Image) (k : Kernel) (t : Nat) (gang : Option Gang) : Launch :=
  let r := e.record
  { seq := e.seq.toNat, qidx := e.qidx, graph := e.gid, node := e.node, runid := e.runid.toNat, die := die, lst := i, t := t,
    tx := BitVec.ofNat 32 (t % lrX r), tyz := BitVec.ofNat 32 (t / lrX r % lrY r + 2 ^ 16 * (t / (lrX r * lrY r))),
    gpt := lrGpt r, levels := (List.range (lrLevels r)).map (lrLevel r), gang := gang, base := BitVec.ofNat 57 img.base,
    entryOff := (((img.sectOf 1).map fun q => q.1).getD 0) + k.entryOff, trapOff := k.trapOff,
    runtimeOff := ((img.sectOf 2).map fun q => q.1).getD 0, ven := k.ven, dict := k.dict, image := img.base, claim := k.claim,
    initial := lrInitial r, keeps := s.keepsOf img, params := (e.params.drop (lrArgSlot r)).take (lrArgN r) }

/-- The lineage of a lane at team start (R59). -/
def startLin (t gpt g : Nat) (l : Lane) : DWord := BitVec.ofNat 64 (((t * gpt + g) * 32 + l.val) % 2 ^ 40)

def blankTeam (uid core : Nat) (info : Launch) (prio swapth now : Nat) (area : Nat × Nat) : Team where
  uid := uid
  core := core
  st := .resident
  info := info
  prio := prio
  swapth := swapth
  hold := Claim.zero
  reqs := []
  scr := []
  full := []
  bad := []
  venFront := []
  venBack := []
  bars := []
  acc := Tab.const 8 0#8
  windows := Tab.const 16 none
  predCtr := Tab.const 6 0#32
  waitSince := none
  placed := now
  saveArea := area
  saved := []
  swappedAt := 0
  switchedOut := false
  watched := []
  stirred := false

/-- The dictionary bank of an image: one that holds it, else the lowest that no resident team uses, loaded (R137). -/
def State.loadDict (s : State) (core : Nat) (img : Image) : State :=
  let c := s.core core
  if (List.finRange 4).any fun b => (c.dict.get b).image == some img.base then s else
  match (List.finRange 4).find? fun b => !s.bankUsed core b.val with
  | none => s
  | some b =>
    let sect := (img.sectOf 3).getD (0, 0)
    let words := (List.range (sect.2 / 4)).map fun i => BitVec.ofNat 32 (s.feNat (img.pa + sect.1 + 4 * i) 4)
    s.putCore core (c.putBank b ⟨some img.base, bankFill (c.dict.get b).words words⟩)

/-- A team placed: its groups start at the entry, with INITIAL granted. What the front end has acquired for the launch, and
what its earlier nodes wrote, comes before their first read, so that the core's L1 keeps nothing older (R19, R348: log
entry 72). -/
def State.loadTeam (s : State) (core : Nat) (e : LstEntry) (info : Launch) (img : Image) (area : Nat × Nat) : State :=
  let uid := s.fresh
  let s0 := if info.dict then s.loadDict core img else s
  let t := blankTeam uid core info e.prio (s.swapTh e.prio) s.now area
  let slots := s.slotsFree core
  let group (i : Nat) : Group :=
    let p := startPath 0 (codeAt info.base info.entryOff) 0xFFFFFFFF#32
    { (blankGroup (uid + 1 + i) uid i (slots.getD i 0) [p]).teamStart t with lin := Tab.ofFn (startLin info.t info.gpt i) }
  let s1 := { s0 with
    teams := s0.teams ++ [t]
    groups := s0.groups ++ (List.range info.gpt).map group
    fresh := uid + 1 + info.gpt }
  (s1.grant uid info.initial).clearL1 core

end Sys2Proof.Machine
end

