-- ==== Sys2Proof/Machine/Decide.lean ====
section
/-! DEFINITION. The decisions on pending requests, in their order (R141, R142). -/

namespace Sys2Proof.Machine

/-- End the RACQ wait of a path: 0 for a grant, 1 for a request that its path issues again. -/
def State.endRacq (s : State) (r : Request) (data : Word) : State :=
  match s.group r.gid with
  | none => s
  | some g => s.putGroup (g.updatePath r.pid fun p => match p.wait with
    | some w => match w.kind with
      | .racq _ => { p with wait := some { w with ended := true, data := data } }
      | _ => p
    | none => p)

def Team.popReq (t : Team) : Team := { t with reqs := t.reqs.drop 1 }

/-- The pending request of a resident team of the core, the earliest arrival not yet refused in this pass. -/
def State.nextRequest (s : State) (core : Nat) (refused : List Nat) : Option (Team × Request) :=
  let heads := (s.residents core).filterMap fun t =>
    match t.reqs with
    | r :: _ => if refused.contains r.arrival then none else some (t, r)
    | [] => none
  heads.foldl (fun a x => match a with
    | some y => if x.2.arrival < y.2.arrival then some x else some y
    | none => some x) none

/-- A queued request that has reached the head and asks for too much: CLAIMX at that moment (R142), or, where a trap has
stopped its path, when the path issues the word again (R383). -/
def State.refuseHead (s : State) (t : Team) (r : Request) (info : Nat) : State :=
  let s1 := s.putTeam t.popReq
  match s1.group r.gid with
  | none => s1
  | some g =>
    match g.path r.pid with
    | some p =>
      if p.level = g.tl then trapTo s1 g t.popReq p.pid (groupTrap causeClaimx info) p.pc else s1.endRacq r 1#32
    | none => s1

/-- One pass over the pending requests; `fuel` bounds the decisions. -/
def redecideFrom : Nat → State → Nat → List Nat → State
  | 0, s, _, _ => s
  | n + 1, s, core, refused =>
    match s.nextRequest core refused with
    | none => s
    | some (t, r) =>
      let info := claimInfo r.want.word t.headroom false false
      if info ≠ 0 then redecideFrom n (s.refuseHead t r info) core refused
      else if s.mayGrant t (r.want.units (s.liveGroups t.uid)) then
        redecideFrom n (((s.putTeam t.popReq).grant t.uid r.want).endRacq r 0#32) core refused
      else redecideFrom n s core (r.arrival :: refused)

/-- R141: decide every pending request of a core again. -/
def State.redecide (s : State) (core : Nat) : State :=
  redecideFrom ((s.residents core).foldl (fun n t => n + t.reqs.length) 1) s core []

/-- Every core with a pending request decides again, which follows each step of itself: a request changes its answer at a
release alone. -/
def State.redecideAll (s : State) : State :=
  (((s.teams.filter fun t => !t.reqs.isEmpty).map fun t => t.core).eraseDups).foldl State.redecide s

end Sys2Proof.Machine
end

