-- ==== Sys2Proof/Machine/Join.lean ====
section
/-! DEFINITION. What ends a path or an entry: the pop of an inline child's frame (R238), the finishing of a path, the
completion of an entry (R166, R169), and SYNCJ, which completes one (R167). -/

namespace Sys2Proof.Machine

/-! ### The pop of a frame (R238) -/

/-- A frame whose condition holds for a path: its forking lanes that are still members are departing, and no entry
created since the push is left. -/
def Group.popping (g : Group) : Option (Frame × Path) :=
  g.frames.reverse.findSome? fun f =>
    if g.entries.any (fun e => decide (f.mark ≤ e.eid)) then none else
    (g.paths.find? fun p => p.members &&& f.forked != 0#32 && p.members &&& f.forked &&& ~~~p.departing == 0#32).map
      fun p => (f, p)

/-- Take a lane's kept registers from the frame. -/
def restoreLane (t : Team) (f : Frame) (k : Keep) (g : Group) (l : Lane) : Group :=
  let n := payloadBytes k f.carried
  let shell : Item :=
    { entry := 0#57, kind := 0, free := false, lin := 0#64, teamT := 0, owner := 0, ks := f.ks, srcg := 0, seq := 0,
      qm := 0#23, xs := [], vs := [], ss := [], carried := f.carried, keep := k, home := .core t.core }
  let i := shell.fromPayload (t.scrBytes (f.off + 16 + l.val * n) n)
  ((g.takeItem l i).takeS i).setLin (1#32 <<< l.val) fun _ => f.lin.get l

/-- The group after the pop. DEDUCED, unsafe: log entry 47. -/
def Group.popFrame (g : Group) (t : Team) (f : Frame) (p : Path) : Group :=
  let keep := (t.keep f.ks).getD ⟨0#64, 0#64, 0#64, 0#8, 0#8⟩
  let lanes := p.members &&& f.forked
  let g1 := (lanesOf lanes).foldl (restoreLane t f keep) g
  let g2 := { g1.setS frameReg (g.getS frameReg + BitVec.ofNat 32 f.size) with
    depth := g1.depth - 1#8
    frames := g1.frames.filter fun x => x != f }
  -- the path goes on, so that its finishing removes the departing lanes outside the fork mask alone (R166)
  let stay := if p.members &&& ~~~p.departing = 0#32 then p.members &&& f.forked else p.members
  let dep := p.departing &&& ~~~f.forked &&& stay
  g2.putPath { p.past (BitVec.ofNat 57 (t.scrNat f.off 8)) with
    members := stay
    departing := dep
    em := BitVec.ofNat 32 (t.scrNat (f.off + 8) 4) &&& stay &&& ~~~dep }

/-- A pop that is due: done, or SPRANGE where the frame is no longer held. -/
def popDue (s : State) (g : Group) (t : Team) (f : Frame) (p : Path) : State :=
  if t.inHeld f.off f.size then s.putGroup (g.popFrame t f p)
  else trapTo (s.putGroup g) g t p.pid (groupTrap causeSprange 0 (BitVec.ofNat 64 f.off)) p.pc

/-- Complete the entries that complete, `fuel` bounding their number (R166). -/
def Group.completeAll (kept : Mask) : Nat → Group → Group
  | 0, g => g
  | n + 1, g => match g.completing with
    | some e => Group.completeAll kept n (g.complete e kept)
    | none => g

/-- The first entry from `e?` outward that `g'` still has. -/
def Group.aliveFrom (g g' : Group) : Nat → Option Nat → Option Nat
  | 0, _ => none
  | _ + 1, none => none
  | n + 1, some e => if (g'.entry e).isSome then some e else g.aliveFrom g' n ((g.entry e).bind fun x => x.enclosing)

/-- The group with a finished path kept for a frame that its finishing lets pop (R166, R238): the frame's lanes go on in
the path that remains of the pushing split, or in the finished path itself. DEDUCED, unsafe: log entry 65. -/
def Group.finishInto (g : Group) (b : Path) : Option Group :=
  g.frames.reverse.findSome? fun f =>
    let g1 := (g.dropPath b.pid).completeAll f.forked 17
    if b.members &&& f.forked == 0#32 || g1.entries.any (fun e => decide (f.mark ≤ e.eid)) then none else
    match g1.paths.find? fun p => p.members &&& f.members != 0#32 with
    | some p =>
      if p.members &&& f.forked &&& ~~~p.departing == 0#32 then
        some (g1.putPath { p with members := p.members ||| b.members &&& f.forked, departing := p.departing ||| b.departing &&& f.forked })
      else none
    | none => some { g1 with paths := g1.paths ++ [{ b with entry := g.aliveFrom g1 17 b.entry }] }

/-- An entry completes: a frame that this lets pop is popped before departing lanes are removed (R166, R169). -/
def completeStep (s : State) (g : Group) (t : Team) (e : Entry) : State :=
  match (if g.tl = 0 then (g.complete e 0xFFFFFFFF#32).popping else none) with
  | some (f, p) =>
    let g1 := g.complete e f.forked
    popDue s g1 t f ((g1.path p.pid).getD p)
  | none => s.putGroup (g.complete e 0#32)

/-! ### SYNCJ (R167) -/

/-- The paths of an entry that wait at one SYNCJ become one, the entry completes, and the path issues the next word. -/
def joinAt (s : State) (g : Group) (t : Team) (p : Path) (e : Entry) (next : VAddr) : State :=
  completeStep s (g.join p next) t e

/-- A SYNCJ wait that is over: its path, its entry and the word after it. -/
def Group.joinDue (g : Group) : Option (Path × Entry × VAddr) :=
  match g.joining with
  | none => none
  | some p =>
    match p.entry.bind g.entry, p.wait.bind fun w => w.issued with
    | some e, some w => some (p, e, w.next)
    | _, _ => none

/-- SYNCJ: honoured when the entry's RP is this packet. -/
def execSyncj (s : State) : Out :=
  word .syncj s fun c =>
    match c.p.entry.bind c.g.entry with
    | none => finish s c c.g
    | some e =>
      if e.rp ≠ some (packetOf c.cur.addr) then finish s c c.g
      else if c.g.syncReady c.p then .next (joinAt s c.g c.t c.p e c.cur.next)
      else waitAt s c c.g .syncj

end Sys2Proof.Machine
end

