-- ==== Sys2Proof/Machine/Settle.lean ====
section
/-! DEFINITION. What follows a step of itself: frame pops, finished paths, completed entries, merges, waits of SYNCJ
and of the collective words that end, splits given to parked paths, barrier phases, and the wait timers of teams
(R150, R163 to R169, R238, R363, R368). -/

namespace Sys2Proof.Machine

/-! ### One group -/

/-- One thing that follows of itself in a group, if there is one. -/
def settleOnce (s : State) (g : Group) (t : Team) : Option State :=
  match (if g.tl = 0 then g.popping else none) with
  | some (f, p) => some (popDue s g t f p)
  | none =>
  match g.finished with
  | some b => some (s.putGroup ((g.finishInto b).getD (g.dropPath b.pid)))
  | none =>
  match g.joinDue with
  | some (p, e, next) => some (joinAt s g t p e next)
  | none =>
  match g.completing with
  | some e => some (completeStep s g t e)
  | none =>
  match g.mergePair with
  | some (p, q) => some (s.putGroup ((g.dropPath q.pid).putPath (p.merge q)))
  | none =>
  match g.releaseCollective.orElse fun _ => g.unpark with
  | some g' => some (s.putGroup g')
  | none => none

/-- A group brought to rest; `fuel` bounds the moves of one step. -/
def settleGroup : Nat → State → Nat → State
  | 0, s, _ => s
  | n + 1, s, gid =>
    match s.group gid with
    | none => s
    | some g =>
      match s.team g.team with
      | none => s
      | some t =>
        match settleOnce s g t with
        | some s' => settleGroup n s' gid
        | none => s

def State.settleGroups (s : State) : State := s.groups.foldl (fun s g => settleGroup 256 s g.gid) s

/-! ### Wait timers (R150) -/

/-- The wait-swap waits. -/
def swapWait : WaitKind → Bool
  | .syncj | .collective | .rrel | .stall => false
  | _ => true

/-- Is a wait over, so that its path may issue? -/
def State.waitOver (t : Team) (g : Group) (w : Wait) : Bool :=
  w.ended || (match w.kind with
    | .handle n => !g.pendingHandle n
    | .await off gen => genPast (t.arrival off).gen gen
    | .rrel | .stall => true
    | _ => false)

/-- A path stopped in a wait of R150, or by a handler (R150, R382). -/
def State.stoppedIn (t : Team) (g : Group) (p : Path) : Bool :=
  p.level != g.tl || (match p.wait with
    | some w => swapWait w.kind && !State.waitOver t g w
    | none => false)

/-- A path that may issue its next word: a live split of the running level in no wait. -/
def State.ready (s : State) (g : Group) (t : Team) (p : Path) : Bool :=
  s.teamRuns t && p.split.isSome && p.level == g.tl
    && (match p.wait with
      | none => true
      | some w => State.waitOver t g w)

/-- Every split of every live group stands in a wait (R150). DEDUCED, unsafe: log entry 39. -/
def State.allWaiting (s : State) (t : Team) : Bool :=
  (s.groupsOf t.uid).any (fun g => !g.paths.isEmpty) &&
    (s.groupsOf t.uid).all fun g => g.paths.all fun p => p.split.isNone || State.stoppedIn t g p

/-- A resident team whose last split has entered a wait starts its timer (R153). -/
def State.startTimers (s : State) : State :=
  let f (t : Team) : Team :=
    if t.st = .resident ∧ s.allWaiting t = true then { t with st := .waiting, waitSince := some s.now } else t
  { s with teams := s.teams.map f }

/-- A word of the team issues: its timer is cleared (R150, R153). -/
def Team.issues (t : Team) : Team := if t.st = .waiting then { t with st := .resident, waitSince := none } else t

/-! ### What the waits of a team that is out wait for (R153) -/

/-- Is the command that writes a handle under the fault service (R300, R318, R324)? The wait on its handle is then a
fault-service wait too. -/
def State.commandFaults (s : State) (g : Group) (n : Nat) : Bool :=
  let tag := handleTag (g.getH (BitVec.ofNat 6 n))
  (s.copies.any fun x => x.isFor g.gid n tag && x.fault.isSome) || s.records.any fun r => r.isFor g.gid n tag && r.fault.isSome

/-- What the object of a wait holds: a phase, a handle's state, a release count, a generation, the lines that are full, or
whether the service is at work. -/
def State.objectOf (s : State) (t : Team) (g : Group) (w : Wait) : Nat :=
  match w.kind with
  | .handle n => 2 * handleState (g.getH (BitVec.ofNat 6 n)) + (if s.commandFaults g n then 1 else 0)
  | .soacq soid _ => (s.rbEntry (partOf t.core) soid).rels.toNat
  | .await off _ => (t.arrival off).gen
  | .bar b _ _ | .barw b _ _ _ => (t.bar b).ph.toNat
  | .ldfe _ addrs _ _ => addrs.zipIdx.foldl (fun n a =>
      match s.team a.1.2.1 with
      | some u => if u.full.contains (a.1.2.2 / 128) then n + 2 ^ a.2 else n
      | none => n) 0
  | _ => 0

/-- Has the object of a wait changed between two values of it: for a line, one that has become full; for a command, its
handle's state, or the end of the service. -/
def objectChanged : WaitKind → Nat → Nat → Bool
  | .handle _, old, new => new / 2 != old / 2 || (old % 2 == 1 && new % 2 == 0)
  | .ldfe _ addrs _ _, old, new => (List.range addrs.length).any fun i => new.testBit i && !old.testBit i
  | _, old, new => new != old

/-- The waits of a team, by group and path. -/
def State.waitsOf (s : State) (t : Team) : List ((Nat × Nat) × Group × Wait) :=
  (s.groupsOf t.uid).flatMap fun g => g.paths.filterMap fun p => p.wait.map fun w => ((g.gid, p.pid), g, w)

/-- What the objects of a team's waits hold. -/
def State.objects (s : State) (t : Team) : List ((Nat × Nat) × Nat) :=
  (s.waitsOf t).map fun x => (x.1, s.objectOf t x.2.1 x.2.2)

/-- Has the object of one of a team's waits changed since the last step, or ended a wait? -/
def State.objectMoved (s : State) (t : Team) : Bool :=
  (s.waitsOf t).any fun x => x.2.2.ended || match t.watched.find? fun y => y.1 == x.1 with
    | some y => objectChanged x.2.2.kind y.2 (s.objectOf t x.2.1 x.2.2)
    | none => false

/-- Teams that are out note what has changed, at the moment it does (R153). -/
def State.watchOut (s : State) : State :=
  let f (t : Team) : Team :=
    if t.st = .swappingOut ∨ t.st = .swapped then { t with watched := s.objects t, stirred := t.stirred || s.objectMoved t } else t
  { s with teams := s.teams.map f }

/-! ### The part -/

def State.sweep (s : State) : State := s.teams.foldl (fun s t => (s.sweepBars t.uid).sweepGang t.uid) s

/-- Every path that has become ready is ready since now (R160). -/
def State.markReady (s : State) : State :=
  let mark (g : Group) (t : Team) (p : Path) : Path :=
    { p with readySince := if s.ready g t p = true then p.readySince.orElse fun _ => some s.now else none }
  { s with groups := s.groups.map fun g => match s.team g.team with
      | some t => { g with paths := g.paths.map (mark g t) }
      | none => g }

/-- The state at rest after a step, one cycle later. -/
def State.settle (s : State) : State :=
  let s1 := s.settleGroups.sweep.settleGroups.redecideAll.startTimers.watchOut.markReady
  { s1 with now := s1.now + 1, cur := none }

end Sys2Proof.Machine
end

