-- ==== Sys2Proof/Machine/Return.lean ====
section
/-! DEFINITION. Teams that are out: when one may return, where to, and what it gets back (R140, R151, R153, R395, R397). -/

namespace Sys2Proof.Machine

/-- The teams that leave and return together: a gang whole, or a team alone (R151). -/
def State.together (s : State) (t : Team) : List Team := if t.info.gang.isSome then s.gangTeams t else [t]

/-! ### Eligibility to return (R153, R395) -/

/-- May a team return: an object of its waits has changed, or one waits for resources; after a switch, no entry of a smaller
PRIO that its core may serve waits. -/
def State.teamStirs (s : State) (t : Team) : Bool :=
  if t.switchedOut then (s.servable t.core).all fun x => decide (t.prio ≤ x.2.prio)
  else t.stirred || (s.waitsOf t).any fun x => match x.2.2.kind with
    | .racq _ => true
    | _ => false

def State.eligible (s : State) (t : Team) : Bool := t.st == .swapped && (s.together t).any s.teamStirs

/-! ### Coming back (R140, R151, R397) -/

/-- Physical slots for the names of a team that returns, with their saved contents. -/
def State.restoreSlots (s : State) (t : Team) : State × Team :=
  let c := s.core t.core
  let pairs := t.saved.zip c.freeSlots
  let c1 := pairs.foldl (fun (c : Core) p => { c with acc := c.acc.set (slotIx p.2) { p.1.2 with team := some t.uid } }) c
  let t1 := pairs.foldl (fun (t : Team) p => { t with acc := t.acc.set (slotIx p.1.1) (0x80#8 ||| BitVec.ofNat 8 p.2) }) t
  (s.putCore t.core c1, { t1 with saved := [] })

/-- A swapped team granted its holding and its pending request on a core; none where it does not fit.
DESIGN CHOICE, unsafe: log entry 10. -/
def State.readmit (s : State) (t : Team) (core : Nat) : Option State :=
  let gs := s.groupsOf t.uid
  let pend := match t.reqs with
    | r :: _ => r.want
    | [] => Claim.zero
  let init := (t.hold.add pend).units gs.length
  let n4 : Need4 :=
    ⟨init, t.info.claim.units t.info.gpt, gs.length, if core = t.core then 0 else t.info.ven,
      if t.info.dict then some t.info.image else none, 0⟩
  if t.st ≠ .swapped ∨ !s.agentRuns core ∨ !s.coreFits core n4 1 then none else
  let slots := s.slotsFree core
  let seat (s : State) (x : Group × Nat) : State := s.putGroup { x.1 with slot := slots.getD x.2 0 }
  let s1 := gs.zipIdx.foldl seat s
  let s2 := match t.info.dict, s1.imageBy t.info.image with
    | true, some img => s1.loadDict core img
    | _, _ => s1
  let r := s2.restoreSlots { t with core := core, st := .returning, reqs := t.reqs.drop 1 }
  let rehome (i : Item) : Item := match i.home with
    | .pool p _ => if i.owner = t.uid ∧ !i.free then { i with home := .pool p core } else i
    | .core _ => i
  -- its queues open on the core that it comes to, and its own earlier stores come before its reads there (log entry 72)
  let s3 := ((({ r.1.putTeam r.2 with items := r.1.items.map rehome } : State).closeQueues t.core).openQueues core).clearL1 core
  some (match t.reqs with
    | q :: _ => (s3.grant t.uid pend).endRacq q 0#32
    | [] => s3)

/-- Every core from `first` on, `n` of them, runs its agent. -/
def State.coresRun (s : State) (first n : Nat) : Bool := (List.range n).all fun i => s.agentRuns (first + i)

/-- The cores that the teams of a return come back to, `dest` naming one where their own has stopped (R397): a team alone to
its own core while its agent runs, else to any of its cluster; a quad gang to its own quad while the four cores run, else to
a quad of its cluster; a cluster gang to its cluster, once every core of it runs. -/
def State.homesFor (s : State) (t : Team) (ts : List Team) (dest : Nat) : Option (List (Team × Nat)) :=
  let near := partOf dest == partOf t.core
  let quad (u : Team) (d : Nat) : Team × Nat := (u, quadOf d * 4 + u.core % 4)
  match t.info.gang with
  | none => if (s.core t.core).agentOn then some [(t, t.core)] else if near then some [(t, dest)] else none
  | some g =>
    if g.dom = 3 then
      if s.coresRun (quadOf t.core * 4) 4 then some (ts.map fun u => (u, u.core))
      else if near && s.coresRun (quadOf dest * 4) 4 then some (ts.map fun u => quad u dest)
      else none
    else if s.coresRun (partOf t.core * 96) 96 then some (ts.map fun u => (u, u.core)) else none

/-- A team, or a gang whole, comes back. -/
def State.tryReturn (s : State) (t : Team) (dest : Nat) : Option State :=
  match s.homesFor t (s.together t) dest with
  | none => none
  | some homes => homes.foldl (fun a x => match a, s.team x.1.uid with
    | some s1, some u => s1.readmit u x.2
    | _, _ => none) (some s)

/-- The order of returns: priority, then the time of the swap (R141). -/
def returnsBefore (a b : Team) : Bool :=
  decide (a.prio < b.prio) || (a.prio == b.prio && decide (a.swappedAt < b.swappedAt))
def State.returners (s : State) (core : Nat) : List Team := sortBy returnsBefore (s.teams.filter fun t => t.core == core && s.eligible t)

/-- A return to a core passes the check now, of its own teams or of one whose core has stopped: the unit decides it before the
drafter's requests and the agent's reservations (R141). -/
def State.returnWaits (s : State) (core : Nat) : Bool :=
  (s.teams.filter fun t => s.eligible t && (t.core == core || (partOf t.core == partOf core && !(s.core t.core).agentOn))).any
    fun t => (s.tryReturn t core).isSome

end Sys2Proof.Machine
end

