-- ==== Sys2Proof/Machine/Draft.lean ====
section
/-! DEFINITION. The drafter, stealing between dies, and moves between a core's Twill region and the die pool (R152, R239 to
R244). -/

namespace Sys2Proof.Machine

/-! ### Eligible queues (R243) -/

/-- A core's directory and region are at hand: its partition is not in shadow storage, nor on its way there or back (R64). -/
def State.directoryHere (s : State) (core : Nat) : Bool :=
  match (s.part (partOf core)).st with
  | .unconfigured | .running | .halting | .halted => true
  | .swappingOut | .swapped | .swappingIn => false

/-- A queue, the core whose directory holds it, the team that would take the group, and its items in order. -/
structure Pick where
  core : Nat
  queue : TwillQueue
  team : Team
  items : List Item
deriving DecidableEq, Repr

/-- Can a team on a core take one more group? -/
def State.takesGroup (s : State) (t : Team) : Bool := s.teamRuns t && decide (s.liveGroups t.uid < t.info.gpt)

/-- The owner of a group drafted on core `k` from a queue: its team, or the team of the lowest TEAMT for FREE items. -/
def State.draftOwner (s : State) (k : Nat) (q : TwillQueue) : Option Team :=
  let ts := s.teams.filter fun t => t.core == k && t.info.seq == q.seq && s.takesGroup t
  match q.team with
  | some n => ts.find? fun t => t.info.t == n
  | none => ts.foldl (fun a t => match a with
      | some b => if t.info.t < b.info.t then some t else some b
      | none => some t) none

/-- The eligible queues for the drafter of core `k`: its own, then the FREE ones of its die in increasing core number. -/
def State.picks (s : State) (k : Nat) : List Pick :=
  let die := (List.range 192).map fun i => dieOf k * 192 + i
  let order := (k :: die.filter fun c => c != k).filter fun c => s.directoryHere c && s.items.any fun i => i.coreOf == c
  order.flatMap fun c =>
    let qs := sortBy (fun (a b : TwillQueue) => decide (a.num < b.num)) (s.core c).queues
    qs.filterMap fun q =>
      if c ≠ k ∧ q.team.isSome then none else
      match s.draftOwner k q with
      | none => none
      | some t =>
        let items := s.queueItems c q
        if !items.isEmpty && s.mayGrant t { Claim.zero with reg := t.hold.reg } then some ⟨c, q, t, items⟩ else none

/-- The first of the best by a number: a smaller number is better. -/
def firstBest (score : Pick → Nat) : List Pick → Option Pick
  | [] => none
  | p :: l => match firstBest score l with
    | some q => if score q < score p then some q else some p
    | none => some p

/-- The drafter's choice (R243): a queue that has aged, the oldest first, else the fullest.
DEDUCED, safe: log entry 50. -/
def State.draftPick (s : State) (k : Nat) : Option Pick :=
  if s.slotRoom k = 0 then none else
  let l := s.picks k
  let aged := l.filter fun p => decide (p.queue.since + 4096 ≤ s.now)
  if aged.isEmpty then firstBest (fun p => 2 ^ 32 - p.items.length) l else firstBest (fun p => p.queue.since) aged

/-! ### DRAFT_GROUP (R244) -/

/-- A group formed from items: item `i` becomes lane `i`. DEDUCED, unsafe: log entry 48. -/
def draftedGroup (t : Team) (gid idx slot : Nat) (items : List Item) : Group :=
  let lanes := allLanes.filter fun l => decide (l.val < items.length)
  let on : Mask := maskOf fun l => decide (l.val < items.length)
  let entry := (items.head?.map fun i => i.entry).getD 0#57
  let g := (blankGroup gid t.uid idx slot [startPath 0 entry on]).teamStart t
  let take (g : Group) (l : Lane) : Group :=
    match items[l.val]? with
    | some i => (g.takeItem l i).setLin (1#32 <<< l.val) fun _ => i.lin
    | none => g
  match items.head? with
  | some i => (lanes.foldl take g).takeS i
  | none => g

/-- DRAFT_GROUP by the drafter of core `core`; a return that passes is decided first (R141). -/
def execDraftGroup (s : State) : Out :=
  let k := s.arg.core
  if !(s.dieUp && (s.part (partOf k)).st == .running && (s.core k).drafterOn) || s.returnWaits k then .next s else
  match s.draftPick k, (s.slotsFree k).head? with
  | some p, some slot =>
    let items := p.items.take 32
    let idx := ((List.range 64).find? fun i => (s.groupsOf p.team.uid).all fun g => g.idx != i).getD 0
    let g := draftedGroup p.team s.fresh idx slot items
    let left := items.foldl (fun l i => l.erase i) s.items
    let s1 := { s with items := left, groups := s.groups ++ [g], fresh := s.fresh + 1 }
    let s2 := if p.queue.team.isNone then s1.clearL1 k else s1
    .next (s2.closeQueues p.core)
  | _, _ => .next s

/-! ### Stealing (R242) -/

/-- The FREE items of a SEQ on a die, in the order they were produced. -/
def State.freeItems (s : State) (die seq : Nat) : List Item :=
  s.items.filter fun i => i.free && i.seq == seq && dieOf i.coreOf == die && s.directoryHere i.coreOf

/-- The oldest FREE queue of a SEQ on a die: its core and key; one whose items are all in the pool without a queue comes
last. -/
def State.oldestFree (s : State) (die seq : Nat) : List Item :=
  let all := s.freeItems die seq
  let homes := ((List.range 192).map fun i => die * 192 + i).filter fun c => all.any fun i => i.coreOf == c
  let queues := homes.flatMap fun c =>
    ((s.core c).queues.filter fun q => q.team.isNone && q.seq == seq).map fun q => (c, q)
  let best := queues.foldl (fun (a : Option (Nat × TwillQueue)) x => match a with
    | some y => if x.2.since < y.2.since then some x else some y
    | none => some x) none
  match best with
  | some (c, q) => s.queueItems c q
  | none => match all.head? with
    | some i => all.filter fun j => j.entry == i.entry && j.coreOf == i.coreOf
    | none => []

/-- The longest prefix of some items that a share has room for. -/
def fitItems : Nat → List Item → List Item
  | _, [] => []
  | room, i :: l => if i.units ≤ room then i :: fitItems (room - i.units) l else []

/-- STEAL_REQUEST of die `die` for core `core` and a team of it (`team`). -/
def execStealRequest (s : State) : Out :=
  let k := s.arg.core
  let d := dieOf k
  match s.team s.arg.team with
  | none => .next s
  | some t =>
    let seq := t.info.seq
    if !s.dieUp || t.core != k || !s.takesGroup t || s.slotRoom k == 0 || !(s.freeItems d seq).isEmpty
        || s.steals.any (fun r => r.die == d) then .next s else
    match [(d + 1) % 4, (d + 3) % 4, (d + 2) % 4].find? fun e => !(s.freeItems e seq).isEmpty with
    | none => .next s
    | some e =>
      let p := partOf k
      let n := min 32 (((s.freeItems e seq).length + 1) / 2)
      let got := fitItems ((s.part p).dpoolU - s.poolUsed p) ((s.oldestFree e seq).take n)
      if got.isEmpty then .next s else
      let s1 := { s with
        items := got.foldl (fun l i => l.erase i) s.items
        steals := s.steals ++ [⟨d, p, k, seq, got⟩] }
      .next (((List.range 192).map fun i => e * 192 + i).foldl (fun s c => s.closeQueues c) s1)

/-- STEAL_REPLY of die `die`: the items join the share of the asking partition. -/
def execStealReply (s : State) : Out :=
  match (if s.diesRun then s.steals.find? fun r => r.die == s.arg.die else none) with
  | none => .next s
  | some r =>
    .next ((r.items.foldl (fun (s : State) i => s.inPool i r.part r.core)
      { s with steals := s.steals.filter fun x => x.die != s.arg.die }).openQueues r.core)

/-! ### Between the region and the die pool (R152, R241, R397) -/

/-- Must an item of a core leave the region: its team is out, or the core's agent and drafter are stopped? -/
def State.mustLeave (s : State) (i : Item) : Bool :=
  !(s.core i.coreOf).agentOn
    || (!i.free && s.teams.any fun t => t.uid == i.owner && (t.st == .swapped || t.st == .returning))

def setHome (l : List Item) (i : Item) (h : ItemHome) : List Item := l.map fun j => if j = i then { j with home := h } else j

/-- One item moved to its partition's share of the die pool, if there is room; it keeps its place in the order. -/
def State.toPool (s : State) (i : Item) : State :=
  match i.home with
  | .pool _ _ => s
  | .core k =>
    let p := partOf k
    let at_ := if i.free then k else ((s.team i.owner).map fun t => t.core).getD k
    if s.poolUsed p + i.units ≤ (s.part p).dpoolU then
      { s.inPool i p at_ with items := setHome s.items i (.pool p at_) }
    else s

/-- One item moved back into its core's region, if its queue and its units have room. -/
def State.toRegion (s : State) (i : Item) : Option State :=
  match i.home with
  | .core _ => none
  | .pool _ k =>
    let s1 := s.openFor k i
    if s1.regionTakes k i then some { s1 with items := setHome s1.items i (.core k) } else none

/-- Items back into the region, the head items first. -/
def State.refill (s : State) : List Item → State
  | [] => s
  | i :: l => match s.toRegion i with
    | some s1 => State.refill s1 l
    | none => s

/-- DIE_POOL_RETURN of core `core`: items that must leave go to the pool as room allows; the others come back. -/
def execDiePoolReturn (s : State) : Out :=
  let k := s.arg.core
  if !s.dieUp || !s.directoryHere k then .next s else
  let mine := s.items.filter fun i => i.coreOf == k
  let s1 := (mine.filter s.mustLeave).foldl State.toPool s
  .next (((s1.refill ((s1.items.filter fun i => i.coreOf == k && i.home != .core k).filter fun i => !s.mustLeave i)).closeQueues k).openQueues k)

end Sys2Proof.Machine
end

