-- ==== Sys2Proof/Machine/Tile.lean ====
section
/-! DEFINITION. The TILE members: tile command blocks, accumulator slots and tile-task records (R304 to R325). -/

namespace Sys2Proof.Machine

/-! ### Accumulator slots (R305, R308) -/

def AccSlot.rows (a : AccSlot) : Nat := bitsOf a.status.toNat 8 7
def AccSlot.cols (a : AccSlot) : Nat := bitsOf a.status.toNat 16 7
def AccSlot.setBits (a : AccSlot) (bits : Word) : AccSlot := { a with status := a.status ||| bits }
def AccSlot.clearBits (a : AccSlot) (bits : Word) : AccSlot := { a with status := a.status &&& ~~~bits }
def AccSlot.setRows (a : AccSlot) (n : Nat) : AccSlot :=
  { a with status := (a.status &&& ~~~0x7F00#32) ||| BitVec.ofNat 32 (n % 128 * 2 ^ 8) }
def AccSlot.setCols (a : AccSlot) (n : Nat) : AccSlot :=
  { a with status := (a.status &&& ~~~0x7F0000#32) ||| BitVec.ofNat 32 (n % 128 * 2 ^ 16) }
def accVoid : Word := 0x20#32
def accFail : Word := 0x40#32
/-- The sticky bits [6:0]. -/
def accSticky : Word := 0x7F#32
def AccSlot.isVoid (a : AccSlot) : Bool := a.status.getLsbD 5

/-- Element (i, j) as an interval image. -/
def AccSlot.at (a : AccSlot) (i j : Nat) : DWord := ((a.elems.find? fun e => e.1 == (i, j)).map fun e => e.2).getD 0#64

/-- New elements for some rows and columns, with the events they raise. -/
def AccSlot.region (a : AccSlot) (rows cols : List Nat) (f : Nat → Nat → DWord × Flags) : AccSlot :=
  let cells := rows.flatMap fun i => cols.map fun j => ((i, j), f i j)
  let flags := cells.foldl (fun m c => m ||| c.2.2) 0#6
  { a with
    elems := (a.elems.filter fun e => !(rows.contains e.1.1 && cols.contains e.1.2))
      ++ (cells.filter fun c => c.2.1 != 0#64).map fun c => (c.1, c.2.1)
    status := a.status ||| flags.setWidth 32 }

def State.slot (s : State) (core n : Nat) : AccSlot := (s.core core).acc.get (slotIx n)
def State.putSlot (s : State) (core n : Nat) (a : AccSlot) : State :=
  s.putCore core { s.core core with acc := (s.core core).acc.set (slotIx n) a }
def State.mapSlot (s : State) (core n : Nat) (f : AccSlot → AccSlot) : State := s.putSlot core n (f (s.slot core n))

/-! ### The tile command block (R309, R310) -/

structure Tcb where
  p0 : Nat
  p1 : Nat
  p2 : Nat
  p3 : Nat
  s0 : Nat
  s1 : Nat
  klen : Nat
  af : Nat
  bf : Nat
  rnd : Nat
  acc : Nat
  jtag : Nat
  grp : Nat
  rt : Nat
  spj : Nat
  spn : Nat
  stva : Nat
deriving DecidableEq, Repr

def tcbOf (b : List DWord) : Tcb :=
  { p0 := fieldAt b 0 0 57, p1 := fieldAt b 1 0 57, p2 := fieldAt b 2 0 57, p3 := fieldAt b 3 0 57, s0 := fieldAt b 4 0 32,
    s1 := fieldAt b 4 32 32, klen := fieldAt b 5 0 24, af := fieldAt b 5 24 4, bf := fieldAt b 5 28 4, rnd := fieldAt b 5 32 3,
    acc := fieldAt b 5 36 3, jtag := fieldAt b 5 40 8, grp := fieldAt b 5 40 12, rt := fieldAt b 5 52 8, spj := fieldAt b 6 40 8,
    spn := fieldAt b 6 48 8, stva := fieldAt b 7 0 57 }

/-- The members, by FN. -/
def fnTzero : Nat := 1
def fnTload : Nat := 2
def fnTmma : Nat := 3
def fnTmmav : Nat := 4
def fnTjoin : Nat := 5
def fnTstore : Nat := 6
def fnTksplit : Nat := 7
def fnTscan : Nat := 8
def fnTgrp : Nat := 9
def fnShape : Nat := 16

/-- R310: a legal pair of operand formats of a multiplication. -/
def mulFormats (fn af bf : Nat) : Bool :=
  if fn = fnTmmav then decide (af ≤ 3 ∧ bf ≤ 3)
  else decide ((af ≤ 1 ∧ bf ≤ 1) ∨ (2 ≤ af ∧ af ≤ 4 ∧ 2 ≤ bf ∧ bf ≤ 4) ∨ (5 ≤ af ∧ af ≤ 6 ∧ 5 ≤ bf ∧ bf ≤ 6))
def tileFormat (af : Nat) : Bool := decide (af ≤ 3 ∨ af = 9 ∨ af = 10)

/-- The byte offset of the first doubleword that breaks R309 or R310; fields that a member does not use are
reserved. -/
def tcbBad (fn : Nat) (b : List DWord) : Option Nat :=
  let q := tcbOf b
  let mul := fn == fnTmma || fn == fnTmmav || fn == fnTjoin || fn == fnTgrp
  let addr (i al : Nat) : Bool := fieldAt b i 57 7 != 0 || fieldAt b i 0 57 % al != 0
  let scaleBad (p f : Nat) : Bool := fn == fnTmma && p != 0 && !decide (2 ≤ f ∧ f ≤ 4)
  let bad : List Bool :=
    [ addr 0 4,
      (if fn = fnTksplit then addr 1 8 else if fn = fnTmma ∨ fn = fnTmmav ∨ fn = fnTjoin then addr 1 4 else dwAt b 1 != 0),
      (if fn = fnTksplit then addr 2 1 else if fn = fnTgrp then addr 2 16
        else if fn = fnTmma ∨ fn = fnTmmav then addr 2 4 || scaleBad q.p2 q.af else dwAt b 2 != 0),
      (if fn = fnTmma ∨ fn = fnTmmav then addr 3 4 || scaleBad q.p3 q.bf else dwAt b 3 != 0),
      q.s0 % 4 != 0 || (if mul then q.s1 % 4 != 0 else q.s1 != 0),
      fieldAt b 5 35 1 != 0 || fieldAt b 5 39 1 != 0
        || (if mul then !mulFormats fn q.af q.bf else q.klen != 0 || q.bf != 0)
        || ((fn == fnTload || fn == fnTstore) && !tileFormat q.af) || (fn == fnTksplit && q.af != 0)
        || (if fn = fnTstore then decide (4 < q.rnd) else q.rnd != 0)
        || (if fn = fnTjoin then fieldAt b 5 48 16 != 0 || decide (4 < q.acc)
            else if fn = fnTgrp then fieldAt b 5 60 4 != 0 else fieldAt b 5 40 24 != 0),
      fieldAt b 6 34 6 != 0 || fieldAt b 6 56 8 != 0
        || (if fn = fnTksplit then decide (q.spn < q.spj) else fieldAt b 6 40 16 != 0),
      addr 7 4 ]
  (bad.findIdx? id).map fun i => 8 * i

/-! ### The tile task queue (R321, R326) -/

def Record.entries (r : Record) : Nat := if 11 ≤ r.fn ∧ r.fn < 15 then 2 else 1
def State.queueUsed (s : State) (core : Nat) : Nat :=
  (s.records.filter fun r => r.core == core && s.queued r).foldl (fun n r => n + r.entries) 0
def queueSize : Nat := 32

/-- The 112 bytes of a queue entry (R321), from its FN, its record and the 64 bytes at 0x30. -/
def Record.entry (r : Record) (fn : Nat) (tail : List DWord) : List Byte :=
  let slots := (r.slots.zipIdx).foldl (fun n x => n + x.1 % 8 * 2 ^ (3 * x.2)) 0
  let d0 := fn % 16 + 2 ^ 4 * (r.gslot % 64) + 2 ^ 10 * (r.h % 16) + 2 ^ 14 * (r.step % 4) + 2 ^ 16 * r.tag.toNat
    + 2 ^ 32 * (slots % 2 ^ 12) + 2 ^ 44 * (r.next % 2 ^ 20)
  let d1 := r.dep.toNat + (if r.acq && !r.acquired then 2 ^ 16 else 0) + (if r.rel && !r.released then 2 ^ 17 else 0)
  natBytes 8 d0 ++ natBytes 8 d1 ++ ((List.range 16).flatMap fun h => natBytes 2 (r.dtags.getD h 0#16).toNat)
    ++ ((List.range 8).flatMap fun i => natBytes 8 (tail.getD i 0#64).toNat)

/-- The entries of a record as the queue and a saved context hold them: two for a predictor record, the second with the rest of
its block; a shape record has FN 0 (R321, R326). -/
def Record.image (r : Record) : List Byte :=
  if 11 ≤ r.fn ∧ r.fn < 15 then
    r.entry r.fn (r.block.take 8) ++ ((r.block.drop 8).take 8).flatMap (fun d => natBytes 8 d.toNat) ++ List.replicate 48 0#8
  else r.entry (r.fn % 16) r.block

/-- The handles of a mask that are pending, and the tags of all sixteen (R322). -/
def Group.pendMask (g : Group) (dep : BitVec 16) : BitVec 16 :=
  BitVec.ofNat 16 ((List.range 16).foldl (fun n h => if dep.getLsbD h && g.pendingHandle h then n + 2 ^ h else n) 0)
/-- Has a handle of a mask failed? -/
def Group.failMask (g : Group) (dep : BitVec 16) : Bool :=
  (List.range 16).any fun h => dep.getLsbD h && handleState (g.getH (BitVec.ofNat 6 h)) == 3
def Group.handleTags (g : Group) : List (BitVec 16) := (List.range 16).map fun h => handleTag (g.getH (BitVec.ofNat 6 h))

/-- A record of the issuing path: no handle unless the caller gives one. -/
def Ctx.newRecord (c : Ctx) (s : State) (fn : Nat) (slots : List Nat) (block : List DWord) : Record :=
  { rid := s.fresh, core := c.t.core, team := c.t.uid, gid := c.g.gid, gslot := c.g.slot, fn := fn, hasH := false, h := 0,
    tag := 0#16, step := 0, next := 0, slots := slots, dep := 0#16, pend := 0#16, dtags := [], badDep := false, acq := false, rel := false,
    relSeq := none, acquired := false, block := block, key := c.g.rngKey, ctr := c.g.rngCtr, started := false, eng := none,
    joint := none, entryRead := false, rowOff := 0, gBase := 0, ticketDone := false, stvaDone := false, added := 0, nlist := 0,
    res := [], failed := false, cancelled := false, finished := false, released := false, stopped := false, fault := none }

/-- A record enters the queue. -/
def State.enqueue (s : State) (r : Record) : State := { s with records := s.records ++ [r], fresh := s.fresh + 1 }

/-- REGX for an accumulator name (R378). -/
def accTrap (n : Nat) : TrapRec := groupTrap causeRegx (n + 128)
def Team.accOk (t : Team) (n : Nat) : Bool := accValid (t.acc.get (slotIx n))
def Team.physSlot (t : Team) (n : Nat) : Nat := accSlot (t.acc.get (slotIx n))

/-- The handle-bearing members: guard, handle, block, names, checks, room, then the record (R312, R332). `names`,
`bad` and `dep` read the block; `sync` is its doubleword with DEP and SOID. -/
def issueRecord (i : Instr) (f : FormT) (s : State) (fn eng dws align need sync : Nat)
    (names : List DWord → List Nat) (bad : Ctx → List DWord → Option (BitVec 16)) (after : List DWord → Group → Group) : Out :=
  word i s fun c =>
    if !c.g.n.get f.g.toFin then finish s c c.g
    else if c.g.pendingHandle f.d.toNat then waitAt s c c.g (.handle f.d.toNat)
    else
    let va := c.pairAddr f.a
    withBlock s c va align dws fun s b =>
      match (names b).find? fun n => decide (n < 8) && !c.t.accOk n with
      | some n => takeTrap s c (accTrap n)
      | none =>
      match bad c b with
      | some info => takeTrap s c ⟨causeCmdx, none, info, BitVec.ofNat 64 va⟩
      | none =>
      if queueSize < s.queueUsed c.t.core + need then waitAt s c c.g .stall else
      let dep : BitVec 16 := BitVec.ofNat 16 (fieldAt b sync 0 16)
      let r := if f.rel && fieldAt b sync 33 1 == 1 then s.takeSeq c.part (fieldAt b sync 16 12) else (none, s)
      let rec' : Record :=
        { c.newRecord s fn ((names b).map c.t.physSlot) b with
          hasH := true, h := f.d.toNat, tag := c.g.tag, dep := dep, pend := c.g.pendMask dep, dtags := c.g.handleTags,
          badDep := c.g.failMask dep,
          acq := f.acq, rel := f.rel, relSeq := r.1 }
      finish (r.2.enqueue rec') c (after b (c.g.newHandle f.d eng))

/-- A TILE member with a command block. -/
def tileWord (i : Instr) (f : FormT) (s : State) (fn : Nat) (extra : Ctx → Option (BitVec 16))
    (after : List DWord → Group → Group) : Out :=
  issueRecord i f s fn 2 8 64 1 6
    (fun b => let a := (tcbOf b).acc
              if fn = fnTjoin then [a, a + 1, a + 2, a + 3] else [a])
    (fun c b => match tcbBad fn b with
      | some o => some (BitVec.ofNat 16 o)
      | none => extra c)
    after

def execTload (f : FormT) (s : State) : Out := tileWord (.tload f) f s fnTload (fun _ => none) fun _ g => g
def execTmma (f : FormT) (s : State) : Out := tileWord (.tmma f) f s fnTmma (fun _ => none) fun _ g => g
def execTmmav (f : FormT) (s : State) : Out := tileWord (.tmmav f) f s fnTmmav (fun _ => none) fun _ g => g
def execTksplit (f : FormT) (s : State) : Out := tileWord (.tksplit f) f s fnTksplit (fun _ => none) fun _ g => g
def execTgrp (f : FormT) (s : State) : Out := tileWord (.tgrp f) f s fnTgrp (fun _ => none) fun _ g => g

/-- TJOIN, from a team of a quad gang of four (R312). -/
def execTjoin (f : FormT) (s : State) : Out :=
  tileWord (.tjoin f) f s fnTjoin
    (fun c => if c.t.info.gang.any (fun g => g.dom == 3 && g.size == 4) = true then none else some Config.joinInfo)
    fun _ g => g

/-- TSTORE: formats 0 to 3 take 128 positions of the group's stream at issue (R314). -/
def execTstore (f : FormT) (s : State) : Out :=
  tileWord (.tstore f) f s fnTstore (fun _ => none) fun b g => if (tcbOf b).af ≤ 3 then g.drew 128 else g

/-- A member without a handle, on the slot of a name (R313, R314). -/
def slotWord (s : State) (c : Ctx) (fn n : Nat) (block : List DWord) : Out :=
  if !c.t.accOk n then takeTrap s c (accTrap n)
  else if queueSize < s.queueUsed c.t.core + 1 then waitAt s c c.g .stall
  else finish (s.enqueue (c.newRecord s fn [c.t.physSlot n] block)) c c.g

/-- A shape word that traps with ILLOP (R313). -/
def shapeBad (w : Nat) : Bool :=
  bitsOf w 15 17 != 0 || bitsOf w 7 1 != 0 || bitsOf w 0 7 == 0 || decide (64 < bitsOf w 0 7) || bitsOf w 8 7 == 0
    || decide (64 < bitsOf w 8 7)

/-- TSHAPE of an accumulator: a shape record; the shape word's ILLOP comes before REGX (R103, R313). -/
def execTshapeAcc (f : FormDA) (s : State) : Out :=
  startWord (.tshapeAcc f) s (fun c => shapeBad (c.g.getS f.a).toNat) (fun _ => true) fun c =>
    slotWord s c fnShape f.d.toNat [BitVec.ofNat 64 (c.g.getS f.a).toNat]

/-- TSHAPE of a predicate, at once (R313). -/
def execTshapePred (f : FormShapeP) (s : State) : Out :=
  word (.tshapePred f) s fun c => finish s c (c.g.setN (f.n.setWidth 6) (c.g.getS f.a != 0#32))

def execTzero (f : FormDG) (s : State) : Out :=
  word (.tzero f) s fun c => if c.g.n.get f.g.toFin then slotWord s c fnTzero f.d.toNat [] else finish s c c.g
def execTscan (f : FormDG) (s : State) : Out :=
  word (.tscan f) s fun c => if c.g.n.get f.g.toFin then slotWord s c fnTscan f.d.toNat [] else finish s c c.g

/-- The four cores of a core's quad. -/
def quadCores (core : Nat) : List Nat := (List.range 4).map fun i => core / 4 * 4 + i

/-- TWAKE: the quad's sub-arrays powered, their idle timers restarted (R320). -/
def execTwake (f : FormC) (s : State) : Out :=
  word (.twake f) s fun c =>
    finish ((quadCores c.t.core).foldl (fun s k => s.putCore k { s.core k with arraysOn := true, arraysIdle := s.now }) s) c c.g

end Sys2Proof.Machine
end

