-- ==== Sys2Proof/Machine/Engine.lean ====
section
/-! DEFINITION. The matrix engines and the Dovetail scheduler: readiness, starting, the steps of a tile record and its
completion (R307, R308, R314 to R325). -/

namespace Sys2Proof.Machine

def State.record (s : State) (rid : Nat) : Option Record := s.records.find? fun r => r.rid == rid
def State.putRecord (s : State) (r : Record) : State :=
  { s with records := s.records.map fun x => if x.rid = r.rid then r else x }
def Record.part (r : Record) : Nat := partOf r.core
def Record.tcb (r : Record) : Tcb := tcbOf r.block
/-- The first slot that a record names. -/
def Record.slot (r : Record) : Nat := r.slots.headD 0

/-! ### An engine's accesses (R323, R324) -/

/-- `n` little-endian bytes read by a record's engine. -/
def State.engineNat (s : State) (core part va n : Nat) : Except EngStop Nat :=
  match (List.range n).mapM fun i => s.engineByte (recordParty core) core part (va + i) false with
  | .ok bs => .ok (bytesNat (bs.map fun b => b.1))
  | .error e => .error e

/-- What the fetch unit's reads of some spans of bytes leave: their lines in their slices (R323). -/
def State.fetchSpans (s : State) (core part : Nat) (spans : List (Nat × Nat)) : State :=
  (spans.flatMap fun p => (List.range ((p.1 + p.2 + 1023) / 1024 - p.1 / 1024)).map fun i => max p.1 ((p.1 / 1024 + i) * 1024)).foldl
    (fun s va => match s.reach core part va .read with
      | .page x => s.readHome x (x.phys va)
      | _ => s) s

/-- Bytes written by an engine, or the first fault; nothing is written where one is met. -/
def State.engineWrite (s : State) (core part va : Nat) (bs : List Byte) : Except EngStop State :=
  match s.canWrite core part va bs.length with
  | some t => .error (.fault ⟨part, t.fa.toNat, .write⟩)
  | none => if s.writeLost core part va bs.length then .error .fails else .ok (s.partyPut (recordParty core) core part va bs)

/-- Writes one after another. -/
def State.engineWrites (s : State) (core part : Nat) : List (Nat × List Byte) → Except EngStop State
  | [] => .ok s
  | (va, bs) :: rest =>
    match s.engineWrite core part va bs with
    | .ok s1 => State.engineWrites s1 core part rest
    | .error e => .error e

/-- What an access that could not be made does to its record (R324). -/
def State.stopRecord (s : State) (r : Record) : EngStop → State
  | .fault f => s.putRecord { r with fault := some f }
  | .fails => s.putRecord { r with failed := true }

/-! ### Readiness (R317, R318, R322, R326) -/

/-- Is a handle still pending for a command whose group has retired? -/
def State.handleBusy (s : State) (gid h : Nat) (tag : BitVec 16) : Bool :=
  s.records.any (fun x => x.hasH && x.gid == gid && x.h == h && x.tag == tag)
    || s.copies.any fun x => match x.owner with
      | .handle _ g k t => g == gid && k == h && t == tag
      | _ => false

/-- A named handle that was pending at issue and is so still. -/
def State.depHeld (s : State) (r : Record) (h : Nat) : Bool :=
  r.pend.getLsbD h && (match s.group r.gid with
    | some g => let w := g.getH (BitVec.ofNat 6 h); handleState w == 1 && handleTag w == r.dtags.getD h 0#16
    | none => s.handleBusy r.gid h (r.dtags.getD h 0#16))

def State.depsOver (s : State) (r : Record) : Bool := (List.range 16).all fun h => !s.depHeld r h
def State.depsFailed (_s : State) (r : Record) : Bool := r.badDep

/-- Every earlier record of its queue that names one of its slots has completed. -/
def State.slotTurn (s : State) (r : Record) : Bool :=
  s.records.all fun x => !(x.core == r.core && s.queued x && decide (x.rid < r.rid) && x.slots.any r.slots.contains)

/-- Engine and stop conditions that do not depend on readiness: a team that runs, nothing it waits for. -/
def State.recordRuns (s : State) (r : Record) : Bool :=
  !r.stopped && r.fault.isNone && (s.part r.part).st == .running && s.svc.diesOn && !s.svc.stopped

/-- Members that need no engine (R322). -/
def Record.noEngine (r : Record) : Bool := r.fn == fnShape || r.fn == fnTzero || r.fn == fnTscan
/-- Members of the predictor engine (R326). -/
def Record.onPredictor (r : Record) : Bool := decide (11 ≤ r.fn ∧ r.fn ≤ 13)

/-- Records that the scheduler may still start, or start again after a stop. -/
def Record.startable (r : Record) : Bool :=
  !r.finished && !(r.failed && r.started) && r.eng.isNone && !(r.noEngine && r.started)

/-- The engines of a quad in use: 0 to 3 are its cores' matrix engines, 4 its predictor engine. -/
def State.enginesUsed (s : State) (quad : Nat) : List Nat :=
  (s.records.filter fun r => quadOf r.core == quad).filterMap fun r => r.eng
def State.freeEngines (s : State) (quad : Nat) : List Nat := (List.range 4).filter fun e => !(s.enginesUsed quad).contains e

/-- The ticket of a TKSPLIT as its bank holds it. -/
def State.ticket (s : State) (r : Record) : Except EngStop Nat := s.engineNat r.core r.part r.tcb.p1 8
def State.ticketTurn (s : State) (r : Record) : Bool :=
  r.started || (match s.ticket r with
    | .ok n => n == r.tcb.p2 + r.tcb.spj
    | .error .fails => true
    | .error _ => false)

/-- The SEQ of a record's launch. -/
def State.recordSeq (s : State) (r : Record) : Nat := ((s.team r.team).map fun t => t.info.seq).getD 0

/-- The records of a joint with `r`: those it has, or the first unstarted one of each core of the quad with its SEQ
and JTAG (R317). -/
def State.joinPartners (s : State) (r : Record) : List Record :=
  match r.joint with
  | some j => s.records.filter fun x => x.joint == some j
  | none => (quadCores r.core).filterMap fun k => s.records.find? fun x =>
      x.core == k && x.fn == fnTjoin && s.queued x && x.joint.isNone && !x.started && !x.cancelled
        && s.recordSeq x == s.recordSeq r && x.tcb.jtag == r.tcb.jtag

/-- Has the joint of a record formed (R317): it has a part in each queue of the quad, and they agree in KLEN and formats. -/
def State.formed (s : State) (r : Record) : Bool :=
  let ps := s.joinPartners r
  r.fn == fnTjoin && ps.length == 4 && (ps.any fun x => x.rid == r.rid)
    && ps.all fun x => x.tcb.klen == r.tcb.klen && x.tcb.af == r.tcb.af && x.tcb.bf == r.tcb.bf

/-- Is a record ready (R322), the failure of an input and a cancellation apart? -/
def State.inTurn (s : State) (r : Record) : Bool := s.recordRuns r && s.slotTurn r && (r.started || s.depsOver r)

/-- A record that ends without running: cancelled, an input failed, or its ticket refused (R318, R322). -/
def State.doomed (s : State) (r : Record) : Bool := !r.started && (r.cancelled || r.failed || s.depsFailed r)

/-- What starting a record needs beside its turn. -/
def State.canStart (s : State) (r : Record) : Bool :=
  r.startable && s.recordRuns r && s.slotTurn r &&
  (if s.doomed r then r.cancelled || r.failed || s.depsOver r
   else s.inTurn r && !r.cancelled &&
     (if r.noEngine then true
      else if r.onPredictor then !(s.enginesUsed (quadOf r.core)).contains 4
      else if r.fn = fnTjoin then
        (s.joinPartners r).length == 4 && (s.joinPartners r).all (fun x => s.inTurn x && !s.doomed x)
          && (s.freeEngines (quadOf r.core)).length == 4
      else !(s.freeEngines (quadOf r.core)).isEmpty && (r.fn != fnTksplit || s.ticketTurn r)))

/-! ### Starting (R317, R318, R322) -/

/-- The joint starts, or fails where its members differ (R317). -/
def State.startJoint (s : State) (r : Record) : State :=
  let ps := s.joinPartners r
  let same := ps.all fun x => x.tcb.klen == r.tcb.klen && x.tcb.af == r.tcb.af && x.tcb.bf == r.tcb.bf
  let f (x : Record) : Record :=
    if ps.any (fun p => p.rid == x.rid) = true then
      { x with started := true, joint := some (x.joint.getD s.fresh), eng := if same then some (x.core % 4) else none,
               failed := x.failed || !same }
    else x
  { s with records := s.records.map f, fresh := s.fresh + 1 }

/-- Start one record; one that does not run changes no memory (R322). -/
def State.startRecord (s : State) (r : Record) : State :=
  if s.doomed r then s.putRecord { r with started := true, failed := true, stvaDone := true, ticketDone := true }
  else if r.noEngine then s.putRecord { r with started := true }
  else if r.onPredictor then s.putRecord { r with started := true, eng := some 4 }
  else if r.fn = fnTjoin then s.startJoint r
  else
    let run := s.putRecord { r with started := true, eng := (s.freeEngines (quadOf r.core)).head? }
    if r.fn = fnTksplit ∧ !r.started then
      match s.ticket r with
      | .error .fails => s.putRecord { r with started := true, failed := true }
      | _ => run
    else run

/-- A TKSPLIT whose ticket page is not resident goes to the fault service (R318). -/
def State.askTickets (s : State) (quad : Nat) : State :=
  s.records.foldl (fun s r =>
    if quadOf r.core = quad ∧ r.fn = fnTksplit ∧ !r.started ∧ !s.doomed r ∧ s.recordRuns r then
      match s.ticket r with
      | .error (.fault f) => s.putRecord { r with fault := some f }
      | _ => s
    else s) s

/-- DOVETAIL_START: the scheduler of the quad of core `core` starts the ready record that was issued earliest. -/
def execDovetailStart (s : State) : Out :=
  if !s.diesRun then .next s else
  let quad := quadOf (s.arg.core % 768)
  let s := s.askTickets quad
  match s.records.find? fun r => quadOf r.core == quad && s.canStart r with
  | some r => .next (s.startRecord r)
  | none => .next s

/-! ### Operands (R307, R310, R315, R316) -/

/-- Element `k` of a row of a narrow format. -/
def State.element (s : State) (r : Record) (p : PFmt) (row k : Nat) : Except EngStop Nat :=
  if pfmtBits p = 4 then
    match s.engineNat r.core r.part (row + k / 2) 1 with
    | .ok n => .ok (bitsOf n (4 * (k % 2)) 4)
    | .error e => .error e
  else s.engineNat r.core r.part (row + k * (pfmtBits p / 8)) (pfmtBits p / 8)

/-- The scale of element `k` of row `i`; 1 where the address is 0; none for 0xFF (R76). -/
def State.scale (s : State) (r : Record) (base i k : Nat) : Except EngStop (Option Itv) :=
  if base = 0 then .ok (some (itvPoint dyOne)) else
  match s.engineNat r.core r.part (base + i * ((r.tcb.klen + 31) / 32) + k / 32) 1 with
  | .ok n => .ok (pointItv .e8m0 n)
  | .error e => .error e

/-- An exact product; none where an operand is invalid. -/
def prodOpt : Option Itv → Option Itv → Option Itv
  | some a, some b => some (itvMul a b)
  | _, _ => none

/-- Element `k` of row `i` of an operand, with its scale. -/
def State.operand (s : State) (r : Record) (p : PFmt) (base stride scales i k : Nat) : Except EngStop (Option Itv) :=
  match s.element r p (base + i * stride) k, s.scale r scales i k with
  | .ok n, .ok sc => .ok (prodOpt (pointItv p n) sc)
  | .error e, _ => .error e
  | _, .error e => .error e

/-- The product indices of a chunk that are inside the edge. -/
def chunkIx (klen c : Nat) : List Nat := (List.range 64).filterMap fun q => if 64 * c + q < klen then some (64 * c + q) else none

/-- An operand's rows over a chunk. -/
def State.operandRows (s : State) (r : Record) (p : PFmt) (base stride scales n c : Nat) :
    Except EngStop (List (List (Option Itv))) :=
  (List.range n).mapM fun i => (chunkIx r.tcb.klen c).mapM fun k => s.operand r p base stride scales i k

/-- One element after a chunk whose products are exact (R315, R86). -/
def cellExact (c : DWord) (ps : List (Option Itv)) : DWord × Flags :=
  let x := (readF32 c).1
  if itvIsEmpty x then (c, 0#6)
  else if ps.any Option.isNone then (imgEmpty, fINV)
  else writeF32 (itvAdd x (itvSum (ps.filterMap id)))

/-- One element after a chunk that is summed by the tree (R315, R85): the products rounded, with their events. -/
def cellTree (c : DWord) (ps : List (Option (Itv × Flags))) : DWord × Flags :=
  let x := (readF32 c).1
  if itvIsEmpty x then (c, 0#6)
  else if ps.any Option.isNone then (imgEmpty, fINV)
  else
    let t := oplusTree 6 (ps.filterMap id ++ List.replicate (64 - ps.length) (itvZero, 0#6))
    let y := oplus (x, 0#6) t
    ((writeF32 y.1).1, y.2)

/-- The products of a row of A and a column of B. -/
def products (a b : List (Option Itv)) : List (Option Itv) := (a.zip b).map fun e => prodOpt e.1 e.2

/-- One chunk of A × B into a slot (R315). -/
def State.mulChunk (s : State) (r : Record) (slot aBase aStride bBase bStride c : Nat) : Except EngStop State :=
  let q := r.tcb
  let x := s.slot r.core slot
  let sc := r.fn == fnTmma
  match s.operandRows r (pfmtOfCode q.af) aBase aStride (if sc then q.p2 else 0) x.rows c,
        s.operandRows r (pfmtOfCode q.bf) bBase bStride (if sc then q.p3 else 0) x.cols c with
  | .ok a, .ok b =>
    let cell (i j : Nat) : DWord × Flags :=
      let ps := products (a.getD i []) (b.getD j [])
      if 2 ≤ q.af then cellExact (x.at i j) ps else cellTree (x.at i j) (ps.map fun p => p.map roundItv)
    .ok (s.putSlot r.core slot (x.region (List.range x.rows) (List.range x.cols) cell))
  | .error e, _ => .error e
  | _, .error e => .error e

/-! ### TMMAV (R316) -/

/-- A point element: a number, an infinity, or a NaN. -/
inductive PointVal where
  | num (d : Dy)
  | inf
  | nan
deriving DecidableEq, Repr

def pointVal (p : PFmt) (b : Nat) : PointVal :=
  match pointItv p b with
  | none => .nan
  | some (.mk (.fin l) (.fin _)) => .num l
  | some _ => .inf

/-- The product interval of midpoint-radius operands; none where it is invalid. -/
def mmavProduct (af bf : PFmt) (am ar bm br : Nat) : Option (Itv × Flags) :=
  match pointVal af am, pointVal af ar, pointVal bf bm, pointVal bf br with
  | .num m, .num x, .num n, .num y =>
    let neg := decide (x.m < 0) || decide (y.m < 0)
    let p1 := dyMul m n
    let w := dyAdd (dyMul (dyAbs m) (dyAbs y)) (dyMul (dyAbs x) (dyAdd (dyAbs n) (dyAbs y)))
    let p := roundItv (.mk (.fin (dySub p1 w)) (.fin (dyAdd p1 w)))
    some (p.1, p.2 ||| flagIf neg fINV)
  | a, b, c, d =>
    if [a, b, c, d].contains .nan || (af == .e5m2 && (a == .inf || b == .inf)) || (bf == .e5m2 && (c == .inf || d == .inf))
    then none else some ((readF32 (Config.mmavInfinity am ar bm br)).1, 0#6)

/-- An operand's element codes over a chunk. -/
def State.codeRows (s : State) (r : Record) (p : PFmt) (base stride n c : Nat) : Except EngStop (List (List Nat)) :=
  (List.range n).mapM fun i => (chunkIx r.tcb.klen c).mapM fun k => s.element r p (base + i * stride) k

def State.mmavChunk (s : State) (r : Record) (c : Nat) : Except EngStop State :=
  let q := r.tcb
  let x := s.slot r.core r.slot
  let af := pfmtOfCode q.af
  let bf := pfmtOfCode q.bf
  match s.codeRows r af q.p0 q.s0 x.rows c, s.codeRows r af q.p2 q.s0 x.rows c,
        s.codeRows r bf q.p1 q.s1 x.cols c, s.codeRows r bf q.p3 q.s1 x.cols c with
  | .ok am, .ok ar, .ok bm, .ok br =>
    let cell (i j : Nat) : DWord × Flags :=
      cellTree (x.at i j) ((((am.getD i []).zip (ar.getD i [])).zip ((bm.getD j []).zip (br.getD j []))).map fun e =>
        mmavProduct af bf e.1.1 e.1.2 e.2.1 e.2.2)
    .ok (s.putSlot r.core r.slot (x.region (List.range x.rows) (List.range x.cols) cell))
  | .error e, _, _, _ => .error e
  | _, .error e, _, _ => .error e
  | _, _, .error e, _ => .error e
  | _, _, _, .error e => .error e

/-! ### Memory tiles (R307, R313, R314, R318) -/

/-- The size of an element of a memory tile. -/
def tileSize (af : Nat) : Nat :=
  if af ≤ 1 then 2 else if af ≤ 3 then 1 else if af = 9 then 8 else 4

/-- A memory element as TLOAD takes it. -/
def tileIn (af n : Nat) : DWord × Flags :=
  if af ≤ 3 then pointF32 (pfmtOfCode af) n else if af = 9 then canonF32 n else mrcDecode n

/-- A slot element as TSTORE writes it. -/
def tileOut (af rnd : Nat) (draw : Word) (e : DWord) : Nat × Flags :=
  if af ≤ 3 then
    let p := toPoint (pfmtOfCode af) ((rndOf rnd).getD .ne) draw (readF32 e).1
    (p.bits, p.flags)
  else if af = 9 then (e.toNat, 0#6) else (mrcEncode (readF32 e).1, 0#6)

/-- The rows of a block, and those of them inside the edge. -/
def blockRows (b : Nat) : List Nat := (List.range 8).map fun i => 8 * b + i

def tileAddr (q : Tcb) (i j : Nat) : Nat := q.p0 + i * q.s0 + j * tileSize q.af

/-- Block `b` of a TLOAD; the first clears the sticky bits. -/
def State.loadBlock (s : State) (r : Record) (b : Nat) : Except EngStop State :=
  let q := r.tcb
  let x := s.slot r.core r.slot
  let rows := (blockRows b).filter fun i => decide (i < x.rows)
  match rows.mapM fun i => (List.range x.cols).mapM fun j => s.engineNat r.core r.part (tileAddr q i j) (tileSize q.af) with
  | .error e => .error e
  | .ok m =>
    let x := if b = 0 then x.clearBits accSticky else x
    let cell (i j : Nat) : DWord × Flags :=
      match (m.getD (i - 8 * b) [])[j]? with
      | some n => tileIn q.af n
      | none => (0#64, 0#6)
    .ok (s.putSlot r.core r.slot (x.region (blockRows b) (List.range 64) cell))

/-- Block `b` of a TSTORE; a slot with VOID set writes no output (R319). -/
def State.storeBlock (s : State) (r : Record) (b : Nat) : Except EngStop State :=
  let q := r.tcb
  let x := s.slot r.core r.slot
  if x.isVoid then .ok s else
  let cells := ((blockRows b).filter fun i => decide (i < x.rows)).flatMap fun i => (List.range x.cols).map fun j =>
    (tileAddr q i j, tileOut q.af q.rnd (stream r.key (r.ctr + BitVec.ofNat 64 (2 * i + j / 32)) (j % 32)) (x.at i j))
  match s.engineWrites r.core r.part (cells.map fun c => (c.1, natBytes (tileSize q.af) c.2.1)) with
  | .error e => .error e
  | .ok s1 => .ok (s1.mapSlot r.core r.slot fun y => y.setBits ((cells.foldl (fun m c => m ||| c.2.2) 0#6).setWidth 32))

/-- Block `b` of a TKSPLIT: split 0 is copied, a later one merged into what memory holds. -/
def State.mergeBlock (s : State) (r : Record) (b : Nat) : Except EngStop State :=
  let q := r.tcb
  let x := s.slot r.core r.slot
  if x.isVoid then .ok s else
  let ixs := ((blockRows b).filter fun i => decide (i < x.rows)).flatMap fun i => (List.range x.cols).map fun j => (i, j)
  let addr (e : Nat × Nat) : Nat := q.p0 + e.1 * q.s0 + e.2 * 8
  let olds : Except EngStop (List Nat) :=
    if q.spj = 0 then .ok (ixs.map fun _ => 0) else ixs.mapM fun e => s.engineNat r.core r.part (addr e) 8
  match olds with
  | .error e => .error e
  | .ok m =>
    let new (e : (Nat × Nat) × Nat) : DWord × Flags :=
      if q.spj = 0 then (x.at e.1.1 e.1.2, 0#6) else
      let o := readF32 (BitVec.ofNat 64 e.2)
      let y := oplus o ((readF32 (x.at e.1.1 e.1.2)).1, 0#6)
      ((writeF32 y.1).1, y.2)
    let cells := (ixs.zip m).map fun e => (addr e.1, new e)
    match s.engineWrites r.core r.part (cells.map fun c => (c.1, natBytes 8 c.2.1.toNat)) with
    | .error e => .error e
    | .ok s1 => .ok (s1.mapSlot r.core r.slot fun y => y.setBits ((cells.foldl (fun m c => m ||| c.2.2) 0#6).setWidth 32))

/-- TSCAN: the left fold of each row (R314). -/
def AccSlot.scanned (x : AccSlot) : AccSlot :=
  let row (i : Nat) : List (DWord × Flags) :=
    ((List.range x.cols).foldl (fun (a : List (DWord × Flags) × Option DWord) j =>
      match a.2 with
      | none => (a.1 ++ [(x.at i j, 0#6)], some (x.at i j))
      | some p =>
        let y := oplus ((readF32 p).1, 0#6) ((readF32 (x.at i j)).1, 0#6)
        let w := (writeF32 y.1).1
        (a.1 ++ [(w, y.2)], some w)) ([], none)).1
  let m := (List.range x.rows).map row
  x.region (List.range x.rows) (List.range x.cols) fun i j => (m.getD i []).getD j (0#64, 0#6)

/-! ### Steps (R315 to R319, R325) -/

/-- Powering up the sub-arrays delays the first chunk (R320). DEDUCED, safe: log entry 61. -/
def State.wakeArrays (s : State) (core : Nat) : State :=
  let c := s.core core
  { s.putCore core { c with arraysOn := true, arraysIdle := s.now } with now := if c.arraysOn then s.now else s.now + 180 }

/-- The core whose engine runs a record. -/
def Record.engineCore (r : Record) : Nat := r.core / 4 * 4 + min 3 (r.eng.getD 0)

/-- TGRP reads its group's entry when the engine starts (R319). -/
def State.groupEntry (s : State) (r : Record) : Except EngStop (State × Record) :=
  let q := r.tcb
  match s.engineNat r.core r.part (q.p2 + 16 * q.grp) 16 with
  | .error e => .error e
  | .ok n =>
    if bitsOf n 121 7 ≠ 0 then .error .fails else
    let x := s.slot r.core r.slot
    let m := min x.rows (bitsOf n 32 32 - 64 * q.rt)
    if m = 0 then .ok (s.putSlot r.core r.slot (x.setBits accVoid), { r with entryRead := true, finished := true })
    else .ok (s.putSlot r.core r.slot ((x.setRows m).clearBits accVoid),
      { r with entryRead := true, rowOff := bitsOf n 0 32 + 64 * q.rt, gBase := bitsOf n 64 57 })

/-- A record one chunk or block further; it has finished when none is left. -/
def Record.advance (r : Record) (units : Nat) : Record :=
  { r with next := r.next + 1, finished := decide (units ≤ r.next + 1) }

def chunksOf (klen : Nat) : Nat := (klen + 63) / 64

/-- One chunk of every part of a joint (R317). -/
def State.joinChunk (s : State) (ps : List Record) : Except EngStop State :=
  ps.foldlM (fun s r =>
    let j := (r.core + r.step) % 4
    match ps.find? fun x => x.core % 4 == j with
    | none => .error .fails
    | some o => s.mulChunk r (r.slots.getD j 0) r.tcb.p0 r.tcb.s0 o.tcb.p1 o.tcb.s1 r.next) s

/-- All four parts at the next chunk, or at the next step of the rotation. -/
def Record.joinNext (r : Record) : Record :=
  if r.next + 1 < chunksOf r.tcb.klen then { r with next := r.next + 1 }
  else { r with next := 0, step := r.step + 1, finished := decide (4 ≤ r.step + 1) }

def State.stepJoint (s : State) (r : Record) : State :=
  let ps := s.joinPartners r
  if !ps.all (fun x => s.recordRuns x && (x.acquired || !x.acq) && x.eng.isSome && !x.failed && !x.cancelled) then s
  else if r.tcb.klen = 0 then ps.foldl (fun s x => s.putRecord { x with finished := true }) s
  else
    match s.joinChunk ps with
    | .ok s1 => ps.foldl (fun s x => s.putRecord x.joinNext) (ps.foldl (fun s x => s.wakeArrays x.engineCore) s1)
    | .error e => s.stopRecord r e

/-- One step of a record that multiplies. -/
def State.stepMul (s : State) (r : Record) : State :=
  let q := r.tcb
  if q.klen ≤ 64 * r.next then s.putRecord { r with finished := true } else
  let out :=
    if r.fn = fnTmmav then s.mmavChunk r r.next
    else if r.fn = fnTgrp then s.mulChunk r r.slot (q.p0 + r.rowOff * q.s0) q.s0 r.gBase q.s1 r.next
    else s.mulChunk r r.slot q.p0 q.s0 q.p1 q.s1 r.next
  match out with
  | .ok s1 => (s1.wakeArrays r.engineCore).putRecord (r.advance (chunksOf q.klen))
  | .error e => s.stopRecord r e

def State.stepBlock (s : State) (r : Record) (out : Except EngStop State) : State :=
  match out with
  | .ok s1 => s1.putRecord (r.advance 8)
  | .error e => s.stopRecord r e

/-- May the engine take a step of a record now? -/
def State.mayStep (s : State) (r : Record) : Bool :=
  s.recordRuns r && r.started && !r.finished && !r.failed && !r.cancelled && (r.acquired || !r.acq)
    && (r.noEngine || r.eng.isSome)

/-- The bytes of a chunk of an operand's rows. -/
def Tcb.span (q : Tcb) (code base stride n c : Nat) : List (Nat × Nat) :=
  let bits := pfmtBits (pfmtOfCode code)
  (List.range n).map fun i => (base + i * stride + 8 * bits * c, (min 64 (q.klen - 64 * c) * bits + 7) / 8)

/-- The spans of memory that a record's next step reads (R307, R315 to R318). -/
def State.spans (s : State) (r : Record) : List (Nat × Nat) :=
  let q := r.tcb
  let x := s.slot r.core r.slot
  let a (base : Nat) : List (Nat × Nat) := q.span q.af base q.s0 x.rows r.next
  let b (base : Nat) : List (Nat × Nat) := q.span q.bf base q.s1 x.cols r.next
  let block : List (Nat × Nat) := ((blockRows r.next).filter fun i => decide (i < x.rows)).map fun i => (q.p0 + i * q.s0, x.cols * tileSize q.af)
  if r.fn = fnTmma then a q.p0 ++ b q.p1
  else if r.fn = fnTmmav then a q.p0 ++ a q.p2 ++ b q.p1 ++ b q.p3
  else if r.fn = fnTgrp then (if r.entryRead then a (q.p0 + r.rowOff * q.s0) ++ b r.gBase else [(q.p2 + 16 * q.grp, 16)])
  else if r.fn = fnTload then block
  else if r.fn = fnTksplit ∧ q.spj ≠ 0 then ((blockRows r.next).filter fun i => decide (i < x.rows)).map fun i => (q.p0 + i * q.s0, x.cols * 8)
  else if r.fn = fnTjoin then a q.p0 ++ b q.p1
  else []

/-- A record that reads its slots finds an uncorrectable error in one (R274). -/
def State.slotsBad (s : State) (r : Record) : Bool := r.fn != fnTload && r.slots.any fun n => (s.slot r.core n).bad

/-- TILE_RECORD_STEP of record `item`. -/
def execTileRecordStep (s : State) : Out :=
  match s.record s.arg.item with
  | none => .next s
  | some r =>
    if !s.mayStep r || (11 ≤ r.fn && r.fn < 16) then .next s
    else
    let s := s.fetchSpans r.core r.part (s.spans r)
    if r.fn = fnShape then
      .next ((s.mapSlot r.core r.slot fun x => (x.setRows (fieldAt r.block 0 0 7)).setCols (fieldAt r.block 0 8 7)).putRecord
        { r with finished := true })
    else if r.fn ≠ fnTzero ∧ s.slotsBad r = true then .next (s.putRecord { r with failed := true })
    else if r.fn = fnTzero then
      .next ((s.mapSlot r.core r.slot fun x => { x.clearBits accSticky with elems := [], bad := false }).putRecord { r with finished := true })
    else if r.fn = fnTscan then .next ((s.mapSlot r.core r.slot AccSlot.scanned).putRecord { r with finished := true })
    else if r.fn = fnTload then .next (s.stepBlock r (s.loadBlock r r.next))
    else if r.fn = fnTstore then .next (s.stepBlock r (s.storeBlock r r.next))
    else if r.fn = fnTksplit then .next (s.stepBlock r (s.mergeBlock r r.next))
    else if r.fn = fnTjoin then .next (s.stepJoint r)
    else if r.fn = fnTgrp ∧ !r.entryRead then
      match s.groupEntry r with
      | .ok (s1, r1) => .next (s1.putRecord r1)
      | .error e => .next (s.stopRecord r e)
    else .next (s.stepMul r)

/-! ### Completion (R305, R306, R317, R318, R324) -/

/-- The observer mask of a record's command block (R309, R328). -/
def Record.obs (r : Record) : BitVec 5 := BitVec.ofNat 5 (bitsOf r.soidWord 28 5)

/-- Perform a record's release, if it has one and its turn has come (R323, R352, R355). -/
def State.releaseRecord (s : State) (r : Record) : State × Record :=
  let p := recordParty r.core
  let free := s.releaseBy p r.part r.soid r.obs
  if !r.rel || r.released then (s, { r with released := true })
  else if !r.sov then (s.releaseMask p r.obs, { r with released := true })
  else match r.relSeq with
    | none => (free, { r with released := true })
    | some n => if (s.rbEntry r.part r.soid).rels = n then (free, { r with released := true }) else (s, r)

/-- The acquire of a record, before its first read (R323, R352). -/
def State.acquireRecord (s : State) (r : Record) : State :=
  let w : Station := .core r.core
  (if r.sov then s.acquireFor w r.part r.soid r.obs else s.acquireMask w r.obs).putRecord { r with acquired := true }

/-- The state with a record gone and its handle ended. -/
def State.endRecord (s : State) (r : Record) : State :=
  let s1 := { s with records := s.records.filter fun x => x.rid != r.rid }
  if r.hasH then s1.endHandle r.gid r.h (if 11 ≤ r.fn ∧ r.fn < 15 then 3 else 2) r.tag (r.failed || r.cancelled) else s1

/-- The STVA of a record's block, of a tile or of a PFFN. DEDUCED, unsafe: log entry 52. -/
def Record.stva (r : Record) : Nat :=
  if r.fn = 14 then fieldAt r.block 11 0 57 else if 11 ≤ r.fn ∨ r.noEngine then 0 else r.tcb.stva

/-- A TKSPLIT's ticket advances after its writes, failed or not (R318, R324). -/
def State.advanceTicket (s : State) (r : Record) : Except EngStop State :=
  match s.engineNat r.core r.part r.tcb.p1 8 with
  | .error e => .error e
  | .ok n => s.engineWrite r.core r.part r.tcb.p1 (natBytes 8 ((n + 1) % 2 ^ 64))

/-- A failure that a record's slots show. -/
def State.markFail (s : State) (r : Record) : State :=
  r.slots.foldl (fun s n => s.mapSlot r.core n fun x => x.setBits accFail) s

/-- The ACCOV of a TSTORE (R306). -/
def State.mergeStore (s : State) (r : Record) : State :=
  if r.fn = fnTstore ∧ (s.slot r.core r.slot).status &&& 0xF#32 ≠ 0#32 then
    match s.group r.gid with
    | some g => s.putGroup (g.flag fACCOV)
    | none => s
  else s

/-- The writes that end a record: the ticket, then the status word at STVA; then its release. -/
def State.closeRecord (s : State) (r : Record) : State :=
  let s := if r.failed || r.cancelled then s.markFail r else s
  let r := { r with finished := true, eng := none }
  if r.fn = fnTksplit ∧ !r.ticketDone then
    match s.advanceTicket r with
    | .ok s1 => s1.putRecord { r with ticketDone := true }
    | .error (.fault f) => s.putRecord { r with fault := some f }
    | .error .fails => s.putRecord { r with failed := true, ticketDone := true }
  else if r.stva ≠ 0 ∧ !r.stvaDone ∧ !r.failed ∧ !r.cancelled then
    match s.engineWrite r.core r.part r.stva (natBytes 4 (s.slot r.core r.slot).status.toNat) with
    | .ok s1 => s1.putRecord { r with stvaDone := true }
    | .error (.fault f) => s.putRecord { r with fault := some f }
    | .error .fails => s.putRecord { r with failed := true, stvaDone := true }
  else
    let x := s.releaseRecord r
    if !x.2.released then x.1.putRecord x.2
    else if r.joint.isNone then (x.1.mergeStore r).endRecord x.2
    else
      let s1 := x.1.putRecord x.2
      let ps := s1.joinPartners x.2
      if ps.all fun p => p.released then ps.foldl (fun s p => s.endRecord p) s1 else s1

/-- Has a record come to its end? A part of a joint ends with the joint. -/
def Record.atEnd (r : Record) : Bool :=
  r.started && r.fault.isNone && !r.stopped &&
    (r.finished || r.failed || r.cancelled)

/-- The failure of one part of a joint is that of all four (R317, R324). -/
def State.spreadFail (s : State) (r : Record) : State :=
  if r.joint.isSome ∧ (r.failed || r.cancelled) then
    let f (x : Record) : Record := if x.joint = r.joint then { x with failed := x.failed || r.failed, cancelled := x.cancelled || r.cancelled } else x
    { s with records := s.records.map f }
  else s

/-- TILE_RECORD_COMPLETE of record `item`: one of the writes that end it, or its release and its handle. -/
def execTileRecordComplete (s : State) : Out :=
  if !s.diesRun then .next s else
  match s.record s.arg.item with
  | none => .next s
  | some r => if !r.atEnd || (11 ≤ r.fn && r.fn < 16) then .next s else .next ((s.spreadFail r).closeRecord r)

/-! ### HCANCEL (R375) -/

/-- A copy that has work left stops at its next chunk boundary and fails by R300. -/
def State.cancelCopy (s : State) (gid h : Nat) (tag : BitVec 16) : State :=
  let f (x : Copy) : Copy := if x.isFor gid h tag && !x.finished then { x with cancelled := true } else x
  { s with copies := s.copies.map f }

/-- A record that has not finished is cancelled; a member of a joint, running or formed and not yet started, with all four parts (R317, R375). -/
def State.cancelRecord (s : State) (gid h : Nat) (tag : BitVec 16) : State :=
  let mine := s.records.filter fun r => r.isFor gid h tag && !r.finished
  let parts := mine.flatMap fun r => if r.joint.isSome || s.formed r then (s.joinPartners r).map fun x => x.rid else []
  let f (r : Record) : Record := if (mine.any fun x => x.rid == r.rid) || parts.contains r.rid then { r with cancelled := true } else r
  { s with records := s.records.map f }

/-- HCANCEL: the command is asked to stop; a finished handle becomes idle. -/
def execHcancel (f : FormA) (s : State) : Out :=
  word (.hcancel f) s fun c =>
    let h := c.g.getH f.a
    let n := f.a.toNat
    let tag := handleTag h
    if handleState h = 0 then finish s c c.g
    else if handleState h ≠ 1 then finish s c (c.g.setH f.a 0#32)
    else if handleEng h = 1 then finish (s.cancelCopy c.g.gid n tag) c c.g
    else if handleEng h = 2 ∨ handleEng h = 3 then finish (s.cancelRecord c.g.gid n tag) c c.g
    else finish s c c.g

end Sys2Proof.Machine
end

