-- ==== Sys2Proof/Machine/Faults.lean ====
section
/-! DEFINITION. The fault service (R269, R384, R385, R417, R443) and the end of waits for memory: LDFE (R287), releases and
acquires (R346 to R355), doorbells and posted writes of the host (R356), and translation invalidation (R270). -/

namespace Sys2Proof.Machine

/-! ### What waits for the fault service (R269) -/

/-- The access of a path that waits for the fault service. -/
def Path.missing (p : Path) : Option (Nat × Need) :=
  match p.wait with
  | none => none
  | some w =>
    if w.ended then none else
    match w.kind with
    | .fault t => some (t.fa.toNat, needOf t.tca)
    | .fsvc a n => some (a.toNat, n)
    | _ => none

/-- The accesses of a group that wait. -/
def Group.missing (g : Group) (part : Nat) : List EngFault :=
  (g.paths.filterMap Path.missing).map fun x => ⟨part, x.1, x.2⟩

/-- A wait node that waits for its page, unanswered. -/
def RunNode.missing (n : RunNode) (part : Nat) : Option EngFault :=
  match n.st with
  | .noPage _ _ none => some ⟨part, dwAt n.body 0, .read⟩
  | _ => none

/-- Every access that waits for the fault service. -/
def State.missing (s : State) : List EngFault :=
  (s.groups.flatMap fun g => match s.team g.team with
    | some t => g.missing (partOf t.core)
    | none => [])
  ++ s.copies.filterMap (fun x => x.fault) ++ s.records.filterMap (fun r => r.fault)
  ++ s.fe.accesses.map (fun a => ⟨a.part, a.va, .write⟩)
  ++ s.fe.runs.flatMap fun r => r.nodes.filterMap fun n => n.missing r.home

def regionOf (va : Nat) : Nat := va / 65536
def EngFault.isIn (f : EngFault) (part region : Nat) : Bool := f.part == part && regionOf f.va == region
def FaultReq.isFor (q : FaultReq) (part region : Nat) : Bool := q.part == part && q.region == region

/-! ### Requests (R384, R417) -/

/-- May a region of a partition have a mapping at all? A page of a loaded image that no section overlaps has none (R37). -/
def State.regionExists (s : State) (part region : Nat) : Bool :=
  decide (region < 2 ^ 41) && (s.part part).st != .unconfigured && (match s.imageAt (region * 65536) with
    | some i => (imageXlat i (region * 65536)).isSome
    | none => true)

/-- A walk of the region succeeds now. -/
def State.regionMapped (s : State) (part region : Nat) : Bool :=
  s.regionExists part region && (match s.walk part (region * 65536) with
    | .ok _ => true
    | .fault _ => false)

def State.putFaultReq (s : State) (q : FaultReq) : State :=
  { s with faults := s.faults.filter (fun x => !x.isFor q.part q.region) ++ [q] }

/-- The entry of a page request. -/
def FaultReq.record (q : FaultReq) (id : Word) : List Byte :=
  natBytes 8 (q.region * 65536 + q.part)
    ++ natBytes 8 (id.toNat + (if q.w then 2 ^ 32 else 0) + (if q.x then 2 ^ 33 else 0))

/-- PAGE_REQUEST_POST: the host is asked; a full ring holds the request, and without a ring the answer is 1. -/
def State.askHost (s : State) (q : FaultReq) : State :=
  match s.svc.pageRing with
  | none => s.putFaultReq { q with id := none, held := false, answer := some 1 }
  | some r =>
    if !s.regionExists q.part q.region then s.putFaultReq { q with id := none, held := false, answer := some 1 }
    else if s.ringFull r then s.putFaultReq { q with id := none, held := true, answer := none }
    else
      let id := s.svc.nextReq
      let s1 := (s.ringPut r 16 (q.record id)).signal 2
      { s1.putFaultReq { q with id := some id, held := false, answer := none } with
        svc := { s1.svc with nextReq := id + 1#32 } }

/-- FAULT_SERVICE_REQUEST for the region of address `addr` in partition `part`: from the tables, or to the host. -/
def execFaultServiceRequest (s : State) : Out :=
  let part := s.arg.part % 8
  let region := regionOf s.arg.addr
  let here := s.missing.filter fun f => f.isIn part region
  let serve (q : FaultReq) : State :=
    if s.regionMapped part region then s.putFaultReq { q with id := none, held := false, answer := some 0 } else s.askHost q
  if !s.dieUp || here.isEmpty then .next s else
  match s.faults.find? fun q => q.isFor part region with
  | some q => if q.held then .next (serve q) else .next s
  | none =>
    .next (serve ⟨part, region, here.any (fun f => f.need == .write), here.any (fun f => f.need == .exec), none, false, none⟩)

/-! ### Answers (R179, R385, R443) -/

/-- The status that one access gets: the answer, and after an answer of 0 what its rights give.
DEDUCED, unsafe: log entry 57. -/
def State.statusOf (s : State) (st : Nat) (f : EngFault) : Nat :=
  if st ≠ 0 then st else
  match s.fePage f.part f.va f.need with
  | .ok _ => 0
  | .error e => e

/-- The wait of a path ends with a status; a path that a handler has stopped issues its word again (R383).
DEDUCED, unsafe: log entry 41. -/
def Path.answered (p : Path) (g : Group) (st : Nat) : Path :=
  if p.level ≠ g.tl then { p with wait := none } else p.endWait (BitVec.ofNat 32 st)

def State.answerPath (s : State) (part region st : Nat) (g : Group) (p : Path) : Path :=
  match p.missing with
  | some (va, n) => if regionOf va = region then p.answered g (s.statusOf st ⟨part, va, n⟩) else p
  | none => p

def State.answerGroup (s : State) (part region st : Nat) (g : Group) : Group :=
  match s.team g.team with
  | some t => if partOf t.core = part then { g with paths := g.paths.map (s.answerPath part region st g) } else g
  | none => g

/-- A copy goes on, or fails (R300). -/
def State.answerCopy (s : State) (part region st : Nat) (x : Copy) : Copy :=
  match x.fault with
  | some f =>
    if !f.isIn part region then x
    else if s.statusOf st f = 0 then { x with fault := none } else { x with fault := none, failed := true }
  | none => x

/-- A record goes on, or fails; a ticket or status word that can not be reached is left out (R318, R324, R339). -/
def Record.refused (r : Record) : Record :=
  if r.fn = fnTksplit ∧ !r.ticketDone ∧ (!r.started || r.finished) then { r with fault := none, failed := true, ticketDone := true }
  else if r.finished then { r with fault := none, failed := true, stvaDone := true }
  else { r with fault := none, failed := true }

def State.answerRecord (s : State) (part region st : Nat) (r : Record) : Record :=
  match r.fault with
  | some f => if !f.isIn part region then r else if s.statusOf st f = 0 then { r with fault := none } else r.refused
  | none => r

/-- The node and SEQ that an error record of a front-end access names (R443). -/
def State.feNames (s : State) (a : FeAccess) : Nat × Nat :=
  match a.target with
  | .complva i => (i, ((s.runNode a.qidx i).map fun x => x.2.seq.toNat).getD 0)
  | .signal i => (i, 0)
  | .donePost => (0, 0)

/-- A front-end access is made, or recorded as failed; completion goes on either way (R443). -/
def State.answerFe (s : State) (st : Nat) (a : FeAccess) : State :=
  let s0 := { s with fe := { s.fe with accesses := s.fe.accesses.filter fun b => b != a } }
  let code := s.statusOf st ⟨a.part, a.va, .write⟩
  let names := s.feNames a
  let s1 := match code, s0.feMake a with
    | 0, some t => t
    | _, _ => s0.errorRecord (a.record names.1 names.2 code)
  match a.target with
  | .complva i | .signal i => (s1.nodeDone a.qidx i).refresh a.qidx
  | .donePost => match s1.run a.qidx a.runid with
    | some r => s1.finishRun r
    | none => s1

/-- A wait node reads its word, or fails; a parked queue does so when it is back in its list (R124). -/
def State.answerNode (s : State) (part region st q i : Nat) : State :=
  match s.runNode q i with
  | none => s
  | some (r, n) =>
    match n.missing r.home, n.st with
    | some f, .noPage since parked _ =>
      if !f.isIn part region then s else
      let code := s.statusOf st f
      -- while the queue is parked, for this node's page or another's, the answer is kept (R124)
      if parked || r.nodes.any RunNode.parked then s.setNodeSt q i (.noPage since true (some code))
      else (if code = 0 then s.readWait q i else s.waitFails q i code).refresh q
    | _, _ => s

/-- The nodes of the active runs, by queue and index. -/
def State.allNodes (s : State) : List (Nat × Nat) := s.fe.runs.flatMap fun r => (List.range r.nodes.length).map fun i => (r.qidx, i)

/-- The loop bodies and cached lines of a core without those of a region of code: the fault service has mapped it anew
(R158). -/
def Core.dropRegion (c : Core) (part region : Nat) : Core :=
  let out (a n : Nat) : Bool := decide (a + n ≤ 65536 * region ∨ 65536 * (region + 1) ≤ a)
  { c with
    icache := c.icache.filter fun l => out (192 * l.line) 192
    loops := Tab.ofFn fun i => (c.loops.get i).filter fun b => b.part != part || out b.base.toNat (12 * b.n) }

/-- Every access of the region is answered; where it has a mapping again, no core keeps code of it from before (R158). -/
def State.answerAll (s0 : State) (part region st : Nat) : State :=
  let s : State := if st ≠ 0 then s0 else
    { s0 with cores := Tab.ofFn fun i =>
        if partOf i.val = part then (s0.cores.get i).dropRegion part region else s0.cores.get i }
  let s1 := { s with
    groups := s.groups.map (s.answerGroup part region st)
    copies := s.copies.map (s.answerCopy part region st)
    records := s.records.map (s.answerRecord part region st)
    faults := s.faults.filter fun q => !q.isFor part region }
  let mine := s1.fe.accesses.filter fun a => regionOf a.va == region && a.part == part
  let s2 := mine.foldl (fun (s : State) a => s.answerFe st a) s1
  s2.allNodes.foldl (fun (s : State) x => s.answerNode part region st x.1 x.2) s2

/-- FAULT_SERVICE_ANSWER for the region of address `addr` in partition `part`; a status of 0 is passed on only when a walk
succeeds. -/
def execFaultServiceAnswer (s : State) : Out :=
  let part := s.arg.part % 8
  let region := regionOf s.arg.addr
  match s.faults.find? fun q => q.isFor part region with
  | none => .next s
  | some q =>
    match q.answer with
    | none => .next s
    | some st =>
      if !s.dieUp then .next s
      else if st = 0 ∧ !s.regionMapped part region then .next (s.askHost q)
      else .next (s.answerAll part region st)

/-- PRRESP: the doubleword `data` of a host write; the doorbell of PRHSOID, then the answer (R356, R417). -/
def execPrresp (s : State) : Out :=
  if !(s.hostUp && s.dieUp) then .next s else
  let w := (s.arg.data.headD 0#64).toNat
  let st := bitsOf w 32 2
  match s.faults.find? fun q => q.id == some (BitVec.ofNat 32 w) with
  | none => .next s
  | some q =>
    let s1 := s.doorbell q.part s.svc.prhsoid
    if st = 3 then .next s1 else .next (s1.putFaultReq { q with id := none, answer := some st })

/-! ### LDFE (R287) -/

/-- LDFE_SERVE of path `team` of group `item`. -/
def execLdfeServe (s : State) : Out :=
  match s.group s.arg.item with
  | none => .next s
  | some g =>
    match g.path s.arg.team, s.team g.team with
    | some p, some t =>
      match p.wait with
      | some ⟨.ldfe f ad zeroed next, false, _, start, _⟩ =>
        let lines := linesOf ad
        if !s.teamRuns t || !lines.all s.lineFull || s.ldfeAhead start lines then .next s else
        let r := ldfeServe s g f.d ad zeroed
        .next (r.1.putGroup (r.2.updatePath p.pid fun q => q.past next))
      | _ => .next s
    | _, _ => .next s

/-! ### Releases and acquires at the home slice (R346, R352, R355, R442) -/

/-- A copy whose writes are over and whose release is not performed. -/
def Copy.owesRelease (x : Copy) : Bool := x.rel && !x.released && !x.stopped && (x.finished || x.failed || x.cancelled)

/-- A record whose writes are over and whose release is not performed. -/
def Record.owesRelease (r : Record) : Bool :=
  r.rel && !r.released && r.finished && r.fault.isNone && !r.stopped && (r.fn != fnTksplit || r.ticketDone)
    && (r.stva == 0 || r.stvaDone || r.failed)

/-- RELEASE_PERFORM of the copy or record `item`, after its last write. -/
def execReleasePerform (s : State) : Out :=
  if !s.dieUp then .next s else
  match s.copy s.arg.item with
  | some x =>
    if !x.owesRelease then .next s else
    let a := s.settleCopy x
    let r := a.1.releaseCopy a.2
    .next (r.1.putCopy r.2)
  | none =>
    match s.record s.arg.item with
    | some r =>
      if !r.owesRelease then .next s else
      let x := s.releaseRecord r
      .next (x.1.putRecord x.2)
    | none => .next s

/-- The SOACQ wait of a path whose target is reached ends with RELS. -/
def Path.acquired (p : Path) (s : State) (part : Nat) : Path :=
  match p.wait with
  | some ⟨.soacq soid target, false, _, _, _⟩ =>
    let rels := (s.rbEntry part soid).rels
    if reached rels target then p.endWait rels else p
  | _ => p

/-- ACQUIRE_PERFORM of the copy or record `item` before its first read, or of path `team` of group `item`.
DEDUCED, safe: log entry 8. -/
def execAcquirePerform (s : State) : Out :=
  if !s.dieUp then .next s else
  match s.copy s.arg.item, s.record s.arg.item, s.group s.arg.item with
  | some x, _, _ => if x.acq && !x.stopped then .next (s.acquireCopy x) else .next s
  | none, some r, _ => if r.acq && r.started && !r.stopped then .next (s.acquireRecord r) else .next s
  | none, none, some g =>
    match s.team g.team with
    | some t => .next (s.putGroup (g.updatePath s.arg.team fun p => p.acquired s (partOf t.core)))
    | none => .next s
  | none, none, none => .next s

/-- The first node whose release of an object waits with the sequence number that is next. -/
def State.turnNode (s : State) (part soid : Nat) : Option (Nat × Nat) :=
  s.allNodes.find? fun x => match s.runNode x.1 x.2 with
    | some (r, n) => r.home == part && n.soid == soid && n.st == .syncing (s.rbEntry part soid).rels
    | none => false

/-- ORDERED_RELEASE_TURN on object `item` of partition `part`: the release whose sequence number RELS has reached. -/
def execOrderedReleaseTurn (s : State) : Out :=
  if !s.dieUp then .next s else
  let part := s.arg.part % 8
  let soid := s.arg.item
  let rels := (s.rbEntry part soid).rels
  match s.rels.find? fun r => r.part == part && r.soid == soid && r.seq == rels with
  | some r => .next (({ s with rels := s.rels.filter fun x => x != r } : State).performRelease part soid)
  | none =>
    match s.copies.find? (fun x => x.owesRelease && x.q.sov && x.part == part && x.q.soid == soid && x.relSeq == some rels) with
    | some x =>
      let a := s.settleCopy x
      let r := a.1.releaseCopy a.2
      .next (r.1.putCopy r.2)
    | none =>
      match s.records.find? (fun r => r.owesRelease && r.sov && r.part == part && r.soid == soid && r.relSeq == some rels) with
      | some r =>
        let x := s.releaseRecord r
        .next (x.1.putRecord x.2)
      | none =>
        match s.turnNode part soid with
        | some (q, i) => .next (s.nodeTurn q i)
        | none => .next s

/-! ### Writes of the host (R345, R356, R412) -/

/-- DBELL of object `item` of partition `part`. -/
def execDbell (s : State) : Out :=
  if s.hostUp && s.dieUp then .next (s.doorbell (s.arg.part % 8) (s.arg.item % 4096)) else .next s

/-- The objects whose DBELL a host write of `n` bytes at `pa` touches, of the tables of the configured partitions. -/
def State.dbellsAt (s : State) (pa n : Nat) : List (Nat × Nat) :=
  (List.range 8).flatMap fun p =>
    let b := (s.part p).rbtPA
    if (s.part p).st = .unconfigured then [] else
    ((List.range (n / 32 + 2)).map fun k => (pa - b) / 32 + k).filterMap fun soid =>
      if soid < 4096 ∧ pa < b + 32 * soid + 32 ∧ b + 32 * soid + 24 < pa + n then some (p, soid) else none

/-- The bytes of a host write that lie in device memory; what lies beyond 384 GiB is dropped (R412). -/
def hostBytes (pa n : Nat) (ws : List DWord) : List Byte :=
  ((ws.flatMap fun w => natBytes 8 w.toNat).take n).take (hbmBytes - pa)

/-- HOST_POSTED_WRITE of `size` bytes of `data` at offset `addr` of BAR2, of the ordering stream `stream`: it rings the
doorbells that it touches, once each, and is performed now or, where `flag` is set, stays posted (R345, R356).
DESIGN CHOICE, safe: log entry 5. -/
def execHostPostedWrite (s : State) : Out :=
  if !(s.hostUp && s.dieUp) then .next s else
  let pa := s.arg.addr
  let bs := hostBytes pa s.arg.size s.arg.data
  let s1 := (s.dbellsAt pa bs.length).foldl (fun s x => s.doorbell x.1 x.2) s
  if s.arg.flag then .next { s1 with flights := s1.flights ++ [⟨.host s.arg.stream s.arg.relaxed, pa, bs, none, []⟩] }
  else .next (s1.writePhys pa bs)

/-! ### Translation invalidation (R270) -/

/-- The first address and the size of the range that TINVCTL names; none for the whole partition. -/
def TinvRegs.range (r : TinvRegs) : Option (Nat × Nat) :=
  let n : Nat := if r.size = 0#2 then 2 ^ 16 else if r.size = 1#2 then 2 ^ 21 else 2 ^ 30
  if r.size = 3#2 then none else some (r.va.toNat / n * n, n)

/-- A held translation of the partition that lies in the range, in whole or in part. -/
def TinvRegs.hits (r : TinvRegs) (x : Xlat) : Bool :=
  x.part == r.part.toNat && (match r.range with
    | none => true
    | some (b, n) => decide (x.vbase < b + n ∧ b < x.vbase + 2 ^ x.log2))

/-- TINVCTL_GO: a write of TINVCTL of die `die` with GO set, its value the doubleword `data`. -/
def execTinvctlGo (s : State) : Out :=
  if !(s.hostUp && s.dieUp) then .next s else
  let d := dieIx s.arg.die
  let r := (s.tinv.get d).write 8 8 (s.arg.data.headD 0#64).toNat
  if (s.tinv.get d).busy then .next { s with tinv := s.tinv.set d r } else
  let s1 := { s with tinv := s.tinv.set d { r with busy := true } }
  .next ((s1.doorbell r.part.toNat r.hsoid.toNat).dropXlats r.hits)

/-- TINV_DONE of die `die`: every access translated before has been performed. -/
def execTinvDone (s : State) : Out :=
  let d := dieIx s.arg.die
  let r := s.tinv.get d
  if s.dieUp && r.busy then
    -- the writes that were translated with the dropped entries reach their homes first
    let s1 := s.landThose fun f => f.attr.any r.hits
    .next { s1 with tinv := s1.tinv.set d { r with busy := false, done := r.done + 1#32 } }
  else .next s

/-! ### Multicast entries and the network (R276, R278) -/

/-- MULTICAST_ENTRY_CLOSE of the sector at `addr`, once its time is over. -/
def execMulticastEntryClose (s : State) : Out :=
  if !s.dieUp then .next s else
  .next { s with mcasts := s.mcasts.filter fun e => e.addr != s.arg.addr || decide (s.now < e.replied + mcastOpen) }

/-- ESCAPE_CHANNEL_ENTRY: the network keeps no order between packets, so the channel of a packet changes nothing here.
DESIGN CHOICE, safe: log entry 9. -/
def execEscapeChannelEntry (s : State) : Out := .next s

/-! ### The bank ALUs (R263) -/

/-- The word size of a bank operation and its result, by the FN of the ATOM members: the old word, the operand and the
compare value. -/
def bankFn (fn old v cmp : Nat) : Option (Nat × Nat) :=
  let a := BitVec.ofNat 32 old
  let b := BitVec.ofNat 32 v
  match fn with
  | 0 => some (4, (a + b).toNat)
  | 1 => some (4, (if b.slt a then b else a).toNat)
  | 2 => some (4, (if a.slt b then b else a).toNat)
  | 3 => some (4, (if b.ult a then b else a).toNat)
  | 4 => some (4, (if a.ult b then b else a).toNat)
  | 5 => some (4, (a &&& b).toNat)
  | 6 => some (4, (a ||| b).toNat)
  | 7 => some (4, (a ^^^ b).toNat)
  | 8 => some (4, b.toNat)
  | 9 => some (4, if a = BitVec.ofNat 32 cmp then b.toNat else a.toNat)
  | 10 => some (8, (old + v) % 2 ^ 64)
  | 11 => some (8, (avaddNew (BitVec.ofNat 64 v) old).1.toNat)
  | 12 => some (8, min old (v % 2 ^ 64))
  | _ => none

def bankSize (fn : Nat) : Nat := if fn < 10 then 4 else 8

/-- Bytes of the module's own memory: HBM, or the second tier in its space (R273). -/
def inMemory (pa n : Nat) : Bool := decide (pa + n ≤ hbmBytes ∨ (tierKey 0 ≤ pa ∧ pa + n ≤ tierKey (2 ^ 40)))

/-- An operation `fn` at the home slice of the naturally aligned word at `pa`. -/
def State.bankAlu (s : State) (pa fn v cmp : Nat) : State :=
  if pa % bankSize fn ≠ 0 ∨ 12 < fn ∨ !inMemory pa (bankSize fn) then s else
  let old := memNat s.mem pa (bankSize fn)
  s.writePhys pa (natBytes (bankSize fn) (((bankFn fn old v cmp).map fun x => x.2).getD old))

/-- BANK_ALU_OP: operation `item` on the word at physical address `addr`, with operand and compare value `data`. -/
def execBankAluOp (s : State) : Out :=
  if s.dieUp then
    .next (s.bankAlu s.arg.addr s.arg.item (dwAt s.arg.data 0) (dwAt s.arg.data 1))
  else .next s

/-- A release by a party on a peer module: of an ordered object it takes a number at its issue and waits for its turn
(R355). -/
def State.peerRelease (s : State) (part soid : Nat) : State :=
  let r := s.takeSeq part soid
  match r.1 with
  | some n => r.2.turnOrWait ⟨part, soid, n, none⟩
  | none => s.performRelease part soid

/-- PEER_PARTY_ACCESS (R343, R420): a read, a write, a bank operation or a release of a party on a peer module, as `item`
names it, at physical address `addr`, over a port that is up. DESIGN CHOICE, safe: log entry 14. -/
def execPeerPartyAccess (s : State) : Out :=
  if !s.dieUp || s.svc.ports == 0#48 then .next s else
  if s.arg.item = 1 then
    .next (if inMemory s.arg.addr s.arg.size then
      s.writePhys s.arg.addr ((s.arg.data.flatMap fun w => natBytes 8 w.toNat).take s.arg.size) else s)
  else if s.arg.item = 2 then .next (s.bankAlu s.arg.addr s.arg.core (dwAt s.arg.data 0) (dwAt s.arg.data 1))
  else if s.arg.item = 3 then .next (s.peerRelease (s.arg.part % 8) (s.arg.team % 4096))
  else .next s

end Sys2Proof.Machine
end

