-- ==== Sys2Proof/Machine/Agent.lean ====
section
/-! DEFINITION. The agent's steps: placing teams and gangs, and the ends of groups and teams (R134, R141, R143, R144, R394,
R402, R403). -/

namespace Sys2Proof.Machine

/-! ### AGENT_PLACE and GANG_RESERVE (R143, R144) -/

/-- The first entry does not fit: the cycle since which that is so (R394). -/
def State.noteUnfit (s : State) (core : Nat) (seq : Word) : State :=
  let c := s.core core
  match c.unfit with
  | some (x, _) => if x = seq then s else s.putCore core { c with unfit := some (seq, s.now) }
  | none => s.putCore core { c with unfit := some (seq, s.now) }
def State.noteFit (s : State) (core : Nat) : State := s.putCore core { s.core core with unfit := none }

/-- The entry's teams are all taken (R127). -/
def State.drain (s : State) (die i : Nat) : State := s.putEntry die i { s.entry die i with st := 2 }

/-- A plan dropped with its reservations and save areas. -/
def State.dropPlan (s : State) (p : GangPlan) (keep : Option GangPlan) : State :=
  let part := partOf p.leader
  let s1 := s.putPart part (p.areas.foldl (fun q a => q.freeArea a.2) (s.part part))
  { s1 with fe := { s1.fe with gangs := s1.fe.gangs.filterMap fun x =>
      if x.leader = p.leader ∧ x.die = p.die ∧ x.lst = p.lst then keep else some x } }

/-- One placement of a single team. -/
def State.placeOne (s : State) (core i : Nat) (e : LstEntry) (img : Image) (k : Kernel) : State :=
  let d := dieOf core
  let n4 := needOfRecord e.record k
  match (if s.coreFits core n4 1 then s.takeAreas (partOf core) n4.save 1 else none) with
  | some ([a], s1) =>
    if e.tend ≤ e.ticket then ((s.putEntry d i { e with ticket := e.ticket + 1 }).drain d i).noteFit core
    else
      let s2 := s1.putEntry d i { e with ticket := e.ticket + 1 }
      (s2.loadTeam core e (s.launchOf d i e img k e.ticket none) img a).noteFit core
  | _ => s.noteUnfit core e.seq

/-- The teams of a gang loaded, member by member in ticket order. -/
def State.loadGang (s : State) (p : GangPlan) (e : LstEntry) (img : Image) (k : Kernel) : Nat → Nat → List (Nat × (Nat × Nat)) → State
  | 0, _, _ => s
  | n + 1, j, areas =>
    let core := p.leader + j % gangCores p.dom
    match areas.find? fun a => a.1 == core with
    | none => s
    | some a =>
      let info := s.launchOf p.die p.lst e img k (e.ticket + j) (some ⟨e.ticket, p.size, p.dom⟩)
      State.loadGang (s.loadTeam core e info img a.2) p e img k n (j + 1) (areas.erase a)

/-- A leader's step on a gang entry: the request to the members, or the tickets once every member has said yes. -/
def State.placeGang (s : State) (core i : Nat) (e : LstEntry) (img : Image) (k : Kernel) (dom size : Nat) : State :=
  let d := dieOf core
  match s.fe.gangs.find? fun p => p.leader == core && p.die == d && p.lst == i && p.seq == e.seq with
  | none =>
    let n4 := needOfRecord e.record k
    let p : GangPlan :=
      { die := d, lst := i, seq := e.seq, leader := core, size := size, dom := dom, init := n4.init, max := n4.max, gpt := n4.gpt,
        ven := n4.ven, dict := n4.dict, save := n4.save, answers := [], areas := [], refused := false, since := s.now }
    let stale := s.fe.gangs.filter fun x => x.leader == core && x.die == d && x.lst == i
    let s1 := stale.foldl (fun s x => s.dropPlan x none) s
    { s1 with fe := { s1.fe with gangs := s1.fe.gangs ++ [p] } }
  | some p =>
    let members := ((List.range (gangCores dom)).map fun j => core + j).filter fun c => p.share c != 0
    if !members.all s.agentRuns then s.dropPlan p none
    else if !members.all fun c => p.answers.contains (c, true) then s
    else if e.tend ≤ e.ticket then ((s.putEntry d i { e with ticket := e.ticket + size }).drain d i).dropPlan p none
    else
      let s1 := { s with fe := { s.fe with gangs := s.fe.gangs.filter fun x => x != p } }
      ((s1.putEntry d i { e with ticket := e.ticket + size }).loadGang p e img k size 0 p.areas).noteFit core

/-- The unit of a core has decided what comes before a placement: returns that pass, and the drafter's request (R141, R243). -/
def State.mayReserve (s : State) (core : Nat) : Bool :=
  s.agentRuns core && !s.reloading core && !s.returnWaits core && ((s.core core).drafterOn && (s.draftPick core).isSome) == false

/-- AGENT_PLACE by the agent of core `core`. -/
def execAgentPlace (s : State) : Out :=
  let core := s.arg.core
  if !s.mayReserve core then .next s else
  match s.firstEntry core with
  | none => .next s
  | some (i, e) =>
    if s.heldBack core i e then .next s else
    match s.imageBy (dwAt e.record 0) with
    | none => .next s
    | some img =>
      match s.kernel img (fieldAt e.record 1 0 16), lrGang e.record with
      | none, _ => .next s
      | some k, none => .next (s.placeOne core i e img k)
      | some k, some (dom, size) => .next (s.placeGang core i e img k dom size)

/-- GANG_RESERVE: the agent of core `core` answers the leader of core `item`. A no drops every reservation; one that takes a new
image answers no (R422). -/
def execGangReserve (s : State) : Out :=
  let core := s.arg.core
  if !(s.mayReserve core || (s.agentRuns core && s.reloading core)) then .next s else
  match s.fe.gangs.find? fun p => p.leader == s.arg.item && p.covers core && p.share core != 0
      && p.answers.all (fun a => a.1 != core) with
  | none => .next s
  | some p =>
    let e := s.entry p.die p.lst
    if e.st ≠ 1 ∨ e.seq ≠ p.seq then .next (s.dropPlan p none) else
    -- a member that another gang holds back gives no answer yet (R144, step 7)
    if s.heldBack core p.lst e then .next s else
    let n4 : Need4 := ⟨p.init, p.max, p.gpt, p.ven, p.dict, p.save⟩
    match (if !s.reloading core && s.coreFits core n4 (p.share core) then s.takeAreas (partOf core) p.save (p.share core) else none) with
    | none => .next ((s.dropPlan p (some { p with answers := [], areas := [], refused := true })).noteUnfit p.leader p.seq)
    | some (areas, s1) =>
      let p1 := { p with answers := p.answers ++ [(core, true)], areas := p.areas ++ areas.map fun a => (core, a) }
      .next { s1 with fe := { s1.fe with gangs := s1.fe.gangs.map fun x => if x = p then p1 else x } }

/-! ### GROUP_RETIRE and TEAM_RETIRE (R245, R402, R403) -/

/-- GROUP_RETIRE of group `item`: it has no path left. -/
def execGroupRetire (s : State) : Out :=
  match s.group s.arg.item with
  | none => .next s
  | some g =>
    match s.team g.team with
    | none => .next s
    | some _ =>
      if !(s.diesRun && g.paths.isEmpty) then .next s
      else .next { s with groups := s.groups.filter fun h => h.gid != g.gid }

/-- Nothing of a team is left to run. -/
def State.teamOver (s : State) (t : Team) : Bool :=
  (s.groupsOf t.uid).isEmpty && (s.items ++ s.steals.flatMap fun r => r.items).all (fun i => i.owner != t.uid)
    && s.records.all (fun r => r.team != t.uid) && s.rels.all (fun r => r.team != t.uid)
    && s.copies.all fun x => match x.owner with
      | .handle u _ _ _ => u != t.uid
      | _ => true

/-- TEAM_RETIRE of team `team`: everything released, then DONEVA + 1; it waits for an agent that takes a new image (R422). -/
def execTeamRetire (s : State) : Out :=
  match s.team s.arg.team with
  | none => .next s
  | some t =>
    if s.teamOver t && s.teamRuns t && !s.reloading t.core then .next ((s.dropTeam t).countDone t false) else .next s

end Sys2Proof.Machine
end

