-- ==== Sys2Proof/Machine/Swap.lean ====
section
/-! DEFINITION. Wait-swap, returning and team switches (R150 to R153, R301, R325, R392 to R397). -/

namespace Sys2Proof.Machine

/-! ### Stopping a team -/

/-- Engine work of a team stops at its restart points; a copy that writes scratchpad too (R152, R301, R325). -/
def State.stopWork (s : State) (uid : Nat) : State :=
  let copy (x : Copy) : Copy :=
    match x.owner with
    | .handle u _ _ _ => if u = uid ∧ (x.q.dsp ≠ 0 ∨ x.q.avsp ≠ 0) then { x with stopped := true, lowest := true } else x
    | _ => x
  { s with
    records := s.records.map fun r => if r.team = uid then { r with stopped := true, eng := none } else r
    copies := s.copies.map copy }

/-- A team on its way out. -/
def State.beginSwap (s : State) (uid : Nat) (switched : Bool) : State :=
  match s.team uid with
  | none => s
  | some t => (s.stopWork uid).putTeam
      { t with st := .swappingOut, waitSince := none, switchedOut := switched, watched := s.objects t, stirred := false }

/-- TEAM_RETURN of team `team`, to core `core` where its own has stopped; the first that passes goes first. -/
def execTeamReturn (s : State) : Out :=
  match s.team s.arg.team with
  | none => .next s
  | some t =>
    if !s.eligible t then .next s else
    match (s.returners t.core).find? fun u => (s.tryReturn u s.arg.core).isSome with
    | none => .next s
    | some u => if u.uid = t.uid then .next ((s.tryReturn t s.arg.core).getD s) else .next s

/-- A returning team is resident: its stopped commands restart, its records' slots by their names' new places. -/
def State.resume (s : State) (t : Team) : State :=
  let slotOf (n : Nat) : Nat := accSlot (t.acc.get (slotIx n))
  let record (r : Record) : Record := if r.team = t.uid then { r with core := t.core, slots := r.slots.map slotOf, stopped := false } else r
  let copy (x : Copy) : Copy := match x.owner with
    | .handle u _ _ _ => if u = t.uid then { x with core := t.core, part := partOf t.core, stopped := false } else x
    | _ => x
  let s1 := s.putTeam { t with st := .resident, waitSince := none, switchedOut := false }
  { s1 with records := s1.records.map record, copies := s1.copies.map copy }

/-- TEAM_RESUME of team `team`. -/
def execTeamResume (s : State) : Out :=
  match s.team s.arg.team with
  | none => .next s
  | some t => if t.st ≠ .returning ∨ !s.agentRuns t.core then .next s else .next (s.resume t)

/-- A team on a core is pre-empted, one that was coming back too (R395, R397). -/
def State.preempt (s : State) (t : Team) : State :=
  match t.st with
  | .resident | .waiting => s.beginSwap t.uid true
  | .returning => (s.resume t).beginSwap t.uid true
  | _ => s

/-! ### WAIT_SWAP_OUT and SWAP_OUT_DONE (R150 to R152) -/

/-- Work that a core could place is queued behind a team (R150). -/
def State.workQueued (s : State) (core : Nat) : Bool :=
  (s.firstEntry core).isSome || !(s.returners core).isEmpty || (s.draftPick core).isSome

/-- A waiting team whose timer has reached its threshold. -/
def State.timedOut (s : State) (t : Team) : Bool :=
  t.st == .waiting && s.allWaiting t && t.waitSince.any fun c => decide (c + t.swapth ≤ s.now)

/-- A reason to swap a waiting team out. -/
def State.swapReason (s : State) (t : Team) : Bool :=
  s.workQueued t.core || (s.groupsOf t.uid).any fun g => g.paths.any fun p => match p.wait with
    | some w => (match w.kind with
      | .racq _ => true
      | _ => false)
    | none => false

/-- WAIT_SWAP_OUT of team `team`, with its gang. -/
def execWaitSwapOut (s : State) : Out :=
  match s.team s.arg.team with
  | none => .next s
  | some t =>
    let ts := s.together t
    if s.agentRuns t.core && ts.all s.timedOut && ts.any s.swapReason then
      .next (ts.foldl (fun s u => s.beginSwap u.uid false) s)
    else .next s

/-- The bytes of a save area into which a team's context goes: its pending records in the format of R321, at an open place, and
the rest open (R63, R152). DESIGN CHOICE, safe: log entry 10. -/
def State.saveContext (s : State) (t : Team) : State :=
  let a := t.saveArea
  let images := ((s.records.filter fun r => r.team == t.uid).flatMap Record.image).take a.2
  let s1 := s.writeRaw a.1 ((List.range a.2).map (Config.saveByte s.draws))
  { s1.writeRaw (a.1 + Config.recordPlace s.draws % (a.2 - images.length + 1)) images with draws := s.draws + 1 }

/-- The context saved, and everything claimable given up; the accumulator slots are kept by name, and so are those of the
team's records. -/
def State.swapOut (s : State) (t : Team) : State :=
  let c := s.core t.core
  let names := (List.range 8).filter fun i => accValid (t.acc.get (slotIx i))
  let saved := names.map fun i => (i, c.acc.get (slotIx (accSlot (t.acc.get (slotIx i)))))
  let nameOf (slot : Nat) : Nat := (names.find? fun i => accSlot (t.acc.get (slotIx i)) == slot).getD 0
  let record (r : Record) : Record := if r.team = t.uid then { r with slots := r.slots.map nameOf } else r
  let s0 := s.saveContext t
  let s1 := s0.putCore t.core (c.freeTeamSlots t.uid)
  let s2 := { s1.putTeam { t with st := .swapped, saved := saved, swappedAt := s.now } with records := s1.records.map record }
  let mine := s2.items.filter fun i => i.owner == t.uid && !i.free
  ((mine.foldl State.toPool s2).closeQueues t.core).openQueues t.core

/-- SWAP_OUT_DONE of team `team`: the context is saved and the core decides again (R141). -/
def execSwapOutDone (s : State) : Out :=
  match s.team s.arg.team with
  | none => .next s
  | some t =>
    if t.st = .swappingOut ∧ (s.part (partOf t.core)).st = .running ∧ s.dieUp = true then .next (s.swapOut t) else .next s

/-! ### TEAM_SWITCH (R394, R395) -/

/-- The resident team to pre-empt for an entry of priority `prio`: the largest PRIO, then the most recently placed. -/
def State.victim (s : State) (core prio : Nat) : Option Team :=
  let ts := s.teams.filter fun t => t.core == core && (t.st == .resident || t.st == .waiting) && decide (prio < t.prio)
  ts.foldl (fun a t => match a with
    | some b => if b.prio < t.prio ∨ (b.prio = t.prio ∧ b.placed ≤ t.placed) then some t else some b
    | none => some t) none

/-- A team of an entry without a gang would fit the core now. -/
def State.entryFits (s : State) (core : Nat) (e : LstEntry) : Bool :=
  match (s.imageBy (dwAt e.record 0)).bind fun i => s.kernel i (fieldAt e.record 1 0 16) with
  | none => true
  | some k =>
    let n4 := needOfRecord e.record k
    (lrGang e.record).isNone && s.coreFits core n4 1 && ((s.part (partOf core)).findArea n4.save).isSome

/-- TEAM_SWITCH by the agent of core `core`. -/
def execTeamSwitch (s : State) : Out :=
  let k := s.arg.core
  let th := (s.part (partOf k)).preemptTh
  if !s.agentRuns k || th == 0 then .next s else
  match (s.core k).unfit, s.firstEntry k with
  | some (seq, since), some (_, e) =>
    let busy := s.teams.any fun t => t.core == k && t.st == .swappingOut && t.switchedOut
    if seq ≠ e.seq ∨ s.now < since + th ∨ busy ∨ s.entryFits k e then .next s else
    match s.victim k e.prio with
    | none => .next s
    | some t =>
      .next ((s.together t).foldl (fun s u => s.beginSwap u.uid true) s)
  | _, _ => .next s

end Sys2Proof.Machine
end

