-- ==== Sys2Proof/Machine/Errors.lean ====
section
/-! DEFINITION. Errors and resets: error logs (R274, R275), the reset of a partition
(R390, R398, R400), and resets for fault containment (R277, R391). -/

namespace Sys2Proof.Machine

/-! ### Corrected errors (R274, R275) -/

/-- CORRECTED_SOFT_ERROR at physical address `addr`, of source `item`, met by the partitions of mask `size`; or, with `flag`, in
an array of core `core`, whose log counts it. -/
def execCorrectedSoftError (s : State) : Out :=
  let k := s.arg.core % 768
  if !s.dieUp then .next s
  else if s.arg.flag then .next (s.putCore k { s.core k with corrected := (s.core k).corrected + 1 })
  else .next (s.logError s.arg.addr 0 (s.arg.item % 8) s.arg.size)

/-! ### Mailbox replies (R39, R414) -/

/-- A command of a mailbox ends; the host's mailbox signals vector 0. -/
def State.mbDone (s : State) (side : Bool) (code index : Nat) : State :=
  let overrun (m : Mailbox) : Mailbox :=
    { m with job := none, begun := false, stat := BitVec.ofNat 64 (code + 2 ^ 32 * index), done := m.done + 1#32 }
  if side then { s with svc := { s.svc with side := overrun s.svc.side } }
  else ({ s with svc := { s.svc with host := overrun s.svc.host } } : State).signal 0

def svcPbusy : Nat := 0x50
def svcPstate : Nat := 0x51
def svcNodie : Nat := 0x52
def svcFwsig : Nat := 0x53
def svcFwnone : Nat := 0x54
def svcMbop : Nat := 0x55
def svcPdesc : Nat := 0x56

/-- A command in progress on a partition ends with a code. -/
def State.endBusy (s : State) (p code : Nat) : State :=
  match (s.part p).busy with
  | none => s
  | some (_, side) => (s.putPart p { s.part p with busy := none }).mbDone side code 0

/-! ### The reset of a partition (R388, R390, R398, R400) -/

/-- Every team of a partition killed. -/
def State.killPart (s : State) (p reason : Nat) : State :=
  let uids := (s.teams.filter fun t => partOf t.core == p).map fun t => t.uid
  uids.foldl (fun s u => match s.team u with
    | some t => killTeam s t reason (s.firstRegs u)
    | none => s) s

/-- May no partition but those of `ps` claim tickets of an entry of die `d`? -/
def State.onlyServe (s : State) (ps : List Nat) (d : Nat) (e : LstEntry) : Bool :=
  [0, 1].all fun b => bitsOf e.clmask b 1 == 0 || ps.contains (2 * d + b) || (s.part (2 * d + b)).st == .unconfigured

/-- The unclaimed rest of one entry, whose every allowed partition is reset or stopped, is claimed and goes to the master
(R400). -/
def State.cutEntry (s : State) (ps : List Nat) (d i : Nat) : State :=
  let e := s.entry d i
  if e.st ≠ 1 ∨ !s.onlyServe ps d e then s
  else if e.tend ≤ e.ticket then s.putEntry d i { e with st := 2 }
  else
    let s1 := s.putEntry d i { e with st := 2, tend := e.ticket }
    { s1 with fe := { s1.fe with ranges := s1.fe.ranges ++ [{ e with tfirst := e.ticket }] } }

/-- The gangs in placement that a list of partitions leads are dropped, and the entries that they alone serve are cut. -/
def State.cutEntries (s : State) (ps : List Nat) : State :=
  let plans := s.fe.gangs.filter fun g => ps.contains (partOf g.leader)
  let s1 := plans.foldl (fun s g => s.dropPlan g none) s
  (ps.map fun p => p / 2).eraseDups.foldl (fun s d => (List.range 64).foldl (fun s i => s.cutEntry ps d i) s) s1

/-- Agents and drafters run, on a new image where one waits for them (R398, R422). -/
def State.startAgents (s : State) (p : Nat) : State :=
  let on := Config.imageSigned s.svc.agentImage
  { s with cores := Tab.ofFn fun i =>
      let c := s.cores.get i
      if partOf i.val = p then
        { c with agentOn := on, drafterOn := on, agentRel := if c.agentStale then s.svc.agentRel else c.agentRel,
                 agentStale := false }
      else c }

/-- What a reset of a partition's teams leaves: no team, no request of the fault service, entries given back. -/
def State.clearPart (s : State) (p reason : Nat) (st : PartState) : State :=
  let s1 := s.killPart p reason
  let s2 := { s1 with faults := s1.faults.filter fun q => q.part != p }
  let s3 := s2.cutEntries [p]
  s3.putPart p { s3.part p with st := st, owed := none }

/-- The partition runs, with no teams. -/
def State.restartPart (s : State) (p reason : Nat) : State := ((s.clearPart p reason .running).startAgents p).placeRanges

/-- An error reset in the state in which a partition stands (R398). -/
def State.errorReset (s : State) (p reason : Nat) : State :=
  match (s.part p).st with
  | .unconfigured => s
  | .running | .halting | .halted => (s.endBusy p svcPstate).restartPart p reason
  | .swappingOut | .swappingIn =>
    let s1 := s.endBusy p svcPstate
    s1.putPart p { s1.part p with owed := some reason }
  | .swapped => ((s.endBusy p svcPstate).clearPart p reason .halted).placeRanges

def State.note (s : State) (e : SvcEvent) : State := { s with svc := { s.svc with log := s.svc.log ++ [e] } }

/-- An event recorded in the service core's log and reported to both masters: the host by vector 3, the side-band controller by an
in-band interrupt (R390, R391). DESIGN CHOICE, unsafe: log entry 85. -/
def State.tellMasters (s : State) (e : SvcEvent) : State := (s.note e).signal 3

/-! ### Uncorrectable errors (R274, R389, R390) -/

/-- The lines that a slice retains. -/
def State.retainedLines (s : State) (die slice : Nat) : List Nat :=
  ((s.bad.filter fun b => b.retained && homeDie b.addr == die && homeSlice b.addr == slice).map fun b => b.addr / 1024).eraseDups

def State.addBad (s : State) (pa : Nat) (retained : Bool) (mask : Nat) : State :=
  let a := pa / 256 * 256
  { s with bad := ⟨a, retained, mask, BitVec.allOnes 256⟩ :: s.bad.filter fun b => b.addr != a }

/-- A line discarded from its slice: what the slice alone held of it is lost, and memory keeps what it holds (R267, R390). -/
def State.discardLine (s : State) (pa : Nat) : State :=
  let lost := (s.l2.filter fun l => l.line == pa / 1024).flatMap fun l => l.under
  { s with
    mem := lost.foldl (fun m c => memPut m c.1 [c.2]) s.mem
    l2 := s.l2.filter fun l => l.line != pa / 1024
    bad := s.bad.filter fun b => b.addr / 1024 != pa / 1024
    mcasts := s.mcasts.filter fun e => e.addr / 1024 != pa / 1024 }

/-- The partitions that a slice's log entry of an error names, every access that met it counted. -/
def State.loggedParts (s : State) (pa kind src : Nat) : List Nat :=
  let e : LogEntry := ⟨homeDie pa, homeSlice pa, pa % 2 ^ 52 / 1024 * 1024, pa / 256 % 4, kind, src, 1, 0⟩
  let mask := ((s.logs.find? fun x => x.same e).map fun x => x.parts).getD 0
  (List.range 8).filter fun p => bitsOf mask p 1 == 1

/-- R390: the limit of retained lines is passed; the entries that only the partitions reset may serve are cut (R400). -/
def State.overLimit (s : State) (pa src mask : Nat) : State :=
  let s1 := ((s.logError pa 3 src mask).discardLine pa).tellMasters (.retainedLimit (homeDie pa) (homeSlice pa))
  let ps := s1.loggedParts pa 3 src
  let s2 := ps.foldl (fun s p => s.errorReset p 5) s1
  (s2.cutEntries (ps.filter fun p => (s2.part p).owed.isNone)).placeRanges

/-- An uncorrectable error in the sector of global memory at `pa`, whose dirty line its slice retains. -/
def State.sectorError (s : State) (pa src mask : Nat) : State :=
  if (s.l2Find pa).any fun l => l.dirty != 0#4 then
    let lines := s.retainedLines (homeDie pa) (homeSlice pa)
    if lines.contains (pa / 1024) || decide (lines.length < 16) then (s.logError pa 2 src mask).addBad pa true mask
    else s.overLimit pa src mask
  else if s.bad.any (fun b => b.addr == pa / 256 * 256) then s.logError pa 1 src mask
  else (s.logError pa 1 src mask).addBad pa false mask

/-- An uncorrectable error in a register of path `pid` of group `gid`, met by the word at which the path stands. -/
def State.registerError (s : State) (gid pid : Nat) : State :=
  match s.group gid with
  | none => s
  | some g =>
    match g.path pid, s.team g.team with
    | some p, some t =>
      if !s.ready g t p then s else
      let at_ := match p.pfx with
        | some l => l.addr
        | none => p.pc
      trapTo { s with draws := s.draws + 1 } g t pid ⟨causeMemerr, none, 0#16, (Config.registerFa s.draws).setWidth 64⟩ at_
    | _, _ => s

/-- MEMORY_ERROR, by `item`: in the sector of global memory at physical address `addr`, met by the partitions of mask `size`, with
the L2 array as its source if `item` is 2; 4, in `size` bytes of team `team`'s granules from own offset `addr`; 5, in the sector
that the L1 of core `core` holds of physical address `addr`; 6, in a register that the next word of path `team` of group `core`
reads; 7, in accumulator slot `addr` of core `core`. DESIGN CHOICE, unsafe: log entry 11. -/
def execMemoryError (s : State) : Out :=
  let a := s.arg
  let k := a.core % 768
  if !s.dieUp then .next s
  else if a.item = 4 then
    let here (t : Team) : List Nat := ((List.range a.size).map fun i => a.addr + i).filter fun o => decide (o < t.hold.scr * 4096)
    .next (match s.team a.team with
      | some t => s.putTeam { t with bad := here t ++ t.bad }
      | none => s)
  else if a.item = 5 then
    let c := s.core k
    .next (s.putCore k { c with l1 := c.l1.map fun e => if e.addr = a.addr / 256 * 256 then { e with bad := true } else e })
  else if a.item = 6 then .next (s.registerError a.core a.team)
  else if a.item = 7 then .next (s.mapSlot k a.addr fun x => { x with bad := true })
  else .next (s.sectorError a.addr (if a.item = 2 then 2 else errorSrc a.addr) a.size)

/-- PEER_TIMEOUT of an access of partition `part` to address `addr` of peer module `item`, consumed as an uncorrectable
error with SRC 3 (R420). -/
def execPeerTimeout (s : State) : Out :=
  let pa := peerKey s.arg.item s.arg.addr
  if s.dieUp then .next ((s.logError pa 1 3 (2 ^ (s.arg.part % 8))).addBad pa false (2 ^ (s.arg.part % 8))) else .next s

/-! ### Resets for fault containment (R277, R391) -/

/-- FREE items that are lost: every run whose SEQ one carries reports KILL (R391, R405). -/
def State.loseItems (s : State) (l : List Item) : State :=
  let lost (r : Run) : Bool := r.nodes.any fun n => n.kind == 0 && l.any fun i => i.free && BitVec.ofNat 32 i.seq == n.seq
  { s with
    items := s.items.filter fun i => !l.contains i
    fe := { s.fe with runs := s.fe.runs.map fun r => if lost r = true then { r with kill := true } else r } }

/-- Is the context of a core away in the shadow slot, or on its way? -/
def State.contextAway (s : State) (core : Nat) : Bool :=
  [PartState.swappingOut, .swapped, .swappingIn].contains (s.part (partOf core)).st

/-- The steps of R391 on one core. DEDUCED, unsafe: log entry 23. -/
def State.containCore (s : State) (k : Nat) : State :=
  if s.contextAway k then s.putCore k { s.core k with cycBase := s.now } else
  let uids := (s.residents k).map fun t => t.uid
  let s1 := uids.foldl (fun s u => match s.team u with
    | some t => killTeam s t 4 (s.firstRegs u)
    | none => s) s
  let mine := s1.steals.filter fun r => r.core == k
  let s2 := { s1 with steals := s1.steals.filter fun r => r.core != k }
  let s3 := s2.loseItems (s2.items.filter (Item.inRegion k) ++ mine.flatMap fun r => r.items)
  let plans := s3.fe.gangs.filter fun g => g.covers k
  let s4 := plans.foldl (fun s g => s.dropPlan g none) s3
  let on := Config.imageSigned s4.svc.agentImage
  (s4.putCore k { Core.reset with
    cycBase := s4.now, agentOn := on, drafterOn := on, agentRel := s4.svc.agentRel, queues := (s4.core k).queues }).closeQueues k

/-- The parts of a quad beside its cores. -/
def State.containQuad (s : State) (q : Nat) : State :=
  let s1 := (quadCores (4 * q)).foldl (fun s k => s.containCore k) s
  { s1 with quadTlb := s1.quadTlb.set (quadIx q) [] }

/-- CONTROL_STATE_ERROR in core `core` (`size` 0), its quad (1) or its cluster (2), by the table of R391. -/
def execControlStateError (s : State) : Out :=
  if !s.dieUp then .next s else
  let k := s.arg.core % 768
  let s1 := s.tellMasters (.containment k)
  if s.arg.size = 0 then .next (s1.containCore k)
  else if s.arg.size = 1 then .next (s1.containQuad (quadOf k))
  else .next (s1.errorReset (partOf k) 3)

def watchdogCycles : Nat := 2 ^ 20

/-- A ready split, or a placement reservation, of a core has been held for 2²⁰ cycles.
DEDUCED, unsafe: log entry 22. -/
def State.watchdogDue (s : State) (k : Nat) : Bool :=
  (s.groups.any fun g => match s.team g.team with
    | some t => t.core == k && g.paths.any fun p =>
        s.ready g t p && p.readySince.any fun c => decide (c + watchdogCycles ≤ s.now)
    | none => false)
  || s.fe.gangs.any fun g => g.answers.contains (k, true) && decide (g.since + watchdogCycles ≤ s.now)

/-- WATCHDOG_EXPIRY of core `core`. -/
def execWatchdogExpiry (s : State) : Out :=
  let k := s.arg.core % 768
  if s.dieUp && s.watchdogDue k then .next ((s.tellMasters (.containment k)).containCore k) else .next s

/-! ### Sub-arrays (R320) -/

/-- The engine of a core runs a record. -/
def State.engineBusy (s : State) (k : Nat) : Bool :=
  s.records.any fun r => r.eng.any (fun e => decide (e < 4)) && r.engineCore == k

/-- SUBARRAY_POWER_DOWN of core `core`, after IDLET cycles. -/
def execSubarrayPowerDown (s : State) : Out :=
  let k := s.arg.core % 768
  let c := s.core k
  let idle := (s.part (partOf k)).idlet
  let th := if idle = 0 then 2048 else idle
  if s.diesRun && c.arraysOn && !s.engineBusy k && decide (c.arraysIdle + th ≤ s.now) then
    .next (s.putCore k { c with arraysOn := false, arraysIdle := s.now })
  else .next s

end Sys2Proof.Machine
end

