-- ==== Sys2Proof/Machine/LaneX.lean ====
section
/-! DEFINITION. The cross-lane instructions LANE (R196 to R200). Their collective merge happens before they issue
(R168, Machine/Step.lean). -/

namespace Sys2Proof.Machine

/-- The lanes of a mask whose value satisfies `p`. -/
def lanesWith (on : Mask) (p : Lane → Bool) : List Lane := (lanesOf on).filter p

/-- A member with a lane destination and no active lane writes nothing (R196). DEDUCED, unsafe: log entry 43. -/
def laneOut (s : State) (c : Ctx) (g : Group) : Out := finish s c (if c.active = 0#32 then c.g else g)

/-- The raw bits of a v operand; an s-register stands for its point (R95, R197). -/
def Ctx.vRaw (c : Ctx) (u : Bool) (r : Reg) (l : Lane) : DWord :=
  if u then (writeF32 (scalarF32 (c.g.getS r)).1).1 else c.g.getV r l

/-- A source lane's value, 0 where it is not active (R196). -/
def fromLane {w : Nat} (c : Ctx) (j : Lane) (f : Lane → BitVec w) : BitVec w := if laneOn c.active j then f j else 0#w

/-- R197: D[L] := A[src L] in the file that the width bit chooses. -/
def moveLanes (s : State) (c : Ctx) (f : FormSh) (src : Lane → Lane) : Out :=
  if f.w then laneOut s c (c.writeV f.d fun l => (fromLane c (src l) (c.vRaw f.ua f.a), 0#6))
  else laneOut s c (c.writeX f.d fun l => (fromLane c (src l) (c.xOp f.ua f.a), 0#6))

/-- SHFL: from lane L XOR c, or from the lane the fourth operand names; then c must be 0 (R197). -/
def execShfl (f : FormSh) (s : State) : Out :=
  startWord (.shfl f) s (fun c => c.fourth.isSome && f.k != 0#5) (fun _ => true) fun c =>
    moveLanes s c f fun l => match c.xFourth l with
      | some w => Fin.ofNat 32 w.toNat
      | none => Fin.ofNat 32 (l.val ^^^ f.k.toNat)

/-- BCAST (R197). -/
def execBcast (f : FormSh) (s : State) : Out :=
  word (.bcast f) s fun c => moveLanes s c f fun _ => f.k.toFin

/-- R198: the value of a vote. -/
def voteValue (mode : Nat) (active yes : Mask) : Word :=
  match mode with
  | 0 => yes
  | 1 => boolWord (yes == active)
  | 2 => boolWord (yes != 0#32)
  | _ => popWord yes

/-- VOTE: a departing lane casts the identity of the mode, so only the active lanes count (R198). -/
def execVote (f : FormVote) (s : State) : Out :=
  word (.vote f) s fun c =>
    let yes := maskOf fun l => laneOn c.active l && c.xOp f.ua f.a l != 0#32
    finish s c (c.g.setS f.d (voteValue f.k.toNat c.active yes))

/-- QVOTE: counts and Kleene's AND and OR (R198). -/
def execQvote (f : FormDA) (s : State) : Out :=
  word (.qvote f) s fun c =>
    let vals := (lanesOf c.active).map (c.g.getQ f.a)
    let cnt (v : BitVec 2) : Nat := vals.count v
    let all := (vals.foldl qAnd qT).toNat
    let any := (vals.foldl qOr qF).toNat
    finish s c (c.g.setS f.d
      (BitVec.ofNat 32 (cnt qT + 2 ^ 8 * cnt qF + 2 ^ 16 * cnt qU + 2 ^ 24 * all + 2 ^ 26 * any)))

/-- The values of the active lanes, in lane order. -/
def activeX (c : Ctx) (f : FormRed) : List Word := (lanesOf c.active).map (c.xOp f.ua f.a)
def activeV (c : Ctx) (f : FormRed) : List (Itv × Flags) := (lanesOf c.active).map (c.vOp f.ua f.a)
/-- One value per lane position, the identity where the lane is not active (R86). -/
def positionsV (c : Ctx) (f : FormRed) : List (Itv × Flags) :=
  allLanes.map fun l => if laneOn c.active l then c.vOp f.ua f.a l else (itvZero, 0#6)

/-- A reduction: by type, to every active lane (R199). -/
def reduce (i : Instr) (s : State) (f : FormRed) (ops : Word → Word → Word) (opu : Word → Word → Word)
    (zero : Word) (opv : Ctx → Itv × Flags) : Out :=
  word i s fun c =>
    if f.t = 2#2 then
      let r := opv c
      let w := writeF32 r.1
      laneOut s c (c.writeV f.d fun _ => (w.1, r.2))
    else
      let op := if f.t = 0#2 then ops else opu
      let w := match activeX c f with
        | [] => zero
        | a :: as => as.foldl op a
      laneOut s c (c.writeX f.d fun _ => (w, 0#6))

/-- The least or greatest of each bound, taken exactly; an empty operand gives the empty set (R199). -/
def foldBounds (op : Itv → Itv → Itv) (l : List (Itv × Flags)) : Itv × Flags :=
  match l with
  | [] => (.empty, 0#6)
  | a :: as => as.foldl (fun x y => (op x.1 y.1, x.2 ||| y.2)) a

/-- RDADD (R199, R86). -/
def execRdadd (f : FormRed) (s : State) : Out :=
  reduce (.rdadd f) s f (fun a b => a + b) (fun a b => a + b) 0#32 fun c => oplusTree 5 (positionsV c f)
/-- RDMIN (R199). -/
def execRdmin (f : FormRed) (s : State) : Out :=
  reduce (.rdmin f) s f (fun a b => if b.slt a then b else a) (fun a b => if b.ult a then b else a) 0#32
    fun c => foldBounds itvMin (activeV c f)
/-- RDMAX (R199). -/
def execRdmax (f : FormRed) (s : State) : Out :=
  reduce (.rdmax f) s f (fun a b => if a.slt b then b else a) (fun a b => if a.ult b then b else a) 0#32
    fun c => foldBounds itvMax (activeV c f)

/-- SCAN: each lane's own prefix, in lane order (R199, R86). -/
def execScan (f : FormRed) (s : State) : Out :=
  word (.scan f) s fun c =>
    if f.t = 2#2 then
      let upTo (l : Lane) : Itv × Flags := ((positionsV c f).take (l.val + 1)).foldl oplus (itvZero, 0#6)
      laneOut s c (c.writeV f.d fun l => ((writeF32 (upTo l).1).1, (upTo l).2))
    else
      let upTo (l : Lane) : Word :=
        ((lanesOf c.active).filter fun j => decide (j ≤ l)).foldl (fun m j => m + c.xOp f.ua f.a j) 0#32
      laneOut s c (c.writeX f.d fun l => (upTo l, 0#6))

/-- HIST: weighted counts into one bin per lane (R200). -/
def execHist (f : FormHist) (s : State) : Out :=
  word (.hist f) s fun c =>
    let bin (j : Lane) : Nat := (c.xOp f.ua f.a j).toNat / 2 ^ f.sh.toNat
    let wgt (j : Lane) : Word := (c.xFourth j).getD 1#32
    laneOut s c (c.writeX f.d fun l =>
      ((lanesWith c.active fun j => bin j == l.val).foldl (fun m j => m + wgt j) (c.g.getX f.d l), 0#6))

/-- HMERGE: neighbouring bins of two histograms summed (R200). -/
def execHmerge (f : FormR) (s : State) : Out :=
  word (.hmerge f) s fun c =>
    let two (r : Lane → Word) (k : Nat) : Word :=
      fromLane c (Fin.ofNat 32 (2 * k)) r + fromLane c (Fin.ofNat 32 (2 * k + 1)) r
    laneOut s c (c.writeX f.d fun l =>
      (if l.val < 16 then two (c.xOp f.ua f.a) l.val else two (c.xOp f.ub f.b) (l.val - 16), 0#6))

end Sys2Proof.Machine
end

