-- ==== Sys2Proof/Machine/Pred.lean ====
section
/-! DEFINITION. The PRED members and the steps of their records: the predictor engine's bounds, row lists and replay,
and PFFN on a matrix engine (R326 to R342). -/

namespace Sys2Proof.Machine

/-! ### The predictor command block (R328, R332) -/

def fnPscore : Nat := 11
def fnPsel : Nat := 12
def fnPkerf : Nat := 13
def fnPffn : Nat := 14

structure Pcb where
  x : Nat
  u : Nat
  v : Nat
  rt : Nat
  w : Nat
  idx : Nat
  tmask : Nat
  xstr : Nat
  kerf : Nat
  klen : Nat
  rows : Nat
  toks : Nat
  rank : Nat
  xfmt : Nat
  wfmt : Nat
  act : Nat
  gated : Bool
  acc : Nat
  wmask : Nat
  wg : Nat
  wu : Nat
  wd : Nat
  cb : Nat
deriving DecidableEq, Repr

def pcbOf (b : List DWord) : Pcb :=
  { x := fieldAt b 0 0 57, u := fieldAt b 1 0 57, v := fieldAt b 2 0 57, rt := fieldAt b 3 0 57, w := fieldAt b 4 0 57,
    idx := fieldAt b 5 0 57, tmask := dwAt b 6, xstr := fieldAt b 7 0 32, kerf := fieldAt b 7 32 32, klen := fieldAt b 8 0 20,
    rows := 64 * (fieldAt b 8 20 10 + 1), toks := fieldAt b 8 30 6 + 1, rank := fieldAt b 8 36 6 + 1, xfmt := fieldAt b 8 42 4,
    wfmt := fieldAt b 8 46 4, act := fieldAt b 8 50 3, gated := fieldAt b 8 53 1 == 1, acc := fieldAt b 8 54 3,
    wmask := fieldAt b 9 0 16, wg := fieldAt b 9 16 4, wu := fieldAt b 9 20 4, wd := fieldAt b 9 24 4, cb := fieldAt b 9 32 6 }

/-- Is a window unbound, or narrower than some bits per row? -/
def windowShort (t : Team) (w bits : Nat) : Bool :=
  match t.windows.get (winIx w) with
  | none => true
  | some x => decide (8 * x.rowSize < bits)

/-- Is a window that receives the list unfit for it (R332)? -/
def listWindowBad (t : Team) (q : Pcb) (w : Nat) : Bool :=
  match t.windows.get (winIx w) with
  | none => true
  | some x => x.idx.toNat != q.idx || decide (2 ^ 28 < q.rows * x.rowSize)

/-- A kerf that is finite and not negative. -/
def kerfOk (w : Nat) : Bool :=
  match bitsBd fmtF32 w with
  | some (.fin d) => decide (0 ≤ d.m)
  | _ => false

/-- The byte offset of the first doubleword that fails; fields that the member does not use are reserved (R332).
DEDUCED, unsafe: log entry 53. -/
def pcbBad (fn : Nat) (t : Team) (slot : Nat → AccSlot) (b : List DWord) : Option Nat :=
  let q := pcbOf b
  let sc := fn == fnPscore
  let se := fn == fnPsel
  let ke := fn == fnPkerf
  let ff := fn == fnPffn
  let addr (i al : Nat) (used : Bool) : Bool :=
    if used then fieldAt b i 57 7 != 0 || fieldAt b i 0 57 % al != 0 else dwAt b i != 0
  let unused (i lo n : Nat) (used : Bool) : Bool := !used && fieldAt b i lo n != 0
  let x := slot (t.physSlot q.acc)
  let wbits := pfmtBits (pfmtOfCode q.wfmt)
  let bad : List Bool :=
    [ addr 0 1 (sc || ff), addr 1 1 sc, addr 2 1 sc, addr 3 16 (sc || se), addr 4 256 true, addr 5 4 (se || ke),
      decide (2 ^ q.toks ≤ q.tmask),
      unused 7 0 32 (sc || ff) || q.xstr % 4 != 0 || unused 7 32 32 ke || (ke && !kerfOk q.kerf),
      unused 8 0 20 (sc || ff) || unused 8 36 6 sc || unused 8 42 4 (sc || ff) || unused 8 46 4 ff || unused 8 50 4 (se || ff)
        || unused 8 54 3 ff || fieldAt b 8 57 7 != 0
        || ((sc || ff) && (q.klen == 0 || decide (65536 < q.klen) || !decide (q.xfmt ≤ 3 ∨ q.xfmt = 9)))
        || (ff && (decide (4 < q.wfmt) || (q.wfmt == 4 && q.klen % 2 == 1) || decide (q.toks < x.rows)))
        || decide (3 < q.act),
      unused 9 0 16 (se || ke) || unused 9 16 12 ff || fieldAt b 9 28 4 != 0 || unused 9 32 6 ff || fieldAt b 9 38 26 != 0
        || ((se || ke) && (List.range 16).any fun w => bitsOf q.wmask w 1 == 1 && listWindowBad t q w)
        || (ff && (windowShort t q.wg (q.klen * wbits) || windowShort t q.wd ((64 * q.cb + x.cols) * wbits)
              || (q.gated && windowShort t q.wu (q.klen * wbits)))),
      fieldAt b 10 34 30 != 0,
      addr 11 1 ff, dwAt b 12 != 0, dwAt b 13 != 0, dwAt b 14 != 0, dwAt b 15 != 0 ]
  (bad.findIdx? id).map fun i => 8 * i

/-! ### The words (R326, R331, R342) -/

def predWord (i : Instr) (f : FormT) (s : State) (fn : Nat) : Out :=
  issueRecord i f s fn 3 16 128 2 10
    (fun b => if fn = fnPffn then [(pcbOf b).acc] else [])
    (fun c b => (pcbBad fn c.t (s.slot c.t.core) b).map fun o => BitVec.ofNat 16 o)
    fun _ g => g

def execPscore (f : FormT) (s : State) : Out := predWord (.pscore f) f s fnPscore
def execPsel (f : FormT) (s : State) : Out := predWord (.psel f) f s fnPsel
def execPkerf (f : FormT) (s : State) : Out := predWord (.pkerf f) f s fnPkerf
def execPffn (f : FormT) (s : State) : Out := predWord (.pffn f) f s fnPffn

def ctrIx (n : Nat) : Fin 6 := Fin.ofNat 6 n

/-- PSTAT: a team counter, cleared by the selectors from 32 on. -/
def execPstat (f : FormDS) (s : State) : Out :=
  word (.pstat f) s fun c =>
    let i := ctrIx (f.s.toNat % 32)
    let t := if 32 ≤ f.s.toNat then { c.t with predCtr := c.t.predCtr.set i 0#32 } else c.t
    finish (s.putTeam t) c (c.g.setS f.d (c.t.predCtr.get i))

/-! ### FP32 bounds -/

/-- A bound rounded up to FP32, with OVF where a finite one became infinite. -/
def ruBd (x : Bd) : Bd × Flags :=
  let r := bdBits fmtF32 .up x
  ((bitsBd fmtF32 r.1).getD .pinf, flagIf r.2 fOVF)
def rdBd (x : Bd) : Bd × Flags :=
  let r := bdBits fmtF32 .down x
  ((bitsBd fmtF32 r.1).getD .ninf, flagIf r.2 fOVF)
def bdWord (x : Bd) : Nat := (bdBits fmtF32 .up x).1
/-- A stored bound; a NaN counts as +inf. -/
def wordBd (n : Nat) : Bd := (bitsBd fmtF32 n).getD .pinf

/-- A row table bound: a NaN or negative one is +inf and sets INV (R329). -/
def tableBound (n : Nat) : Bd × Flags :=
  match bitsBd fmtF32 n with
  | some b => if bdLt b bdZero then (.pinf, fINV) else (b, 0#6)
  | none => (.pinf, fINV)
/-- A row threshold: a NaN or negative one is 0 and sets INV (R329). -/
def tableThreshold (n : Nat) : Bd × Flags :=
  match bitsBd fmtF32 n with
  | some b => if bdLt b bdZero then (bdZero, fINV) else (b, 0#6)
  | none => (bdZero, fINV)

/-- The product of bounds that are not negative, where one is 0 and the other infinite by the manual's word for it. -/
def mulBd (a b : Bd) (zeroInf : Bd) : Bd :=
  if (bdIsZero a && b == .pinf) || (a == .pinf && bdIsZero b) then zeroInf else bdMul a b
/-- The value of a product of 0 and +inf that the manual does not state: any that is not negative, so that the bounds of R338
hold. DESIGN CHOICE, safe: log entry 18. -/
def openZeroInf (n : Nat) : Bd := bdMax bdZero (wordBd (Config.zeroTimesInf n).toNat)

/-- max(|lo|, |hi|) and, where 0 is outside, min(|lo|, |hi|). -/
def magOf : Itv → Bd
  | .empty => .pinf
  | .mk l h => bdMax (bdAbs l) (bdAbs h)
def migOf : Itv → Bd
  | .empty => bdZero
  | .mk l h => if bdLe l bdZero && bdLe bdZero h then bdZero else bdMin (bdAbs l) (bdAbs h)

/-! ### Sums (R333, R86) -/

/-- Split a list into pieces of 64; `fuel` bounds their number. -/
def pieces {α : Type} : Nat → List α → List (List α)
  | 0, _ => []
  | n + 1, l => if l.isEmpty then [] else l.take 64 :: pieces n (l.drop 64)

/-- Rounded products summed by the tree in chunks of 64, then into the running sum. -/
def sumProducts (ps : List (Itv × Flags)) : Itv × Flags :=
  (pieces (ps.length / 64 + 1) ps).foldl (fun a c =>
    oplus a (oplusTree 6 (c ++ List.replicate (64 - c.length) (itvZero, 0#6)))) (itvZero, 0#6)

/-- A product by R210, rounded, with the events of its operands. -/
def mulFlagged (a b : Itv × Flags) : Itv × Flags :=
  let r := roundItv (itvMul a.1 b.1)
  (r.1, a.2 ||| b.2 ||| r.2)

/-! ### Elements and tables in memory -/

def Record.pcb (r : Record) : Pcb := pcbOf r.block
def State.recNat (s : State) (r : Record) (va n : Nat) : Except EngStop Nat := s.engineNat r.core r.part va n

/-- A token element: a point by R78, or an interval by R67. -/
def State.tokenElem (s : State) (r : Record) (t m : Nat) : Except EngStop (Option Itv × Flags) :=
  let q := r.pcb
  let n := tileSize q.xfmt
  match s.recNat r (q.x + t * q.xstr + m * n) n with
  | .error e => .error e
  | .ok v =>
    if q.xfmt = 9 then
      let i := readF32 (BitVec.ofNat 64 v)
      .ok (some i.1, i.2)
    else match pointItv (pfmtOfCode q.xfmt) v with
      | some i => .ok (some i, 0#6)
      | none => .ok (none, fINV)

def State.token (s : State) (r : Record) (t : Nat) : Except EngStop (List (Option Itv × Flags)) :=
  (List.range r.pcb.klen).mapM fun m => s.tokenElem r t m

/-- FP32 points read as intervals. -/
def State.points (s : State) (r : Record) (va n : Nat) : Except EngStop (List (Itv × Flags)) :=
  (List.range n).mapM fun i => match s.recNat r (va + 4 * i) 4 with
    | .ok v => .ok (scalarF32 (BitVec.ofNat 32 v))
    | .error e => .error e

def Pcb.hAt (q : Pcb) (i t : Nat) : Nat := q.w + 0x300 + 8 * (i * q.toks + t)
def Pcb.bAt (q : Pcb) (i t : Nat) : Nat := q.w + 0x300 + 8 * q.rows * q.toks + 4 * (i * q.toks + t)
def Pcb.clsAt (q : Pcb) (i : Nat) : Nat := q.w + 0x300 + 12 * q.rows * q.toks + 16 * i
def Pcb.mskAt (q : Pcb) (n : Nat) : Nat := q.w + 0x300 + 12 * q.rows * q.toks + 16 * q.rows + 8 * n
def Pcb.on (q : Pcb) (t : Nat) : Bool := bitsOf q.tmask t 1 == 1
def Pcb.tokens (q : Pcb) : List Nat := (List.range q.toks).filter q.on

/-- STAT of the work area takes the events of a step; bits 0, 2, 3 and 6 exist. -/
def State.statWrite (s : State) (r : Record) (fl : Flags) : Except EngStop (Nat × List Byte) :=
  match s.recNat r (r.pcb.w + 0x20) 1 with
  | .error e => .error e
  | .ok n => .ok (r.pcb.w + 0x20, [BitVec.ofNat 8 n ||| (fl.setWidth 8 &&& 0x0D#8)])

/-! ### PSCORE (R333) -/

/-- The norm bound of a token. -/
def normOf (xs : List Itv) : Bd × Flags :=
  let n := xs.foldl (fun (a : Bd × Flags) x =>
    let sq := ruBd (bdMul (magOf x) (magOf x))
    let r := ruBd (bdAdd a.1 sq.1)
    (r.1, a.2 ||| sq.2 ||| r.2)) (bdZero, 0#6)
  match n.1 with
  | .fin d =>
    let r := ruBd (.fin (sqrtDy d).2)
    (r.1, n.2 ||| r.2)
  | b => (b, n.2)

/-- The bounds of every row for one token: H as an image, with its events. -/
def State.scoreRows (s : State) (r : Record) (zs : List (Itv × Flags)) (nrm : Bd) : Except EngStop (List (DWord × Flags)) :=
  let q := r.pcb
  (List.range q.rows).mapM fun i =>
    match s.points r (q.u + 4 * (i * q.rank)) q.rank, s.recNat r (q.rt + 16 * i) 4 with
    | .ok us, .ok e =>
      let sum := sumProducts ((us.zip zs).map fun p => mulFlagged p.1 p.2)
      let eb := tableBound e
      let w := ruBd (mulBd eb.1 nrm (openZeroInf 0))
      .ok (match sum.1 with
        | .empty => (imgEmpty, sum.2 ||| eb.2 ||| w.2)
        | .mk l h =>
          let o := writeF32 (.mk (bdAdd l (bdNeg w.1)) (bdAdd h w.1))
          (o.1, sum.2 ||| eb.2 ||| w.2 ||| o.2))
    | .error x, _ => .error x
    | _, .error x => .error x

/-- One token of a PSCORE: what it writes. -/
def State.scoreToken (s : State) (r : Record) (t : Nat) : Except EngStop (List (Nat × List Byte) × Flags) :=
  let q := r.pcb
  if !q.on t then .ok ([], 0#6) else
  match s.token r t with
  | .error e => .error e
  | .ok xs =>
    let fl := xs.foldl (fun m x => m ||| x.2) 0#6
    if xs.any fun x => x.1.isNone || x.1 == some .empty then
      .ok ((q.w + 0x100 + 4 * t, natBytes 4 (bdWord .pinf))
        :: (List.range q.rows).map fun i => (q.hAt i t, natBytes 8 imgEntire.toNat), fl ||| fINV)
    else
      let vals := xs.map fun x => x.1.getD .empty
      let nrm := normOf vals
      match (List.range q.rank).mapM fun k => s.points r (q.v + 4 * (k * q.klen)) q.klen with
      | .error e => .error e
      | .ok vs =>
        let zs := vs.map fun v => sumProducts ((v.zip vals).map fun p => mulFlagged p.1 (p.2, 0#6))
        match s.scoreRows r zs nrm.1 with
        | .error e => .error e
        | .ok hs =>
          .ok ((q.w + 0x100 + 4 * t, natBytes 4 (bdWord nrm.1))
            :: ((List.range q.rows).zip hs).map fun p => (q.hAt p.1 t, natBytes 8 p.2.1.toNat),
            hs.foldl (fun m h => m ||| h.2) (fl ||| nrm.2))

/-- The counters and STAT cleared, before any token; a restart does not clear them again (R333, R340). -/
def State.clearScore (s : State) (r : Record) : State :=
  match s.engineWrites r.core r.part [(r.pcb.w, List.replicate 32 0#8), (r.pcb.w + 0x20, [0#8])] with
  | .ok s1 => s1.putRecord { r with entryRead := true }
  | .error e => s.stopRecord r e

/-- One step of a PSCORE: the clearing, then each token. -/
def State.stepScore (s : State) (r : Record) : State :=
  if !r.entryRead then s.clearScore r else
  let out : Except EngStop State :=
    match s.scoreToken r r.next with
    | .error e => .error e
    | .ok (ws, fl) => match s.statWrite r fl with
      | .error e => .error e
      | .ok st => s.engineWrites r.core r.part (ws ++ [st])
  match out with
  | .ok s1 => s1.putRecord (r.advance r.pcb.toks)
  | .error e => s.stopRecord r e

/-! ### PSEL (R334, R335) -/

/-- The activation's enclosure, with its events. -/
def activate (act : Nat) (h : Itv) : Itv × Flags :=
  match act, h with
  | _, .empty => (.empty, 0#6)
  | 0, .mk l u => (.mk (bdMax bdZero l) (bdMax bdZero u), 0#6)
  | 1, x => ((readF32 (sfuSilu x).1).1, (sfuSilu x).2)
  | 2, x => ((readF32 (sfuGelu x).1).1, (sfuGelu x).2)
  | _, x => (x, 0#6)

/-- The bound and the class of a row for a token: 0 F, 1 T, 2 U (R44). -/
structure RowClass where
  bound : Bd
  cls : Nat
  flags : Flags
deriving DecidableEq, Repr

def classify (q : Pcb) (h : Itv × Flags) (gu c th nrm : Nat) : RowClass :=
  let a := activate q.act h.1
  let cb := tableBound c
  let tb := tableThreshold th
  if itvIsEmpty h.1 then ⟨.pinf, 2, h.2 ||| fINV ||| cb.2 ||| tb.2⟩ else
  let gb := if q.gated then tableBound gu else (bdZero, 0#6)
  let g : Bd × Flags := if q.gated then ruBd (mulBd gb.1 (wordBd nrm) (openZeroInf 1)) else (.fin dyOne, 0#6)
  let x := ruBd (mulBd (magOf a.1) g.1 bdZero)
  let b := ruBd (mulBd x.1 cb.1 .pinf)
  let low := rdBd (mulBd (migOf a.1) cb.1 .pinf)
  let cls := if bdLe b.1 tb.1 then 0 else if bdLt tb.1 low.1 then 1 else 2
  ⟨b.1, cls, h.2 ||| a.2 ||| gb.2 ||| cb.2 ||| tb.2 ||| g.2 ||| x.2 ||| b.2⟩

/-- A row's classes: two bits per token. -/
def setClass (w t cls : Nat) : Nat := w - bitsOf w (2 * t) 2 * 4 ^ t + cls * 4 ^ t

/-- One row of a PSEL block: what it writes, and its events. -/
def State.selRow (s : State) (r : Record) (i : Nat) : Except EngStop (List (Nat × List Byte) × Flags) :=
  let q := r.pcb
  match s.recNat r (q.rt + 16 * i) 16, s.recNat r (q.clsAt i) 16,
        q.tokens.mapM fun t => s.recNat r (q.hAt i t) 8, q.tokens.mapM fun t => s.recNat r (q.w + 0x100 + 4 * t) 4 with
  | .ok e, .ok old, .ok hs, .ok ns =>
    let cs := ((q.tokens.zip hs).zip ns).map fun p =>
      (p.1.1, classify q (readF32 (BitVec.ofNat 64 p.1.2)) (bitsOf e 32 32) (bitsOf e 64 32) (bitsOf e 96 32) p.2)
    .ok ((q.clsAt i, natBytes 16 (cs.foldl (fun w c => setClass w c.1 c.2.cls) old))
        :: cs.map fun c => (q.bAt i c.1, natBytes 4 (bdWord c.2.bound)),
      cs.foldl (fun m c => m ||| c.2.flags) 0#6)
  | .error x, _, _, _ => .error x
  | _, .error x, _, _ => .error x
  | _, _, .error x, _ => .error x
  | _, _, _, .error x => .error x

/-- The classes of every row. -/
def State.classes (s : State) (r : Record) : Except EngStop (List Nat) :=
  (List.range r.pcb.rows).mapM fun i => s.recNat r (r.pcb.clsAt i) 16

/-- The tokens that take part and have a class in a row, as a mask. -/
def Pcb.tokensOf (q : Pcb) (w cls : Nat) : Nat :=
  q.tokens.foldl (fun m t => if bitsOf w (2 * t) 2 = cls then m + 2 ^ t else m) 0

/-- The list that ends a PSEL (R335). -/
def State.writeList (s : State) (r : Record) : Except EngStop (State × Record) :=
  let q := r.pcb
  match s.classes r with
  | .error e => .error e
  | .ok ws =>
    let rows := ((List.range q.rows).zip ws).filter fun p => q.tokensOf p.2 1 != 0
    let n := rows.length
    let neg := (ws.filter fun w => q.tokensOf w 0 == q.tokensOf 0 0).length
    let und := q.rows - n - neg
    let entries := (List.range n).zip rows
    let out := s.engineWrites r.core r.part
      ((entries.map fun p => (q.idx + 4 * p.1, natBytes 4 p.2.1)) ++ (entries.map fun p => (q.mskAt p.1, natBytes 8 (q.tokensOf p.2.2 1)))
        ++ [(q.w, natBytes 4 n ++ natBytes 4 n ++ natBytes 4 neg ++ natBytes 4 und ++ natBytes 4 0), (q.w + 0x18, natBytes 8 0)])
    match out with
    | .ok s1 => .ok (s1, { r with nlist := n, res := [BitVec.ofNat 32 n, BitVec.ofNat 32 neg, BitVec.ofNat 32 und] })
    | .error e => .error e

/-- COUNT of every window of WMASK (R335, R336). -/
def Record.setCounts (r : Record) (t : Team) : Team :=
  (List.range 16).foldl (fun t w =>
    if bitsOf r.pcb.wmask w 1 = 1 then
      { t with windows := t.windows.set (winIx w) ((t.windows.get (winIx w)).map fun x => { x with count := r.nlist }) }
    else t) t

def State.mapTeam (s : State) (uid : Nat) (f : Team → Team) : State :=
  match s.team uid with
  | some t => s.putTeam (f t)
  | none => s

/-- A step of a PSEL or PKERF taken: the last one sets COUNT, before any release (R335). -/
def State.finishList (s : State) (r : Record) : State :=
  (if r.finished then s.mapTeam r.team r.setCounts else s).putRecord r

/-- One block of 64 rows; the last one writes the list. -/
def State.stepSel (s : State) (r : Record) : State :=
  let q := r.pcb
  let out : Except EngStop (State × Record) :=
    match (List.range 64).mapM fun i => s.selRow r (64 * r.next + i) with
    | .error e => .error e
    | .ok rs =>
      match s.statWrite r (rs.foldl (fun m x => m ||| x.2) 0#6) with
      | .error e => .error e
      | .ok st =>
        match s.engineWrites r.core r.part ((rs.flatMap fun x => x.1) ++ [st]) with
        | .error e => .error e
        | .ok s1 => if 64 * (r.next + 1) < q.rows then .ok (s1, r) else s1.writeList r
  match out with
  | .ok (s1, r1) => s1.finishList (r1.advance (q.rows / 64))
  | .error e => s.stopRecord r e

/-! ### PKERF (R336) -/

/-- A row list: rows with their token masks, in increasing order. -/
abbrev RowList := List (Nat × Nat)

/-- The list as the work area holds it. -/
def State.readList (s : State) (r : Record) (n : Nat) : Except EngStop RowList :=
  (List.range n).mapM fun k =>
    match s.recNat r (r.pcb.idx + 4 * k) 4, s.recNat r (r.pcb.mskAt k) 8 with
    | .ok i, .ok m => .ok (i, m)
    | .error e, _ => .error e
    | _, .error e => .error e

def increasing : List Nat → Bool
  | a :: b :: rest => decide (a < b) && increasing (b :: rest)
  | _ => true

/-- A legal list: strictly increasing row indices below F. -/
def listOk (q : Pcb) (l : RowList) : Bool := increasing (l.map fun e => e.1) && l.all fun e => decide (e.1 < q.rows)

/-- The bounds of a token for every row. -/
def State.bounds (s : State) (r : Record) (t : Nat) : Except EngStop (List Bd) :=
  (List.range r.pcb.rows).mapM fun i => match s.recNat r (r.pcb.bAt i t) 4 with
    | .ok n => .ok (wordBd n)
    | .error e => .error e

def listed (l : RowList) (i : Nat) : Bool := l.any fun e => e.1 == i

/-- The skipped sum of a token, with its events (R83). -/
def skipOf (bs : List Bd) (l : RowList) : Bd × Flags :=
  ((List.range bs.length).zip bs).foldl (fun a p =>
    if listed l p.1 then a else
    let r := ruBd (bdAdd a.1 p.2)
    (r.1, a.2 ||| r.2)) (bdZero, 0#6)

def insertRow (i m : Nat) : RowList → RowList
  | [] => [(i, m)]
  | e :: rest => if i < e.1 then (i, m) :: e :: rest else e :: insertRow i m rest

/-- The unlisted undecided row with the greatest bound, ties to the lowest. -/
def worstRow (bs : List Bd) (ws : List Nat) (l : RowList) (t : Nat) : Option Nat :=
  let c := ((List.range bs.length).zip (bs.zip ws)).filter fun p => !listed l p.1 && bitsOf p.2.2 (2 * t) 2 == 2
  (c.foldl (fun (a : Option (Nat × Bd)) p => match a with
    | none => some (p.1, p.2.1)
    | some y => if bdLt y.2 p.2.1 then some (p.1, p.2.1) else some y) none).map fun y => y.1

/-- Replay rows for a token until its skipped sum fits; `fuel` bounds the rows. -/
def replay (kerf : Bd) (bs : List Bd) (ws : List Nat) (t : Nat) : Nat → RowList → RowList
  | 0, l => l
  | n + 1, l =>
    if bdLt kerf (skipOf bs l).1 then
      match worstRow bs ws l t with
      | some i => replay kerf bs ws t n (insertRow i (2 ^ t) l)
      | none => l
    else l

/-- The list and the replay count written back. -/
def listWrites (q : Pcb) (l : RowList) (replays : Nat) : List (Nat × List Byte) :=
  (((List.range l.length).zip l).flatMap fun p => [(q.idx + 4 * p.1, natBytes 4 p.2.1), (q.mskAt p.1, natBytes 8 p.2.2)])
    ++ [(q.w + 0x10, natBytes 4 replays)]

/-- The residual of a token in the final pass. -/
def State.residual (s : State) (r : Record) (l : RowList) (t : Nat) : Except EngStop (Bd × Flags) :=
  if !r.pcb.on t then .ok (.pinf, 0#6) else
  match s.bounds r t with
  | .ok bs => .ok (skipOf bs l)
  | .error e => .error e

/-- The final pass of a PKERF: what it writes, its events and the KMISS mask. -/
def State.finalPass (s : State) (r : Record) (l : RowList) : Except EngStop (List (Nat × List Byte) × Flags × Nat) :=
  let q := r.pcb
  match (List.range q.toks).mapM fun t => s.residual r l t with
  | .error e => .error e
  | .ok rs =>
    let kerf := wordBd q.kerf
    let miss := ((List.range q.toks).zip rs).foldl (fun m p => if bdLt kerf p.2.1 then m + 2 ^ p.1 else m) 0
    .ok ((((List.range q.toks).zip rs).map fun p => (q.w + 0x200 + 4 * p.1, natBytes 4 (bdWord p.2.1)))
      ++ [(q.w + 0x18, natBytes 8 miss), (q.w, natBytes 4 l.length)], rs.foldl (fun m x => m ||| x.2) 0#6, miss)

/-- One token of the replay loop; the last one runs the final pass. -/
def State.kerfToken (s : State) (r : Record) : Except EngStop (State × Record) :=
  let q := r.pcb
  let t := r.next
  let n : Except EngStop Nat := if r.entryRead then .ok r.nlist else s.recNat r q.w 4
  match n with
  | .error e => .error e
  | .ok n =>
  if q.rows < n then .error .fails else
  match s.readList r n, s.recNat r (q.w + 0x10) 4, s.classes r, s.bounds r t with
  | .ok l, .ok reps, .ok ws, .ok bs =>
    if !listOk q l then .error .fails else
    let l1 := if q.on t then replay (wordBd q.kerf) bs ws t q.rows l else l
    let grown := l1.length - l.length
    let r1 := { r with entryRead := true, nlist := l1.length, added := r.added + grown }
    -- the sums of the replay leave out terms of the first one, so its events are theirs
    let fl := if q.on t then (skipOf bs l).2 else 0#6
    match s.statWrite r fl with
    | .error e => .error e
    | .ok st =>
    match s.engineWrites r.core r.part (listWrites q l1 (reps + grown) ++ [st]) with
    | .error e => .error e
    | .ok s1 =>
      if t + 1 < q.toks then .ok (s1, r1) else
      match s1.finalPass r1 l1 with
      | .error e => .error e
      | .ok (ws, fl, miss) =>
        match s1.statWrite r fl with
        | .error e => .error e
        | .ok st =>
        match s1.engineWrites r.core r.part (ws ++ [st]) with
        | .error e => .error e
        | .ok s2 => .ok (s2, { r1 with res := [BitVec.ofNat 32 ((List.range 64).filter fun i => bitsOf miss i 1 == 1).length] })
  | .error e, _, _, _ => .error e
  | _, .error e, _, _ => .error e
  | _, _, .error e, _ => .error e
  | _, _, _, .error e => .error e

def State.stepKerf (s : State) (r : Record) : State :=
  match s.kerfToken r with
  | .ok (s1, r1) => s1.finishList (r1.advance r.pcb.toks)
  | .error e => s.stopRecord r e

/-! ### PFFN (R337) -/

/-- An element of a row of a window. -/
def State.windowElem (s : State) (r : Record) (w : Window) (p : PFmt) (row k : Nat) : Except EngStop Nat :=
  let bits := pfmtBits p
  let o := row * w.rowSize + k * bits / 8
  match s.windowBytes r.core r.part none w o (if bits = 16 then 2 else 1) with
  | .ok bs => .ok (if bits = 4 then bitsOf (bytesNat bs) (4 * (k % 2)) 4 else bytesNat bs)
  | .error t => .error (engStop r.part t)

/-- A point element as an interval; a NaN is invalid. -/
def pointOpt (p : PFmt) (n : Nat) : Option Itv := pointItv p n

/-- The reduction of a token and a row over KLEN, as a 1 × 1 TMMA (R315, R337). -/
def dotChunks (exact : Bool) (a b : List (Option Itv)) : DWord × Flags :=
  (pieces (a.length / 64 + 1) (a.zip b)).foldl (fun (acc : DWord × Flags) c =>
    let ps := c.map fun e => prodOpt e.1 e.2
    let y := if exact then cellExact acc.1 ps else cellTree acc.1 (ps.map fun p => p.map roundItv)
    (y.1, acc.2 ||| y.2)) (0#64, 0#6)

/-- A window of the record's team. -/
def State.recWindow (s : State) (r : Record) (w : Nat) : Option Window := (s.team r.team).bind fun t => t.windows.get (winIx w)

def State.windowRow (s : State) (r : Record) (w : Option Window) (row n : Nat) : Except EngStop (List (Option Itv)) :=
  match w with
  | none => .error .fails
  | some w => (List.range n).mapM fun k => match s.windowElem r w (pfmtOfCode r.pcb.wfmt) row k with
    | .ok v => .ok (pointOpt (pfmtOfCode r.pcb.wfmt) v)
    | .error e => .error e

/-- The activated, gated value of a list entry for a token. -/
def State.gateValue (s : State) (r : Record) (xs : List (Option Itv)) (entry : Nat) : Except EngStop (Itv × Flags) :=
  let q := r.pcb
  let exact := decide (2 ≤ q.xfmt ∧ q.xfmt ≤ 4 ∧ 2 ≤ q.wfmt)
  match s.windowRow r (s.recWindow r q.wg) entry q.klen with
  | .error e => .error e
  | .ok ws =>
    let h := dotChunks exact xs ws
    let g := activate q.act (readF32 h.1).1
    let g1 := (g.1, h.2 ||| g.2)
    if !q.gated then .ok g1 else
    match s.windowRow r (s.recWindow r q.wu) entry q.klen with
    | .error e => .error e
    | .ok us =>
      let u := dotChunks exact xs us
      .ok (mulFlagged g1 ((readF32 u.1).1, u.2))

/-- The row of W2ᵀ of a list entry: the columns inside the edge. -/
def State.downRow (s : State) (r : Record) (cols entry : Nat) : Except EngStop (List (Itv × Flags)) :=
  let q := r.pcb
  match s.recWindow r q.wd with
  | none => .error .fails
  | some w => (List.range cols).mapM fun j => match s.windowElem r w (pfmtOfCode q.wfmt) entry (64 * q.cb + j) with
    | .ok v => match pointItv (pfmtOfCode q.wfmt) v with
      | some i => .ok (i, 0#6)
      | none => .ok (.empty, fINV)
    | .error e => .error e

/-- One chunk of list entries into the slot. -/
def State.ffnChunk (s : State) (r : Record) (c : Nat) : Except EngStop State :=
  let q := r.pcb
  let x := s.slot r.core r.slot
  let es := chunkIx r.nlist c
  let toks := (List.range x.rows).filter q.on
  let gates : Except EngStop (List (Nat × List (Itv × Flags))) := toks.mapM fun t => match s.token r t with
    | .error e => .error e
    | .ok xs => (es.mapM fun e => s.gateValue r (xs.map fun v => v.1) e).map fun gs =>
        (t, gs.map fun g => (g.1, xs.foldl (fun m v => m ||| v.2) g.2))
  match gates, es.mapM fun e => s.downRow r x.cols e with
  | .ok gs, .ok ds =>
    let cell (t j : Nat) : DWord × Flags :=
      let c0 := (readF32 (x.at t j)).1
      if itvIsEmpty c0 then (x.at t j, 0#6) else
      let g := ((gs.find? fun p => p.1 == t).map fun p => p.2).getD []
      let ps := (g.zip ds).map fun p => mulFlagged p.1 (p.2.getD j (itvZero, 0#6))
      let y := oplus (c0, 0#6) (oplusTree 6 (ps ++ List.replicate (64 - ps.length) (itvZero, 0#6)))
      ((writeF32 y.1).1, y.2)
    .ok (s.putSlot r.core r.slot (x.region toks (List.range x.cols) cell))
  | .error e, _ => .error e
  | _, .error e => .error e

/-- The widening of every element of a token that takes part by its residual. -/
def State.ffnWiden (s : State) (r : Record) : State :=
  let x := s.slot r.core r.slot
  let cell (t j : Nat) : DWord × Flags :=
    let w := wordBd (r.res.getD t 0#32).toNat
    match (readF32 (x.at t j)).1 with
    | .empty => (x.at t j, 0#6)
    | .mk l h => writeF32 (.mk (bdAdd l (bdNeg w)) (bdAdd h w))
  s.putSlot r.core r.slot (x.region ((List.range x.rows).filter r.pcb.on) (List.range x.cols) cell)

/-- What a PFFN reads when it starts: the list length and the residuals. -/
def State.ffnStart (s : State) (r : Record) : Except EngStop Record :=
  let q := r.pcb
  match s.recWindow r q.wg, (List.range q.toks).mapM fun t => if q.on t then s.recNat r (q.w + 0x200 + 4 * t) 4 else .ok 0 with
  | none, _ => .error .fails
  | _, .error e => .error e
  | some w, .ok rs => .ok { r with entryRead := true, nlist := w.count, res := rs.map fun n => BitVec.ofNat 32 n }

def State.stepFfn (s : State) (r : Record) : State :=
  if !r.entryRead then
    match s.ffnStart r with
    | .ok r1 => s.putRecord r1
    | .error e => s.stopRecord r e
  else if r.nlist ≤ 64 * r.next then (s.ffnWiden r).putRecord { r with finished := true }
  else
    match s.ffnChunk r r.next with
    | .error e => s.stopRecord r e
    | .ok s1 =>
      let r1 := r.advance (chunksOf r.nlist)
      let s2 := s1.wakeArrays r.engineCore
      (if r1.finished then s2.ffnWiden r else s2).putRecord r1

/-! ### The events -/

/-- The bytes of the rows that some list entries name in a window. -/
def State.rowSpans (s : State) (r : Record) (w : Nat) (es : List Nat) : List (Nat × Nat) :=
  match s.recWindow r w with
  | none => []
  | some w => es.filterMap fun e =>
      match s.recNat r (w.idx.toNat + 4 * e) 4 with
      | .ok i => some ((w.base.toNat + i * w.stride) % 2 ^ 64, w.rowSize)
      | .error _ => none

/-- The spans of memory that a record's next step reads (R327, R333 to R337). -/
def State.predSpans (s : State) (r : Record) : List (Nat × Nat) :=
  let q := r.pcb
  let token (t : Nat) : Nat × Nat := (q.x + t * q.xstr, q.klen * tileSize q.xfmt)
  let es := chunkIx r.nlist r.next
  if r.fn = fnPscore then [token r.next, (q.u, 4 * q.rows * q.rank), (q.v, 4 * q.rank * q.klen), (q.rt, 16 * q.rows)]
  else if r.fn = fnPsel then
    [(q.rt + 1024 * r.next, 1024), (q.clsAt (64 * r.next), 1024), (q.hAt (64 * r.next) 0, 512 * q.toks), (q.w, 0x300)]
  else if r.fn = fnPkerf then [(q.w, 0x300), (q.idx, 4 * r.nlist), (q.bAt 0 0, 4 * q.rows * q.toks), (q.clsAt 0, 16 * q.rows)]
  else (q.w + 0x200, 4 * q.toks) :: q.tokens.map token ++ s.rowSpans r q.wg es ++ (if q.gated then s.rowSpans r q.wu es else [])
    ++ s.rowSpans r q.wd es

/-- PRED_RECORD_STEP of record `item`. -/
def execPredRecordStep (s : State) : Out :=
  match s.record s.arg.item with
  | none => .next s
  | some r =>
    if !s.mayStep r then .next s
    else if s.slotsBad r then .next (s.putRecord { r with failed := true })
    else
    let s := s.fetchSpans r.core r.part (s.predSpans r)
    if r.fn = fnPscore then .next (s.stepScore r)
    else if r.fn = fnPsel then .next (s.stepSel r)
    else if r.fn = fnPkerf then .next (s.stepKerf r)
    else if r.fn = fnPffn then .next (s.stepFfn r)
    else .next s

/-- FAIL of a predictor-engine record, in STAT where it can be written (R339). -/
def State.failStat (s : State) (r : Record) : State :=
  let a := r.pcb.w + 0x20
  match s.recNat r a 1 with
  | .error _ => s
  | .ok n => match s.engineWrite r.core r.part a [BitVec.ofNat 8 n ||| 0x40#8] with
    | .ok s1 => s1
    | .error _ => s

def Team.countUp (t : Team) (i n : Nat) : Team :=
  { t with predCtr := t.predCtr.set (ctrIx i) (t.predCtr.get (ctrIx i) + BitVec.ofNat 32 n) }

/-- The counters of a completed record (R342). -/
def Record.count (r : Record) (t : Team) : Team :=
  let v (i : Nat) : Nat := (r.res.getD i 0#32).toNat
  if r.failed || r.cancelled then t.countUp 5 1
  else if r.fn = fnPsel then ((t.countUp 0 (v 0)).countUp 1 (v 1)).countUp 2 (v 2)
  else if r.fn = fnPkerf then (t.countUp 3 r.added).countUp 4 (v 0)
  else t

/-- PRED_RECORD_COMPLETE of record `item`: FAIL, STVA, the release, then the counters and the
handle. -/
def execPredRecordComplete (s : State) : Out :=
  if !s.diesRun then .next s else
  match s.record s.arg.item with
  | none => .next s
  | some r =>
    if !r.atEnd || r.fn < 11 || 15 ≤ r.fn then .next s else
    let bad := r.failed || r.cancelled
    let s1 := if bad && r.fn != fnPffn && !r.finished then s.failStat r else s
    let s3 := s1.closeRecord r
    .next (if (s3.record r.rid).isNone then s3.mapTeam r.team r.count else s3)

end Sys2Proof.Machine
end

