-- ==== Sys2Proof/Machine/Service.lean ====
section
/-! DEFINITION. The service core: the management commands (R396 to R399, R414 to R417), power and temperature (R418), the
side-band port (R419), Kazot Link ports (R420), firmware update (R421 to R424), and boot and attestation (R425 to R427). -/

namespace Sys2Proof.Machine

/-! ### Commands (R414, R415) -/

/-- The bits that a command may set in its doublewords 1 to 6. -/
def mgmtMask : Nat → List Nat
  | 1 => [2 ^ 64 - 1]
  | 7 => [0x3FF]
  | 8 => [2 ^ 64 - 1, 0xF, 2 ^ 64 - 1, 0xFFF000F]
  | 9 => [0xFF]
  | 11 => [3, 2 ^ 64 - 1, 2 ^ 64 - 1]
  | 12 => [3]
  | 13 => [2 ^ 64 - 1, 2 ^ 64 - 1, 2 ^ 64 - 1, 2 ^ 64 - 1, 1]
  | 14 => [0xFFF]
  | _ => []

def mgmtOp (c : List DWord) : Nat := fieldAt c 0 0 8
def mgmtPart (c : List DWord) : Nat := fieldAt c 0 8 3

/-- An operand out of its range. -/
def mgmtRange (c : List DWord) : Bool :=
  match mgmtOp c with
  | 7 => decide (768 ≤ dwAt c 1)
  | 8 => (dwAt c 1 != 0 && decide (dwAt c 2 < 4)) ||
         (dwAt c 3 != 0 && decide (fieldAt c 4 0 4 < 4 ∨ 12 < fieldAt c 4 0 4))
  | 11 | 12 => dwAt c 1 == 3
  | 14 => decide (dwAt c 1 < 600 ∨ 2400 < dwAt c 1)
  | _ => false

/-- MBOP: a bad OP, operand or reserved bit. DEDUCED, unsafe: log entry 21. -/
def mgmtBad (c : List DWord) : Bool :=
  mgmtOp c == 0 || decide (14 < mgmtOp c) || fieldAt c 0 11 53 != 0
    || (List.range 6).any (fun i => dwAt c (i + 1) &&& (2 ^ 64 - 1 - ((mgmtMask (mgmtOp c))[i]?).getD 0) != 0) || mgmtRange c

/-- Commands that the side-band port serves with the dies off (R419). -/
def mgmtNeedsDies (op : Nat) : Bool := !([9, 10, 11, 13, 14].contains op)

/-- A command that has been taken: its checks, then its effect. -/
def mgmtServe (s : State) (side : Bool) (c : List DWord) (run : State → Out) : Out :=
  if mgmtBad c then .next (s.mbDone side svcMbop 0)
  else if mgmtNeedsDies (mgmtOp c) && !s.dieUp then .next (s.mbDone side svcNodie 0)
  else run s

/-- The step of a management command that `fits`: the one that waits in the host's mailbox, or, with `flag`, the message
`data` that arrives over the side-band port; one at a time, in order of arrival (R415). -/
def mgmt (s : State) (fits : List DWord → Bool) (run : Bool → List DWord → State → Out) : Out :=
  if !s.svc.powered || s.svc.restarting.isSome || s.svc.reload.isSome then .next s else
  let waits := s.svc.host.job.isSome && !s.svc.host.begun
  if s.arg.flag then
    let c := s.arg.data
    if s.svc.side.job.isSome || waits || !(fits c || mgmtBad c) then .next s else
    mgmtServe { s with svc := { s.svc with side := { s.svc.side with job := some c, begun := true } } } true c (run true c)
  else
    match s.svc.host.job with
    | some c =>
      if !waits || s.svc.stopped || !(fits c || mgmtBad c) then .next s else
      mgmtServe { s with svc := { s.svc with host := { s.svc.host with begun := true } } } false c (run false c)
    | none => .next s

/-- A command by its OP alone. -/
def mgmtSimple (s : State) (op : Nat) (run : Bool → List DWord → State → Out) : Out := mgmt s (fun c => mgmtOp c == op) run

/-- A result at RESPA (R414). DESIGN CHOICE, unsafe: log entry 13. -/
def State.respond (s : State) (c : List DWord) (bs : List Byte) : State :=
  if dwAt c 7 = 0 ∨ !s.dieUp ∨ hbmBytes < dwAt c 7 + bs.length then s else s.writePhys (dwAt c 7) bs

/-- The step of a command on a partition: PBUSY while another is in progress on it. -/
def mgmtOnPart (s : State) (op : Nat) (run : Bool → List DWord → Nat → State → Out) : Out :=
  mgmtSimple s op fun side c s =>
    if (s.part (mgmtPart c)).busy.isSome then .next (s.mbDone side svcPbusy 0) else run side c (mgmtPart c) s

/-- The step of a halt, resume, swap or reset: from a state, else PSTATE (R398). -/
def mgmtEvent (s : State) (op : Nat) (ok : State → Nat → Bool) (run : Bool → Nat → State → State) : Out :=
  mgmtOnPart s op fun side _ p s => if ok s p then .next (run side p s) else .next (s.mbDone side svcPstate 0)

/-! ### Partitions (R398, R399, R416) -/

/-- The descriptor's permitted bits. -/
def descMask : List Nat :=
  [2 ^ 52 - 2 ^ 12, 2 ^ 52 - 2 ^ 12, 2 ^ 52 - 2 ^ 16, 2 ^ 40 - 2 ^ 16, 2 ^ 52 - 2 ^ 8, 2 ^ 32 - 1, 2 ^ 17 - 1, 2 ^ 32 - 1,
   2 ^ 52 - 2 ^ 6, 2 ^ 52 - 2 ^ 16, 2 ^ 52 - 2 ^ 16, 2 ^ 52 - 2 ^ 16, 2 ^ 52 - 2 ^ 16, 0, 0, 0]

/-- The offset of the first doubleword of a descriptor with a bit that it may not have. -/
def descBad (d : List DWord) : Option Nat :=
  ((List.range 16).find? fun i => dwAt d i &&& (2 ^ 64 - 1 - ((descMask)[i]?).getD 0) != 0).map fun i => 8 * i

def State.noTeams (s : State) (p : Nat) : Bool := s.teams.all fun t => partOf t.core != p

/-- The other partition of a die. -/
def otherPart (p : Nat) : Nat := if p % 2 = 0 then p + 1 else p - 1

/-- A partition under a descriptor. -/
def Partition.configure (p : Partition) (d : List DWord) : Partition :=
  { p with
    st := .halted, ptRoot := dwAt d 0, rbtPA := dwAt d 1, savePA := dwAt d 2, saveSize := dwAt d 3, saveUsed := [],
    dpoolPA := dwAt d 4, dpoolU := dwAt d 5, idlet := fieldAt d 6 0 16, shadow := fieldAt d 6 16 1 == 1,
    preemptTh := dwAt d 7, capPA := dwAt d 8, rings := [], hbmBase := dwAt d 9, hbmSize := dwAt d 10, tierBase := dwAt d 11,
    tierSize := dwAt d 12 }

/-- PCONF (R416). -/
def execPconf (s : State) : Out :=
  mgmtOnPart s 1 fun side c p s =>
    let st := (s.part p).st
    if !(st == .unconfigured || (st == .halted && s.noTeams p)) then .next (s.mbDone side svcPstate 0) else
    let d := (List.range 16).map fun i => BitVec.ofNat 64 (s.feNat (dwAt c 1 + 8 * i) 8)
    match descBad d with
    | some off => .next (s.mbDone side svcPdesc off)
    | none =>
      let o := (s.part (otherPart p)).st
      if fieldAt d 6 16 1 = 1 ∧ !(o == .unconfigured || o == .halted) then .next (s.mbDone side svcPstate 0)
      else
        -- a partition configured anew after a halt has been repaired: its entries go back to the master (log entry 87)
        let s0 := if st = .halted then s.cutEntries [p] else s
        .next (((s0.putPart p ((s0.part p).configure d)).l2Shrink.placeRanges).mbDone side 0 0)

def State.setPart (s : State) (p : Nat) (st : PartState) (busy : Option (Nat × Bool)) : State :=
  s.putPart p { s.part p with st := st, busy := busy }

def State.isPart (st : PartState) (s : State) (p : Nat) : Bool := (s.part p).st == st

/-- The copies of a partition's teams stop at a chunk boundary, and go on from their lowest chunk (R301, R393). -/
def State.stopCopies (s : State) (p : Nat) : State :=
  { s with copies := s.copies.map fun x => match x.owner with
      | .handle _ _ _ _ => if x.part = p then x.stop else x
      | _ => x }

/-- PHALT: the partition halts; PARTITION_HALTED ends the command. -/
def execPhalt (s : State) : Out :=
  mgmtEvent s 2 (State.isPart .running) fun side p s => (s.setPart p .halting (some (2, side))).stopCopies p

/-- The L1 lines of a partition's cores are dropped (R401). -/
def State.dropL1 (s : State) (p : Nat) : State :=
  { s with cores := Tab.ofFn fun i => if partOf i.val = p then (s.cores.get i).l1Clear else s.cores.get i }

/-- PARTITION_HALTED of partition `part`: every core of it has stopped. -/
def execPartitionHalted (s : State) : Out :=
  let p := s.arg.part % 8
  if (s.part p).st = .halting ∧ s.dieUp = true then
    let s1 := s.dropL1 p
    .next ((s1.putPart p { s1.part p with st := .halted }).endBusy p 0)
  else .next s

/-- PRESUME. -/
def execPresume (s : State) : Out :=
  mgmtEvent s 3 (State.isPart .halted) fun side p s => (((s.setPart p .running none).startAgents p).placeRanges).mbDone side 0 0

/-- The shadow slot of a partition's die is reserved, and no context is in it (R399). -/
def State.slotFree (s : State) (p : Nat) : Bool :=
  let both := [p / 2 * 2, p / 2 * 2 + 1]
  both.any (fun q => (s.part q).shadow) &&
    both.all fun q => !([PartState.swappingOut, .swapped, .swappingIn].contains (s.part q).st)

/-- PSWAPOUT. -/
def execPswapout (s : State) : Out :=
  mgmtEvent s 4 (fun s p => State.isPart .halted s p && s.slotFree p) fun side p s => s.setPart p .swappingOut (some (4, side))

/-- PSWAPIN. -/
def execPswapin (s : State) : Out := mgmtEvent s 5 (State.isPart .swapped) fun side p s => s.setPart p .swappingIn (some (5, side))

/-- PARTITION_SWAP_DONE of partition `part`: the move is complete, and an error reset that waited for it is handled. -/
def execPartitionSwapDone (s : State) : Out :=
  let p := s.arg.part % 8
  let go (st : PartState) : State :=
    let s1 := (s.putPart p { s.part p with st := st }).endBusy p 0
    match (s.part p).owed with
    | some r => s1.errorReset p r
    | none => s1
  if !s.dieUp then .next s
  else if (s.part p).st = .swappingOut then .next (go .swapped)
  else if (s.part p).st = .swappingIn then .next (go .halted)
  else .next s

/-- PRESET. -/
def execPreset (s : State) : Out :=
  mgmtEvent s 6 (State.isPart .halted) fun side p s => (s.restartPart p 3).mbDone side 0 0

/-- CSWITCH (R397): every team of the core is pre-empted, with its gang, and its agent and drafter stop; what they hold for gangs in
placement is given up. -/
def execCswitch (s : State) : Out :=
  mgmtSimple s 7 fun side c s =>
    let k := dwAt c 1
    if (s.part (partOf k)).st ≠ .running then .next (s.mbDone side svcPstate 0) else
    let uids := ((s.teams.filter fun t => t.core == k).flatMap s.together).map fun t => t.uid
    let s0 := uids.foldl (fun s u => match s.team u with
      | some t => s.preempt t
      | none => s) s
    let s1 := (s0.fe.gangs.filter fun g => g.covers k).foldl (fun s g => s.dropPlan g none) s0
    .next ((s1.putCore k { s1.core k with agentOn := false, drafterOn := false }).mbDone side 0 0)

/-! ### Rings, logs and health (R406, R415, R417) -/

/-- RINGS. -/
def execRings (s : State) : Out :=
  mgmtSimple s 8 fun side c s =>
    if (List.range 8).any fun p => (s.part p).st == .running || (s.part p).st == .halting then .next (s.mbDone side svcPstate 0)
    else
      let ring (pa log2 : Nat) : Option Ring := if pa = 0 then none else some ⟨pa, log2⟩
      .next (({ s with svc := { s.svc with errRing := ring (dwAt c 1) (dwAt c 2), pageRing := ring (dwAt c 3) (fieldAt c 4 0 4),
                                           prhsoid := fieldAt c 4 16 12 } } : State).mbDone side 0 0)

/-- An error log entry (R275). -/
def LogEntry.bytes (e : LogEntry) : List Byte :=
  natBytes 8 (e.pa + 2 ^ 52 * e.sect + 2 ^ 54 * e.kind + 2 ^ 56 * e.src) ++ natBytes 8 (e.count + 2 ^ 32 * e.parts)

/-- LOGREAD: the 32 entries of a slice's log. -/
def execLogread (s : State) : Out :=
  mgmtSimple s 9 fun side c s =>
    let l := (s.logs.filter fun e => e.die == fieldAt c 1 0 2 && e.slice == fieldAt c 1 2 6).flatMap LogEntry.bytes
    .next ((s.respond c ((l ++ List.replicate 512 0#8).take 512)).mbDone side 0 0)

/-- A partition's state as a number. -/
def PartState.number : PartState → Nat
  | .unconfigured => 0
  | .running => 1
  | .halting => 2
  | .halted => 3
  | .swappingOut => 4
  | .swapped => 5
  | .swappingIn => 6

/-- HEALTH: 64 bytes of the clock step, the partition and port states, a failed activation, temperatures and power, whose layout is
open (R415, R424). -/
def execHealth (s : State) : Out :=
  mgmtSimple s 10 fun side c s =>
    let l := (List.range 8).flatMap fun i => natBytes 8 (Config.healthWord s.draws s.svc.clock ((List.range 8).map fun p => (s.part p).st.number)
      s.svc.ports s.svc.failedAct i).toNat
    .next ((({ s with draws := s.draws + 1 } : State).respond c l).mbDone side 0 0)

/-- PCAP (R418). -/
def execPcap (s : State) : Out :=
  mgmtSimple s 14 fun side c s => .next (({ s with svc := { s.svc with powerCap := dwAt c 1 } } : State).mbDone side 0 0)

/-! ### Firmware (R421 to R426) -/

def slotNo (b : Bool) : Fin 2 := if b then 1 else 0

/-- MR := SHA3-512(MR ‖ digest) (R425). -/
def extendMr (mr digest : BitVec 512) : BitVec 512 := sha3 (digestBytes mr ++ digestBytes digest)

def Service.extend (v : Service) (i : Fin 8) (digest : BitVec 512) : Service := { v with mr := v.mr.set i (extendMr (v.mr.get i) digest) }

/-- FWSTAGE: hashed, checked, and written into the store. -/
def execFwstage (s : State) : Out :=
  mgmtSimple s 11 fun side c s =>
    let digest := sha3 ((List.range (dwAt c 3)).map fun i => BitVec.ofNat 8 (s.feNat (dwAt c 2 + i) 1))
    if !Config.imageSigned digest then .next (s.mbDone side svcFwsig 0) else
    let v := s.svc
    let slot := slotNo (!(s.fe.image.get 0))
    let v1 : Service :=
      if dwAt c 1 = 0 then
        { v with feImage := v.feImage.set slot digest, feRel := v.feRel.set slot (Config.imageRelease digest), stagedFe := true }
      else { v with staged := some (decide (dwAt c 1 = 2), digest) }
    .next (({ s with svc := v1 } : State).mbDone side 0 0)

/-- A FWACT of a kind. DEDUCED, unsafe: log entry 25. -/
def fwact (s : State) (kind : Nat) (run : Bool → State → Out) : Out :=
  mgmt s (fun c => mgmtOp c == 12 && dwAt c 1 == kind) fun side _ s => run side s

/-- FWACT_FE (R423): the two images exchange roles on every die, newly staged or not. -/
def execFwactFe (s : State) : Out :=
  fwact s 0 fun side s =>
    let now := !(s.fe.image.get 0)
    let digest := s.svc.feImage.get (slotNo now)
    if !Config.imageSigned digest then .next (s.mbDone side svcFwsig 0) else
    let v := { s.svc.extend 4 digest with acts := s.svc.acts + 1#32, stagedFe := false }
    .next (({ s with svc := v, fe := { s.fe with image := Tab.const 4 now, rel := Tab.const 4 (v.feRel.get (slotNo now)) } } : State).mbDone
      side 0 0)

/-- The next core, from a number on, whose partition runs. -/
def State.nextReload (s : State) (k : Nat) : Option Nat :=
  ((List.range 768).drop k).find? fun i => (s.part (partOf i)).st == .running

/-- The reload goes on from a core number on, or ends, with the status of its FWACT (R422). -/
def State.reloadFrom (s : State) (side : Bool) (k : Nat) : State :=
  match s.nextReload k with
  | some i => { s with svc := { s.svc with reload := some (i, side) } }
  | none => ({ s with svc := { s.svc with reload := none } } : State).mbDone side 0 0

/-- AGENT_RELOAD: the agent that takes the image has loaded it, and the next core's turn comes (R422). -/
def State.reloaded (s : State) (k : Nat) (side : Bool) : State :=
  let s1 := if (s.part (partOf k)).st = .running then
    s.putCore k { s.core k with agentRel := s.svc.agentRel, agentStale := false } else s
  s1.reloadFrom side (k + 1)

/-- FWACT_AGENT (R422): the activation begins, and each further step has one core's agent on the new image, in increasing core
number; the cores whose partition does not run take it when they next run. -/
def execFwactAgent (s : State) : Out :=
  match s.svc.reload with
  | some (k, side) => if s.dieUp then .next (s.reloaded k side) else .next s
  | none =>
    fwact s 1 fun side s =>
      match s.svc.staged with
      | some (false, d) =>
        let v := { s.svc.extend 5 d with acts := s.svc.acts + 1#32, agentImage := d, agentRel := Config.imageRelease d, staged := none }
        let cores := Tab.ofFn fun (i : Fin 768) => { s.cores.get i with agentStale := true }
        .next (({ s with svc := v, cores := cores } : State).reloadFrom side 0)
      | _ => .next (s.mbDone side svcFwnone 0)

/-- FWACT_SERVICE (R424): any command of the other mailbox first; then MR6, the status, and the restart. -/
def execFwactService (s : State) : Out :=
  fwact s 2 fun side s1 =>
    match s.svc.staged with
    | some (true, d) =>
      if (if side then s.svc.host.begun else s.svc.side.begun) then .next s else
      let v := { s1.svc.extend 6 d with acts := s1.svc.acts + 1#32, svcPrevious := s1.svc.svcImage, svcImage := d, staged := none }
      let s2 := ({ s1 with svc := v } : State).mbDone side 0 0
      .next { s2 with svc := { s2.svc with restarting := some s2.now } }
    | _ => .next (s1.mbDone side svcFwnone 0)

/-- Interrupts held during a restart are delivered. -/
def State.deliver (s : State) : State :=
  let held := s.svc.held
  held.foldl (fun (s : State) v => if v = 4 then s.inBand else s.vector v)
    { s with svc := { s.svc with restarting := none, held := [] } }

/-- 200 ms at 2.25 GHz. DESIGN CHOICE, unsafe: log entry 24. -/
def restartCycles : Nat := 450000000

/-- SERVICE_CORE_RESTARTED on the staged image. -/
def execServiceCoreRestarted (s : State) : Out :=
  match s.svc.restarting with
  | some t => if t + restartCycles < s.now then .next s else .next s.deliver
  | none => .next s

/-- SERVICE_CORE_FALLBACK: 200 ms have passed; the previous image returns and is measured again. -/
def execServiceCoreFallback (s : State) : Out :=
  match s.svc.restarting with
  | some t =>
    if s.now < t + restartCycles then .next s else
    .next ({ s with svc := { s.svc.extend 6 s.svc.svcPrevious with svcImage := s.svc.svcPrevious, failedAct := true } } : State).deliver
  | none => .next s

/-- POWER_UP (R425): the boot ROM measures and verifies the images; the partitions are unconfigured. -/
def execPowerUp (s : State) : Out :=
  if s.svc.powered then .next s else
  let d (i : Nat) : BitVec 512 := Config.storedImage i
  let a := Config.imageSigned (d 1)
  let b := Config.imageSigned (d 2)
  let v := (((s.svc.extend 0 (d 0)).extend 1 (d 1)).extend 2 (d 2)).extend 3 (d 3)
  .next { s with
    svc := { v with svcImage := d 0, svcPrevious := d 0, feImage := (v.feImage.set 0 (d 1)).set 1 (d 2), agentImage := d 3,
                    powered := Config.imageSigned (d 0), diesOn := a || b }
    fe := { s.fe with image := Tab.const 4 (!a && b) } }

/-! ### Attestation (R427) -/

/-- Bytes 0x000 to 0x237 of the report. -/
def State.reportBody (s : State) (c : List DWord) : List Byte :=
  natBytes 8 1 ++ natBytes 8 (s.capid 0).toNat ++ ((List.range 4).flatMap fun i => natBytes 8 (dwAt c (i + 1)))
    ++ ((List.finRange 8).flatMap fun i => digestBytes (s.svc.mr.get i)) ++ natBytes 8 s.svc.acts.toNat

/-- ATTEST: the signed report. -/
def execAttest (s : State) : Out :=
  mgmt s (fun c => mgmtOp c == 13 && fieldAt c 5 0 1 == 0) fun side c s =>
    let b := s.reportBody c
    .next ((s.respond c (b ++ (List.range 4627).map (Config.attestSig b))).mbDone side 0 0)

/-- ATTEST with KEY: the public identity key and its certificate. -/
def execAttestKey (s : State) : Out :=
  mgmt s (fun c => mgmtOp c == 13 && fieldAt c 5 0 1 == 1) fun side c s =>
    .next ((s.respond c ((List.range 2592).map Config.identityKey ++ (List.range Config.identityCertLen).map Config.identityCert)).mbDone
      side 0 0)

/-! ### Power, links and the side-band port (R412, R418 to R420) -/

/-- CLOCK_STEP to step `item`. -/
def execClockStep (s : State) : Out :=
  if s.dieUp ∧ s.arg.item < 4 ∧ s.arg.item ≠ s.svc.clock then
    .next (({ s with svc := { s.svc with clock := s.arg.item } } : State).signal 3)
  else .next s

/-- CRITICAL_TEMP_STOP. -/
def execCriticalTempStop (s : State) : Out :=
  if s.dieUp then .next ((({ s with svc := { s.svc with stopped := true } } : State).note .criticalStop).signal 3) else .next s

/-- DIE_DOMAIN_OFF: the dies lose their state; the service core, its logs and its measurements stay.
DESIGN CHOICE, unsafe: log entry 15. -/
def execDieDomainOff (s : State) : Out :=
  if !(s.svc.powered && s.svc.diesOn) then .next s else
  let s0 := match s.svc.reload with
    | some (_, side) => s.mbDone side svcNodie 0
    | none => s
  let s1 := (List.range 8).foldl (fun (s : State) p => s.endBusy p svcNodie) s0
  .next { State.reset with
    now := s1.now, agenda := s1.agenda, fresh := s1.fresh, draws := s1.draws, logs := s1.logs
    mem := s1.mem.filter fun c => decide (2 * 2 ^ 52 ≤ c.1)
    fe := { FrontEnd.reset with image := s1.fe.image, rel := s1.fe.rel }
    svc := { s1.svc with diesOn := false, errRing := none, pageRing := none, reload := none } }

/-- DIE_DOMAIN_ON: the dies start again, where an image may run on them. -/
def execDieDomainOn (s : State) : Out :=
  if !s.svc.powered || s.svc.diesOn then .next s else
  let on := Config.imageSigned (s.svc.feImage.get 0) || Config.imageSigned (s.svc.feImage.get 1)
  .next { s with
    cores := Tab.ofFn fun i => { s.cores.get i with cycBase := s.now, agentRel := s.svc.agentRel }
    svc := { s.svc with diesOn := on, stopped := s.svc.stopped && !on } }

def execHostLinkDown (s : State) : Out := .next { s with svc := { s.svc with hostLink := false } }
def execHostLinkUp (s : State) : Out := .next { s with svc := { s.svc with hostLink := true } }

/-- Port `item` goes down. -/
def execKazotLinkPortDown (s : State) : Out :=
  .next { s with svc := { s.svc with ports := s.svc.ports &&& ~~~(1#48 <<< (s.arg.item % 48)) } }
def execKazotLinkPortUp (s : State) : Out :=
  .next { s with svc := { s.svc with ports := s.svc.ports ||| (1#48 <<< (s.arg.item % 48)) } }

/-- MCTP_CONTROL_MESSAGE: the answer is a message, and nothing else of the part changes; with `flag`, the bus has given the port the
dynamic address `item` before it. DESIGN CHOICE, safe: log entry 86. -/
def execMctpControlMessage (s : State) : Out :=
  if s.arg.flag && s.svc.powered then .next { s with svc := { s.svc with dynAddr := some (BitVec.ofNat 7 s.arg.item) } } else .next s

end Sys2Proof.Machine
end

