-- ==== Sys2Proof/Machine/Dispatch.lean ====
section
/-! DEFINITION. One arm per instruction: each calls its meaning. -/

namespace Sys2Proof.Machine

def exec (i : Instr) (s : State) : Host.Outcome State Fault Refusal :=
  match i with
  | .trap f => Sys2Proof.Machine.execTrap f s
  | .srd f => Sys2Proof.Machine.execSrd f s
  | .swr f => Sys2Proof.Machine.execSwr f s
  | .bkpt f => Sys2Proof.Machine.execBkpt f s
  | .cyc f => Sys2Proof.Machine.execCyc f s
  | .dictld f => Sys2Proof.Machine.execDictld f s
  | .fsvc f => Sys2Proof.Machine.execFsvc f s
  | .bra f => Sys2Proof.Machine.execBra f s
  | .bqt f => Sys2Proof.Machine.execBqt f s
  | .bqf f => Sys2Proof.Machine.execBqf f s
  | .bqu f => Sys2Proof.Machine.execBqu f s
  | .bqnt f => Sys2Proof.Machine.execBqnt f s
  | .bqnf f => Sys2Proof.Machine.execBqnf f s
  | .bq3 f => Sys2Proof.Machine.execBq3 f s
  | .bmz f => Sys2Proof.Machine.execBmz f s
  | .bmnz f => Sys2Proof.Machine.execBmnz f s
  | .loop f => Sys2Proof.Machine.execLoop f s
  | .call f => Sys2Proof.Machine.execCall f s
  | .calli f => Sys2Proof.Machine.execCalli f s
  | .jmpi f => Sys2Proof.Machine.execJmpi f s
  | .ret f => Sys2Proof.Machine.execRet f s
  | .exit f => Sys2Proof.Machine.execExit f s
  | .exits f => Sys2Proof.Machine.execExits f s
  | .joinat f => Sys2Proof.Machine.execJoinat f s
  | .msave f => Sys2Proof.Machine.execMsave f s
  | .mrest f => Sys2Proof.Machine.execMrest f s
  | .mand f => Sys2Proof.Machine.execMand f s
  | .mor f => Sys2Proof.Machine.execMor f s
  | .mxor f => Sys2Proof.Machine.execMxor f s
  | .mnot f => Sys2Proof.Machine.execMnot f s
  | .mfromq f => Sys2Proof.Machine.execMfromq f s
  | .mcnt f => Sys2Proof.Machine.execMcnt f s
  | .add f => Sys2Proof.Machine.execAdd f s
  | .sub f => Sys2Proof.Machine.execSub f s
  | .and f => Sys2Proof.Machine.execAnd f s
  | .or f => Sys2Proof.Machine.execOr f s
  | .xor f => Sys2Proof.Machine.execXor f s
  | .andn f => Sys2Proof.Machine.execAndn f s
  | .min f => Sys2Proof.Machine.execMin f s
  | .max f => Sys2Proof.Machine.execMax f s
  | .minu f => Sys2Proof.Machine.execMinu f s
  | .maxu f => Sys2Proof.Machine.execMaxu f s
  | .slt f => Sys2Proof.Machine.execSlt f s
  | .sltu f => Sys2Proof.Machine.execSltu f s
  | .seq f => Sys2Proof.Machine.execSeq f s
  | .abs f => Sys2Proof.Machine.execAbs f s
  | .lea f => Sys2Proof.Machine.execLea f s
  | .selm f => Sys2Proof.Machine.execSelm f s
  | .addi f => Sys2Proof.Machine.execAddi f s
  | .andi f => Sys2Proof.Machine.execAndi f s
  | .ori f => Sys2Proof.Machine.execOri f s
  | .xori f => Sys2Proof.Machine.execXori f s
  | .slti f => Sys2Proof.Machine.execSlti f s
  | .sltiu f => Sys2Proof.Machine.execSltiu f s
  | .leai f => Sys2Proof.Machine.execLeai f s
  | .shli f => Sys2Proof.Machine.execShli f s
  | .movi f => Sys2Proof.Machine.execMovi f s
  | .movhi f => Sys2Proof.Machine.execMovhi f s
  | .shl f => Sys2Proof.Machine.execShl f s
  | .shr f => Sys2Proof.Machine.execShr f s
  | .sar f => Sys2Proof.Machine.execSar f s
  | .rotl f => Sys2Proof.Machine.execRotl f s
  | .bfx f => Sys2Proof.Machine.execBfx f s
  | .bfi f => Sys2Proof.Machine.execBfi f s
  | .popc f => Sys2Proof.Machine.execPopc f s
  | .clz f => Sys2Proof.Machine.execClz f s
  | .ctz f => Sys2Proof.Machine.execCtz f s
  | .brev f => Sys2Proof.Machine.execBrev f s
  | .bperm f => Sys2Proof.Machine.execBperm f s
  | .mul f => Sys2Proof.Machine.execMul f s
  | .mulh f => Sys2Proof.Machine.execMulh f s
  | .mulhu f => Sys2Proof.Machine.execMulhu f s
  | .mad f => Sys2Proof.Machine.execMad f s
  | .div f => Sys2Proof.Machine.execDiv f s
  | .divu f => Sys2Proof.Machine.execDivu f s
  | .rem f => Sys2Proof.Machine.execRem f s
  | .remu f => Sys2Proof.Machine.execRemu f s
  | .dp4i8 f => Sys2Proof.Machine.execDp4i8 f s
  | .dp4n8 f => Sys2Proof.Machine.execDp4n8 f s
  | .dp8i4 f => Sys2Proof.Machine.execDp8i4 f s
  | .dp4e4 f => Sys2Proof.Machine.execDp4e4 f s
  | .dp4e5 f => Sys2Proof.Machine.execDp4e5 f s
  | .dp8f4 f => Sys2Proof.Machine.execDp8f4 f s
  | .pksel f => Sys2Proof.Machine.execPksel f s
  | .pknarrow f => Sys2Proof.Machine.execPknarrow f s
  | .cvtiv f => Sys2Proof.Machine.execCvtiv f s
  | .cvtniv f => Sys2Proof.Machine.execCvtniv f s
  | .cvtvi f => Sys2Proof.Machine.execCvtvi f s
  | .cvtvni f => Sys2Proof.Machine.execCvtvni f s
  | .cvtdv f => Sys2Proof.Machine.execCvtdv f s
  | .cvtvd f => Sys2Proof.Machine.execCvtvd f s
  | .cvtnv f => Sys2Proof.Machine.execCvtnv f s
  | .cvtvn f => Sys2Proof.Machine.execCvtvn f s
  | .vadd f => Sys2Proof.Machine.execVadd f s
  | .vsub f => Sys2Proof.Machine.execVsub f s
  | .vneg f => Sys2Proof.Machine.execVneg f s
  | .vabs f => Sys2Proof.Machine.execVabs f s
  | .vmin f => Sys2Proof.Machine.execVmin f s
  | .vmax f => Sys2Proof.Machine.execVmax f s
  | .vmul f => Sys2Proof.Machine.execVmul f s
  | .vdiv f => Sys2Proof.Machine.execVdiv f s
  | .vfma f => Sys2Proof.Machine.execVfma f s
  | .vsqr f => Sys2Proof.Machine.execVsqr f s
  | .vsqrt f => Sys2Proof.Machine.execVsqrt f s
  | .vrcp f => Sys2Proof.Machine.execVrcp f s
  | .vscale f => Sys2Proof.Machine.execVscale f s
  | .vmk f => Sys2Proof.Machine.execVmk f s
  | .vlo f => Sys2Proof.Machine.execVlo f s
  | .vhi f => Sys2Proof.Machine.execVhi f s
  | .vmid f => Sys2Proof.Machine.execVmid f s
  | .vrad f => Sys2Proof.Machine.execVrad f s
  | .vwid f => Sys2Proof.Machine.execVwid f s
  | .vhull f => Sys2Proof.Machine.execVhull f s
  | .visect f => Sys2Proof.Machine.execVisect f s
  | .vbis f => Sys2Proof.Machine.execVbis f s
  | .vent f => Sys2Proof.Machine.execVent f s
  | .vemp f => Sys2Proof.Machine.execVemp f s
  | .vmrc f => Sys2Proof.Machine.execVmrc f s
  | .vfmr f => Sys2Proof.Machine.execVfmr f s
  | .vclt f => Sys2Proof.Machine.execVclt f s
  | .vcle f => Sys2Proof.Machine.execVcle f s
  | .vcgt f => Sys2Proof.Machine.execVcgt f s
  | .vcge f => Sys2Proof.Machine.execVcge f s
  | .vceq f => Sys2Proof.Machine.execVceq f s
  | .vcsub f => Sys2Proof.Machine.execVcsub f s
  | .vcdis f => Sys2Proof.Machine.execVcdis f s
  | .vcin f => Sys2Proof.Machine.execVcin f s
  | .qand f => Sys2Proof.Machine.execQand f s
  | .qor f => Sys2Proof.Machine.execQor f s
  | .qnot f => Sys2Proof.Machine.execQnot f s
  | .qsure f => Sys2Proof.Machine.execQsure f s
  | .qmaybe f => Sys2Proof.Machine.execQmaybe f s
  | .qmov f => Sys2Proof.Machine.execQmov f s
  | .vexp f => Sys2Proof.Machine.execVexp f s
  | .vlog f => Sys2Proof.Machine.execVlog f s
  | .vtanh f => Sys2Proof.Machine.execVtanh f s
  | .vsigm f => Sys2Proof.Machine.execVsigm f s
  | .vsilu f => Sys2Proof.Machine.execVsilu f s
  | .vgelu f => Sys2Proof.Machine.execVgelu f s
  | .vsin f => Sys2Proof.Machine.execVsin f s
  | .vcos f => Sys2Proof.Machine.execVcos f s
  | .shfl f => Sys2Proof.Machine.execShfl f s
  | .bcast f => Sys2Proof.Machine.execBcast f s
  | .vote f => Sys2Proof.Machine.execVote f s
  | .qvote f => Sys2Proof.Machine.execQvote f s
  | .rdadd f => Sys2Proof.Machine.execRdadd f s
  | .rdmin f => Sys2Proof.Machine.execRdmin f s
  | .rdmax f => Sys2Proof.Machine.execRdmax f s
  | .scan f => Sys2Proof.Machine.execScan f s
  | .hist f => Sys2Proof.Machine.execHist f s
  | .hmerge f => Sys2Proof.Machine.execHmerge f s
  | .ldb f => Sys2Proof.Machine.execLdb f s
  | .ldh f => Sys2Proof.Machine.execLdh f s
  | .ldw f => Sys2Proof.Machine.execLdw f s
  | .ldd f => Sys2Proof.Machine.execLdd f s
  | .ldq f => Sys2Proof.Machine.execLdq f s
  | .ldv f => Sys2Proof.Machine.execLdv f s
  | .ldvc f => Sys2Proof.Machine.execLdvc f s
  | .ldff f => Sys2Proof.Machine.execLdff f s
  | .ldfe f => Sys2Proof.Machine.execLdfe f s
  | .ldmc f => Sys2Proof.Machine.execLdmc f s
  | .ldun f => Sys2Proof.Machine.execLdun f s
  | .stb f => Sys2Proof.Machine.execStb f s
  | .sth f => Sys2Proof.Machine.execSth f s
  | .stw f => Sys2Proof.Machine.execStw f s
  | .std f => Sys2Proof.Machine.execStd f s
  | .stq f => Sys2Proof.Machine.execStq f s
  | .stv f => Sys2Proof.Machine.execStv f s
  | .stvc f => Sys2Proof.Machine.execStvc f s
  | .stfe f => Sys2Proof.Machine.execStfe f s
  | .stx f => Sys2Proof.Machine.execStx f s
  | .aadd f => Sys2Proof.Machine.execAadd f s
  | .amin f => Sys2Proof.Machine.execAmin f s
  | .amax f => Sys2Proof.Machine.execAmax f s
  | .aminu f => Sys2Proof.Machine.execAminu f s
  | .amaxu f => Sys2Proof.Machine.execAmaxu f s
  | .aand f => Sys2Proof.Machine.execAand f s
  | .aor f => Sys2Proof.Machine.execAor f s
  | .axor f => Sys2Proof.Machine.execAxor f s
  | .axch f => Sys2Proof.Machine.execAxch f s
  | .acas f => Sys2Proof.Machine.execAcas f s
  | .ainc f => Sys2Proof.Machine.execAinc f s
  | .avadd f => Sys2Proof.Machine.execAvadd f s
  | .amind f => Sys2Proof.Machine.execAmind f s
  | .cpy f => Sys2Proof.Machine.execCpy f s
  | .cpy2d f => Sys2Proof.Machine.execCpy2d f s
  | .cpymc f => Sys2Proof.Machine.execCpymc f s
  | .gwbind f => Sys2Proof.Machine.execGwbind f s
  | .gwfree f => Sys2Proof.Machine.execGwfree f s
  | .arrv f => Sys2Proof.Machine.execArrv f s
  | .tshapeAcc f => Sys2Proof.Machine.execTshapeAcc f s
  | .tshapePred f => Sys2Proof.Machine.execTshapePred f s
  | .tzero f => Sys2Proof.Machine.execTzero f s
  | .tload f => Sys2Proof.Machine.execTload f s
  | .tmma f => Sys2Proof.Machine.execTmma f s
  | .tmmav f => Sys2Proof.Machine.execTmmav f s
  | .tjoin f => Sys2Proof.Machine.execTjoin f s
  | .tstore f => Sys2Proof.Machine.execTstore f s
  | .tksplit f => Sys2Proof.Machine.execTksplit f s
  | .tscan f => Sys2Proof.Machine.execTscan f s
  | .tgrp f => Sys2Proof.Machine.execTgrp f s
  | .twake f => Sys2Proof.Machine.execTwake f s
  | .pscore f => Sys2Proof.Machine.execPscore f s
  | .psel f => Sys2Proof.Machine.execPsel f s
  | .pkerf f => Sys2Proof.Machine.execPkerf f s
  | .pffn f => Sys2Proof.Machine.execPffn f s
  | .pstat f => Sys2Proof.Machine.execPstat f s
  | .bar f => Sys2Proof.Machine.execBar f s
  | .bara f => Sys2Proof.Machine.execBara f s
  | .barw f => Sys2Proof.Machine.execBarw f s
  | .barx f => Sys2Proof.Machine.execBarx f s
  | .sobind f => Sys2Proof.Machine.execSobind f s
  | .soacq f => Sys2Proof.Machine.execSoacq f s
  | .sorel f => Sys2Proof.Machine.execSorel f s
  | .fence f => Sys2Proof.Machine.execFence f s
  | .hwait f => Sys2Proof.Machine.execHwait f s
  | .htest f => Sys2Proof.Machine.execHtest f s
  | .hcancel f => Sys2Proof.Machine.execHcancel f s
  | .await f => Sys2Proof.Machine.execAwait f s
  | .split f => Sys2Proof.Machine.execSplit f s
  | .fork f => Sys2Proof.Machine.execFork f s
  | .rsmp f => Sys2Proof.Machine.execRsmp f s
  | .linid f => Sys2Proof.Machine.execLinid f s
  | .poolq f => Sys2Proof.Machine.execPoolq f s
  | .racq f => Sys2Proof.Machine.execRacq f s
  | .rtry f => Sys2Proof.Machine.execRtry f s
  | .rrel f => Sys2Proof.Machine.execRrel f s
  | .rqry f => Sys2Proof.Machine.execRqry f s
  | .rngseed f => Sys2Proof.Machine.execRngseed f s
  | .rngn f => Sys2Proof.Machine.execRngn f s
  | .rngf f => Sys2Proof.Machine.execRngf f s
  | .uadd f => Sys2Proof.Machine.execUadd f s
  | .usub f => Sys2Proof.Machine.execUsub f s
  | .uand f => Sys2Proof.Machine.execUand f s
  | .uor f => Sys2Proof.Machine.execUor f s
  | .uxor f => Sys2Proof.Machine.execUxor f s
  | .ushl f => Sys2Proof.Machine.execUshl f s
  | .ushr f => Sys2Proof.Machine.execUshr f s
  | .umul f => Sys2Proof.Machine.execUmul f s
  | .uslt f => Sys2Proof.Machine.execUslt f s
  | .umovx f => Sys2Proof.Machine.execUmovx f s
  | .umovs f => Sys2Proof.Machine.execUmovs f s
  | .uaddi f => Sys2Proof.Machine.execUaddi f s
  | .pfx f => Sys2Proof.Machine.execPfx f s
  | .nop => Sys2Proof.Machine.execNop s
  | .tret => Sys2Proof.Machine.execTret s
  | .ifence => Sys2Proof.Machine.execIfence s
  | .syncj => Sys2Proof.Machine.execSyncj s
  | .triggerWrite => Sys2Proof.Machine.execTriggerWrite s
  | .cmdtail => Sys2Proof.Machine.execCmdtail s
  | .registerWrite => Sys2Proof.Machine.execRegisterWrite s
  | .load => Sys2Proof.Machine.execLoad s
  | .unload => Sys2Proof.Machine.execUnload s
  | .install => Sys2Proof.Machine.execInstall s
  | .remove => Sys2Proof.Machine.execRemove s
  | .qcreate => Sys2Proof.Machine.execQcreate s
  | .qdestroy => Sys2Proof.Machine.execQdestroy s
  | .qprio => Sys2Proof.Machine.execQprio s
  | .setth => Sys2Proof.Machine.execSetth s
  | .copy => Sys2Proof.Machine.execCopy s
  | .walkerPass => Sys2Proof.Machine.execWalkerPass s
  | .queueService => Sys2Proof.Machine.execQueueService s
  | .waitNodeReread => Sys2Proof.Machine.execWaitNodeReread s
  | .queuePark => Sys2Proof.Machine.execQueuePark s
  | .queueUnpark => Sys2Proof.Machine.execQueueUnpark s
  | .lstReport => Sys2Proof.Machine.execLstReport s
  | .kernelNodeComplete => Sys2Proof.Machine.execKernelNodeComplete s
  | .agentPlace => Sys2Proof.Machine.execAgentPlace s
  | .gangReserve => Sys2Proof.Machine.execGangReserve s
  | .groupRetire => Sys2Proof.Machine.execGroupRetire s
  | .teamRetire => Sys2Proof.Machine.execTeamRetire s
  | .waitSwapOut => Sys2Proof.Machine.execWaitSwapOut s
  | .swapOutDone => Sys2Proof.Machine.execSwapOutDone s
  | .teamReturn => Sys2Proof.Machine.execTeamReturn s
  | .teamResume => Sys2Proof.Machine.execTeamResume s
  | .teamSwitch => Sys2Proof.Machine.execTeamSwitch s
  | .draftGroup => Sys2Proof.Machine.execDraftGroup s
  | .stealRequest => Sys2Proof.Machine.execStealRequest s
  | .stealReply => Sys2Proof.Machine.execStealReply s
  | .diePoolReturn => Sys2Proof.Machine.execDiePoolReturn s
  | .copyChunk => Sys2Proof.Machine.execCopyChunk s
  | .copyComplete => Sys2Proof.Machine.execCopyComplete s
  | .dovetailStart => Sys2Proof.Machine.execDovetailStart s
  | .tileRecordStep => Sys2Proof.Machine.execTileRecordStep s
  | .tileRecordComplete => Sys2Proof.Machine.execTileRecordComplete s
  | .predRecordStep => Sys2Proof.Machine.execPredRecordStep s
  | .predRecordComplete => Sys2Proof.Machine.execPredRecordComplete s
  | .bankAluOp => Sys2Proof.Machine.execBankAluOp s
  | .releasePerform => Sys2Proof.Machine.execReleasePerform s
  | .acquirePerform => Sys2Proof.Machine.execAcquirePerform s
  | .orderedReleaseTurn => Sys2Proof.Machine.execOrderedReleaseTurn s
  | .ldfeServe => Sys2Proof.Machine.execLdfeServe s
  | .faultServiceRequest => Sys2Proof.Machine.execFaultServiceRequest s
  | .faultServiceAnswer => Sys2Proof.Machine.execFaultServiceAnswer s
  | .prresp => Sys2Proof.Machine.execPrresp s
  | .dbell => Sys2Proof.Machine.execDbell s
  | .hostPostedWrite => Sys2Proof.Machine.execHostPostedWrite s
  | .tinvctlGo => Sys2Proof.Machine.execTinvctlGo s
  | .tinvDone => Sys2Proof.Machine.execTinvDone s
  | .multicastEntryClose => Sys2Proof.Machine.execMulticastEntryClose s
  | .escapeChannelEntry => Sys2Proof.Machine.execEscapeChannelEntry s
  | .subarrayPowerDown => Sys2Proof.Machine.execSubarrayPowerDown s
  | .watchdogExpiry => Sys2Proof.Machine.execWatchdogExpiry s
  | .memoryError => Sys2Proof.Machine.execMemoryError s
  | .peerTimeout => Sys2Proof.Machine.execPeerTimeout s
  | .pconf => Sys2Proof.Machine.execPconf s
  | .phalt => Sys2Proof.Machine.execPhalt s
  | .partitionHalted => Sys2Proof.Machine.execPartitionHalted s
  | .presume => Sys2Proof.Machine.execPresume s
  | .pswapout => Sys2Proof.Machine.execPswapout s
  | .pswapin => Sys2Proof.Machine.execPswapin s
  | .partitionSwapDone => Sys2Proof.Machine.execPartitionSwapDone s
  | .preset => Sys2Proof.Machine.execPreset s
  | .cswitch => Sys2Proof.Machine.execCswitch s
  | .rings => Sys2Proof.Machine.execRings s
  | .logread => Sys2Proof.Machine.execLogread s
  | .health => Sys2Proof.Machine.execHealth s
  | .fwstage => Sys2Proof.Machine.execFwstage s
  | .fwactFe => Sys2Proof.Machine.execFwactFe s
  | .fwactAgent => Sys2Proof.Machine.execFwactAgent s
  | .fwactService => Sys2Proof.Machine.execFwactService s
  | .serviceCoreFallback => Sys2Proof.Machine.execServiceCoreFallback s
  | .attest => Sys2Proof.Machine.execAttest s
  | .attestKey => Sys2Proof.Machine.execAttestKey s
  | .pcap => Sys2Proof.Machine.execPcap s
  | .clockStep => Sys2Proof.Machine.execClockStep s
  | .criticalTempStop => Sys2Proof.Machine.execCriticalTempStop s
  | .powerUp => Sys2Proof.Machine.execPowerUp s
  | .unloadDrained => Sys2Proof.Machine.execUnloadDrained s
  | .correctedSoftError => Sys2Proof.Machine.execCorrectedSoftError s
  | .controlStateError => Sys2Proof.Machine.execControlStateError s
  | .peerPartyAccess => Sys2Proof.Machine.execPeerPartyAccess s
  | .kazotLinkPortDown => Sys2Proof.Machine.execKazotLinkPortDown s
  | .kazotLinkPortUp => Sys2Proof.Machine.execKazotLinkPortUp s
  | .serviceCoreRestarted => Sys2Proof.Machine.execServiceCoreRestarted s
  | .dieDomainOff => Sys2Proof.Machine.execDieDomainOff s
  | .dieDomainOn => Sys2Proof.Machine.execDieDomainOn s
  | .hostLinkDown => Sys2Proof.Machine.execHostLinkDown s
  | .hostLinkUp => Sys2Proof.Machine.execHostLinkUp s
  | .mctpControlMessage => Sys2Proof.Machine.execMctpControlMessage s

end Sys2Proof.Machine
end

