-- ==== Sys2Proof/Machine/Fetch.lean ====
section
/-! DEFINITION. Fetching a word: the loop buffer, the instruction cache, the two pages of a packet, dictionary pairs
(R90, R91, R100, R101, R155 to R158). -/

namespace Sys2Proof.Machine

/-! ### The pages of a packet (R91) -/

/-- The trap of a fetch that cannot be made: the first byte of the packet that may not be fetched. -/
def State.fetchTrap (s : State) (core part : Nat) (base : VAddr) : Option TrapRec :=
  let va := base.toNat
  let second := (va + 11) / 65536 * 65536
  let chk (a : Nat) : Option TrapRec :=
    if 2 ^ 57 ≤ a then some ⟨causeTfault, none, 2#16, 0#64⟩ else reachTrap (s.reach core part a .exec) .exec false none a
  (chk va).orElse fun _ => if va < second then chk second else none

/-! ### The instruction cache (R89, R155) -/

/-- The page of a code address, where it may be fetched. -/
def State.codePage (s : State) (core part a : Nat) : Option Xlat :=
  if 2 ^ 57 ≤ a then none else
  match s.reach core part a .exec with
  | .page x => some x
  | _ => none

/-- The part of a line that lies on one page: `n` bytes from code address `a`. -/
def State.codeBytes (s : State) (x : Option Xlat) (a n : Nat) : List Byte :=
  match x with
  | some x => s.homeBytes x (x.phys a) n
  | none => List.replicate n emptyByte

/-- A line as the home slices hold it: sixteen packets, on one page or two. -/
def State.lineAt (s : State) (core part line : Nat) : ILine :=
  let a := 192 * line
  let x := s.codePage core part a
  let y := s.codePage core part (a + 191)
  let n := min 192 (65536 - a % 65536)
  ⟨line, x.map fun x => x.phys a, y.map fun y => y.phys (a + 191), s.codeBytes x a n ++ s.codeBytes y (a + n) (192 - n)⟩

/-- Does a cached line stand for a fill? -/
def ILine.same (l m : ILine) : Bool := l.line == m.line && l.first == m.first && l.last == m.last

/-- The line made the most recent; a fifth line of a set evicts the least recently used. -/
def Core.icUse (c : Core) (l : ILine) : Core :=
  let rest := c.icache.filter fun x => x.line != l.line
  let kept := match (rest.filter fun x => x.line % 64 == l.line % 64)[3]? with
    | some old => rest.filter fun x => x.line != old.line
    | none => rest
  { c with icache := l :: kept }

/-- A sector with an uncorrectable error under `n` bytes of code (R274). -/
def State.badCode (s : State) (core part a n : Nat) : List Nat :=
  ([a, a + n - 1].filterMap fun b => (s.codePage core part b).map fun x => x.phys b / 256 * 256).filter fun b =>
    s.bad.any fun e => e.addr == b

/-- The word in slot `o` of a packet whose pages may be fetched, and the caches after the fetch: from a cached line, or from
the home, which fills the line. A packet under an uncorrectable error is MEMERR at the packet's address; a line under one is
not held (R274, R389). -/
def State.fetchSlot (s : State) (core part : Nat) (base : VAddr) (o : Nat) : Except TrapRec (Word × State) :=
  let va := base.toNat + 4 * o
  let line := base.toNat / 192
  let held (s : State) (a : Nat) : State := match s.codePage core part a with
    | some x => s.hold core x
    | none => s
  let s1 := held (held s base.toNat) va
  let fill := s1.lineAt core part line
  let wordIn (l : ILine) : Word := BitVec.ofNat 32 (bytesNat ((l.bytes.drop (va - 192 * line)).take 4))
  match (s1.core core).icache.find? fun x => x.same fill with
  | some l => .ok (wordIn l, s1.putCore core ((s1.core core).icUse l))
  | none =>
    if !(s1.badCode core part base.toNat 12).isEmpty then .error ⟨causeMemerr, none, 0#16, base.setWidth 64⟩ else
    let read (s : State) (a : Nat) : State := match s.codePage core part a with
      | some x => s.readHome x (x.phys a)
      | none => s
    let s2 := read (read s1 (192 * line)) (192 * line + 191)
    .ok (wordIn fill, if (s2.badCode core part (192 * line) 192).isEmpty then s2.putCore core ((s2.core core).icUse fill) else s2)

/-- A fetch has consumed the error under a packet, which is gone where its slice does not retain it (R274, R389). -/
def State.consumeCode (s : State) (core part : Nat) (base : VAddr) : State :=
  let hit := s.badCode core part base.toNat 12
  { s with bad := s.bad.filter fun b => b.retained || !hit.contains b.addr }

/-! ### The loop buffer (R157) -/

/-- Does a body hold a packet? -/
def LoopBody.holds (b : LoopBody) (part : Nat) (packet : VAddr) : Bool :=
  b.part == part && decide (b.base.toNat ≤ packet.toNat ∧ packet.toNat < b.base.toNat + 12 * b.n)

/-- The word that a body has captured at an address. -/
def LoopBody.wordAt (b : LoopBody) (a : VAddr) : Option Word := (b.words.find? fun w => w.1 == a).map fun w => w.2

/-- The bodies of a buffer after a fetch of a packet by a group: those that hold the packet have been used by the group,
have captured the word, and are the most recent. -/
def bodiesAfter (bodies : List LoopBody) (part gid : Nat) (dict : Bool) (packet a : VAddr) (w : Word) : List LoopBody :=
  let use (b : LoopBody) : LoopBody :=
    { b.usedBy gid dict with words := if (b.wordAt a).isSome then b.words else (a, w) :: b.words }
  (bodies.filter fun b => b.holds part packet).map use ++ bodies.filter fun b => !b.holds part packet

/-- The word as it lies in memory, from a body that holds its packet or from the instruction cache. -/
def State.fetchWord (s : State) (g : Group) (core part : Nat) (dict : Bool) (base : VAddr) (o : Nat) : Except TrapRec (Word × State) :=
  let i := Fin.ofNat 4 g.slot
  let a := base + BitVec.ofNat 57 o
  let bodies := (s.core core).loops.get i
  let noted (s : State) (w : Word) : State :=
    let c := s.core core
    s.putCore core { c with loops := c.loops.set i (bodiesAfter (c.loops.get i) part g.gid dict base a w) }
  match bodies.findSome? fun b => if b.holds part base then b.wordAt a else none with
  | some w => .ok (w, noted s w)
  | none =>
    match s.fetchTrap core part base with
    | some t => .error t
    | none =>
      match s.fetchSlot core part base o with
      | .error t => .error t
      | .ok r => .ok (r.1, if bodies.any fun b => b.holds part base then noted r.2 r.1 else r.2)

/-! ### Dictionary expansion (R100, R101) -/

/-- The words of the DICT section of a loaded image (R33, R101). -/
def State.dictWords (s : State) (image : Nat) : Nat :=
  ((s.images.find? fun i => i.base == image).bind fun i => (i.sections.find? fun q => q.1 == 3).map fun q => q.2.2 / 4).getD 0

/-- The entry that a code names; none where R101 traps. -/
def State.expand (s : State) (t : Team) (code : BitVec 16) : Option Word :=
  let i := (code.extractLsb' 0 10).toNat
  if !t.info.dict || s.dictWords t.info.image ≤ i then none else
  match (List.finRange 4).find? fun b => ((s.core t.core).dict.get b).image == some t.info.image with
  | none => none
  | some b =>
    match ((s.core t.core).dict.get b).words[i]? with
    | none => none
    | some w => if w.extractLsb' 26 5 = 0x1F#5 then none else some (code.extractLsb' 15 1 ++ w.extractLsb' 0 31)

/-- What stands at a code address. -/
inductive Fetched where
  /-- An expanded word, and the next code address in program order (R90). -/
  | word (w : Word) (next : VAddr)
  /-- Nothing, or a code that fails R101. -/
  | nothing
deriving DecidableEq, Repr

/-- The word after slot `o`. -/
def afterSlot (base : VAddr) (o : Nat) : VAddr := if o < 2 then base + BitVec.ofNat 57 (o + 1) else base + 12#57

/-- The word at offset `o` of a packet, from the slot's word `w` (R90, R100). -/
def State.atOffset (s : State) (t : Team) (base : VAddr) (o : Nat) (w : Word) : Fetched :=
  let isPair := w.extractLsb' 26 5 == 0x1F#5
  let low : BitVec 16 := w.extractLsb' 0 16
  if o < 3 then
    if isPair then
      match s.expand t (w.extractLsb' 16 16) with
      | some e => .word e (if low = 0#16 then afterSlot base o else base + BitVec.ofNat 57 (o + 4))
      | none => .nothing
    else .word w (afterSlot base o)
  else if isPair && low != 0#16 && low.extractLsb' 10 5 == 0x1F#5 then
    match s.expand t low with
    | some e => .word e (afterSlot base (o - 4))
    | none => .nothing
  else .nothing

/-- Fetch what stands at a code address for a group. -/
def State.fetch (s : State) (g : Group) (t : Team) (pc : VAddr) : Except TrapRec (Fetched × State) :=
  let o := slotOf pc
  let base := packetOf pc
  let slot := if o < 3 then o else o - 4
  if o = 3 ∨ 7 ≤ o then .ok (.nothing, s) else
  match s.fetchWord g t.core (partOf t.core) t.info.dict base slot with
  | .error e => .error e
  | .ok (w, s1) => .ok (s1.atOffset t base o w, s1)

end Sys2Proof.Machine
end

