-- ==== Sys2Proof/Machine/Issue.lean ====
section
/-! DEFINITION. Issuing: fetching, decoding and running one word, with its prefix; waits that are over; and the path that
each issue partition chooses (R92, R99, R160, R168, R385). -/

namespace Sys2Proof.Machine

/-! ### Issuing a word -/

/-- The return address of a fetch fault: the prefix of the word (R99), or offset 0 of the packet (R91). -/
def fetchReturn (p : Path) : VAddr :=
  match p.pfx with
  | some l => l.addr
  | none => packetOf p.pc

/-- The return address of a fault that the service answered: as a fetch fault's where the fetch of the path's own
packet met it. -/
def faultReturn (p : Path) (t : TrapRec) : VAddr :=
  if t.info.getLsbD 1 && packetOf (t.fa.setWidth 57) == packetOf p.pc then packetOf p.pc else p.pc

/-- A collective word (R168). -/
def isCollective : Instr → Bool
  | .shfl _ | .bcast _ | .vote _ | .qvote _ | .rdadd _ | .rdmin _ | .rdmax _ | .scan _ | .hist _ | .hmerge _
  | .msave _ | .calli _ | .jmpi _ | .ret _ => true
  | _ => false

/-- Must a collective word wait for the other paths of its entry? -/
def mustWait (g : Group) (p : Path) (i : Instr) : Bool :=
  isCollective i && !(g.others p).isEmpty && !(match p.wait with
    | some w => w.kind == .collective && w.ended
    | none => false)

/-- Does a step come after the writes on their way? A word that publishes what its lanes have stored (a command, children,
a transfer through the pool, a group's end), that reads past L1 for others, or that fetches anew; and an event, but for
those of the memory system, the engines and the host, which meet the writes on their way each at its own place.
DEDUCED, unsafe: log entry 76. -/
def landsFirst : Instr → Bool
  | .cpy _ | .cpy2d _ | .cpymc _ | .tzero _ | .tload _ | .tmma _ | .tmmav _ | .tjoin _ | .tstore _ | .tksplit _
  | .tscan _ | .tgrp _ | .pscore _ | .psel _ | .pkerf _ | .pffn _ | .calli _ | .jmpi _ | .ret _ | .exit _ | .exits _ | .split _
  | .fork _ | .rsmp _ | .ldmc _ | .dictld _ | .ifence => true
  | .copyChunk | .copyComplete | .dovetailStart | .tileRecordStep | .tileRecordComplete | .predRecordStep | .predRecordComplete
  | .bankAluOp | .releasePerform | .acquirePerform | .orderedReleaseTurn | .ldfeServe | .faultServiceRequest
  | .faultServiceAnswer | .prresp | .dbell | .hostPostedWrite | .triggerWrite | .cmdtail | .registerWrite | .tinvctlGo
  | .tinvDone | .multicastEntryClose | .escapeChannelEntry | .memoryError | .correctedSoftError | .peerPartyAccess
  | .peerTimeout => false
  | i => (encode i).isNone

/-- The state that a step of an instruction starts from. -/
def State.landFor (s : State) (i : Instr) : State := if landsFirst i then s.landAll else s

/-- Run a decoded word on the path in hand. -/
def runWord (i : Instr) (s : State) : Out :=
  withCtx s fun c => if mustWait c.g c.p i then waitAt s c c.g .collective else exec i (s.landFor i)

/-- A word that is no instruction (R103). -/
def runUndecoded (s : State) : Out := withCtx s fun c => takeTrap s c (groupTrap causeIllop 0)

/-- Decode a fetched word and run it. -/
def runFetched (w : Word) (s : State) : Out :=
  match decodeWord w with
  | .ok i => runWord i s
  | .error _ => runUndecoded s

/-- The state in which a path's word runs. -/
def State.atWord (s : State) (g : Group) (p : Path) (w : Word) (addr ret next : VAddr) : State :=
  { (s.putGroup (g.putPath { p with readySince := none })) with cur := some ⟨g.gid, p.pid, w, addr, ret, next⟩ }

/-- Fetch and run the word at a path's program counter. -/
def issueNew (s : State) (g : Group) (t : Team) (p : Path) : Out :=
  let ret := match p.pfx with
    | some l => l.addr
    | none => p.pc
  match s.fetch g t p.pc with
  | .error tr =>
    let s1 := s.atWord g p 0#32 p.pc (fetchReturn p) p.pc
    withCtx s1 fun c =>
      if tr.cause = causeMemerr then takeTrap (s1.consumeCode t.core c.part (packetOf p.pc)) c tr
      else if faultWaits s1 c.part g.tl.val tr then waitAt { s1 with cur := c.cur } { c with cur := { c.cur with ret := ret } } c.g (.fault tr)
      else takeTrap s1 c tr
  | .ok (.nothing, s1) => runUndecoded (s1.atWord g p 0#32 p.pc ret p.pc)
  | .ok (.word w next, s1) => runFetched w (s1.atWord g p w p.pc ret next)

/-- A prefix issues with the word that it modifies, so that nothing falls between them (R92, R99): the word's own issue after
the prefix's; a second prefix traps (R98). -/
def andPrefixed (gid pid : Nat) (o : Out) : Out :=
  match o with
  | .next s =>
    match s.group gid with
    | none => o
    | some g =>
      match g.path pid, s.team g.team with
      | some p, some t => if p.pfx.isSome && p.wait.isNone then issueNew s g t p else o
      | _, _ => o
  | o => o

/-- A path issues: a word whose wait is over goes on; a fault that the service left unresolved traps (R385); any
other word is fetched. -/
def issuePath (s : State) (g : Group) (t : Team) (p : Path) : Out :=
  let s := s.putTeam t.issues
  let t := t.issues
  match p.wait with
  | some ⟨.fault tr, true, st, _, _⟩ =>
    if st = 0#32 then andPrefixed g.gid p.pid (issueNew s g t { p with wait := none })
    else .next (trapTo s g t p.pid { tr with cause := if st = 1#32 then causeTfault else causePfault } (faultReturn p tr))
  | some ⟨_, _, _, _, some w⟩ => runFetched w.word (s.atWord g { p with pfx := w.pfx } w.word w.addr p.pc w.next)
  | _ => andPrefixed g.gid p.pid (issueNew s g t p)

/-! ### The path that issues by default (R160) -/

def State.readyPaths (s : State) : List (Group × Team × Path) :=
  s.groups.flatMap fun g => match s.team g.team with
    | some t => (g.paths.filter (s.ready g t)).map fun p => (g, t, p)
    | none => []

/-- The smaller of two by a key; the earlier of equals. -/
def leastBy {α : Type} (key : α → Nat) : List α → Option α
  | [] => none
  | a :: rest => match leastBy key rest with
    | some b => if key b < key a then some b else some a
    | none => some a

def splitIx (p : Path) : Nat := match p.split with
  | some i => i.val
  | none => 4

/-- The issue partition of a group, four to a core (R156). -/
def issuePart (t : Team) (g : Group) : Nat := t.core * 4 + g.slot % 4
/-- A path's newest entry, by its number. -/
def newestEntry (p : Path) : Nat := match p.entry with
  | some e => e + 1
  | none => 0

/-- The choice of one issue partition among its ready paths: one that has stayed ready for 64 cycles, the longest first;
else the next group by slot after the last, its newest entry, its lowest split. -/
def State.partitionChoice (s : State) (last : Nat) (l : List (Group × Team × Path)) : Option (Group × Team × Path) :=
  let since (p : Path) : Nat := p.readySince.getD s.now
  let old := l.filter fun x => decide (since x.2.2 + 64 ≤ s.now)
  if !old.isEmpty then leastBy (fun x => (since x.2.2 * 64 + x.1.slot) * 5 + splitIx x.2.2) old else
  match leastBy (fun x => (x.1.slot + 63 - last) % 64) l with
  | none => none
  | some y =>
    let mine := l.filter fun x => x.1.gid == y.1.gid
    let newest := mine.foldl (fun n x => max n (newestEntry x.2.2)) 0
    leastBy (fun x => splitIx x.2.2) (mine.filter fun x => newestEntry x.2.2 == newest)

/-- The partitions issue in turn: the next one after the last that has a ready path, by its own choice.
DESIGN CHOICE, safe: log entry 3. -/
def State.nextIssue (s : State) : Option (Group × Team × Path) :=
  let l := s.readyPaths
  match leastBy (fun x => (issuePart x.2.1 x.1 + 3071 - s.lastPart) % 3072) l with
  | none => none
  | some x =>
    let k := issuePart x.2.1 x.1
    s.partitionChoice ((s.core x.2.1.core).lastSlot.get (Fin.ofNat 4 x.1.slot)) (l.filter fun y => issuePart y.2.1 y.1 == k)

/-- The partition and the slot that issue are the last to have issued. -/
def State.noteIssue (s : State) (g : Group) (t : Team) : State :=
  let c := s.core t.core
  { s.putCore t.core { c with lastSlot := c.lastSlot.set (Fin.ofNat 4 g.slot) g.slot } with lastPart := issuePart t g }

/-- A ready path issues. -/
def State.issue (s : State) (g : Group) (t : Team) (p : Path) : Out := issuePath (s.noteIssue g t) g t p

end Sys2Proof.Machine
end

