-- ==== Sys2Proof/Machine/Step.lean ====
section
/-! DEFINITION. One step of the part: the next turn of the agenda, or the path that issues by default; and the state with
one word placed for its next step. -/

namespace Sys2Proof.Machine

/-! ### The step -/

def settled : Out → Out
  | .next s => .next s.settle
  | o => o

/-- Does an instruction have an encoding? The steps without one are events. -/
def isWord (i : Instr) : Bool := (encode i).isSome

/-- One turn. A turn that names no path that may issue changes nothing. -/
def runTurn (s : State) : Turn → Out
  | .pass n => .next { s with now := s.now + n }
  | .late b => .next { s with late := b }
  | .land k => .next (s.landOne k)
  | .event i a => if isWord i then .next s else settled (exec i (State.landFor { s with arg := a, cur := none } i))
  | .issue gid pid =>
    match s.group gid with
    | none => .next s
    | some g =>
      match g.path pid, s.team g.team with
      | some p, some t => if s.ready g t p then settled (s.issue g t p) else .next s
      | _, _ => .next s

/-- One step of the part. -/
def step (s : State) : Host.Outcome State Fault Refusal :=
  match s.agenda with
  | turn :: rest => runTurn { s with agenda := rest } turn
  | [] =>
    match s.nextIssue with
    | some (g, t, p) => settled (s.issue g t p)
    | none => .next { s with now := s.now + 1 }

/-! ### One word placed -/

/-- An image whose first page is code, at an address and a place of its own. -/
def fetchImage : Image := ⟨0x180000000, 65536, 0x180000000, [(1, 0, 65536)]⟩

/-- A team of one group on core 0 that holds what a word may name. -/
def fetchTeam (uid : Nat) : Team where
  uid := uid
  core := 0
  st := .resident
  info :=
    { seq := 0, qidx := 0, graph := 0, node := 0, runid := 0, die := 0, lst := 0, t := 0, tx := 0#32, tyz := 0#32, gpt := 1,
      levels := [⟨0, 0⟩, ⟨1, 1⟩], gang := none, base := 0x180000000#57, entryOff := 0, trapOff := 0, runtimeOff := 0, ven := 0,
      dict := false, image := 0x180000000, claim := ⟨24, 64, 8, 256⟩, initial := ⟨24, 1, 0, 1⟩,
      keeps := List.replicate 16 ⟨0#64, 0#64, 0#64, 0#8, 0#8⟩, params := [] }
  prio := 0
  swapth := 0xFFFFFFFF
  hold := ⟨24, 1, 0, 1⟩
  reqs := []
  scr := []
  full := []
  bad := []
  venFront := []
  venBack := []
  bars := [Barrier.idle]
  acc := Tab.const 8 0#8
  windows := Tab.const 16 none
  predCtr := Tab.const 6 0#32
  waitSince := none
  placed := 0
  saveArea := (0, 0)
  saved := []
  swappedAt := 0
  switchedOut := false
  watched := []
  stirred := false

/-- The state with a word stored at the start of an image's code page and a group standing at it, whose turn is next:
what loading and launching a program of that one word leaves. DESIGN CHOICE, safe: log entry 4. -/
def State.withFetchWord (s : State) (_nbits w : Nat) : State :=
  let c := s.core 0
  { s.putCore 0 { c with icache := [], tlb := [], loops := Tab.const 4 [] } with
    groups := blankGroup s.fresh s.fresh 0 0 [startPath 0 0x180000000#57 0xFFFFFFFF#32] :: s.groups
    teams := fetchTeam s.fresh :: s.teams
    fresh := s.fresh + 1
    images := fetchImage :: s.images
    parts := s.parts.set 0 { s.part 0 with st := .running }
    quadTlb := s.quadTlb.set 0 []
    mem := memPut s.mem 0x180000000 (wordBytes (BitVec.ofNat 32 w))
    bad := s.bad.filter fun b => b.addr != 0x180000000
    agenda := .issue s.fresh 0 :: s.agenda
    cur := none
    svc := { s.svc with diesOn := true, stopped := false } }

end Sys2Proof.Machine
end

