-- ==== Sys2Proof/Safety.lean ====
section
/-! DEFINITION. What a safe run is: a step that goes on, and a state whose memory keeps its canonical form. And the
words in which the claims about one word are said: when a word starts, how it leaves the state, and what it wrote. -/

namespace Sys2Proof.Safety

open Sys2Proof.Machine

/-! ### Safe runs -/

/-- A step that goes on: no fault and no refusal. -/
def GoesOn (o : Out) : Prop := ∃ t, o = .next t

/-- The physical memory of the part is in its canonical form: addresses strictly rising, and no entry equal to what an
unlisted byte reads as. -/
def MemOk (s : State) : Prop := memWf s.mem = true

/-- No two teams share a number and no two groups do, and every number in use is below the next free one. -/
def Numbered (s : State) : Prop :=
  (s.teams.map fun u => u.uid).Nodup ∧ (s.groups.map fun g => g.gid).Nodup ∧ (∀ u ∈ s.teams, u.uid < s.fresh) ∧
    ∀ g ∈ s.groups, g.gid < s.fresh ∧ g.team < s.fresh

/-- A step's outcome keeps a property of the state. -/
def Keeps (P : State → Prop) (o : Out) : Prop := ∀ t, o = .next t → P t

/-- A safe run from a state, for so many steps: every step goes on, and every state on the way satisfies `MemOk`. -/
def SafeFor : Nat → State → Prop
  | 0, s => MemOk s
  | n + 1, s => MemOk s ∧ ∃ t, step s = .next t ∧ SafeFor n t

/-! ### One word -/

/-- The word `i` stands in hand with the context `c`, it and its prefix are legal (R96 to R98), and no register it names
is outside the team's window (R49): the word starts (R103). -/
def Starts (i : Instr) (s : State) (c : Ctx) : Prop :=
  s.ctx = some c ∧ wordLegal i c = true ∧ firstOutside c.t (namedRegs i c) = none

/-- `t` is `s` with the group in hand as `g` holds it and the path in hand as `p`. Every other group, every other path of
the group, memory and all else stand as in `s`. -/
def LeavesAs (s : State) (c : Ctx) (g : Group) (p : Path) (t : State) : Prop :=
  t = { s with groups := t.groups } ∧ (∀ n, n ≠ c.g.gid → t.group n = s.group n) ∧
    ∃ h, t.group c.g.gid = some h ∧ h = { g with paths := h.paths } ∧
      h.path c.cur.pid = some p ∧ ∀ n, n ≠ c.cur.pid → h.path n = c.g.path n

/-- The outcome is a next state that `LeavesAs` describes: the word completes, or waits, with the path as `p`. -/
def DoneAs (s : State) (c : Ctx) (g : Group) (p : Path) (o : Out) : Prop := ∃ t, o = .next t ∧ LeavesAs s c g p t
/-- The word completes: the path in hand is past it, its prefix and wait spent, and stands at `pc`. -/
def DoneAt (s : State) (c : Ctx) (g : Group) (pc : VAddr) (o : Out) : Prop := DoneAs s c g (c.p.past pc) o
/-- The word completes, at the next word in program order. -/
def Done (s : State) (c : Ctx) (g : Group) (o : Out) : Prop := DoneAt s c g c.cur.next o

/-- When a wait of a kind began: now, or where the path already stands in it, when it did. -/
def waitStart (s : State) (c : Ctx) (k : WaitKind) : Nat :=
  match c.p.wait with
  | some w => if w.kind = k then w.start else s.now
  | none => s.now

/-- The word waits: its path stands at it in a wait of the kind `k`, which has not ended; the group is as `g` holds it. -/
def Waits (s : State) (c : Ctx) (g : Group) (k : WaitKind) (o : Out) : Prop :=
  DoneAs s c g (c.stand c.p k (waitStart s c k)) o

/-- The outcome is an entry at trap level `lvl` (R381): the level's registers hold the cause, `ret` and the fault
address, the path in hand stands at `vec` with its EM, and nothing else of the machine changes. -/
def EnteredAt (s : State) (c : Ctx) (r : TrapRec) (lvl : Fin 3) (ret vec : VAddr) (o : Out) : Prop :=
  ∃ t h, o = .next t ∧ t = { s with groups := t.groups } ∧ (∀ n, n ≠ c.g.gid → t.group n = s.group n) ∧
    t.group c.g.gid = some h ∧
    h = (if lvl = 1 then { c.g with tl := 1, tca1 := r.tca, tepc1 := ret, tfa1 := r.fa.setWidth 57, paths := h.paths }
      else { c.g with tl := 2, tca2 := r.tca, tepc2 := ret, tfa2 := r.fa.setWidth 57, paths := h.paths }) ∧
    h.path c.cur.pid = some { c.p with pc := vec, level := lvl, pfx := none, wait := none } ∧
    ∀ n, n ≠ c.cur.pid → h.path n = c.g.path n

/-- The outcome is the trap `r` of the word in hand, routed by R380, with the word's own address or its prefix's as the
return address (R99): to the kernel's vector at TL0, to the stub at TL1, and the team is killed at TL2 or where the
kernel has no vector. -/
def Trapped (s : State) (c : Ctx) (r : TrapRec) (o : Out) : Prop :=
  (c.g.tl = 0 → noVector c.t = false → EnteredAt s c r 1 c.cur.ret (kernelVector c.t) o) ∧
  (c.g.tl = 1 → EnteredAt s c r 2 c.cur.ret (stubVector c.t) o) ∧
  (c.g.tl = 2 → o = .next (killTeam s c.t 1 c.g.killRegs)) ∧
  (c.g.tl = 0 → noVector c.t = true → o = .next (killTeam s c.t 2
    { c.g.killRegs with tl := 1, tca1 := r.tca, tepc1 := c.cur.ret, tfa1 := r.fa.setWidth 57 }))

/-- A split word's group: the path in hand as `p`, the path `news` after the others, in a new entry of the stack. -/
def Divided (g : Group) (pid : Nat) (p : Path) (e : Entry) (news : List (VAddr × Mask)) (h : Group) : Prop :=
  ∃ added, h = { g with paths := h.paths, entries := g.entries ++ [e], nextPid := g.nextPid + news.length, nextEid := g.nextEid + 1 } ∧
    h.paths = (g.paths.map fun q => if q.pid = pid then p else q) ++ added ∧
    added.map (fun q => (q.pc, q.members)) = news ∧
    ∀ q ∈ added, q.em = q.members ∧ q.departing = 0#32 ∧ q.entry = some e.eid ∧ q.level = p.level ∧ q.wait = none ∧
      q.pfx = none ∧ q.join = none

/-- R164: the lanes go to the places that have some. To one place, the whole path goes there, and to none, to `dflt`.
To more, a new entry holds one path for each place, the path in hand the first; a full stack traps with DIVX. -/
def Divides (s : State) (c : Ctx) (g : Group) (transfer : Bool) (places : List (VAddr × Mask)) (dflt : VAddr) (o : Out) : Prop :=
  match places.filter fun x => x.2 != 0#32 with
  | [] => DoneAt s c g dflt o
  | [x] => DoneAt s c g x.1 o
  | x :: rest =>
    (16 ≤ c.g.entries.length → Trapped s c (groupTrap causeDivx 0) o) ∧
    (c.g.entries.length < 16 → ∃ t h, o = .next t ∧ t = { s with groups := t.groups } ∧
      (∀ n, n ≠ c.g.gid → t.group n = s.group n) ∧ t.group c.g.gid = some h ∧
      Divided g c.cur.pid
        { c.p.past x.1 with
          members := c.p.members &&& ~~~(rest.foldl (fun m y => m ||| y.2) 0#32)
          em := x.2
          entry := some c.g.nextEid
          join := if transfer then c.p.join else none }
        ⟨c.g.nextEid, if transfer then none else c.p.join, c.p.entry, c.p.level⟩ rest h)

/-- The flags that a word's active lanes raise are ORed into the GSR; no bit of it falls (R53, R83). -/
def FlagsRaised (c : Ctx) (g : Group) (fl : Lane → Flags) : Prop :=
  ∀ k, g.gsr.getLsbD k = (c.g.gsr.getLsbD k || (lanesOf c.active).any fun l => (fl l).getLsbD k)

/-- `g` is the group in hand with `val` written to x-register `d` in the active lanes, and zero in the lanes that Z
zeroes (R98); x0 discards (R42). No other register and no other lane changes. -/
def LaneX (c : Ctx) (d : Reg) (val : Lane → Word × Flags) (g : Group) : Prop :=
  g = { c.g with x := g.x, gsr := g.gsr } ∧ FlagsRaised c g (fun l => (val l).2) ∧
    ∀ r l, g.getX r l =
      if r = d ∧ d ≠ 0#6 ∧ laneOn c.zeroed l = true then 0#32
      else if r = d ∧ d ≠ 0#6 ∧ laneOn c.active l = true then (val l).1
      else c.g.getX r l

/-- The same of a v-register: v0 is a register like the others (R43). -/
def LaneV (c : Ctx) (d : Reg) (val : Lane → DWord × Flags) (g : Group) : Prop :=
  g = { c.g with v := g.v, gsr := g.gsr } ∧ FlagsRaised c g (fun l => (val l).2) ∧
    ∀ r l, g.getV r l =
      if r = d ∧ laneOn c.zeroed l = true then 0#64
      else if r = d ∧ laneOn c.active l = true then (val l).1
      else c.g.getV r l

/-- The same of a q-register, as an instruction reads it: 11 is U (R44). -/
def LaneQ (c : Ctx) (d : Reg) (val : Lane → BitVec 2 × Flags) (g : Group) : Prop :=
  g = { c.g with q := g.q, gsr := g.gsr } ∧ FlagsRaised c g (fun l => (val l).2) ∧
    ∀ r l, r.toNat < 8 → g.getQ r l =
      if r = d ∧ laneOn c.zeroed l = true then 0#2
      else if r = d ∧ laneOn c.active l = true then (if (val l).1 = 3#2 then 2#2 else (val l).1)
      else c.g.getQ r l

/-- `g` is the group in hand with `w` written to s-register `d`; s0 discards (R42). -/
def UniS (c : Ctx) (d : Reg) (w : Word) (g : Group) : Prop :=
  g = { c.g with s := g.s } ∧ ∀ r, g.getS r = if r = d ∧ d ≠ 0#6 then w else c.g.getS r

/-- `g` is the group in hand with `w` written to m-register `d`. -/
def UniM (c : Ctx) (d : Reg) (w : Mask) (g : Group) : Prop :=
  g = { c.g with m := g.m } ∧ ∀ r, r.toNat < 8 → g.getM r = if r = d ∧ d ≠ 0#6 then w else c.g.getM r

end Sys2Proof.Safety
end

