-- ==== Sys2Proof/Certificates/Slice0/Obligations.lean ====
section
/-! DEFINITION. The statements for the provers. Values and effects are written out from the rules beside the model's own
definitions, in `Sys2Proof.Claims`, and each statement says of the words or steps that it names that they complete, with
what, and what they leave unchanged. -/

namespace Sys2Proof.Claims

open Sys2Proof.Machine Sys2Proof.Safety

/-! ### Word values, from the rules -/

/-- A number modulo 2^32 as a word. -/
def modWord (n : Int) : Word := BitVec.ofInt 32 n
/-- 1 where a condition holds, else 0. -/
def oneIf (p : Bool) : Word := if p then 1#32 else 0#32
/-- The word whose bit `k` is `f k`. -/
def wordOf (f : Nat → Bool) : Word := maskOf fun k => f k.val
/-- The amount of a shift: B[7:0] (R190). -/
def amount (b : Word) : Nat := b.toNat % 256

/-- The position, width and effective width of a field (R191). -/
def posn (b : Word) : Nat := b.toNat % 32
def effWidth (b : Word) : Nat := min (min (b.toNat / 256 % 64) 32) (32 - posn b)

/-- BFX by R191, bit by bit. -/
def bfxRule (a b : Word) : Word := wordOf fun k =>
  if k < effWidth b then a.getLsbD (posn b + k)
  else b.getLsbD 15 && decide (effWidth b ≠ 0) && a.getLsbD (posn b + effWidth b - 1)
/-- BFI by R191, bit by bit. -/
def bfiRule (old a b : Word) : Word := wordOf fun k =>
  if posn b ≤ k ∧ k < posn b + effWidth b then a.getLsbD (k - posn b) else old.getLsbD k
/-- BPERM by R191, bit by bit: bit `k` lies in byte `k / 8`, which nibble `k / 8` of B chooses. -/
def bpermRule (a fourth b : Word) : Word := wordOf fun k =>
  let nib := b.toNat / 16 ^ (k / 8) % 16
  let src := fourth ++ a
  if nib < 8 then src.getLsbD (8 * nib + k % 8) else src.getLsbD (8 * (nib - 8) + 7)

/-- The lane integer instructions but the divisions: destination, and what each active lane writes and raises, from
R186 to R192. -/
def intLane : Instr → Option (Reg × (Ctx → Lane → Word × Flags))
  | .add f => some (f.d, fun c l => (modWord ((c.xOp f.ua f.a l).toNat + (c.xOp f.ub f.b l).toNat), 0#6))
  | .sub f => some (f.d, fun c l => (modWord ((c.xOp f.ua f.a l).toNat - (c.xOp f.ub f.b l).toNat), 0#6))
  | .and f => some (f.d, fun c l => (wordOf fun k => (c.xOp f.ua f.a l).getLsbD k && (c.xOp f.ub f.b l).getLsbD k, 0#6))
  | .or f => some (f.d, fun c l => (wordOf fun k => (c.xOp f.ua f.a l).getLsbD k || (c.xOp f.ub f.b l).getLsbD k, 0#6))
  | .xor f => some (f.d, fun c l => (wordOf fun k => (c.xOp f.ua f.a l).getLsbD k != (c.xOp f.ub f.b l).getLsbD k, 0#6))
  | .andn f => some (f.d, fun c l => (wordOf fun k => (c.xOp f.ua f.a l).getLsbD k && !(c.xOp f.ub f.b l).getLsbD k, 0#6))
  | .min f => some (f.d, fun c l => (modWord (min (c.xOp f.ua f.a l).toInt (c.xOp f.ub f.b l).toInt), 0#6))
  | .max f => some (f.d, fun c l => (modWord (max (c.xOp f.ua f.a l).toInt (c.xOp f.ub f.b l).toInt), 0#6))
  | .minu f => some (f.d, fun c l => (modWord (min (c.xOp f.ua f.a l).toNat (c.xOp f.ub f.b l).toNat), 0#6))
  | .maxu f => some (f.d, fun c l => (modWord (max (c.xOp f.ua f.a l).toNat (c.xOp f.ub f.b l).toNat), 0#6))
  | .slt f => some (f.d, fun c l => (oneIf ((c.xOp f.ua f.a l).toInt < (c.xOp f.ub f.b l).toInt), 0#6))
  | .sltu f => some (f.d, fun c l => (oneIf ((c.xOp f.ua f.a l).toNat < (c.xOp f.ub f.b l).toNat), 0#6))
  | .seq f => some (f.d, fun c l => (oneIf ((c.xOp f.ua f.a l) = (c.xOp f.ub f.b l)), 0#6))
  | .abs f => some (f.d, fun c l =>
      (modWord (c.xOp f.ua f.a l).toInt.natAbs, if c.xOp f.ua f.a l = 0x80000000#32 then fOVF else 0#6))
  | .lea f => some (f.d, fun c l => (modWord ((c.xOp f.ua f.a l).toNat + 4 * (c.xOp f.ub f.b l).toNat), 0#6))
  | .selm f => some (f.d, fun c l =>
      (if ∃ r, c.fourth = some r ∧ laneOn (c.g.getM r) l = true then c.xOp f.ua f.a l else c.xOp f.ub f.b l, 0#6))
  | .addi f => some (f.d, fun c l => (modWord ((c.g.getX f.a l).toNat + f.imm.toInt), 0#6))
  | .andi f => some (f.d, fun c l => (c.g.getX f.a l &&& modWord f.imm.toInt, 0#6))
  | .ori f => some (f.d, fun c l => (c.g.getX f.a l ||| modWord f.imm.toInt, 0#6))
  | .xori f => some (f.d, fun c l => (c.g.getX f.a l ^^^ modWord f.imm.toInt, 0#6))
  | .slti f => some (f.d, fun c l => (oneIf ((c.g.getX f.a l).toInt < f.imm.toInt), 0#6))
  | .sltiu f => some (f.d, fun c l => (oneIf ((c.g.getX f.a l).toNat < (modWord f.imm.toInt).toNat), 0#6))
  | .leai f => some (f.d, fun c l => (modWord ((c.g.getX f.a l).toNat + 4 * f.imm.toInt), 0#6))
  | .shli f => some (f.d, fun c l => (modWord ((c.g.getX f.a l).toNat * 2 ^ f.amt.toNat), 0#6))
  | .movi f => some (f.d, fun _ _ => (modWord f.imm.toInt, 0#6))
  | .movhi f => some (f.d, fun c l => (modWord (f.imm.toNat * 2 ^ 19 + (c.g.getX f.d l).toNat % 2 ^ 19), 0#6))
  | .shl f => some (f.d, fun c l => (modWord ((c.xOp f.ua f.a l).toNat * 2 ^ amount (c.xOp f.ub f.b l)), 0#6))
  | .shr f => some (f.d, fun c l => (modWord ((c.xOp f.ua f.a l).toNat / 2 ^ amount (c.xOp f.ub f.b l)), 0#6))
  | .sar f => some (f.d, fun c l => (modWord ((c.xOp f.ua f.a l).toInt / 2 ^ amount (c.xOp f.ub f.b l)), 0#6))
  | .rotl f => some (f.d, fun c l =>
      (wordOf fun k => (c.xOp f.ua f.a l).getLsbD ((k + 32 - (c.xOp f.ub f.b l).toNat % 32) % 32), 0#6))
  | .bfx f => some (f.d, fun c l => (bfxRule (c.xOp f.ua f.a l) (c.xOp f.ub f.b l), 0#6))
  | .bfi f => some (f.d, fun c l => (bfiRule (c.g.getX f.d l) (c.xOp f.ua f.a l) (c.xOp f.ub f.b l), 0#6))
  | .popc f => some (f.d, fun c l => (modWord ((List.range 32).countP fun k => (c.xOp f.ua f.a l).getLsbD k), 0#6))
  | .clz f => some (f.d, fun c l => (modWord ((List.range 32).countP fun k => decide ((c.xOp f.ua f.a l).toNat < 2 ^ k)), 0#6))
  | .ctz f => some (f.d, fun c l =>
      (modWord ((List.range 32).countP fun k => decide ((c.xOp f.ua f.a l).toNat % 2 ^ (k + 1) = 0)), 0#6))
  | .brev f => some (f.d, fun c l => (wordOf fun k => (c.xOp f.ua f.a l).getLsbD (31 - k), 0#6))
  | .bperm f => some (f.d, fun c l => (bpermRule (c.xOp f.ua f.a l) ((c.xFourth l).getD 0#32) (c.xOp f.ub f.b l), 0#6))
  | .mul f => some (f.d, fun c l => (modWord ((c.xOp f.ua f.a l).toNat * (c.xOp f.ub f.b l).toNat), 0#6))
  | .mulh f => some (f.d, fun c l => (modWord ((c.xOp f.ua f.a l).toInt * (c.xOp f.ub f.b l).toInt / 2 ^ 32), 0#6))
  | .mulhu f => some (f.d, fun c l => (modWord ((c.xOp f.ua f.a l).toNat * (c.xOp f.ub f.b l).toNat / 2 ^ 32), 0#6))
  | .mad f => some (f.d, fun c l =>
      (modWord ((c.xOp f.ua f.a l).toNat * (c.xOp f.ub f.b l).toNat + ((c.xFourth l).getD (c.g.getX f.d l)).toNat), 0#6))
  | _ => none

end Sys2Proof.Claims

open Sys2Proof Sys2Proof.Machine Sys2Proof.Safety Sys2Proof.Claims

/-- Integer lane instructions write their value in the active lanes and change nothing else (R186, R187, R188, R189,
R190, R191, R192, R95, R98, R42, R49). -/
def Obligations.IntegerLaneResults : Prop :=
  ∀ (i : Instr) (d : Reg) (val : Ctx → Lane → Word × Flags), intLane i = some (d, val) →
    ∀ (s : State) (c : Ctx), Starts i s c → ∃ g, Done s c g (exec i s) ∧ LaneX c d (val c) g

namespace Sys2Proof.Claims
open Sys2Proof.Machine Sys2Proof.Safety

/-- R193: the divisions, as destination, divisor and value of a lane whose divisor is not zero. -/
def divLane : Instr → Option (Reg × (Ctx → Lane → Word) × (Ctx → Lane → Word × Flags))
  | .div f => some (f.d, fun c l => c.xOp f.ub f.b l, fun c l =>
      let a := c.xOp f.ua f.a l
      let b := c.xOp f.ub f.b l
      if a = 0x80000000#32 ∧ b = 0xFFFFFFFF#32 then (0x80000000#32, fOVF) else (modWord (a.toInt.tdiv b.toInt), 0#6))
  | .divu f => some (f.d, fun c l => c.xOp f.ub f.b l, fun c l =>
      (modWord ((c.xOp f.ua f.a l).toNat / (c.xOp f.ub f.b l).toNat : Nat), 0#6))
  | .rem f => some (f.d, fun c l => c.xOp f.ub f.b l, fun c l =>
      let a := (c.xOp f.ua f.a l).toInt
      let b := (c.xOp f.ub f.b l).toInt
      (modWord (a - b * a.tdiv b), 0#6))
  | .remu f => some (f.d, fun c l => c.xOp f.ub f.b l, fun c l =>
      (modWord ((c.xOp f.ua f.a l).toNat % (c.xOp f.ub f.b l).toNat : Nat), 0#6))
  | _ => none

/-- R194: the uniform members that write s[D]. -/
def uniValue : Instr → Option (Reg × (Ctx → Word))
  | .uadd f => some (f.d, fun c => modWord ((c.g.getS f.a).toNat + (c.g.getS f.b).toNat))
  | .usub f => some (f.d, fun c => modWord ((c.g.getS f.a).toNat - (c.g.getS f.b).toNat))
  | .uand f => some (f.d, fun c => wordOf fun k => (c.g.getS f.a).getLsbD k && (c.g.getS f.b).getLsbD k)
  | .uor f => some (f.d, fun c => wordOf fun k => (c.g.getS f.a).getLsbD k || (c.g.getS f.b).getLsbD k)
  | .uxor f => some (f.d, fun c => wordOf fun k => (c.g.getS f.a).getLsbD k != (c.g.getS f.b).getLsbD k)
  | .ushl f => some (f.d, fun c => modWord ((c.g.getS f.a).toNat * 2 ^ amount (c.g.getS f.b)))
  | .ushr f => some (f.d, fun c => modWord ((c.g.getS f.a).toNat / 2 ^ amount (c.g.getS f.b)))
  | .umul f => some (f.d, fun c => modWord ((c.g.getS f.a).toNat * (c.g.getS f.b).toNat))
  | .uslt f => some (f.d, fun c => oneIf ((c.g.getS f.a).toInt < (c.g.getS f.b).toInt))
  | .umovx f => some (f.d, fun c => match (lanesOf c.p.em).head? with
      | some l => c.g.getX f.a l
      | none => 0#32)
  | .uaddi f => some (f.d, fun c => modWord ((c.g.getS f.d).toNat + f.imm.toInt))
  | _ => none

/-! ### Cross-lane values (R197 to R200) -/

/-- The active lanes. -/
def act (c : Ctx) : List Lane := lanesOf c.active
/-- The value of a source lane: 0 where it is not active (R196). -/
def fromActive {w : Nat} (c : Ctx) (j : Nat) (f : Lane → BitVec w) : BitVec w :=
  if c.active.getLsbD (j % 32) then f (Fin.ofNat 32 j) else 0#w
/-- Lane J of SHFL (R197). -/
def shflLane (c : Ctx) (f : FormSh) (l : Lane) : Nat :=
  match c.xFourth l with
  | some w => w.toNat % 32
  | none => l.val ^^^ f.k.toNat
/-- The raw bits that a v operand moves (R95, R197). -/
def rawOf (c : Ctx) (u : Bool) (r : Reg) (l : Lane) : DWord :=
  if u then (writeF32 (scalarF32 (c.g.getS r)).1).1 else c.g.getV r l
/-- The sum of words modulo 2^32. -/
def sumOf (l : List Word) : Word := modWord ((l.map fun w => w.toNat).sum : Nat)
/-- The least and the greatest, signed and unsigned, of words that are not none. -/
def leastInt (l : List Word) : Word := modWord ((l.map fun w => w.toInt).min?.getD 0)
def mostInt (l : List Word) : Word := modWord ((l.map fun w => w.toInt).max?.getD 0)
def leastNat (l : List Word) : Word := modWord ((l.map fun w => w.toNat).min?.getD 0 : Nat)
def mostNat (l : List Word) : Word := modWord ((l.map fun w => w.toNat).max?.getD 0 : Nat)

/-- The members of LANE with an x destination: what an active lane writes. -/
def crossX : Instr → Option (Reg × (Ctx → Lane → Word))
  | .shfl f => if f.w then none else some (f.d, fun c l => fromActive c (shflLane c f l) (c.xOp f.ua f.a))
  | .bcast f => if f.w then none else some (f.d, fun c _ => fromActive c f.k.toNat (c.xOp f.ua f.a))
  | .rdadd f => if f.t = 2#2 then none else some (f.d, fun c _ => sumOf ((act c).map (c.xOp f.ua f.a)))
  | .rdmin f => if f.t = 2#2 then none else some (f.d, fun c _ =>
      if f.t = 0#2 then leastInt ((act c).map (c.xOp f.ua f.a)) else leastNat ((act c).map (c.xOp f.ua f.a)))
  | .rdmax f => if f.t = 2#2 then none else some (f.d, fun c _ =>
      if f.t = 0#2 then mostInt ((act c).map (c.xOp f.ua f.a)) else mostNat ((act c).map (c.xOp f.ua f.a)))
  | .scan f => if f.t = 2#2 then none else some (f.d, fun c l =>
      sumOf (((act c).filter fun j => decide (j ≤ l)).map (c.xOp f.ua f.a)))
  | .hist f => some (f.d, fun c l =>
      sumOf (c.g.getX f.d l :: ((act c).filter fun j => (c.xOp f.ua f.a j).toNat / 2 ^ f.sh.toNat == l.val).map
        fun j => (c.xFourth j).getD 1#32))
  | .hmerge f => some (f.d, fun c l =>
      if l.val < 16 then sumOf [fromActive c (2 * l.val) (c.xOp f.ua f.a), fromActive c (2 * l.val + 1) (c.xOp f.ua f.a)]
      else sumOf [fromActive c (2 * (l.val - 16)) (c.xOp f.ub f.b), fromActive c (2 * (l.val - 16) + 1) (c.xOp f.ub f.b)])
  | _ => none

/-- R85 and R86: one operand per lane position, [+0, +0] where the lane is not active. -/
def atPositions (c : Ctx) (f : FormRed) : List (Itv × Flags) :=
  allLanes.map fun l => if laneOn c.active l then c.vOp f.ua f.a l else (itvZero, 0#6)
/-- RDMIN and RDMAX of intervals: bound by bound, the empty set where an operand is empty (R199). -/
def boundsOf (op : Itv → Itv → Itv) (l : List (Itv × Flags)) : Itv :=
  match l.map fun a => a.1 with
  | [] => .empty
  | a :: as => as.foldl op a

/-- The members of LANE with a v destination: the image that an active lane writes, and its flags. -/
def crossV : Instr → Option (Reg × (Ctx → Lane → DWord × Flags))
  | .shfl f => if f.w then some (f.d, fun c l => (fromActive c (shflLane c f l) (rawOf c f.ua f.a), 0#6)) else none
  | .bcast f => if f.w then some (f.d, fun c _ => (fromActive c f.k.toNat (rawOf c f.ua f.a), 0#6)) else none
  | .rdadd f => if f.t = 2#2 then some (f.d, fun c _ =>
      let r := oplusTree 5 (atPositions c f)
      ((writeF32 r.1).1, r.2)) else none
  | .rdmin f => if f.t = 2#2 then some (f.d, fun c _ =>
      let l := (act c).map (c.vOp f.ua f.a)
      ((writeF32 (boundsOf itvMin l)).1, l.foldl (fun a x => a ||| x.2) 0#6)) else none
  | .rdmax f => if f.t = 2#2 then some (f.d, fun c _ =>
      let l := (act c).map (c.vOp f.ua f.a)
      ((writeF32 (boundsOf itvMax l)).1, l.foldl (fun a x => a ||| x.2) 0#6)) else none
  | .scan f => if f.t = 2#2 then some (f.d, fun c l =>
      let r := ((atPositions c f).take (l.val + 1)).foldl oplus (itvZero, 0#6)
      ((writeF32 r.1).1, r.2)) else none
  | _ => none

/-- The condition beyond its encoding under which a LANE member is legal: SHFL with a fourth operand has c = 0 (R197). -/
def crossLegal (i : Instr) (c : Ctx) : Prop :=
  match i with
  | .shfl f => c.fourth.isSome = true → f.k = 0#5
  | _ => True

/-- The lanes that vote yes (R198). -/
def yesLanes (c : Ctx) (f : FormVote) : List Lane := (act c).filter fun l => c.xOp f.ua f.a l != 0#32
/-- R198: the result of a vote in its mode. -/
def voteRule (c : Ctx) (f : FormVote) : Word :=
  match f.k.toNat with
  | 0 => wordOf fun k => (yesLanes c f).any fun l => l.val == k
  | 1 => oneIf ((act c).all fun l => c.xOp f.ua f.a l != 0#32)
  | 2 => oneIf ((act c).any fun l => c.xOp f.ua f.a l != 0#32)
  | _ => modWord (yesLanes c f).length
/-- Kleene's AND and OR of many values, coded as in R44 (R198). -/
def allQ (l : List (BitVec 2)) : Nat := if l.all fun q => q == 1#2 then 1 else if l.any fun q => q == 0#2 then 0 else 2
def anyQ (l : List (BitVec 2)) : Nat := if l.any fun q => q == 1#2 then 1 else if l.all fun q => q == 0#2 then 0 else 2
/-- R198: the word that QVOTE writes. -/
def qvoteRule (c : Ctx) (f : FormDA) : Word :=
  let l := (act c).map (c.g.getQ f.a)
  modWord (l.countP (fun q => q == 1#2) + 2 ^ 8 * l.countP (fun q => q == 0#2) + 2 ^ 16 * l.countP (fun q => q == 2#2)
    + 2 ^ 24 * allQ l + 2 ^ 26 * anyQ l : Nat)

/-! ### Interval values (R208 to R221) -/

/-- The flags of reading the operands beside those of the result. -/
def raising (r : DWord × Flags) (f : Flags) : DWord × Flags := (r.1, r.2 ||| f)
/-- Two interval operands. -/
def two (f : FormR) (op : Itv → Itv → DWord × Flags) (c : Ctx) (l : Lane) : DWord × Flags :=
  raising (op (c.vOp f.ua f.a l).1 (c.vOp f.ub f.b l).1) ((c.vOp f.ua f.a l).2 ||| (c.vOp f.ub f.b l).2)
/-- One interval operand. -/
def one (f : FormRU) (op : Itv → DWord × Flags) (c : Ctx) (l : Lane) : DWord × Flags :=
  raising (op (c.vOp f.ua f.a l).1) (c.vOp f.ua f.a l).2
/-- An exact set written as its tightest FP32 enclosure (R68). -/
def tight (op : Itv → Itv → Itv) (a b : Itv) : DWord × Flags := writeF32 (op a b)
/-- The fourth operand of an interval word, or the old D. -/
def addend (c : Ctx) (d : Reg) (l : Lane) : Itv × Flags := (c.vFourth l).getD (c.vOp false d l)

/-- The members of VADD, VMUL, VSET, VSFU, CVT and PACK with a v destination and no draw. -/
def itvLane : Instr → Option (Reg × (Ctx → Lane → DWord × Flags))
  | .vadd f => some (f.d, two f (tight itvAdd))
  | .vsub f => some (f.d, two f (tight itvSub))
  | .vneg f => some (f.d, one f fun a => writeF32 (itvNeg a))
  | .vabs f => some (f.d, one f fun a => writeF32 (itvAbs a))
  | .vmin f => some (f.d, two f (tight itvMin))
  | .vmax f => some (f.d, two f (tight itvMax))
  | .vmul f => some (f.d, two f (tight itvMul))
  | .vdiv f => some (f.d, two f itvDiv)
  | .vfma f => some (f.d, fun c l =>
      raising (writeF32 (itvAdd (itvMul (c.vOp f.ua f.a l).1 (c.vOp f.ub f.b l).1) (addend c f.d l).1))
        ((c.vOp f.ua f.a l).2 ||| (c.vOp f.ub f.b l).2 ||| (addend c f.d l).2))
  | .vsqr f => some (f.d, one f fun a => writeF32 (itvSqr a))
  | .vsqrt f => some (f.d, one f itvSqrt)
  | .vrcp f => some (f.d, one f fun a => itvDiv (itvPoint (dyOfInt 1)) a)
  | .vscale f => some (f.d, fun c l =>
      raising (writeF32 (itvScale (clampScale (c.xOp f.ub f.b l).toInt) (c.vOp f.ua f.a l).1)) (c.vOp f.ua f.a l).2)
  | .vmk f => some (f.d, fun c l =>
      let r := itvOfBits fmtF32 (c.xOp f.ua f.a l).toNat (c.xOp f.ub f.b l).toNat
      ((writeF32 r.1).1, if r.2 then fINV else 0#6))
  | .vmid f => some (f.d, one f fun a => match itvMid a with
      | some m => writeF32 (itvPoint m)
      | none => (imgEmpty, 0#6))
  | .vrad f => some (f.d, one f fun a => match a with
      | .empty => (imgEmpty, 0#6)
      | .mk (.fin x) (.fin y) => writeF32 (itvPoint (dyShift (dySub y x) (-1)))
      | _ => (0x7F8000007F7FFFFF#64, 0#6))
  | .vwid f => some (f.d, one f fun a => match a with
      | .empty => (imgEmpty, 0#6)
      | .mk (.fin x) (.fin y) => writeF32 (itvPoint (dySub y x))
      | _ => (0x7F8000007F7FFFFF#64, 0#6))
  | .vhull f => some (f.d, two f (tight itvHull))
  | .visect f => some (f.d, two f fun a b =>
      ((writeF32 (itvIsect a b)).1, if itvIsect a b = .empty ∧ a ≠ .empty ∧ b ≠ .empty then fEMPTY else 0#6))
  | .vent f => some (f.d, fun _ _ => (0x7F800000FF800000#64, 0#6))
  | .vemp f => some (f.d, fun _ _ => (0xFF8000007F800000#64, 0#6))
  | .vfmr f => some (f.d, fun c l => mrcDecode (c.xOp f.ua f.a l).toNat)
  | .vexp f => some (f.d, one f sfuExp)
  | .vlog f => some (f.d, one f sfuLog)
  | .vtanh f => some (f.d, one f sfuTanh)
  | .vsigm f => some (f.d, one f sfuSigm)
  | .vsilu f => some (f.d, one f sfuSilu)
  | .vgelu f => some (f.d, one f sfuGelu)
  | .vsin f => some (f.d, one f (sfuTrig 0))
  | .vcos f => some (f.d, one f (sfuTrig 1))
  | _ => none

/-- The comparisons and the predicate logic (R217 to R219): what an active lane writes to q[D]. -/
def cmpRule (t f : Bd → Bd → Bd → Bd → Prop) [∀ a b c d, Decidable (t a b c d)] [∀ a b c d, Decidable (f a b c d)]
    (a b : Itv) : BitVec 2 :=
  match a, b with
  | .mk a b, .mk c d => if t a b c d then 1#2 else if f a b c d then 0#2 else 2#2
  | _, _ => 2#2
/-- Bounds in order, as extended reals. -/
abbrev Lt (a b : Bd) : Prop := bdLt a b = true
abbrev Le (a b : Bd) : Prop := bdLt b a = false
def cmpOf (f : FormR) (op : Itv → Itv → BitVec 2) (c : Ctx) (l : Lane) : BitVec 2 × Flags :=
  (op (c.vOp f.ua f.a l).1 (c.vOp f.ub f.b l).1, (c.vOp f.ua f.a l).2 ||| (c.vOp f.ub f.b l).2)
def logicLane : Instr → Option (Reg × (Ctx → Lane → BitVec 2 × Flags))
  | .vclt f => some (f.d, cmpOf f (cmpRule (fun _ b c _ => Lt b c) (fun a _ _ d => Le d a)))
  | .vcle f => some (f.d, cmpOf f (cmpRule (fun _ b c _ => Le b c) (fun a _ _ d => Lt d a)))
  | .vcgt f => some (f.d, cmpOf f (cmpRule (fun a _ _ d => Lt d a) (fun _ b c _ => Le b c)))
  | .vcge f => some (f.d, cmpOf f (cmpRule (fun a _ _ d => Le d a) (fun _ b c _ => Lt b c)))
  | .vceq f => some (f.d, cmpOf f (cmpRule (fun a b c d => (Le a b ∧ Le b a) ∧ (Le b c ∧ Le c b) ∧ Le c d ∧ Le d c)
      (fun a b c d => Lt b c ∨ Lt d a)))
  | .vcsub f => some (f.d, cmpOf f fun a b => match a, b with
      | .empty, _ => 1#2
      | .mk _ _, .empty => 0#2
      | .mk a b, .mk c d => if Le c a ∧ Le b d then 1#2 else 0#2)
  | .vcdis f => some (f.d, cmpOf f fun a b => if itvIsect a b = .empty then 1#2 else 0#2)
  | .vcin f => some (f.d, cmpOf f fun a b => match a, b with
      | .mk a b, .mk c d =>
        if (c = .ninf ∨ Lt c a) ∧ (d = .pinf ∨ Lt b d) then 1#2
        else if itvIsect (.mk a b) (.mk c d) = .empty then 0#2 else 2#2
      | _, _ => 2#2)
  | .qand f => some (f.d, fun c l => let a := c.g.getQ f.a l; let b := c.g.getQ f.b l
      (if a = 0#2 ∨ b = 0#2 then 0#2 else if a = 1#2 ∧ b = 1#2 then 1#2 else 2#2, 0#6))
  | .qor f => some (f.d, fun c l => let a := c.g.getQ f.a l; let b := c.g.getQ f.b l
      (if a = 1#2 ∨ b = 1#2 then 1#2 else if a = 0#2 ∧ b = 0#2 then 0#2 else 2#2, 0#6))
  | .qnot f => some (f.d, fun c l => let a := c.g.getQ f.a l
      (if a = 0#2 then 1#2 else if a = 1#2 then 0#2 else 2#2, 0#6))
  | .qsure f => some (f.d, fun c l => (if c.g.getQ f.a l = 1#2 then 1#2 else 0#2, 0#6))
  | .qmaybe f => some (f.d, fun c l => (if c.g.getQ f.a l = 0#2 then 0#2 else 1#2, 0#6))
  | .qmov f => some (f.d, fun c l => (c.g.getQ f.a l, 0#6))
  | _ => none

/-- VLO, VHI and VMRC: the 32 bits that an active lane writes to x[D] (R214). -/
def boundLane : Instr → Option (Reg × (Ctx → Lane → Word × Flags))
  | .vlo f => some (f.d, fun c l =>
      ((imgAfter c f l).setWidth 32, (c.vOp f.ua f.a l).2))
  | .vhi f => some (f.d, fun c l =>
      ((imgAfter c f l >>> 32).setWidth 32, (c.vOp f.ua f.a l).2))
  | .vmrc f => some (f.d, fun c l => (BitVec.ofNat 32 (mrcEncode (c.vOp f.ua f.a l).1), (c.vOp f.ua f.a l).2))
  | _ => none
where
  /-- The image after canonicalisation: the raw bits, or the empty set's; an s-register gives its point's. -/
  imgAfter (c : Ctx) (f : FormRU) (l : Lane) : DWord :=
    if (c.vOp f.ua f.a l).1 = .empty then 0xFF8000007F800000#64
    else if f.ua then (writeF32 (c.vOp f.ua f.a l).1).1 else c.g.getV f.a l

/-! ### Conversions and packed products (R222 to R230) -/

/-- Element `n` of `w` bits of a word. -/
def elem (x : Word) (w n : Nat) : Nat := x.toNat / 2 ^ (w * n) % 2 ^ w
/-- A signed reading of `w` bits. -/
def signed (w n : Nat) : Int := if 2 ^ (w - 1) ≤ n then (n : Int) - 2 ^ w else n
def fmtOf (f : FormRF) : PFmt := (pfmtOf f.fmt.toNat).getD .bf16
/-- The word with element `n` of `w` bits replaced, bit by bit (R225). -/
def withElem (x : Word) (w n v : Nat) : Word :=
  wordOf fun k => if w * n ≤ k ∧ k < w * n + w then v.testBit (k - w * n) else x.getLsbD k
/-- R226: the exact dot product of `32 / w` element pairs plus an addend. -/
def dotRule (f : FormR) (w : Nat) (val : Nat → Int) (c : Ctx) (l : Lane) : Word :=
  modWord (((List.range (32 / w)).map fun e => val (elem (c.xOp f.ua f.a l) w e) * val (elem (c.xOp f.ub f.b l) w e)).sum
    + ((c.xFourth l).getD (c.g.getX f.d l)).toNat)
/-- R227: the products of the narrow elements and the addend, summed exactly and rounded once. -/
def dotItvRule (f : FormR) (p : PFmt) (w : Nat) (c : Ctx) (l : Lane) : DWord × Flags :=
  let a := (List.range (32 / w)).map fun e => pointItv p (elem (c.xOp f.ua f.a l) w e)
  let b := (List.range (32 / w)).map fun e => pointItv p (elem (c.xOp f.ub f.b l) w e)
  let x := addend c f.d l
  if none ∈ a ∨ none ∈ b then (imgEmpty, x.2 ||| fINV)
  else if x.1 = .empty then (imgEmpty, x.2)
  else raising (writeF32 (itvAdd (((a.zip b).map fun e => itvMul (e.1.getD .empty) (e.2.getD .empty)).foldl itvAdd itvZero) x.1)) x.2

/-- The conversions and packed products that draw nothing, with an x destination. -/
def packX : Instr → Option (Reg × (Ctx → Lane → Word))
  | .dp4i8 f => some (f.d, dotRule f 8 (signed 8))
  | .dp4n8 f => some (f.d, dotRule f 8 fun n => n)
  | .dp8i4 f => some (f.d, dotRule f 4 (signed 4))
  | .pksel f => some (f.d, fun c l =>
      let w := 4 * 2 ^ (f.k.toNat % 4)
      if f.k.getLsbD 2 then modWord (signed w (elem (c.xOp f.ua f.a l) w c.sel)) else modWord (elem (c.xOp f.ua f.a l) w c.sel))
  | _ => none
/-- Those with a v destination. -/
def packV : Instr → Option (Reg × (Ctx → Lane → DWord × Flags))
  | .cvtiv f => some (f.d, fun c l => writeF32 (itvPoint (dyOfInt (c.xOp f.ua f.a l).toInt)))
  | .cvtniv f => some (f.d, fun c l => writeF32 (itvPoint (dyOfInt (c.xOp f.ua f.a l).toNat)))
  | .cvtdv f => some (f.d, fun c l =>
      let r := itvOfBits fmtF64 (c.g.getV f.a l).toNat (c.g.getV (f.a + 1#6) l).toNat
      raising (writeF32 r.1) (if r.2 then fINV else 0#6))
  | .cvtnv f => some (f.d, fun c l => pointF32 (fmtOf f) (elem (c.xOp f.ua f.a l) (pfmtBits (fmtOf f)) c.sel))
  | .dp4e4 f => some (f.d, dotItvRule f .e4m3 8)
  | .dp4e5 f => some (f.d, dotItvRule f .e5m2 8)
  | .dp8f4 f => some (f.d, dotItvRule f .e2m1 4)
  | _ => none

/-- The words that round to a point: what an active lane writes to x[D], and how far the counter of the stream advances
(R202, R224, R225, R230). -/
def pointX : Instr → Option (Reg × (Ctx → Lane → Word × Flags) × (Ctx → Nat))
  | .cvtvi f => some (f.d, toInt f (-2147483648) 2147483647, fun c => if c.rnd = .st then 1 else 0)
  | .cvtvni f => some (f.d, toInt f 0 4294967295, fun c => if c.rnd = .st then 1 else 0)
  | .cvtvn f => some (f.d, fun c l =>
      let p := toPoint (fmtOf f) c.rnd (c.g.draw 0 l) (c.vOp f.ua f.a l).1
      (withElem (c.g.getX f.d l) (pfmtBits (fmtOf f)) c.sel p.bits, (c.vOp f.ua f.a l).2 ||| p.flags),
      fun c => if c.rnd = .st ∨ ∃ l ∈ act c, (toPoint (fmtOf f) c.rnd 0#32 (c.vOp f.ua f.a l).1).underflow = true then 1 else 0)
  | .pknarrow f => some (f.d, fun c l =>
      let x := toPoint (fmtOf f) c.rnd (c.g.draw 0 l) (c.vOp false f.a l).1
      let y := toPoint (fmtOf f) c.rnd (c.g.draw 1 l) (c.vOp false (f.a + 1#6) l).1
      let w := pfmtBits (fmtOf f)
      (withElem (withElem (c.g.getX f.d l) w (2 * c.sel) x.bits) w (2 * c.sel + 1) y.bits,
        (c.vOp false f.a l).2 ||| (c.vOp false (f.a + 1#6) l).2 ||| x.flags ||| y.flags),
      fun c => if c.rnd = .st ∨ ∃ l ∈ act c, (toPoint (fmtOf f) c.rnd 0#32 (c.vOp false f.a l).1).underflow = true ∨
        (toPoint (fmtOf f) c.rnd 0#32 (c.vOp false (f.a + 1#6) l).1).underflow = true then 2 else 0)
  | .rngn f => some (f.d, fun c l => (stream c.g.rngKey c.g.rngCtr l.val, 0#6), fun _ => 1)
  | _ => none
where
  /-- R224: the rounded integer within the format's range. -/
  toInt (f : FormRU) (lo hi : Int) (c : Ctx) (l : Lane) : Word × Flags :=
    match rndValue c.rnd (c.vOp f.ua f.a l).1 with
    | none => (0#32, (c.vOp f.ua f.a l).2 ||| fINV)
    | some x => (modWord (bdToInt lo hi c.rnd (c.g.draw 0 l) x).1, (c.vOp f.ua f.a l).2 ||| (bdToInt lo hi c.rnd (c.g.draw 0 l) x).2)

end Sys2Proof.Claims


/-- DIV, DIVU, REM and REMU: IDIVZ for the lowest lane with a zero divisor, else quotient or remainder (R193). -/
def Obligations.IntegerDivision : Prop :=
  ∀ i d den val, divLane i = some (d, den, val) → ∀ s c, Starts i s c →
    (∀ l, l ∈ act c → den c l = 0#32 → (∀ j, j ∈ act c → den c j = 0#32 → l ≤ j) →
      Trapped s c ⟨causeIdivz, some l, 0#16, 0#64⟩ (exec i s)) ∧
    ((∀ l, l ∈ act c → den c l ≠ 0#32) → ∃ g, Done s c g (exec i s) ∧ LaneX c d (val c) g)

/-- UNI members write one s-register, and UMOVS one x-register in the lanes of EM (R194, R42). -/
def Obligations.UniformResults : Prop :=
  (∀ i d val, uniValue i = some (d, val) → ∀ s c, Starts i s c → ∃ g, Done s c g (exec i s) ∧ UniS c d (val c) g) ∧
  ∀ (f : FormDA) s c, Starts (.umovs f) s c → ∃ g, Done s c g (exec (.umovs f) s) ∧
    g = { c.g with x := g.x } ∧ ∀ r l, g.getX r l =
      if r = f.d ∧ f.d ≠ 0#6 ∧ laneOn c.p.em l = true then c.g.getS f.a else c.g.getX r l

/-- LANE members with a lane destination: moved, reduced, scanned and histogrammed values over the active lanes (R196,
R197, R199, R200, R85, R86). -/
def Obligations.CrossLaneResults : Prop :=
  ∀ i s c, Starts i s c → crossLegal i c →
    (∀ d val, crossX i = some (d, val) →
      (c.active = 0#32 → Done s c c.g (exec i s)) ∧
      (c.active ≠ 0#32 → ∃ g, Done s c g (exec i s) ∧ LaneX c d (fun l => (val c l, 0#6)) g)) ∧
    (∀ d val, crossV i = some (d, val) →
      (c.active = 0#32 → Done s c c.g (exec i s)) ∧
      (c.active ≠ 0#32 → ∃ g, Done s c g (exec i s) ∧ LaneV c d (val c) g))

/-- VOTE and QVOTE write their uniform result, whatever lanes are active (R198). -/
def Obligations.VoteResults : Prop :=
  (∀ (f : FormVote) s c, Starts (.vote f) s c → ∃ g, Done s c g (exec (.vote f) s) ∧ UniS c f.d (voteRule c f) g) ∧
  ∀ (f : FormDA) s c, Starts (.qvote f) s c → ∃ g, Done s c g (exec (.qvote f) s) ∧ UniS c f.d (qvoteRule c f) g

/-- Interval words write the FP32 enclosure of their exact result in the active lanes (R208, R209, R210, R211, R212,
R213, R214, R215, R216, R67, R68). -/
def Obligations.IntervalResults : Prop :=
  (∀ i d val, itvLane i = some (d, val) → ∀ s c, Starts i s c → ∃ g, Done s c g (exec i s) ∧ LaneV c d (val c) g) ∧
  (∀ i d val, boundLane i = some (d, val) → ∀ s c, Starts i s c → ∃ g, Done s c g (exec i s) ∧ LaneX c d (val c) g) ∧
  ∀ (f : FormRU) s c, Starts (.vbis f) s c → ∃ g g', Done s c g' (exec (.vbis f) s) ∧
    LaneV c f.d (fun l => ((writeF32 (itvHalves (c.vOp f.ua f.a l).1).1).1, (c.vOp f.ua f.a l).2)) g ∧
    LaneV { c with g := g } (f.d + 1#6) (fun l => ((writeF32 (itvHalves (c.vOp f.ua f.a l).1).2).1, 0#6)) g'

/-- Comparisons and predicate words write a three-valued answer to q[D] (R217, R218, R219, R44). -/
def Obligations.PredicateResults : Prop :=
  ∀ i d val, logicLane i = some (d, val) → ∀ s c, Starts i s c → ∃ g, Done s c g (exec i s) ∧ LaneQ c d (val c) g

namespace Sys2Proof.Claims
open Sys2Proof.Machine Sys2Proof.Safety

/-- `t` is `s` but for bytes of memory and what follows a write at its home: open multicast entries, the marks of bad sectors,
and the slices' lines. -/
def MemOnly (s t : State) : Prop :=
  t = { s with mem := t.mem, mcasts := t.mcasts, bad := t.bad, l2 := t.l2, zipped := t.zipped }
/-- `s'` is `s` with a record of the team's run put into the capture ring, if the run has one (R409). -/
def RecordedIn (s : State) (c : Ctx) (s' : State) : Prop :=
  MemOnly { s with fe := { s.fe with runs := s'.fe.runs }, parts := s'.parts } s' ∧
    ((s.run c.t.info.qidx (BitVec.ofNat 32 c.t.info.runid)).bind (fun r => r.capture) = none → s' = s) ∧
    ∀ r base size, s.run c.t.info.qidx (BitVec.ofNat 32 c.t.info.runid) = some r → r.capture = some (base, size) →
      ∀ a, (a < base ∨ base + 0x40 + size ≤ a) → memGet s'.mem a = memGet s.mem a

end Sys2Proof.Claims

/-- Conversions and packed products: the element, product or point each active lane gets, and the draws (R222, R223,
R224, R225, R226, R227, R230, R79, R80, R81, R202). -/
def Obligations.ConversionResults : Prop :=
  (∀ i d val, packX i = some (d, val) → ∀ s c, Starts i s c →
    ∃ g, Done s c g (exec i s) ∧ LaneX c d (fun l => (val c l, 0#6)) g) ∧
  (∀ i d val, packV i = some (d, val) → ∀ s c, Starts i s c → ∃ g, Done s c g (exec i s) ∧ LaneV c d (val c) g) ∧
  (∀ i d val n, pointX i = some (d, val, n) → ∀ s c, Starts i s c → ∃ g, LaneX c d (val c) g ∧
    Done s c { g with rngCtr := c.g.rngCtr + BitVec.ofNat 64 (n c) } (exec i s)) ∧
  ∀ (f : FormRU) s c, Starts (.cvtvd f) s c → ∃ g g', Done s c g' (exec (.cvtvd f) s) ∧
    LaneV c f.d (fun l => (BitVec.ofNat 64 (pairBits (c.vOp f.ua f.a l).1).1, (c.vOp f.ua f.a l).2)) g ∧
    LaneV { c with g := g } (f.d + 1#6) (fun l => (BitVec.ofNat 64 (pairBits (c.vOp f.ua f.a l).1).2, 0#6)) g'

/-- RNGSEED sets the key and clears the counter, and in a captured run its value is recorded beside; RNGF writes a point of
[0, 1) and advances the counter (R201, R202, R203, R409). -/
def Obligations.RandomResults : Prop :=
  (∀ (f : FormD) s c, Starts (.rngf f) s c → ∃ g, LaneV c f.d (fun l =>
      ((writeF32 (itvPoint ⟨((stream c.g.rngKey c.g.rngCtr l.val).toNat / 256 : Nat), -24⟩)).1, 0#6)) g ∧
    Done s c { g with rngCtr := c.g.rngCtr + 1#64 } (exec (.rngf f) s)) ∧
  ∀ (f : FormAB) s c, Starts (.rngseed f) s c → ∃ s', RecordedIn s c s' ∧
    Done s' c { c.g with rngKey := c.g.getS f.b ++ c.g.getS f.a, rngCtr := 0#64 } (exec (.rngseed f) s)

namespace Sys2Proof.Claims
open Sys2Proof.Machine Sys2Proof.Safety

/-! ### What a bound and an interval stand for -/

/-- The real number of an exact dyadic number. -/
noncomputable def dyReal (d : Dy) : ℝ := d.m * (2 : ℝ) ^ d.e
/-- The extended real number of a bound. -/
noncomputable def bdReal : Bd → EReal
  | .ninf => ⊥
  | .fin d => (dyReal d : EReal)
  | .pinf => ⊤
/-- The set of real numbers that an interval denotes (R65). -/
def pointsOf : Itv → Set ℝ
  | .empty => ∅
  | .mk l h => {x | bdReal l ≤ (x : EReal) ∧ (x : EReal) ≤ bdReal h}
/-- An interval encloses the image of two sets under an operation, and each of its finite bounds is a value of it. -/
def Exact2 (f : ℝ → ℝ → ℝ) (op : Itv → Itv → Itv) : Prop :=
  ∀ a b, (pointsOf a).Nonempty → (pointsOf b).Nonempty → ∃ l h, op a b = .mk l h ∧
    (∀ x ∈ pointsOf a, ∀ y ∈ pointsOf b, f x y ∈ pointsOf (op a b)) ∧
    ∀ d, l = .fin d ∨ h = .fin d → ∃ x ∈ pointsOf a, ∃ y ∈ pointsOf b, f x y = dyReal d
def Exact1 (f : ℝ → ℝ) (op : Itv → Itv) : Prop :=
  ∀ a, (pointsOf a).Nonempty → ∃ l h, op a = .mk l h ∧ (∀ x ∈ pointsOf a, f x ∈ pointsOf (op a)) ∧
    ∀ d, l = .fin d ∨ h = .fin d → ∃ x ∈ pointsOf a, f x = dyReal d
/-- A three-valued answer about two sets: T where the relation holds for every pair, F where it holds for none, else U
(R217). -/
def Answers (r : ℝ → ℝ → Prop) (op : Itv → Itv → BitVec 2) : Prop :=
  ∀ a b, (pointsOf a).Nonempty → (pointsOf b).Nonempty →
    (op a b = 1#2 ↔ ∀ x ∈ pointsOf a, ∀ y ∈ pointsOf b, r x y) ∧ (op a b = 0#2 ↔ ∀ x ∈ pointsOf a, ∀ y ∈ pointsOf b, ¬ r x y) ∧
    (op a b = 0#2 ∨ op a b = 1#2 ∨ op a b = 2#2)
/-- The interval that an image stands for, where it is canonical. -/
def imageOf (v : DWord) : Itv := (readF32 v).1

end Sys2Proof.Claims


/-- Rounding a finite number outward gives the nearest FP32 bound on that side (R68). -/
def Obligations.OutwardRoundingIsTightest : Prop :=
  ∀ d : Dy,
    (∃ y, bitsBd fmtF32 (bdBits fmtF32 .down (.fin d)).1 = some y ∧ bdReal y ≤ (dyReal d : EReal) ∧
      (∀ n z, bitsBd fmtF32 n = some z → bdReal z ≤ (dyReal d : EReal) → bdReal z ≤ bdReal y) ∧
      ((bdBits fmtF32 .down (.fin d)).2 = true ↔ y = .ninf)) ∧
    (∃ y, bitsBd fmtF32 (bdBits fmtF32 .up (.fin d)).1 = some y ∧ (dyReal d : EReal) ≤ bdReal y ∧
      (∀ n z, bitsBd fmtF32 n = some z → (dyReal d : EReal) ≤ bdReal z → bdReal y ≤ bdReal z) ∧
      ((bdBits fmtF32 .up (.fin d)).2 = true ↔ y = .pinf))

/-- The exact interval operations enclose the image of their operands, with bounds that are attained (R208, R209,
R210, R213, R214). -/
def Obligations.IntervalOperationsAreExact : Prop :=
  Exact2 (fun x y => x + y) itvAdd ∧ Exact2 (fun x y => x - y) itvSub ∧ Exact2 (fun x y => x * y) itvMul ∧
  Exact2 min itvMin ∧ Exact2 max itvMax ∧ Exact1 (fun x => -x) itvNeg ∧ Exact1 (fun x => |x|) itvAbs ∧
  Exact1 (fun x => x * x) itvSqr ∧ (∀ n : Int, Exact1 (fun x => x * 2 ^ n) (itvScale n)) ∧
  (∀ a b, pointsOf (itvIsect a b) = pointsOf a ∩ pointsOf b) ∧ ∀ a b, pointsOf a ∪ pointsOf b ⊆ pointsOf (itvHull a b)

/-- Quotients, square roots and MRC words enclose every real result (R211, R213, R73, R74). -/
def Obligations.QuotientsAndRootsEnclose : Prop :=
  (∀ a b x y, x ∈ pointsOf a → y ∈ pointsOf b → y ≠ 0 → x / y ∈ pointsOf (imageOf (itvDiv a b).1)) ∧
  (∀ a x, x ∈ pointsOf a → 0 ≤ x → Real.sqrt x ∈ pointsOf (imageOf (itvSqrt a).1)) ∧
  ∀ a x, x ∈ pointsOf a → x ∈ pointsOf (imageOf (mrcDecode (mrcEncode (imageOf (writeF32 a).1))).1)

/-- A comparison answers T where its relation holds for every pair of points, and F where it holds for none (R217,
R218). -/
def Obligations.ComparisonsAnswerForAllPairs : Prop :=
  Answers (fun x y => x < y) (cmpItv (fun _ b c _ => bdLt b c) (fun a _ _ d => bdLe d a)) ∧
  Answers (fun x y => x ≤ y) (cmpItv (fun _ b c _ => bdLe b c) (fun a _ _ d => bdLt d a)) ∧
  Answers (fun x y => x = y) (cmpItv (fun a b c d => bdEq a b && bdEq b c && bdEq c d) (fun a b c d => bdLt b c || bdLt d a)) ∧
  (∀ a b, (pointsOf a).Nonempty → (itvSub3 a b = 1#2 ↔ pointsOf a ⊆ pointsOf b)) ∧
  (∀ a b, (pointsOf a).Nonempty → (pointsOf b).Nonempty → (itvDis3 a b = 1#2 ↔ pointsOf a ∩ pointsOf b = ∅)) ∧
  ∀ a b, (pointsOf a).Nonempty → (pointsOf b).Nonempty → (itvIn3 a b = 1#2 ↔ pointsOf a ⊆ interior (pointsOf b))

namespace Sys2Proof.Claims
open Sys2Proof.Machine Sys2Proof.Safety

/-! ### Masks, branches and calls (R180 to R184) -/

/-- The mask words but MREST: m[D] and its new value, over all 32 lanes (R183, R184). -/
def maskValue : Instr → Option (Reg × (Ctx → Lane → Bool))
  | .msave f => some (f.d, fun c l => laneOn c.p.em l)
  | .mand f => some (f.d, fun c l => laneOn (c.g.getM f.a) l && laneOn (c.g.getM f.b) l)
  | .mor f => some (f.d, fun c l => laneOn (c.g.getM f.a) l || laneOn (c.g.getM f.b) l)
  | .mxor f => some (f.d, fun c l => laneOn (c.g.getM f.a) l != laneOn (c.g.getM f.b) l)
  | .mnot f => some (f.d, fun c l => !laneOn (c.g.getM f.a) l)
  | .mfromq f => some (f.d, fun c l => match f.b.toNat with
      | 0 => c.g.getQ f.a l == 1#2
      | 1 => c.g.getQ f.a l == 0#2
      | 2 => c.g.getQ f.a l == 2#2
      | 3 => c.g.getQ f.a l != 0#2
      | _ => c.g.getQ f.a l != 1#2)
  | _ => none

/-- The packet of the word plus a signed number of packets (R94). -/
def packetAt (c : Ctx) (off : Int) : VAddr := BitVec.ofInt 57 ((c.cur.addr.toNat / 12 * 12 : Nat) + 12 * off)
/-- `s'` is `s` but for the loop buffers of its cores (R157). -/
def LoopsNoted (s s' : State) : Prop :=
  s' = { s with cores := s'.cores } ∧ ∀ k, s'.core k = { s.core k with loops := (s'.core k).loops }
/-- The path goes to `pc`; a backward transfer may be noted in the core's loop buffers. -/
def GoesTo (s : State) (c : Ctx) (g : Group) (pc : VAddr) (o : Out) : Prop := ∃ s', LoopsNoted s s' ∧ DoneAt s' c g pc o

/-- The uniform branches: the group as the word leaves it, its offset, and is it taken (R180, R182). -/
def uniformBranch : Instr → Option (BitVec 19 × (Ctx → Group) × (Ctx → Bool))
  | .bra f => some (f.off, fun c => c.g, fun _ => true)
  | .bmz f => some (f.off, fun c => c.g, fun c => c.g.getM (f.sel.setWidth 6) &&& c.p.em == 0#32)
  | .bmnz f => some (f.off, fun c => c.g, fun c => c.g.getM (f.sel.setWidth 6) &&& c.p.em != 0#32)
  | .loop f => some (f.off, fun c => c.g.setS (56#6 + f.sel.setWidth 6) (c.g.getS (56#6 + f.sel.setWidth 6) - 1#32),
      fun c => c.g.getS (56#6 + f.sel.setWidth 6) != 1#32)
  | _ => none

/-- The branches on a q-register: the register, the offset, and the values that go to the target (R181). -/
def qBranch : Instr → Option (BitVec 3 × BitVec 19 × (BitVec 2 → Bool))
  | .bqt f => some (f.sel, f.off, fun q => q == 1#2)
  | .bqf f => some (f.sel, f.off, fun q => q == 0#2)
  | .bqu f => some (f.sel, f.off, fun q => q == 2#2)
  | .bqnt f => some (f.sel, f.off, fun q => q != 1#2)
  | .bqnf f => some (f.sel, f.off, fun q => q != 0#2)
  | _ => none
/-- The lanes of the EM whose value the branch takes. -/
def takenLanes (c : Ctx) (r : BitVec 3) (on : BitVec 2 → Bool) : Mask :=
  maskOf fun l => laneOn c.active l && on (c.g.getQ (r.setWidth 6) l)

/-- The code offset of the next word, as a link register takes it (R183). -/
def linkOf (c : Ctx) : Word := BitVec.ofNat 32 ((c.cur.next.toNat + 2 ^ 57 - c.t.info.base.toNat) % 2 ^ 57)

/-- The lane-varying transfers: the address register, the kept set and the link (R170). -/
def transferOf : Instr → Option (Reg × BitVec 4 × Option Reg)
  | .calli f => some (f.a, f.k, some f.d)
  | .jmpi f => some (f.a, f.k, none)
  | .ret f => some (f.a, f.k, none)
  | _ => none

/-! ### System registers (R51 to R61) -/

def lowHalf {n : Nat} (v : BitVec n) : Word := BitVec.ofNat 32 (v.toNat % 2 ^ 32)
def highHalf {n : Nat} (v : BitVec n) : Word := BitVec.ofNat 32 (v.toNat / 2 ^ 32)
/-- A claim vector in the format of R16. -/
def claimWord (c : Claim) : Word := BitVec.ofNat 32 (c.reg + c.scr * 32 + c.acc * 4096 + c.bar * 65536)

/-- What SRD of a register of the uniform kind reads (R51, R53 to R61). -/
def sysValue (s : State) (c : Ctx) : Nat → Option Word
  | 0x000 => some c.g.gsr
  | 0x001 => some (BitVec.ofNat 32 c.g.tl.val)
  | 0x002 => some c.g.tca1
  | 0x003 => some c.g.tca2
  | 0x004 => some (lowHalf c.g.tepc1)
  | 0x005 => some (highHalf c.g.tepc1)
  | 0x006 => some (lowHalf c.g.tepc2)
  | 0x007 => some (highHalf c.g.tepc2)
  | 0x008 => some (lowHalf c.g.tfa1)
  | 0x009 => some (highHalf c.g.tfa1)
  | 0x00A => some (lowHalf c.g.tfa2)
  | 0x00B => some (highHalf c.g.tfa2)
  | 0x010 => some (BitVec.ofNat 32 (c.g.depth.toNat + 256 * c.g.limit.toNat))
  | 0x011 => some (BitVec.ofNat 32 (s.now - (s.core c.t.core).cycBase))
  | 0x012 => some (BitVec.ofNat 32 ((s.now - (s.core c.t.core).cycBase) % 2 ^ 64 / 2 ^ 32))
  | 0x018 => some (lowHalf c.g.rngKey)
  | 0x019 => some (highHalf c.g.rngKey)
  | 0x01A => some (lowHalf c.g.rngCtr)
  | 0x01B => some (highHalf c.g.rngCtr)
  | 0x028 => some (claimWord c.t.info.claim)
  | 0x029 => some (claimWord c.t.hold)
  | 0x02A => some (match c.t.reqs.head? with
      | some r => claimWord r.want
      | none => 0#32)
  | 0x030 => some c.t.info.tx
  | 0x031 => some c.t.info.tyz
  | 0x032 => some (BitVec.ofNat 32 c.t.info.t)
  | 0x033 => some (BitVec.ofNat 32 (c.g.idx + 256 * c.g.slot))
  | 0x040 => some (BitVec.ofNat 32 ((s.core c.t.core).agentRel.toNat * 2 ^ 24 +
      (s.fe.rel.get (Fin.ofNat 4 (c.t.core / 192))).toNat * 2 ^ 16 + 0x10 * 2 ^ 8 + 0xB0))
  | 0x041 => some (BitVec.ofNat 32 (c.t.core + c.t.core / 4 * 2 ^ 10 + c.t.core / 96 * 2 ^ 18 + c.t.core / 192 * 2 ^ 21))
  | 0x042 => some 180#32
  | _ => none

/-- A 64-bit or 57-bit register with one half replaced. -/
def putLow {n : Nat} (v : BitVec n) (w : Word) : BitVec n := BitVec.ofNat n (v.toNat / 2 ^ 32 * 2 ^ 32 + w.toNat)
def putHigh {n : Nat} (v : BitVec n) (w : Word) : BitVec n := BitVec.ofNat n (v.toNat % 2 ^ 32 + w.toNat * 2 ^ 32)
/-- TCA keeps every bit but the reserved [15:14] (R55). -/
def tcaBits (w : Word) : Word := wordOf fun k => w.getLsbD k && !(k == 14 || k == 15)

/-- The group after SWR of a register of the uniform kind that can be written (R51 to R58). -/
def sysWritten (g : Group) (w : Word) : Nat → Option Group
  | 0x000 => some { g with gsr := wordOf fun k => if k < 6 then g.gsr.getLsbD k && !w.getLsbD k else decide (8 ≤ k ∧ k < 14) && w.getLsbD k }
  | 0x002 => some { g with tca1 := tcaBits w }
  | 0x003 => some { g with tca2 := tcaBits w }
  | 0x004 => some { g with tepc1 := putLow g.tepc1 w }
  | 0x005 => some { g with tepc1 := putHigh g.tepc1 w }
  | 0x006 => some { g with tepc2 := putLow g.tepc2 w }
  | 0x007 => some { g with tepc2 := putHigh g.tepc2 w }
  | 0x008 => some { g with tfa1 := putLow g.tfa1 w }
  | 0x009 => some { g with tfa1 := putHigh g.tfa1 w }
  | 0x00A => some { g with tfa2 := putLow g.tfa2 w }
  | 0x00B => some { g with tfa2 := putHigh g.tfa2 w }
  | 0x010 => some { g with limit := BitVec.ofNat 8 (w.toNat / 256 % 256) }
  | 0x018 => some { g with rngKey := putLow g.rngKey w }
  | 0x019 => some { g with rngKey := putHigh g.rngKey w }
  | 0x01A => some { g with rngCtr := putLow g.rngCtr w }
  | 0x01B => some { g with rngCtr := putHigh g.rngCtr w }
  | _ => none
/-- The trap level from which SWR may write a register; 3 for slot 63 alone (R51, R52). -/
def swrLevel (n : Nat) : Nat :=
  if n ∈ [0x002, 0x004, 0x005, 0x008, 0x009] then 1
  else if n ∈ [0x003, 0x006, 0x007, 0x00A, 0x00B] then 2
  else if n ∈ [0x020, 0x021] then 3 else 0
/-- The registers that SWR does not change (R51). -/
def readOnly (n : Nat) : Prop :=
  n ∈ [0x001, 0x011, 0x012, 0x028, 0x029, 0x02A, 0x030, 0x031, 0x032, 0x033, 0x040, 0x041, 0x042]

end Sys2Proof.Claims


/-- MSAVE to MFROMQ write m[D], MREST writes EM within the path, MCNT counts (R183, R184, R45). -/
def Obligations.MaskWords : Prop :=
  (∀ i d val, maskValue i = some (d, val) → ∀ s c, Starts i s c →
    ∃ g, Done s c g (exec i s) ∧ UniM c d (maskOf (val c)) g) ∧
  (∀ (f : FormA) s c, Starts (.mrest f) s c →
    DoneAs s c c.g { c.p.past c.cur.next with em := c.g.getM f.a &&& c.p.members &&& ~~~c.p.departing } (exec (.mrest f) s)) ∧
  ∀ (f : FormDA) s c, Starts (.mcnt f) s c →
    ∃ g, Done s c g (exec (.mcnt f) s) ∧ UniS c f.d (modWord ((allLanes.countP fun l => laneOn (c.g.getM f.a) l : Nat))) g

/-- Uniform branches go one way; branches on a q-register divide the path by its lanes, at most two or three ways
(R164, R180, R181, R182, R94). -/
def Obligations.Branches : Prop :=
  (∀ i off g taken, uniformBranch i = some (off, g, taken) → ∀ s c, Starts i s c →
    (taken c = true → GoesTo s c (g c) (packetAt c off.toInt) (exec i s)) ∧
    (taken c = false → Done s c (g c) (exec i s))) ∧
  (∀ i r off on, qBranch i = some (r, off, on) → ∀ s c, Starts i s c →
    (c.p.em &&& ~~~takenLanes c r on = 0#32 → GoesTo s c c.g (packetAt c off.toInt) (exec i s)) ∧
    (c.p.em &&& ~~~takenLanes c r on ≠ 0#32 → takenLanes c r on = 0#32 → Done s c c.g (exec i s)) ∧
    (c.p.em &&& ~~~takenLanes c r on ≠ 0#32 → takenLanes c r on ≠ 0#32 → ∃ s', LoopsNoted s s' ∧
      Divides s' c c.g false [(packetAt c off.toInt, takenLanes c r on), (c.cur.next, c.p.em &&& ~~~takenLanes c r on)]
        c.cur.next (exec i s))) ∧
  ∀ (f : FormQ3) s c, Starts (.bq3 f) s c →
    Divides s c c.g false [(packetAt c f.offT.toInt, takenLanes c f.q fun q => q == 1#2),
      (c.cur.next, takenLanes c f.q fun q => q == 0#2), (packetAt c f.offU.toInt, takenLanes c f.q fun q => q == 2#2)]
      c.cur.next (exec (.bq3 f) s)

/-- CALL, CALLI, JMPI and RET: the link, and the division of the path when EM is narrowed (R164, R170, R183, R90). -/
def Obligations.CallsAndTransfers : Prop :=
  (∀ (f : FormDI) s c, Starts (.call f) s c → ∃ g, LaneX c f.d (fun _ => (linkOf c, 0#6)) g ∧
    Divides s c g true [(packetAt c f.imm.toInt, c.active), (c.cur.next, c.p.em &&& ~~~c.pmask)] (packetAt c f.imm.toInt)
      (exec (.call f) s)) ∧
  ∀ i a k link, transferOf i = some (a, k, link) → ∀ s c ks l0, Starts i s c → c.t.info.keeps[k.toNat]? = some ks →
    keepOutside c.t ks = none → (act c).head? = some l0 →
    (∀ l ∈ act c, c.g.getX a l = c.g.getX a l0) →
    s.namesCode c.t.core c.part (codeAt c.t.info.base (c.g.getX a l0).toNat) = true →
    ∃ g, (∀ d, link = some d → LaneX c d (fun _ => (linkOf c, 0#6)) g) ∧ (link = none → g = c.g) ∧
      Divides s c g true [(codeAt c.t.info.base (c.g.getX a l0).toNat, c.active), (c.cur.next, c.p.em &&& ~~~c.pmask)]
        (codeAt c.t.info.base (c.g.getX a l0).toNat) (exec i s)

namespace Sys2Proof.Claims
open Sys2Proof.Machine Sys2Proof.Safety
/-- The bytes of a word, low byte first (R2). -/
def leWord (bs : List Byte) (i : Nat) : Word :=
  BitVec.ofNat 32 ((bs.getD i 0#8).toNat + 256 * (bs.getD (i + 1) 0#8).toNat + 65536 * (bs.getD (i + 2) 0#8).toNat
    + 16777216 * (bs.getD (i + 3) 0#8).toNat)
/-- Enters TL1 or TL2 with the next word as the return address (R173). -/
def TrappedAfter (s : State) (c : Ctx) (r : TrapRec) (o : Out) : Prop :=
  (c.g.tl = 0 → noVector c.t = false → EnteredAt s c r 1 c.cur.next (kernelVector c.t) o) ∧
  (c.g.tl = 1 → EnteredAt s c r 2 c.cur.next (stubVector c.t) o)
/-- The items that a group's members become (R171). -/
def exitItems (c : Ctx) (f : FormDK) (k : Keep) : List Item :=
  (lanesOf (c.p.members &&& ~~~c.p.departing)).map fun l =>
    c.item c.g 4 (codeAt c.t.info.base (c.g.getS f.d).toNat) false f.k.toNat k l (c.g.lin.get l) .none
/-- SYNCJ is honoured: the path's entry has this packet as its reconvergence point (R167). -/
def honoured (c : Ctx) (e : Entry) : Prop := c.p.entry.bind c.g.entry = some e ∧ e.rp = some (packetOf c.cur.addr)
/-- A path of the entry stands at another path's SYNCJ word (R167), not stopped by a trap (R382). -/
def atSyncj (p q : Path) : Prop :=
  q.pc = p.pc ∧ q.entry = p.entry ∧ q.level = p.level ∧ ∃ w, q.wait = some w ∧ w.kind = .syncj
/-- The other paths of the entry that the path in hand joins. -/
def joiners (c : Ctx) : List Path := c.g.paths.filter fun q => q.entry == c.p.entry && q.pid != c.p.pid
/-- The lanes that some of the joining paths has. -/
def joined (c : Ctx) (f : Path → Mask) : Mask := maskOf fun l => (c.p :: joiners c).any fun q => laneOn (f q) l
/-- No frame of the group becomes due when the paths of the entry join: an entry created since its push is left, or no
path has forking lanes that have all departed (R238). -/
def noFrameDue (c : Ctx) (e : Entry) : Prop :=
  ∀ fr ∈ c.g.frames, (∃ x ∈ c.g.entries, x.eid ≠ e.eid ∧ fr.mark ≤ x.eid) ∨
    ((joined c fun q => q.members) &&& fr.forked = 0#32 ∨
      (joined c fun q => q.members) &&& fr.forked &&& ~~~(joined c fun q => q.departing) ≠ 0#32) ∧
    ∀ q ∈ c.g.paths, q.entry ≠ c.p.entry → q.members &&& fr.forked = 0#32 ∨ q.members &&& fr.forked &&& ~~~q.departing ≠ 0#32
/-- The lanes that EXITS restarts. -/
def restarted (c : Ctx) (l : Lane) : Bool := laneOn (c.p.members &&& ~~~c.p.departing) l
/-- A register of a kept set. -/
def kept (m : DWord) (r : Reg) : Bool := m.getLsbD r.toNat
/-- The words with conditions of their own for ILLOP or PRIV beside R96 to R98. -/
def ownChecks : Instr → Bool
  | .pfx _ | .exit _ | .exits _ | .swr _ | .tret | .dictld _ | .fsvc _ | .split _ | .fork _ | .shfl _ | .bar _ | .bara _ | .barw _
  | .barx _ | .rsmp _ | .calli _ | .jmpi _ | .ret _ | .tshapeAcc _ => true
  | _ => false
/-- The word has issued and waits; a word that its queue refused has not issued. It keeps the window that it was issued
under (R50). -/
def inWait (c : Ctx) : Prop := ∃ w, c.p.wait = some w ∧ w.issued.isSome = true ∧ w.kind ≠ .stall
end Sys2Proof.Claims

/-- SRD reads every system register, SWR writes what may be written and ignores the read-only ones (R175, R51, R52,
R53, R55, R56, R58, R60, R61, R16). -/
def Obligations.SystemRegisters : Prop :=
  (∀ (f : FormDR) s c w, Starts (.srd f) s c → sysValue s c f.num.toNat = some w →
    ∃ g, Done s c g (exec (.srd f) s) ∧ UniS c f.d w g) ∧
  (∀ (f : FormDR) s c, Starts (.srd f) s c → f.num = 0x020#14 →
    ∃ g, Done s c g (exec (.srd f) s) ∧ LaneX c f.d (fun l => (lowHalf (c.g.lin.get l), 0#6)) g) ∧
  (∀ (f : FormDR) s c, Starts (.srd f) s c → f.num = 0x021#14 →
    ∃ g, Done s c g (exec (.srd f) s) ∧ LaneX c f.d (fun l => (highHalf (c.g.lin.get l), 0#6)) g) ∧
  (∀ (f : FormDR) s c h, Starts (.swr f) s c → (c.g.slot = 63 ∨ swrLevel f.num.toNat ≤ c.g.tl.val) →
    sysWritten c.g (c.g.getS f.d) f.num.toNat = some h → Done s c h (exec (.swr f) s)) ∧
  (∀ (f : FormDR) s c, Starts (.swr f) s c → readOnly f.num.toNat → Done s c c.g (exec (.swr f) s)) ∧
  (∀ (f : FormDR) s c, Starts (.swr f) s c → c.g.slot = 63 → f.num = 0x020#14 → ∃ g, Done s c g (exec (.swr f) s) ∧
    g = { c.g with lin := g.lin } ∧ ∀ l, g.lin.get l =
      if laneOn c.active l = true then putLow (c.g.lin.get l) (c.g.getX f.d l) else c.g.lin.get l) ∧
  (∀ (f : FormDR) s c, Starts (.swr f) s c → c.g.slot = 63 → f.num = 0x021#14 → ∃ g, Done s c g (exec (.swr f) s) ∧
    g = { c.g with lin := g.lin } ∧ ∀ l, g.lin.get l =
      if laneOn c.active l = true then putHigh (c.g.lin.get l) (c.g.getX f.d l) else c.g.lin.get l)

/-- Words that are no instruction, privileged words and registers outside the window trap, by the routing of R380
(R103, R96, R98, R49, R52, R380, R381, R174, R361, R234). -/
def Obligations.IllegalWordsTrap : Prop :=
  (∀ w e s c, decodeWord w = .error e → s.ctx = some c → Trapped s c (groupTrap 0x01#8 0) (runFetched w s)) ∧
  (∀ i s c, isWord i = true → s.ctx = some c → wordLegal i c = false → Trapped s c (groupTrap 0x01#8 0) (exec i s)) ∧
  (∀ i s c r v, isWord i = true → ownChecks i = false → s.ctx = some c → wordLegal i c = true → ¬ inWait c →
    firstOutside c.t (namedRegs i c) = some (v, r) →
    Trapped s c (groupTrap 0x03#8 (if v = true then r + 64 else r)) (exec i s)) ∧
  (∀ (f : FormDR) s c, s.ctx = some c → wordLegal (.swr f) c = true → c.g.slot ≠ 63 → c.g.tl.val < swrLevel f.num.toNat →
    Trapped s c (groupTrap 0x02#8 0) (exec (.swr f) s)) ∧
  (∀ (f : FormDict) s c, s.ctx = some c → wordLegal (.dictld f) c = true → c.g.slot ≠ 63 →
    s.bankUsed c.t.core f.bank.toNat = false → (c.g.getS f.d).toNat % 4 = 0 →
    Trapped s c (groupTrap 0x02#8 0) (exec (.dictld f) s)) ∧
  (∀ (f : FormDK) s c k, s.ctx = some c → wordLegal (.exits f) c = true → c.g.slot ≠ 63 → c.g.tl = 0 →
    c.t.info.keeps[f.k.toNat]? = some k → Trapped s c (groupTrap 0x02#8 0) (exec (.exits f) s)) ∧
  (∀ (f : FormD) s c, s.ctx = some c → wordLegal (.fsvc f) c = true → c.g.tl ≠ 2 →
    Trapped s c (groupTrap 0x02#8 0) (exec (.fsvc f) s)) ∧
  ∀ i s c, (∃ f, i = .exit f) ∨ (∃ f, i = .bar f) ∨ (∃ f, i = .bara f) ∨ (∃ f, i = .barw f) ∨ (∃ f, i = .barx f) ∨
    (∃ f, i = .split f) ∨ (∃ f, i = .fork f) ∨ (∃ f, i = .rsmp f) → s.ctx = some c → c.g.tl ≠ 0 →
    Trapped s c (groupTrap 0x01#8 0) (exec i s)

/-- NOP, TRAP, BKPT and TRET (R173, R174, R380, R381, R90). -/
def Obligations.TrapWords : Prop :=
  (∀ s c, Starts .nop s c → Done s c c.g (exec .nop s)) ∧
  (∀ (f : FormN14) s c, Starts (.trap f) s c → TrappedAfter s c ⟨0x10#8, none, f.imm.setWidth 16, 0#64⟩ (exec (.trap f) s)) ∧
  (∀ (f : FormN14) s c, Starts (.bkpt f) s c → TrappedAfter s c ⟨0x11#8, none, f.imm.setWidth 16, 0#64⟩ (exec (.bkpt f) s)) ∧
  (∀ s c (lvl : Fin 3) target, Starts .tret s c → tretIllegal c = false →
    (c.g.tl = 1 ∧ lvl = 0 ∧ target = c.g.tepc1 ∨ c.g.tl = 2 ∧ lvl = 1 ∧ target = c.g.tepc2) →
    s.namesCode c.t.core c.part target = true →
    DoneAs s c { c.g with tl := lvl }
      { c.p.past target with level := lvl, restart := c.p.restart.filter fun r => r.addr = target } (exec .tret s)) ∧
  ∀ s c, Starts .tret s c → c.g.tl = 0 → Trapped s c (groupTrap 0x02#8 0) (exec .tret s)

/-- CYC, IFENCE, DICTLD and FSVC (R176, R177, R178, R179, R57). -/
def Obligations.AgentAndServiceWords : Prop :=
  (∀ (f : FormD) s c, Starts (.cyc f) s c → ∃ g, Done s c g (exec (.cyc f) s) ∧ g = { c.g with s := g.s } ∧
    ∀ r, g.getS r = if r = f.d + 1#6 then BitVec.ofNat 32 ((s.now - (s.core c.t.core).cycBase) % 2 ^ 64 / 2 ^ 32)
      else if r = f.d then BitVec.ofNat 32 (s.now - (s.core c.t.core).cycBase) else c.g.getS r) ∧
  (∀ s c, Starts .ifence s c →
    (c.earlierWord s.now = true → Waits s c c.g .stall (exec .ifence s)) ∧
    (c.earlierWord s.now = false → ∃ s', LoopsNoted s s' ∧ Done s' c c.g (exec .ifence s) ∧
      ∀ b, b ∈ (s'.core c.t.core).loops.get (Fin.ofNat 4 c.g.slot) ↔
        b ∈ (s.core c.t.core).loops.get (Fin.ofNat 4 c.g.slot) ∧ c.g.gid ∉ b.users)) ∧
  (∀ (f : FormDict) s c bs, Starts (.dictld f) s c → c.g.slot = 63 → s.bankUsed c.t.core f.bank.toNat = false →
    (c.g.getS f.d).toNat % 4 = 0 →
    s.bytesAt c.t.core c.part none ((c.g.getS f.d).toNat + 2 ^ 32 * (c.g.getS (f.d + 1#6)).toNat) (4 * (f.cnt.toNat + 1)) = .ok bs →
    ∃ s', s' = { s with cores := s'.cores } ∧ Done s' c c.g (exec (.dictld f) s) ∧
      (∀ n, n ≤ f.cnt.toNat → ((s'.core c.t.core).dict.get f.bank.toFin).words[n]? = some (leWord bs (4 * n))) ∧
      (∀ n, f.cnt.toNat < n → n < ((s.core c.t.core).dict.get f.bank.toFin).words.length →
        ((s'.core c.t.core).dict.get f.bank.toFin).words[n]? = ((s.core c.t.core).dict.get f.bank.toFin).words[n]?)) ∧
  ∀ (f : FormD) s c, Starts (.fsvc f) s c → c.g.tl = 2 →
    (isFaultCause (c.g.tca2.setWidth 8) = false → ∃ g, Done s c g (exec (.fsvc f) s) ∧ UniS c f.d 3#32 g) ∧
    (isFaultCause (c.g.tca2.setWidth 8) = true → ∀ d, c.ended = some d →
      ∃ g, Done s c g (exec (.fsvc f) s) ∧ UniS c f.d d g) ∧
    (isFaultCause (c.g.tca2.setWidth 8) = true → c.ended = none →
      Waits s c c.g (.fsvc c.g.tfa2 (needOf c.g.tca2)) (exec (.fsvc f) s))

/-- PFX, EXIT, EXITS, JOINAT and SYNCJ: each completes, with what it leaves (R97, R98, R165, R166, R167, R169, R171,
R183, R184). -/
def Obligations.PrefixAndPathWords : Prop :=
  (∀ (f : FormP) s c, Starts (.pfx f) s c → c.p.pfx = none →
    DoneAs s c c.g { c.p with pc := c.cur.next, pfx := some ⟨f, c.cur.addr⟩ } (exec (.pfx f) s)) ∧
  (∀ (f : FormP) s c, s.ctx = some c → c.p.pfx ≠ none → Trapped s c (groupTrap 0x01#8 0) (exec (.pfx f) s)) ∧
  (∀ (f : FormC) s c, Starts (.exit f) s c → c.g.tl = 0 →
    DoneAs s c c.g { c.p.past c.cur.next with departing := c.p.departing ||| c.active, em := c.p.em &&& ~~~c.active }
      (exec (.exit f) s)) ∧
  (∀ (f : FormI) s c, Starts (.joinat f) s c →
    DoneAs s c c.g { c.p.past c.cur.next with join := some (packetAt c f.imm.toInt) } (exec (.joinat f) s)) ∧
  (∀ s c, Starts .syncj s c → (¬ ∃ e, honoured c e) → Done s c c.g (exec .syncj s)) ∧
  (∀ s c e, Starts .syncj s c → honoured c e → (∃ q ∈ c.g.others c.p, ¬ atSyncj c.p q) →
    Waits s c c.g .syncj (exec .syncj s)) ∧
  (∀ s c e, Starts .syncj s c → honoured c e → (∀ q ∈ c.g.others c.p, atSyncj c.p q) → c.g.tl ≠ 0 ∨ noFrameDue c e →
    ∃ t h p, exec .syncj s = .next t ∧ t = { s with groups := t.groups } ∧ (∀ n, n ≠ c.g.gid → t.group n = s.group n) ∧
      t.group c.g.gid = some h ∧ h = { c.g with paths := h.paths, entries := h.entries } ∧ h.entry e.eid = none ∧
      h.path c.cur.pid = some p ∧ p.pc = c.cur.next ∧ p.wait = none ∧ p.pfx = none ∧ p.join = none ∧
      p.entry = e.enclosing ∧ p.departing = 0#32 ∧ p.level = c.p.level ∧ p.restart = c.p.restart ∧
      p.members = (joined c fun q => q.members) &&& ~~~(joined c fun q => q.departing) ∧ p.em = (joined c fun q => q.em) ∧
      ∀ n, n ≠ c.cur.pid → h.path n = if ∃ q ∈ joiners c, q.pid = n then none else c.g.path n) ∧
  (∀ (f : FormDK) s c k s', Starts (.exits f) s c → (c.g.slot = 63 ∨ c.g.tl ≠ 0) → c.t.info.keeps[f.k.toNat]? = some k →
    c.g.paths = [c.p] → c.g.entries = [] → (codeAt c.t.info.base (c.g.getS f.d).toNat).toNat % 12 = 0 →
    keepOutside c.t k = none → s.placeAll c.t.core (exitItems c f k) = some s' →
    exec (.exits f) s = .next (s'.putGroup { c.g with paths := [], frames := [] })) ∧
  ∀ (f : FormDK) s c k, Starts (.exits f) s c → (c.g.slot = 63 ∨ c.g.tl ≠ 0) → c.t.info.keeps[f.k.toNat]? = some k →
    c.g.paths = [c.p] → c.g.entries = [] → (codeAt c.t.info.base (c.g.getS f.d).toNat).toNat % 12 = 0 →
    keepOutside c.t k = none → s.placeAll c.t.core (exitItems c f k) = none →
    ∃ h, exec (.exits f) s = .next (s.putGroup h) ∧ h.gid = c.g.gid ∧ h.team = c.g.team ∧ h.slot = c.g.slot ∧ h.tl = 0 ∧
      h.gsr = 0#32 ∧ h.entries = [] ∧ h.frames = [] ∧ h.depth = 0#8 ∧ h.limit = 8#8 ∧ h.lin = c.g.lin ∧
      h.rngKey = c.g.rngKey ∧ h.rngCtr = c.g.rngCtr ∧
      (∀ r l, h.getX r l = if kept k.x r = true ∧ restarted c l = true then c.g.getX r l else 0#32) ∧
      (∀ r l, h.getV r l = if kept k.v r = true ∧ restarted c l = true then c.g.getV r l else 0#64) ∧
      (∀ r, r ≠ 0#6 → h.getS r = if kept k.s r = true then c.g.getS r else c.t.info.paramOf r.toNat) ∧
      h.paths = [startPath c.p.pid (codeAt c.t.info.base (c.g.getS f.d).toNat) (c.p.members &&& ~~~c.p.departing)]

namespace Sys2Proof.Claims
open Sys2Proof.Machine Sys2Proof.Safety

/-! ### Memory words (R252 to R295) -/

/-- Only the L1 data caches and held translations of the cores differ (R261, R268). -/
def L1AndTlb (s s' : State) : Prop := ∀ k, s'.core k = { s.core k with l1 := (s'.core k).l1, tlb := (s'.core k).tlb }
/-- `s'` is `s` but for L1 data caches, held translations, and the lines that the slices hold: beneath them memory holds
nothing new (R261, R262, R268). -/
def CachesOnly (s s' : State) : Prop :=
  s' = { s with cores := s'.cores, quadTlb := s'.quadTlb, l2 := s'.l2, zipped := s'.zipped } ∧ L1AndTlb s s' ∧
    ∀ l ∈ s'.l2, ∀ b ∈ l.under, ∃ m ∈ s.l2, b ∈ m.under
/-- The physical address of an access that its page allows. -/
def physOf (s : State) (c : Ctx) (a : Nat) (n : Need) : Option Nat :=
  match s.reach c.t.core c.part a n with
  | .page x => some (x.phys a)
  | _ => none
/-- A byte that a read at the home may give: the slice's, or, for an uncached page, what memory holds beneath a line of
the slice (R267). -/
def atHome (s : State) (uncached : Prop) (pa : Nat) (b : Byte) : Prop :=
  b = memGet s.mem pa ∨ uncached ∧ ∃ l ∈ s.l2, (pa, b) ∈ l.under
/-- `n` bytes of the home, under the writes on their way that the core's lanes see (R350, R351). -/
def FromHome (s : State) (core : Nat) (x : Xlat) (pa n : Nat) (bs : List Byte) : Prop :=
  ∃ hb : List Byte, hb.length = n ∧ (∀ i, i < n → atHome s (x.cl = 2) (pa + i) (hb.getD i 0#8)) ∧
    bs = s.overlay (laneParty core) pa hb
/-- The bytes that a lane's read of `n` bytes at `a` may see: those of the home, or of the sector that its core's L1 held
before the word for this address, where the page allocates there (R261); of the window's rows (R271); or of a team's own
scratchpad. -/
def Sees (s : State) (c : Ctx) (space n a : Nat) (bs : List Byte) : Prop :=
  if space = 0 then ∃ x, s.reach c.t.core c.part a .read = .page x ∧
    (FromHome s c.t.core x (x.phys a) n bs ∨
      x.cl = 0 ∧ bs = ((s.seen c.t.core x (x.phys a / 256 * 256) 256).drop (x.phys a % 256)).take n ∨
      x.cl = 0 ∧ ∃ e ∈ (s.core c.t.core).l1, e.addr = x.phys a / 256 * 256 ∧ e.vaddr = a / 256 * 256 ∧
        bs = (e.bytes.drop (x.phys a % 256)).take n)
  else if space = 3 then ∃ w, c.t.windows.get (Fin.ofNat 16 (a / 2 ^ 28)) = some w ∧
    s.windowBytes c.t.core c.part none w (a % 2 ^ 28) n = .ok bs
  else ∃ u off, s.scratch c.t space a = some (u, off) ∧ bs = u.scrBytes off n

/-- `n` x-registers from `d` hold the little-endian words of each lane's bytes, zero where Z zeroes; no other register
changes. A register x0 among them discards (R42). -/
def WordsLoaded (c : Ctx) (d : Reg) (n : Nat) (lanes : List Lane) (seen : Lane → List Byte) (g : Group) : Prop :=
  (∀ k l, k < n → d + BitVec.ofNat 6 k ≠ 0#6 → l ∈ lanes → laneOn c.zeroed l = false →
    g.getX (d + BitVec.ofNat 6 k) l = leWord (seen l) (4 * k)) ∧
  (∀ k l, k < n → laneOn c.zeroed l = true → g.getX (d + BitVec.ofNat 6 k) l = 0#32) ∧
  ∀ r l, ((∀ k, k < n → r ≠ d + BitVec.ofNat 6 k) ∨ r = 0#6 ∨ (l ∉ lanes ∧ laneOn c.zeroed l = false)) → g.getX r l = c.g.getX r l

/-- The plain loads into x-registers: the bytes that a lane reads, and how many registers (R281). -/
def plainLoad : Instr → Option (FormL × Nat × Nat)
  | .ldb f => some (f, 1, 1)
  | .ldh f => some (f, 2, 1)
  | .ldw f => some (f, 4, 1)
  | .ldd f => some (f, 8, 2)
  | .ldq f => some (f, 16, 4)
  | _ => none
/-- The interval loads: bytes, and the image and flags that they give (R285). -/
def itvLoad : Instr → Option (FormL × Nat × (List Byte → DWord × Flags))
  | .ldv f => some (f, 8, fun bs =>
      let r := itvOfBits fmtF32 (bytesNat (bs.take 4)) (bytesNat (bs.drop 4))
      ((writeF32 r.1).1, if r.2 then fINV else 0#6))
  | .ldvc f => some (f, 4, fun bs => mrcDecode (bytesNat bs))
  | _ => none

/-- The state after LDFF has read some of its lanes in order (R286). -/
def ldffAt (s : State) (c : Ctx) (f : FormL) (lanes : List Lane) : State :=
  lanes.foldl (fun t l => (t.laneRead t c f.space.toNat 4 (c.address f 4 l)).2) s
/-- What a lane of LDFF meets in a state. -/
def ldffTrap (t : State) (c : Ctx) (f : FormL) (l : Lane) : Option TrapRec :=
  t.accessTrap c f.space.toNat 4 .read .plain true [⟨some l, c.address f 4 l⟩]
/-- The lines of a full-empty word's lanes: team and line (R257). -/
def feLines (s : State) (c : Ctx) (f : FormL) : List (Nat × Nat) :=
  (act c).filterMap fun l => (s.scratch c.t f.space.toNat (c.address f 4 l)).map fun u => (u.1.uid, u.2 / 128)
def IsFull (s : State) (k : Nat × Nat) : Prop := ∃ u, s.team k.1 = some u ∧ k.2 ∈ u.full

/-- The plain stores: bytes, and what a lane stores with the flags it raises (R283 to R285). -/
def plainStore : Instr → Option (FormL × Nat × (Ctx → Lane → List Byte × Flags))
  | .stb f => some (f, 1, fun c l => (natBytes 1 (c.g.getX f.d l).toNat, 0#6))
  | .sth f => some (f, 2, fun c l => (natBytes 2 (c.g.getX f.d l).toNat, 0#6))
  | .stw f => some (f, 4, fun c l => (natBytes 4 (c.g.getX f.d l).toNat, 0#6))
  | .std f => some (f, 8, fun c l => (natBytes 4 (c.g.getX f.d l).toNat ++ natBytes 4 (c.g.getX (f.d + 1#6) l).toNat, 0#6))
  | .stq f => some (f, 16, fun c l => (natBytes 4 (c.g.getX f.d l).toNat ++ natBytes 4 (c.g.getX (f.d + 1#6) l).toNat ++
      natBytes 4 (c.g.getX (f.d + 2#6) l).toNat ++ natBytes 4 (c.g.getX (f.d + 3#6) l).toNat, 0#6))
  | .stv f => some (f, 8, fun c l => (natBytes 8 (c.g.getV f.d l).toNat, 0#6))
  | .stvc f => some (f, 4, fun c l =>
      let r := itvOfBits fmtF32 ((c.g.getV f.d l).toNat % 2 ^ 32) ((c.g.getV f.d l).toNat / 2 ^ 32)
      (natBytes 4 (mrcEncode r.1), if r.2 then fINV else 0#6))
  | _ => none

/-- A place that a lane can store to: a byte of memory, or of a team's scratchpad at its own offset. -/
inductive Place where
  | mem (a : Nat)
  | scr (uid off : Nat)
  | back (uid off : Nat)
deriving DecidableEq, Repr
def Place.plus : Place → Nat → Place
  | .mem a, n => .mem (a + n)
  | .scr u o, n => .scr u (o + n)
  | .back u o, n => .back u (o + n)
/-- The byte at a place. -/
def byteOf (s : State) : Place → Byte
  | .mem a => memGet s.mem a
  | .scr u o => match s.team u with
    | some t => t.scrGet o
    | none => 0#8
  | .back u o => match s.team u with
    | some t => memGet t.venBack o
    | none => 0#8
/-- Where a lane's store goes, by its space. -/
def storePlace (s : State) (c : Ctx) (f : FormL) (size : Nat) (l : Lane) : Option Place :=
  if f.space = 0#2 then (physOf s c (c.address f size l) .write).map .mem
  else (s.scratch c.t f.space.toNat (c.address f size l)).map fun u => .scr u.1.uid u.2
/-- Where STX goes: the back bank of the gang team that the address names (R256, R291). -/
def backPlace (s : State) (c : Ctx) (f : FormL) (l : Lane) : Option Place :=
  (s.scratch c.t 2 (c.address f 4 l)).map fun u => .back u.1.uid (u.2 - 0x40000)

/-- A byte of a region binding table, which only the device writes (R345). -/
def tableByte (s : State) : Place → Bool
  | .mem a => s.inTable a
  | _ => false
/-- After the word, the bytes at the places of its lanes are those of the highest lane that stores there (R284), but for
those of a region binding table, and every other byte of memory and of every scratchpad reads as before. -/
def StoredBy (s t : State) (lanes : List Lane) (place : Lane → Option Place) (val : Lane → List Byte) : Prop :=
  (∀ l ∈ lanes, ∀ p n, place l = some p → n < (val l).length →
    (∀ j ∈ lanes, l < j → ∀ q m, place j = some q → m < (val j).length → q.plus m ≠ p.plus n) →
    byteOf t (p.plus n) = if tableByte s (p.plus n) = true then byteOf s (p.plus n) else (val l).getD n 0#8) ∧
  ∀ p, (∀ l ∈ lanes, ∀ q n, place l = some q → n < (val l).length → q.plus n ≠ p) → byteOf t p = byteOf s p
/-- Only the bytes of teams' scratchpads and what hangs on them differ. -/
def ScratchOnly (s s' : State) : Prop := ∀ n, s'.team n = (s.team n).map fun u => { u with
  scr := ((s'.team n).getD u).scr, venFront := ((s'.team n).getD u).venFront, venBack := ((s'.team n).getD u).venBack,
  full := ((s'.team n).getD u).full, bad := ((s'.team n).getD u).bad }
/-- `s'` is `s` but for the bytes of memory and of scratchpads, and what follows a write at its home: caches, the slices'
lines, open multicast entries, the marks of bad sectors, and writes on their way that it overtakes. -/
def BytesOnly (s s' : State) : Prop :=
  s' = { s with
    cores := s'.cores, quadTlb := s'.quadTlb, mem := s'.mem, mcasts := s'.mcasts, bad := s'.bad, teams := s'.teams, l2 := s'.l2,
    zipped := s'.zipped, flights := s'.flights } ∧
    L1AndTlb s s' ∧ ScratchOnly s s' ∧ (s.bad = [] → s'.bad = []) ∧ (s.flights = [] → s'.flights = [])
/-- The writes that the lanes of a store leave on their way, in lane order: each is seen by its own core's lanes, and
reaches its home later (R352). -/
def storesLeft (s : State) (c : Ctx) (f : FormL) (size : Nat) (val : Lane → List Byte) : List Flight :=
  (act c).filterMap fun l => match s.reach c.t.core c.part (c.address f size l) .write with
    | .page x => some ⟨.lane c.g.gid c.t.core, x.phys (c.address f size l), val l, some x, []⟩
    | _ => none

/-- The atomics: bytes, and the new value of a lane from the old one (R292 to R294). -/
def atomicOp : Instr → Option (FormAt × Nat × (Ctx → Lane → Nat → Nat))
  | .aadd f => some (f, 4, fun c l old => (old + (c.g.getX f.b l).toNat) % 2 ^ 32)
  | .amin f => some (f, 4, fun c l old => (modWord (min (BitVec.ofNat 32 old).toInt (c.g.getX f.b l).toInt)).toNat)
  | .amax f => some (f, 4, fun c l old => (modWord (max (BitVec.ofNat 32 old).toInt (c.g.getX f.b l).toInt)).toNat)
  | .aminu f => some (f, 4, fun c l old => min old (c.g.getX f.b l).toNat)
  | .amaxu f => some (f, 4, fun c l old => max old (c.g.getX f.b l).toNat)
  | .aand f => some (f, 4, fun c l old => old &&& (c.g.getX f.b l).toNat)
  | .aor f => some (f, 4, fun c l old => old ||| (c.g.getX f.b l).toNat)
  | .axor f => some (f, 4, fun c l old => old ^^^ (c.g.getX f.b l).toNat)
  | .axch f => some (f, 4, fun c l _ => (c.g.getX f.b l).toNat)
  | .acas f => some (f, 4, fun c l old => if old = ((c.xFourth l).getD 0#32).toNat then (c.g.getX f.b l).toNat else old)
  | .ainc f => some (f, 8, fun c l old => (old + (c.g.getX f.b l).toNat) % 2 ^ 64)
  | .amind f => some (f, 8, fun c l old => min old ((c.g.getX f.b l).toNat + 2 ^ 32 * (c.g.getX (f.b + 1#6) l).toNat))
  | .avadd f => some (f, 8, fun c l old =>
      (writeF32 (itvAdd (readF32 (BitVec.ofNat 64 old)).1 (readF32 (c.g.getV f.b l)).1)).1.toNat)
  | _ => none
/-- The lanes perform one after another in increasing order: memory after, and the old value of each (R292). -/
def atomRun (n : Nat) (at' : Lane → Option Nat) (new : Lane → Nat → Nat) : List Lane → Memory → Memory × List (Lane × Nat)
  | [], m => (m, [])
  | l :: rest, m =>
    match at' l with
    | none => (m, [])
    | some a =>
      let r := atomRun n at' new rest (memPutNat m a n (new l (memNat m a n)))
      (r.1, (l, memNat m a n) :: r.2)
def oldOf (r : Memory × List (Lane × Nat)) (l : Lane) : Nat := ((r.2.find? fun x => x.1 == l).map fun x => x.2).getD 0
/-- The run of an atomic word. -/
def atomicRun (s : State) (c : Ctx) (f : FormAt) (n : Nat) (new : Ctx → Lane → Nat → Nat) : Memory × List (Lane × Nat) :=
  atomRun n (fun l => physOf s c (c.atomAddr f.a l) .write) (new c) (act c) s.mem
/-- The words of an atomic lie where the bank sees what the slices hold: no write on its way that its core's lanes see
covers them, no error lies under them, none is in a region binding table, and their pages are all cached, or all uncached
with nothing in the slices (R263, R267, R274, R345). -/
def BankSees (s : State) (c : Ctx) (f : FormAt) (n : Nat) : Prop :=
  (∀ w ∈ s.flights, w.seenBy (laneParty c.t.core) = false) ∧
  (∀ l ∈ act c, ∀ x, s.reach c.t.core c.part (c.atomAddr f.a l) .write = .page x →
    s.lost (x.phys (c.atomAddr f.a l)) = false ∧ ∀ i, i < n → s.inTable (x.phys (c.atomAddr f.a l) + i) = false) ∧
  ((∀ l ∈ act c, ∀ x, s.reach c.t.core c.part (c.atomAddr f.a l) .write = .page x → x.cl ≠ 2) ∨
    s.l2 = [] ∧ ∀ l ∈ act c, ∀ x, s.reach c.t.core c.part (c.atomAddr f.a l) .write = .page x → x.cl = 2)
/-- The accesses of an atomic word. -/
def atomAccs (c : Ctx) (f : FormAt) : List Acc := (act c).map fun l => ⟨some l, c.atomAddr f.a l⟩

/-- The size and space of a memory word's accesses, and what they need: the words whose lanes are checked together. -/
def checked : Instr → Option (FormL × Nat × Need × AccKind)
  | .ldb f => some (f, 1, .read, .plain)
  | .ldh f => some (f, 2, .read, .plain)
  | .ldw f => some (f, 4, .read, .plain)
  | .ldd f => some (f, 8, .read, .plain)
  | .ldq f => some (f, 16, .read, .plain)
  | .ldv f => some (f, 8, .read, .plain)
  | .ldvc f => some (f, 4, .read, .plain)
  | .ldfe f => some (f, 4, .read, .fullEmpty)
  | .ldmc f => some (f, 4, .read, .plain)
  | .stb f => some (f, 1, .write, .plain)
  | .sth f => some (f, 2, .write, .plain)
  | .stw f => some (f, 4, .write, .plain)
  | .std f => some (f, 8, .write, .plain)
  | .stq f => some (f, 16, .write, .plain)
  | .stv f => some (f, 8, .write, .plain)
  | .stvc f => some (f, 4, .write, .plain)
  | .stfe f => some (f, 4, .write, .fullEmpty)
  | .stx f => some (f, 4, .write, .veneerBack)
  | _ => none

end Sys2Proof.Claims

/-- Plain and interval loads write what their lanes read, and nothing but caches changes beside (R281, R282, R285,
R252, R253, R261, R271, R42). -/
def Obligations.LoadResults : Prop :=
  (∀ i f size n, plainLoad i = some (f, size, n) → ∀ s c, Starts i s c →
    s.accessTrap c f.space.toNat size .read .plain true (c.accs f size) = none →
    ∃ s' g, ∃ seen : Lane → List Byte, CachesOnly s s' ∧ Done s' c g (exec i s) ∧ (∀ l ∈ act c, Sees s c f.space.toNat size (c.address f size l) (seen l)) ∧
      g = { c.g with x := g.x } ∧ WordsLoaded c f.d n (act c) seen g) ∧
  ∀ i f size conv, itvLoad i = some (f, size, conv) → ∀ s c, Starts i s c →
    s.accessTrap c f.space.toNat size .read .plain true (c.accs f size) = none →
    ∃ s' g, ∃ seen : Lane → List Byte, CachesOnly s s' ∧ Done s' c g (exec i s) ∧ (∀ l ∈ act c, Sees s c f.space.toNat size (c.address f size l) (seen l)) ∧
      LaneV c f.d (fun l => conv (seen l)) g

/-- LDFF, LDFE, LDMC and LDUN (R286, R287, R289, R290, R257, R278). -/
def Obligations.SpecialLoadResults : Prop :=
  (∀ (f : FormL) s c, Starts (.ldff f) s c →
    (∀ x ∈ c.accs f 4, alignTrap 4 x = none ∧ s.rangeTrap c.t f.space.toNat 4 .plain x = none) →
    s.accessTrap c f.space.toNat 4 .read .plain true ((c.accs f 4).take 1) = none →
    ∃ s' g done rest, ∃ seen : Lane → List Byte, CachesOnly s s' ∧ Done s' c g (exec (.ldff f) s) ∧ act c = done ++ rest ∧
      (act c ≠ [] → done ≠ []) ∧
      (∀ pre l post, done = pre ++ l :: post → CachesOnly s (ldffAt s c f pre) ∧ ldffTrap (ldffAt s c f pre) c f l = none ∧
        Sees (ldffAt s c f pre) c f.space.toNat 4 (c.address f 4 l) (seen l)) ∧
      (∀ l, rest.head? = some l → ldffTrap (ldffAt s c f done) c f l ≠ none) ∧ s' = ldffAt s c f done ∧
      g = { c.g with x := g.x, m := g.m } ∧ WordsLoaded c f.d 1 done seen g ∧
      (∀ r, r.toNat < 8 → g.getM r = if r = 7#6 then maskOf (fun l => decide (l ∈ done)) else c.g.getM r)) ∧
  (∀ (f : FormL) s c, Starts (.ldfe f) s c → s.accessTrap c f.space.toNat 4 .read .fullEmpty false (c.accs f 4) = none →
    (∀ k ∈ feLines s c f, IsFull s k) → s.ldfeAhead s.now (feLines s c f).eraseDups = false →
    ∃ s' g, ∃ seen : Lane → List Byte, s' = { s with teams := s'.teams } ∧ Done s' c g (exec (.ldfe f) s) ∧
      (∀ l ∈ act c, Sees s c f.space.toNat 4 (c.address f 4 l) (seen l)) ∧
      (∀ k, IsFull s' k ↔ IsFull s k ∧ k ∉ feLines s c f) ∧ (∀ p, byteOf s' p = byteOf s p) ∧
      g = { c.g with x := g.x } ∧ WordsLoaded c f.d 1 (act c) seen g) ∧
  (∀ (f : FormL) s c, Starts (.ldfe f) s c → s.accessTrap c f.space.toNat 4 .read .fullEmpty false (c.accs f 4) = none →
    (∃ k ∈ feLines s c f, ¬ IsFull s k) ∨ s.ldfeAhead s.now (feLines s c f).eraseDups = true →
    ∃ ad, Waits s c c.g (.ldfe f ad c.zeroed c.cur.next) (exec (.ldfe f) s)) ∧
  (∀ (f : FormL) s c, Starts (.ldmc f) s c → s.accessTrap c 0 4 .read .plain false (c.accs f 4) = none →
    ∃ s' g, ∃ seen : Lane → List Byte, s' = { s with
        cores := s'.cores, quadTlb := s'.quadTlb, mcasts := s'.mcasts, l2 := s'.l2, zipped := s'.zipped } ∧ L1AndTlb s s' ∧
      Done s' c g (exec (.ldmc f) s) ∧
      (∀ l ∈ act c, ∃ pa, physOf s c (c.address f 4 l) .read = some pa ∧
        (∀ e ∈ (s'.core c.t.core).l1, e.addr / 1024 ≠ pa / 1024) ∧
        ((seen l).length = 4 ∧ (∀ i, i < 4 → atHome s (∃ j ∈ act c, ∃ x,
            s.reach c.t.core c.part (c.address f 4 j) .read = .page x ∧ x.cl = 2) (pa + i) ((seen l).getD i 0#8)) ∨
          ∃ e ∈ s.mcasts, e.addr = pa / 256 * 256 ∧ s.now ≤ e.replied + 64 ∧ seen l = (e.bytes.drop (pa % 256)).take 4)) ∧
      g = { c.g with x := g.x } ∧ WordsLoaded c f.d 1 (act c) seen g) ∧
  (∀ (f : FormL) s c l, Starts (.ldun f) s c → (act c).head? = some l →
    s.accessTrap c f.space.toNat 4 .read .plain true [⟨if f.ub then none else some l, c.address f 4 l⟩] = none →
    ∃ s' g seen, CachesOnly s s' ∧ Done s' c g (exec (.ldun f) s) ∧ Sees s c f.space.toNat 4 (c.address f 4 l) seen ∧
      UniS c f.d (leWord seen 0) g) ∧
  ∀ (f : FormL) s c, Starts (.ldun f) s c → act c = [] → Done s c c.g (exec (.ldun f) s)

/-- Plain stores: the highest lane wins a byte, and every other byte of memory and scratchpad is unchanged; or the stores
are left on their way to their homes (R283, R284, R285, R252, R254, R352). -/
def Obligations.StoreResults : Prop :=
  ∀ i f size val, plainStore i = some (f, size, val) → ∀ s c, Starts i s c →
    s.accessTrap c f.space.toNat size .write .plain false (c.accs f size) = none →
    ∃ s' g, Done s' c g (exec i s) ∧ g = { c.g with gsr := g.gsr } ∧ FlagsRaised c g (fun l => (val c l).2) ∧
      (f.space ≠ 0#2 ∨ s.late = false → BytesOnly s s' ∧
        StoredBy s s' (act c) (storePlace s c f size) (fun l => (val c l).1)) ∧
      (f.space = 0#2 → s.late = true → L1AndTlb s s' ∧ s' = { s with
        cores := s'.cores, quadTlb := s'.quadTlb, flights := s.flights ++ storesLeft s c f size (fun l => (val c l).1) })

/-- STFE fills its lines, STX writes the back banks of the gang (R287, R291, R256, R257). -/
def Obligations.SpecialStoreResults : Prop :=
  (∀ (f : FormL) s c, Starts (.stfe f) s c → s.accessTrap c f.space.toNat 4 .write .fullEmpty false (c.accs f 4) = none →
    ∃ s', BytesOnly s s' ∧ Done s' c c.g (exec (.stfe f) s) ∧
      StoredBy s s' (act c) (storePlace s c f 4) (fun l => natBytes 4 (c.g.getX f.d l).toNat) ∧
      ∀ k, IsFull s' k ↔ IsFull s k ∨ k ∈ feLines s c f) ∧
  ∀ (f : FormL) s c, Starts (.stx f) s c → s.accessTrap c 2 4 .write .veneerBack false (c.accs f 4) = none →
    ∃ s', BytesOnly s s' ∧ Done s' c c.g (exec (.stx f) s) ∧
      StoredBy s s' (act c) (backPlace s c f) (fun l => natBytes 4 (c.g.getX f.d l).toNat)

/-- Atomics perform their lanes in increasing order, each getting the old value (R292, R293, R294, R263). -/
def Obligations.AtomicResults : Prop :=
  ∀ i f n new, atomicOp i = some (f, n, new) → ∀ s c, Starts i s c → BankSees s c f n →
    s.accessTrap c 0 n .write .atomic false (atomAccs c f) = none →
    ∃ s' g, s' = { s with
        cores := s'.cores, quadTlb := s'.quadTlb, mem := (atomicRun s c f n new).1, mcasts := s'.mcasts, l2 := s'.l2,
        zipped := s'.zipped, bad := s'.bad } ∧ (s.bad = [] → s'.bad = []) ∧ L1AndTlb s s' ∧
      Done s' c g (exec i s) ∧ (f.acq = true → (s'.core c.t.core).l1 = []) ∧
      (match i with
      | .avadd f =>
        let old (l : Lane) : Nat := oldOf (atomicRun s c f n new) l
        let got (l : Lane) : DWord × Flags :=
          let x := readF32 (BitVec.ofNat 64 (old l))
          let y := readF32 (c.g.getV f.b l)
          ((writeF32 x.1).1, x.2 ||| y.2 ||| (writeF32 (itvAdd x.1 y.1)).2)
        if f.d = 0#6 then g = { c.g with gsr := g.gsr } ∧ FlagsRaised c g (fun l => (got l).2) else LaneV c f.d got g
      | _ => g = { c.g with x := g.x } ∧
          if n = 8 ∧ f.d = 0#6 then ∀ r l, g.getX r l = c.g.getX r l
          else WordsLoaded c f.d (n / 4) (act c) (fun l => natBytes n (oldOf (atomicRun s c f n new) l)) g)

/-- A memory word with a bad lane has no effect: ALIGN, then SPRANGE, then a translation fault, lowest lane first
(R280, R282, R378, R379, R380, R385). -/
def Obligations.AccessChecksInOrder : Prop :=
  ∀ i f size need k, checked i = some (f, size, need, k) → ∀ s c, Starts i s c → ∀ l ∈ act c,
    (c.address f size l % size ≠ 0 → (∀ j ∈ act c, c.address f size j % size ≠ 0 → l ≤ j) →
      Trapped s c ⟨0x04#8, some l, 0#16, BitVec.ofNat 64 (c.address f size l)⟩ (exec i s)) ∧
    ((∀ j ∈ act c, c.address f size j % size = 0) →
      s.rangeTrap c.t f.space.toNat size k ⟨some l, c.address f size l⟩ ≠ none →
      (∀ j ∈ act c, s.rangeTrap c.t f.space.toNat size k ⟨some j, c.address f size j⟩ ≠ none → l ≤ j) →
      Trapped s c ⟨0x05#8, some l, 0#16, BitVec.ofNat 64 (c.address f size l)⟩ (exec i s)) ∧
    ((∀ j ∈ act c, c.address f size j % size = 0 ∧ s.rangeTrap c.t f.space.toNat size k ⟨some j, c.address f size j⟩ = none) →
      f.space = 0#2 → c.address f size l < 2 ^ 57 → s.reach c.t.core c.part (c.address f size l) need = .noMap false →
      (∀ j ∈ act c, j < l → ∃ x, c.address f size j < 2 ^ 57 ∧ s.reach c.t.core c.part (c.address f size j) need = .page x) →
      (c.g.tl = 0 → Waits s c c.g (.fault ⟨0x06#8, some l, if need = .write then 1#16 else 0#16, BitVec.ofNat 64 (c.address f size l)⟩)
        (exec i s)) ∧
      (c.g.tl ≠ 0 → s.serving c.part (c.address f size l) = true →
        Waits s c c.g (.fault ⟨0x06#8, some l, if need = .write then 1#16 else 0#16, BitVec.ofNat 64 (c.address f size l)⟩)
        (exec i s)) ∧
      (c.g.tl ≠ 0 → s.serving c.part (c.address f size l) = false →
        Trapped s c ⟨0x06#8, some l, if need = .write then 1#16 else 0#16, BitVec.ofNat 64 (c.address f size l)⟩ (exec i s)))

namespace Sys2Proof.Claims
open Sys2Proof.Machine Sys2Proof.Safety

/-! ### Asynchronous words (R46, R296 to R342) -/

/-- `s'` is `s` with the record of a team that stands there replaced. -/
def WithTeam (s : State) (u : Team) (s' : State) : Prop :=
  s' = { s with teams := s'.teams } ∧ ∀ n, s'.team n = if n = u.uid then some u else s.team n
/-- A handle in state 1 (R46). -/
def pending (g : Group) (r : Reg) : Prop := (g.getH r).toNat % 4 = 1
/-- Handle `d` becomes pending under its engine's number and the group's tag, and the tag advances (R46). -/
def HandleTaken (c : Ctx) (d : Reg) (eng : Nat) (ctr : DWord) (g : Group) : Prop :=
  g = { c.g with h := g.h, tag := c.g.tag + 1#16, rngCtr := ctr } ∧
    ∀ r, r.toNat < 16 → g.getH r = if r = d then c.g.tag ++ BitVec.ofNat 16 (1 + 256 * eng) else c.g.getH r
/-- A sequence number of an ordered object, taken where the word releases one: ISSUED advances (R355). -/
def SeqTaken (s : State) (part soid : Nat) (seq : Option Word) (s' : State) : Prop :=
  if (s.rbEntry part soid).kind = 2 then
    seq = some (s.rbEntry part soid).issued ∧ MemOnly s s' ∧
      s'.rbEntry part soid = { s.rbEntry part soid with issued := (s.rbEntry part soid).issued + 1#32 } ∧
      ∀ a, (a < s.rbAddr part soid ∨ s.rbAddr part soid + 32 ≤ a) → memGet s'.mem a = memGet s.mem a
  else seq = none ∧ s' = s
/-- A bit of a command block. -/
def blockBit (b : List DWord) (i k : Nat) : Bool := ((b[i]?).getD 0#64).getLsbD k
def blockField (b : List DWord) (i lo n : Nat) : Nat := ((b[i]?).getD 0#64).toNat / 2 ^ lo % 2 ^ n

/-- The window that a descriptor binds (R302). -/
def boundWindow (b : List DWord) : Window :=
  ⟨BitVec.ofNat 57 (blockField b 0 0 57), blockField b 1 0 32, blockField b 1 32 32, BitVec.ofNat 57 (blockField b 2 0 57),
    blockField b 3 0 25⟩

/-- Team `v` is `u` after a contribution of `n` to the arrival word at an offset: the count grows, and where it reaches the target
the generation advances and the rest is kept, with EXCEEDED where there is one (R258, R259). -/
def Contributed (u : Team) (off n : Nat) (v : Team) : Prop :=
  v = { u with scr := v.scr, venFront := v.venFront, bad := v.bad } ∧
    (∀ o, o ∈ v.bad ↔ o ∈ u.bad ∧ (o < off ∨ off + 16 ≤ o)) ∧
    (let a := u.arrival off
     let n := a.count + n
     v.arrival off = (if a.target ≤ n then
         { a with exceeded := a.exceeded || decide (a.target < n), count := (n - a.target) % 2 ^ 40, gen := (a.gen + 1) % 2 ^ 24 }
       else { a with count := n % 2 ^ 40 })) ∧
    ∀ o, (o < off ∨ off + 16 ≤ o) → v.scrGet o = u.scrGet o

/-- The copy words and their kinds. -/
def copyForm : Instr → Option (FormCpy × Nat)
  | .cpy f => some (f, 0)
  | .cpy2d f => some (f, 1)
  | .cpymc f => some (f, 2)
  | _ => none

/-- The tile and predictor words with a handle: the member, its engine, its block's doublewords and alignment, its
queue entries, and the doubleword with DEP and SOID. -/
def recordForm : Instr → Option (FormT × Nat × Nat × Nat × Nat × Nat × Nat)
  | .tload f => some (f, 2, 2, 8, 64, 1, 6)
  | .tmma f => some (f, 3, 2, 8, 64, 1, 6)
  | .tmmav f => some (f, 4, 2, 8, 64, 1, 6)
  | .tjoin f => some (f, 5, 2, 8, 64, 1, 6)
  | .tstore f => some (f, 6, 2, 8, 64, 1, 6)
  | .tksplit f => some (f, 7, 2, 8, 64, 1, 6)
  | .tgrp f => some (f, 9, 2, 8, 64, 1, 6)
  | .pscore f => some (f, 11, 3, 16, 128, 2, 10)
  | .psel f => some (f, 12, 3, 16, 128, 2, 10)
  | .pkerf f => some (f, 13, 3, 16, 128, 2, 10)
  | .pffn f => some (f, 14, 3, 16, 128, 2, 10)
  | _ => none
/-- The accumulator names of a block (R305, R312, R332). -/
def namesOf (fn : Nat) (b : List DWord) : List Nat :=
  if fn = 5 then (List.range 4).map fun k => blockField b 5 36 3 + k
  else if fn < 11 then [blockField b 5 36 3]
  else if fn = 14 then [blockField b 8 54 3] else []
/-- The block is legal for the member. -/
def blockLegal (s : State) (c : Ctx) (fn : Nat) (b : List DWord) : Prop :=
  if fn < 11 then tcbBad fn b = none ∧ (fn = 5 → ∃ g, c.t.info.gang = some g ∧ g.dom = 3 ∧ g.size = 4)
  else pcbBad fn c.t (s.slot c.t.core) b = none
/-- A valid accumulator name, and the physical slot that it names (R47). -/
def named (t : Team) (n : Nat) : Bool := (t.acc.get (Fin.ofNat 8 n)).toNat / 128 == 1
def slotNamed (t : Team) (n : Nat) : Nat := (t.acc.get (Fin.ofNat 8 n)).toNat % 8
/-- The entries that the core's tile task queue holds: two for a predictor record (R326), and none for the records of a team
that is swapped out, which are in its saved context (R63, R321). -/
def queued (s : State) (core : Nat) : Nat :=
  ((s.records.filter fun r => r.core == core &&
    !s.teams.any fun t => t.uid == r.team && (t.st == .swapped || t.st == .returning)).map fun r => if 11 ≤ r.fn ∧ r.fn < 15 then 2 else 1).sum
/-- A record as a word leaves it in the queue: nothing of it has started. -/
def NewRecord (s : State) (c : Ctx) (fn : Nat) (slots : List Nat) (block : List DWord) (r : Record) : Prop :=
  r.rid = s.fresh ∧ r.core = c.t.core ∧ r.team = c.t.uid ∧ r.gid = c.g.gid ∧ r.gslot = c.g.slot ∧ r.fn = fn ∧ r.slots = slots ∧
    r.block = block ∧ r.key = c.g.rngKey ∧ r.ctr = c.g.rngCtr ∧ r.started = false ∧ r.finished = false ∧ r.failed = false ∧
    r.cancelled = false ∧ r.released = false ∧ r.acquired = false ∧ r.step = 0 ∧ r.next = 0 ∧ r.eng = none ∧ r.joint = none ∧ r.stopped = false ∧ r.fault = none

/-- The words without a handle on one accumulator name: the member, the name, their block, and whether they run. -/
def slotForm : Instr → Option (Nat × Reg × (Ctx → Bool) × (Ctx → List DWord) × (Ctx → Bool))
  | .tzero f => some (1, f.d, fun c => c.g.n.get f.g.toFin, fun _ => [], fun _ => true)
  | .tscan f => some (8, f.d, fun c => c.g.n.get f.g.toFin, fun _ => [], fun _ => true)
  | .tshapeAcc f => some (16, f.d, fun _ => true, fun c => [(c.g.getS f.a).setWidth 64], fun c =>
      let w := (c.g.getS f.a).toNat
      decide (w / 2 ^ 15 = 0 ∧ w / 128 % 2 = 0 ∧ 1 ≤ w % 128 ∧ w % 128 ≤ 64 ∧ 1 ≤ w / 256 % 128 ∧ w / 256 % 128 ≤ 64))
  | _ => none

end Sys2Proof.Claims

/-- CPY, CPY2D and CPYMC start a copy under a handle, wait for a pending handle, or trap with CMDX (R296, R297, R298,
R299, R355, R46, R378). -/
def Obligations.CopyWords : Prop :=
  (∀ i f kind, copyForm i = some (f, kind) → ∀ s c b, Starts i s c → ¬ pending c.g f.d → c.pairAddr f.a % 64 = 0 →
    s.blockAt c.t.core c.part (c.pairAddr f.a) 8 = .ok b → s.ccbBad c.t kind b = none →
    ∃ s0 s1 s' g x, CachesOnly s s0 ∧
      (if f.rel = true ∧ blockBit b 7 17 = true then SeqTaken s0 c.part (blockField b 7 0 12) x.relSeq s1
        else s1 = s0 ∧ x.relSeq = none) ∧
      s' = { s1 with copies := s.copies ++ [x], fresh := s.fresh + 1 } ∧ Done s' c g (exec i s) ∧
      HandleTaken c f.d 1 c.g.rngCtr g ∧ x.gang = c.t.info.gang.map (fun g => (c.t.info.seq, g)) ∧ x.lowest = false ∧
      x.cid = s.fresh ∧ x.owner = .handle c.t.uid c.g.gid f.d.toNat c.g.tag ∧ x.core = c.t.core ∧ x.part = c.part ∧
      x.kind = kind ∧ x.ccb = b ∧ x.acq = f.acq ∧ x.rel = f.rel ∧ x.done = [] ∧ x.failed = false ∧ x.cancelled = false ∧
      x.stopped = false ∧ x.released = false ∧ x.acquired = false ∧ x.fault = none) ∧
  (∀ i f kind, copyForm i = some (f, kind) → ∀ s c, Starts i s c → pending c.g f.d →
    Waits s c c.g (.handle f.d.toNat) (exec i s)) ∧
  ∀ i f kind, copyForm i = some (f, kind) → ∀ s c b info, Starts i s c → ¬ pending c.g f.d → c.pairAddr f.a % 64 = 0 →
    s.blockAt c.t.core c.part (c.pairAddr f.a) 8 = .ok b → s.ccbBad c.t kind b = some info →
    ∃ s0, CachesOnly s s0 ∧ Trapped s0 c (groupTrap 0x0D#8 info (BitVec.ofNat 64 (c.pairAddr f.a))) (exec i s)

/-- GWBIND, GWFREE and ARRV (R302, R303, R271, R258, R259). -/
def Obligations.WindowAndArrivalWords : Prop :=
  (∀ (f : FormDA) s c b, Starts (.gwbind f) s c → c.pairAddr f.a % 8 = 0 →
    s.blockAt c.t.core c.part (c.pairAddr f.a) 4 = .ok b → windowBad b = none →
    ∃ s0 s', CachesOnly s s0 ∧
      WithTeam s0 { c.t with windows := c.t.windows.set (Fin.ofNat 16 f.d.toNat) (some (boundWindow b)) } s' ∧
      Done s' c c.g (exec (.gwbind f) s)) ∧
  (∀ (f : FormD) s c, Starts (.gwfree f) s c →
    ∃ s', WithTeam s { c.t with windows := c.t.windows.set (Fin.ofNat 16 f.d.toNat) none } s' ∧
      Done s' c c.g (exec (.gwfree f) s)) ∧
  ∀ (f : FormDAB) s c u off, Starts (.arrv f) s c → (c.g.getS f.a).toNat % 16 = 0 →
    s.scratch c.t f.d.toNat (c.g.getS f.a).toNat = some (u, off) → off + 16 ≤ u.hold.scr * 4096 → u.hold.scr ≤ 64 →
    ∃ s' v, WithTeam s v s' ∧ Done s' c c.g (exec (.arrv f) s) ∧ Contributed u off (c.g.getS f.b).toNat v

/-- Tile and predictor words append one record to their core's queue, or do nothing where their n-register is clear
(R305, R309, R310, R320, R321, R326, R327, R328, R342, R355, R46). -/
def Obligations.TileAndPredictorWords : Prop :=
  (∀ i f fn eng n al need sync, recordForm i = some (f, fn, eng, n, al, need, sync) → ∀ s c b, Starts i s c →
    c.g.getN (f.g.setWidth 6) = true → ¬ pending c.g f.d → c.pairAddr f.a % al = 0 →
    s.blockAt c.t.core c.part (c.pairAddr f.a) n = .ok b → (∀ k ∈ namesOf fn b, k < 8 → named c.t k = true) →
    blockLegal s c fn b → queued s c.t.core + need ≤ 32 →
    ∃ s0 s1 s' g r, CachesOnly s s0 ∧
      (if f.rel = true ∧ blockBit b sync 33 = true then SeqTaken s0 c.part (blockField b sync 16 12) r.relSeq s1
        else s1 = s0 ∧ r.relSeq = none) ∧
      s' = { s1 with records := s.records ++ [r], fresh := s.fresh + 1 } ∧ Done s' c g (exec i s) ∧
      HandleTaken c f.d eng (if fn = 6 ∧ blockField b 5 24 4 ≤ 3 then c.g.rngCtr + 128#64 else c.g.rngCtr) g ∧
      NewRecord s c fn ((namesOf fn b).map (slotNamed c.t)) b r ∧
      r.hasH = true ∧ r.h = f.d.toNat ∧ r.tag = c.g.tag ∧ r.acq = f.acq ∧ r.rel = f.rel ∧
      r.dep = BitVec.ofNat 16 (blockField b sync 0 16) ∧
      (∀ k, k < 16 → r.pend.getLsbD k = (r.dep.getLsbD k && decide ((c.g.getH (BitVec.ofNat 6 k)).toNat % 4 = 1))) ∧
      r.badDep = (List.range 16).any fun k => r.dep.getLsbD k && decide ((c.g.getH (BitVec.ofNat 6 k)).toNat % 4 = 3)) ∧
  (∀ i f fn eng n al need sync, recordForm i = some (f, fn, eng, n, al, need, sync) → ∀ s c, Starts i s c →
    (c.g.getN (f.g.setWidth 6) = false → Done s c c.g (exec i s)) ∧
    (c.g.getN (f.g.setWidth 6) = true → pending c.g f.d → Waits s c c.g (.handle f.d.toNat) (exec i s)) ∧
    ∀ b, c.g.getN (f.g.setWidth 6) = true → ¬ pending c.g f.d → c.pairAddr f.a % al = 0 →
      s.blockAt c.t.core c.part (c.pairAddr f.a) n = .ok b → (∀ k ∈ namesOf fn b, k < 8 → named c.t k = true) →
      blockLegal s c fn b → 32 < queued s c.t.core + need → ∃ s0, CachesOnly s s0 ∧ Waits s0 c c.g .stall (exec i s)) ∧
  (∀ i fn d on block ok, slotForm i = some (fn, d, on, block, ok) → ∀ s c, Starts i s c →
    (on c = false → Done s c c.g (exec i s)) ∧
    (on c = true → named c.t d.toNat = true → ok c = true → queued s c.t.core + 1 ≤ 32 → ∃ s' r, s' = { s with records := s.records ++ [r], fresh := s.fresh + 1 } ∧
      Done s' c c.g (exec i s) ∧ NewRecord s c fn [slotNamed c.t d.toNat] (block c) r ∧ r.hasH = false) ∧
    (on c = true → named c.t d.toNat = true → ok c = true → 32 < queued s c.t.core + 1 → Waits s c c.g .stall (exec i s))) ∧
  (∀ (f : FormShapeP) s c, Starts (.tshapePred f) s c → ∃ g, Done s c g (exec (.tshapePred f) s) ∧
    g = { c.g with n := g.n } ∧ ∀ r, r.toNat < 16 →
      g.getN r = if r = f.n.setWidth 6 then decide (c.g.getS f.a ≠ 0#32) else c.g.getN r) ∧
  (∀ (f : FormC) s c, Starts (.twake f) s c → ∃ s', Done s' c c.g (exec (.twake f) s) ∧ s' = { s with cores := s'.cores } ∧
    ∀ k : Fin 768, s'.cores.get k = if (c.t.core % 768) / 4 = k.val / 4 then
      { s.cores.get k with arraysOn := true, arraysIdle := s.now } else s.cores.get k) ∧
  ∀ (f : FormDS) s c, Starts (.pstat f) s c → ∃ s' g, Done s' c g (exec (.pstat f) s) ∧
    UniS c f.d (c.t.predCtr.get (Fin.ofNat 6 (f.s.toNat % 32))) g ∧
    WithTeam s (if f.s.toNat < 32 then c.t else
      { c.t with predCtr := c.t.predCtr.set (Fin.ofNat 6 (f.s.toNat % 32)) 0#32 }) s'

namespace Sys2Proof.Claims
open Sys2Proof.Machine Sys2Proof.Safety

/-! ### Barriers (R361 to R367) -/

def memberCount (p : Path) : Nat := allLanes.countP fun l => laneOn p.members l
/-- An arrival that SYNCX does not stop (R361), on a barrier of the team. -/
def legalArrival (t : Team) (b e : Nat) : Prop :=
  b < t.hold.bar ∧ b < t.bars.length ∧ e ≤ 2016 ∧ ∀ x, t.bars[b]? = some x → x.opened = true → x.exp = e
/-- The team after the arrival of a path: the barrier is open with its expectation, and counts the path's members. -/
def arrived (t : Team) (b e : Nat) (p : Path) : Team :=
  match t.bars[b]? with
  | some x => { t with bars := t.bars.set b ⟨x.ph, e, true, if e = 0 then x.cnt else x.cnt + memberCount p⟩ }
  | none => t
def arrivals (t : Team) (b : Nat) (p : Path) : Nat := ((t.bars[b]?).map fun x => x.cnt).getD 0 + memberCount p
def phaseOf (t : Team) (b : Nat) : BitVec 16 := ((t.bars[b]?).map fun x => x.ph).getD 0#16
/-- No other phase of the team is due: each counts fewer than it expects. -/
def othersQuiet (t : Team) (b : Nat) : Prop :=
  ∀ n x, n ≠ b → t.bars[n]? = some x → x.opened = true → x.exp ≠ 0 → x.cnt < x.exp
/-- Every other path of the team waits in BAR on `b` (R363, mode all). -/
def othersIn (s : State) (c : Ctx) (b : Nat) : Prop :=
  (∀ g ∈ s.groups, g.team = c.t.uid → g.gid ≠ c.g.gid → ∀ p ∈ g.paths, p.inBar b = true) ∧
    ∀ p ∈ c.g.paths, p.pid ≠ c.cur.pid → p.inBar b = true
/-- No armed flag is set in a group of the team (R366). -/
def noArmed (s : State) (uid : Nat) : Prop := ∀ g ∈ s.groups, g.team = uid → ∀ h, s.group g.gid = some h →
  ∀ k, k < 6 → ¬ (h.gsr.getLsbD k = true ∧ h.gsr.getLsbD (k + 8) = true)
/-- Where a path goes when the phase of `b` completes and its PH becomes `ph`. -/
def goesOn (b : Nat) (ph : BitVec 16) (p : Path) : Option VAddr :=
  match p.wait with
  | some w => if w.ended then none else match w.kind with
    | .bar n _ next => if n = b then some next else none
    | .barw n tok _ next => if n = b ∧ tok ≠ ph then some next else none
    | _ => none
  | none => none
/-- The path in hand stands at its next word, and so does every other path of the group whose wait has ended. -/
def Resumed (c : Ctx) (g : Group) (ends : Path → Option VAddr) (t : State) : Prop :=
  ∃ h, t.group c.g.gid = some h ∧ h = { g with paths := h.paths } ∧ h.path c.cur.pid = some (c.p.past c.cur.next) ∧
    ∀ n, n ≠ c.cur.pid → h.path n = (c.g.path n).map fun p => match ends p with
      | some a => p.past a
      | none => p
/-- The ACQ bit of the barrier wait that a path stands in. -/
def acqOf (p : Path) : Bool :=
  match p.wait with
  | some w => match w.kind with
    | .bar _ acq _ => acq
    | .barw _ _ acq _ => acq
    | .barx acq _ => acq
    | _ => false
  | none => false
/-- A wait that ends in a team has ACQ: the one of the path in hand, or of another path. -/
def acquires (s : State) (c : Ctx) (acq : Bool) (ends : Path → Option VAddr) (u : Team) : Bool :=
  (u.uid == c.t.uid && acq) || s.groups.any fun h => h.team == u.uid && h.paths.any fun p =>
    !(h.gid == c.g.gid && p.pid == c.cur.pid) && (ends p).isSome && acqOf p
/-- The barrier waits of some teams have ended: every path that `ends` names stands at its next word, and the L1 of a team's
core is empty where one of its waits had ACQ. No other path, group or core differs (R363, R366, R368). -/
def WaitsEnded (s : State) (c : Ctx) (g : Group) (acq : Bool) (teams : List Team) (ends : Path → Option VAddr) (t : State) : Prop :=
  Resumed c g ends t ∧
    (∀ n, n ≠ c.g.gid → t.group n = (s.group n).map fun h => if teams.any (fun u => u.uid == h.team) = true then
      { h with paths := h.paths.map fun p => match ends p with
          | some a => p.past a
          | none => p } else h) ∧
    ∀ k, t.core k = if teams.any (fun u => u.core % 768 == k % 768 && acquires s c acq ends u) = true
      then { s.core k with l1 := [] } else s.core k
/-- The phase has completed: the barrier is idle one phase on, and the paths of the team that waited for it, with the path in
hand, stand at their next words. -/
def PhaseDone (s : State) (c : Ctx) (g : Group) (b : Nat) (acq : Bool) (t : State) : Prop :=
  t = { s with groups := t.groups, teams := t.teams, cores := t.cores } ∧
    (∀ n, t.team n = if n = c.t.uid then some { c.t with bars := c.t.bars.set b ⟨phaseOf c.t b + 1#16, 0, false, 0⟩ } else s.team n) ∧
    WaitsEnded s c g acq [c.t] (goesOn b (phaseOf c.t b + 1#16)) t
/-- The writes on their way that `which` names have reached their homes, the oldest first, but for the bytes of a region binding
table (R345, R352, R356). -/
def Landed (s : State) (which : Flight → Bool) (s1 : State) : Prop :=
  MemOnly { s with flights := s.flights.filter fun f => !which f } s1 ∧
    ∀ a, memGet s1.mem a = if s.inTable a = true then memGet s.mem a
      else ((s.flights.filter which).foldl (fun bs f => f.lay a bs) [memGet s.mem a]).headD 0#8
/-- The writes on their way that a party sees, a core's lanes those of that core, are performed to the classes of a mask within
a scope: at their homes where that reaches the host, a peer or every class of the package, in the order in which they were
written and but for the bytes of a region binding table; else every party of a class that stands in the same instance of the
scope sees them (R345, R352, R353, R357). -/
def PublishesAs (s : State) (p : Party) (mask : BitVec 5) (scope : Nat) (s1 : State) : Prop :=
  let sc := max scope (if mask.getLsbD 3 = true then 7 else if mask.getLsbD 4 = true then 6 else 0)
  if mask.getLsbD 3 = true ∨ mask.getLsbD 4 = true ∨ 6 ≤ sc ∧ mask.getLsbD 0 = true ∧ mask.getLsbD 1 = true ∧ mask.getLsbD 2 = true then
    Landed s (fun f => f.seenBy p) s1
  else s1 = { s with flights := s.flights.map fun f => match p.at_.inst sc with
      | some n => if f.seenBy p = true then { f with seen := (mask, sc, n) :: f.seen } else f
      | none => f }
def Publishes (s : State) (core : Nat) (mask : BitVec 5) (scope : Nat) (s1 : State) : Prop := PublishesAs s (laneParty core) mask scope s1
/-- REL of a word: a release fence, where the word has it. -/
def MaybePublishes (s : State) (rel : Bool) (core : Nat) (mask : BitVec 5) (scope : Nat) (s1 : State) : Prop :=
  if rel = true then Publishes s core mask scope s1 else s1 = s
/-- `s'` is `s` with the L1 data cache of a core empty. -/
def Emptied (s : State) (core : Nat) (s' : State) : Prop :=
  s' = { s with cores := s'.cores } ∧
    ∀ k, s'.core k = if k % 768 = core % 768 then { s.core k with l1 := [] } else s.core k
def MaybeEmptied (s : State) (core : Nat) (acq : Bool) (s' : State) : Prop := if acq = true then Emptied s core s' else s' = s
/-- The barrier words that wait: their ACQ bit. -/
def barrierWord : Instr → Option Bool
  | .bar f => some f.acq
  | .barw f => some f.acq
  | .barx f => some f.acq
  | _ => none
/-- Where a path goes when the cluster barrier completes. -/
def leavesBarx (p : Path) : Option VAddr :=
  match p.wait with
  | some w => if w.ended then none else match w.kind with
    | .barx _ next => some next
    | _ => none
  | none => none
/-- The teams of the gang that have not retired (R254). -/
def gangOf (s : State) (c : Ctx) : List Team :=
  s.teams.filter fun u => decide (u.info.seq = c.t.info.seq ∧ u.info.gang = c.t.info.gang)
/-- Every other path of the gang's teams waits in BARX. -/
def othersInBarx (s : State) (c : Ctx) : Prop :=
  (∀ u ∈ gangOf s c, ∀ g ∈ s.groups, g.team = u.uid → g.gid ≠ c.g.gid → ∀ p ∈ g.paths, p.inBarx = true) ∧
    ∀ p ∈ c.g.paths, p.pid ≠ c.cur.pid → p.inBarx = true

/-! ### Sync objects and claims -/

/-- Entry `soid` of the partition's table reads `e`, and no byte outside it has changed. -/
def EntryIs (s : State) (part soid : Nat) (e : RbEntry) (s' : State) : Prop :=
  MemOnly s s' ∧ s'.rbEntry part soid = e ∧
    ∀ a, (a < s.rbAddr part soid ∨ s.rbAddr part soid + 32 ≤ a) → memGet s'.mem a = memGet s.mem a
/-- A handle in state 2 (R46). -/
def complete (g : Group) (r : Reg) : Bool := (g.getH r).toNat % 4 == 2
def low12 (w : Word) : Nat := w.toNat % 4096
/-- The first step of a release of an object: the lanes' writes are performed within its scope, where the core stands inside
it; a release from outside forms no edge (R347, R352). -/
def ReleaseStarts (s : State) (core : Nat) (mask : BitVec 5) (e : RbEntry) (s1 : State) : Prop :=
  if (Station.core core).inst e.scope = some e.inst then Publishes s core mask e.scope s1 else s1 = s
/-- The lines of a core's L1 after an acquire of an object: those of its region dropped, or all where SIZE is 0 (R352). -/
def Acquired (s : State) (core : Nat) (e : RbEntry) (s' : State) : Prop :=
  s' = { s with cores := s'.cores } ∧ ∀ k, s'.core k = if k % 768 = core % 768 then { s.core k with
    l1 := (s.core k).l1.filter fun x => decide (e.size ≠ 0 ∧ (x.vaddr / 1024 * 1024 + 1024 ≤ e.base ∨ e.base + e.size ≤ x.vaddr / 1024 * 1024)) }
    else s.core k

/-- A claim vector in a register (R16), and one that fits under another, with no reserved bit. -/
def vectorOf (w : Word) : Claim := ⟨w.toNat % 32, w.toNat / 32 % 128, w.toNat / 4096 % 16, w.toNat / 65536 % 512⟩
def fitsIn (w : Word) (c : Claim) : Prop :=
  w.toNat / 2 ^ 25 = 0 ∧ (vectorOf w).reg ≤ c.reg ∧ (vectorOf w).scr ≤ c.scr ∧ (vectorOf w).acc ≤ c.acc ∧ (vectorOf w).bar ≤ c.bar
def headroomOf (t : Team) : Claim :=
  ⟨t.info.claim.reg - t.hold.reg, t.info.claim.scr - t.hold.scr, t.info.claim.acc - t.hold.acc, t.info.claim.bar - t.hold.bar⟩
/-- The granule of an x-register or v-register (R48). -/
def granule (v : Bool) (r : Reg) : Nat := if v then 3 * (r.toNat / 8) + 1 + r.toNat % 8 / 4 else 3 * (r.toNat / 8)
/-- The banker grants `q` to the team of the word (R140). -/
def granted (s : State) (c : Ctx) (q : Claim) : Bool := s.mayGrant c.t { q with reg := q.reg * (s.groups.filter fun g => g.team == c.t.uid).length }
/-- `h` is the group `g` of the team in hand with the registers of the granted granules zero (R50). -/
def WidenedFrom (c : Ctx) (q : Claim) (g h : Group) : Prop :=
  h = { g with x := h.x, v := h.v } ∧
    (∀ r l, h.getX r l = if c.t.hold.reg ≤ granule false r ∧ granule false r < c.t.hold.reg + q.reg then 0#32 else g.getX r l) ∧
    ∀ r l, h.getV r l = if c.t.hold.reg ≤ granule true r ∧ granule true r < c.t.hold.reg + q.reg then 0#64 else g.getV r l
def Widened (c : Ctx) (q : Claim) (g : Group) : Prop := WidenedFrom c q c.g g
/-- The names and slots of a grant: the lowest names that are clear, with the core's free slots in increasing order (R47). -/
def slotsGranted (s : State) (c : Ctx) (n : Nat) : List (Nat × Nat) :=
  (((List.range 8).filter fun i => !named c.t i).take n).zip
    ((List.range 8).filter fun k => ((s.core c.t.core).acc.get (Fin.ofNat 8 k)).team.isNone)
/-- The names that a release clears: the highest valid ones (R136). -/
def namesReleased (c : Ctx) (n : Nat) : List Nat := ((List.range 8).reverse.filter fun i => named c.t i).take n
/-- HOLD has grown by `q`: new granules of scratchpad read zero, new barriers are idle, and new accumulator names hold
slots that were free, as after reset; what the team held before, it holds as before (R47, R136). -/
def HoldGrown (s : State) (c : Ctx) (q : Claim) (s' : State) : Prop :=
  s' = { s with teams := s'.teams, groups := s'.groups, cores := s'.cores } ∧
    (∀ k, s'.core k = { s.core k with acc := (s'.core k).acc }) ∧ (∀ n, n ≠ c.t.uid → s'.team n = s.team n) ∧
    (∀ n h, s.group n = some h → h.team ≠ c.t.uid → s'.group n = some h) ∧
    (∀ n h, s.group n = some h → h.team = c.t.uid → ∃ h', s'.group n = some h' ∧ WidenedFrom c q h h') ∧
    (∀ k (j : Fin 8), (s'.core k).acc.get j =
      if k % 768 = c.t.core % 768 ∧ (slotsGranted s c q.acc).any (fun p => p.2 == j.val) = true
      then ⟨some c.t.uid, 0x00404000#32, [], false⟩ else (s.core k).acc.get j) ∧
    ∃ u, s'.team c.t.uid = some u ∧
      u = { c.t with hold := u.hold, scr := u.scr, full := u.full, bad := u.bad, bars := u.bars, acc := u.acc } ∧
      (∀ o, o ∈ u.bad ↔ o ∈ c.t.bad ∧ o < c.t.hold.scr * 4096) ∧
      u.hold = ⟨c.t.hold.reg + q.reg, c.t.hold.scr + q.scr, c.t.hold.acc + q.acc, c.t.hold.bar + q.bar⟩ ∧
      u.bars = c.t.bars ++ List.replicate q.bar ⟨0#16, 0, false, 0⟩ ∧
      (∀ o, memGet u.scr o = if c.t.hold.scr * 4096 ≤ o ∧ o < (c.t.hold.scr + q.scr) * 4096 then 0#8 else memGet c.t.scr o) ∧
      (∀ n, n ∈ u.full ↔ n ∈ c.t.full ∧ n < c.t.hold.scr * 32) ∧
      ∀ i : Fin 8, u.acc.get i = match (slotsGranted s c q.acc).find? fun p => p.1 == i.val with
        | some p => 0x80#8 ||| BitVec.ofNat 8 p.2
        | none => c.t.acc.get i
/-- HOLD has shrunk by `q`, from the top (R136). -/
def HoldShrunk (s : State) (c : Ctx) (q : Claim) (s' : State) : Prop :=
  s' = { s with teams := s'.teams, cores := s'.cores } ∧ (∀ k, s'.core k = { s.core k with acc := (s'.core k).acc }) ∧
    (∀ n, n ≠ c.t.uid → s'.team n = s.team n) ∧
    (∀ k (j : Fin 8), (s'.core k).acc.get j =
      if k % 768 = c.t.core % 768 ∧ (namesReleased c q.acc).any (fun i => slotNamed c.t i == j.val) = true
      then ⟨none, 0x00404000#32, [], false⟩ else (s.core k).acc.get j) ∧
    ∃ u, s'.team c.t.uid = some u ∧
      u = { c.t with hold := u.hold, scr := u.scr, full := u.full, bad := u.bad, bars := u.bars, acc := u.acc } ∧
      (∀ o, o ∈ u.bad ↔ o ∈ c.t.bad ∧ o < (c.t.hold.scr - q.scr) * 4096) ∧
      (∀ o, (c.t.hold.scr - q.scr) * 4096 ≤ o → memGet u.scr o = 0#8) ∧
      u.hold = ⟨c.t.hold.reg - q.reg, c.t.hold.scr - q.scr, c.t.hold.acc - q.acc, c.t.hold.bar - q.bar⟩ ∧
      u.bars = c.t.bars.take (c.t.hold.bar - q.bar) ∧
      (∀ o, o < (c.t.hold.scr - q.scr) * 4096 → memGet u.scr o = memGet c.t.scr o) ∧
      (∀ n, n ∈ u.full ↔ n ∈ c.t.full ∧ n < (c.t.hold.scr - q.scr) * 32) ∧
      ∀ i : Fin 8, u.acc.get i = if (namesReleased c q.acc).any (fun n => n == i.val) = true then 0#8 else c.t.acc.get i

/-- The team with a request of the path in hand behind those that it has (R142). -/
def asking (s : State) (c : Ctx) (q : Claim) : Team := { c.t with reqs := c.t.reqs ++ [⟨c.g.gid, c.p.pid, q, s.now⟩] }
/-- What RQRY answers (R149). -/
def claimAnswer (s : State) (c : Ctx) : Nat → Option Word
  | 0 => some (claimWord c.t.info.claim)
  | 1 => some (claimWord c.t.hold)
  | 2 => some (match c.t.reqs.head? with
      | some r => claimWord r.want
      | none => 0#32)
  | 3 => some (claimWord (headroomOf c.t))
  | 4 =>
    let f := freeOf (s.loads c.t.core)
    some (claimWord ⟨min 24 (f.reg / c.t.info.gpt), min 64 f.scr, min 8 f.acc, min 256 f.bar⟩)
  | _ => none

end Sys2Proof.Claims

/-- BAR, BARA and BARW: an arrival counts its members, completes the phase or waits; REL comes before it, as a release fence
(R361, R362, R363, R364, R365, R366). -/
def Obligations.BarrierArrivals : Prop :=
  (∀ (f : FormBar) s c, Starts (.bar f) s c → c.g.tl = 0 → c.p.wait = none →
    ∀ b e, b = (c.g.getS f.a).toNat → e = (c.g.getS f.b).toNat → legalArrival c.t b e → othersQuiet c.t b →
    ((if e = 0 then ¬ othersIn s c b else arrivals c.t b c.p < e) →
      ∃ s0 s', MaybePublishes s f.rel c.t.core 1#5 2 s0 ∧ WithTeam s0 (arrived c.t b e c.p) s' ∧
        Waits s' c c.g (.bar b f.acq c.cur.next) (exec (.bar f) s)) ∧
    ((if e = 0 then othersIn s c b else e ≤ arrivals c.t b c.p) → noArmed s c.t.uid → Numbered s →
      ∃ s0 t, MaybePublishes s f.rel c.t.core 1#5 2 s0 ∧ exec (.bar f) s = .next t ∧ PhaseDone s0 c c.g b f.acq t)) ∧
  (∀ (f : FormBarA) s c, Starts (.bara f) s c → c.g.tl = 0 →
    ∀ b e, b = (c.g.getS f.a).toNat → e = (c.g.getS f.b).toNat → e ≠ 0 → legalArrival c.t b e → othersQuiet c.t b →
    (arrivals c.t b c.p < e → ∃ s0 s' g, MaybePublishes s f.rel c.t.core 1#5 2 s0 ∧ WithTeam s0 (arrived c.t b e c.p) s' ∧
      Done s' c g (exec (.bara f) s) ∧ UniS c f.d ((phaseOf c.t b).setWidth 32) g) ∧
    (e ≤ arrivals c.t b c.p → noArmed s c.t.uid → Numbered s → ∃ s0 t g, MaybePublishes s f.rel c.t.core 1#5 2 s0 ∧
      exec (.bara f) s = .next t ∧ PhaseDone s0 c g b false t ∧ UniS c f.d ((phaseOf c.t b).setWidth 32) g)) ∧
  ∀ (f : FormBarW) s c, Starts (.barw f) s c → c.g.tl = 0 → c.ended = none →
    ∀ b, b = (c.g.getS f.a).toNat → b < c.t.hold.bar →
    (phaseOf c.t b = (c.g.getS f.b).setWidth 16 →
      Waits s c c.g (.barw b ((c.g.getS f.b).setWidth 16) f.acq c.cur.next) (exec (.barw f) s)) ∧
    (phaseOf c.t b ≠ (c.g.getS f.b).setWidth 16 → c.g.armed = 0 →
      ∃ s', MaybeEmptied s c.t.core f.acq s' ∧ Done s' c c.g (exec (.barw f) s)) ∧
    (phaseOf c.t b ≠ (c.g.getS f.b).setWidth 16 → c.g.armed ≠ 0 → ∃ s', MaybeEmptied s c.t.core f.acq s' ∧
      TrappedAfter s' c ⟨0x0F#8, none, BitVec.ofNat 16 c.g.armed, 0#64⟩ (exec (.barw f) s))

/-- The end of a barrier wait, and BARX over a gang: REL, the wait, and the last arrival, which exchanges every bank pair and
ends every wait of the gang (R366, R367, R368, R256). -/
def Obligations.BarrierEnds : Prop :=
  (∀ i acq, barrierWord i = some acq → ∀ s c, Starts i s c → c.g.tl = 0 → c.ended ≠ none →
    ∃ s', MaybeEmptied s c.t.core acq s' ∧
      (c.g.gsr &&& (c.g.gsr >>> 8) &&& 0x3F#32 = 0#32 → Done s' c c.g (exec i s)) ∧
      (c.g.gsr &&& (c.g.gsr >>> 8) &&& 0x3F#32 ≠ 0#32 →
        TrappedAfter s' c ⟨0x0F#8, none, (c.g.gsr &&& (c.g.gsr >>> 8) &&& 0x3F#32).setWidth 16, 0#64⟩ (exec i s))) ∧
  (∀ (f : FormBarX) s c, Starts (.barx f) s c → c.g.tl = 0 → c.ended = none → c.t.info.gang = none →
    Trapped s c (groupTrap 0x0E#8 3) (exec (.barx f) s)) ∧
  (∀ (f : FormBarX) s c gang, Starts (.barx f) s c → c.g.tl = 0 → c.p.wait = none → c.t.info.gang = some gang →
    ¬ othersInBarx s c → ∃ s0, MaybePublishes s f.rel c.t.core 1#5 gang.dom s0 ∧
      Waits s0 c c.g (.barx f.acq c.cur.next) (exec (.barx f) s)) ∧
  ∀ (f : FormBarX) s c gang, Starts (.barx f) s c → c.g.tl = 0 → c.p.wait = none → c.t.info.gang = some gang →
    othersInBarx s c → (∀ u ∈ gangOf s c, noArmed s u.uid) → Numbered s →
    ∃ s0 t, MaybePublishes s f.rel c.t.core 1#5 gang.dom s0 ∧ exec (.barx f) s = .next t ∧
      t = { s0 with groups := t.groups, teams := t.teams, cores := t.cores } ∧
      (∀ n, t.team n = (s.team n).map fun u => if u.info.seq = c.t.info.seq ∧ u.info.gang = c.t.info.gang then
        { u with venFront := u.venBack, venBack := u.venFront } else u) ∧
      WaitsEnded s0 c c.g f.acq (gangOf s c) leavesBarx t

/-- SOBIND, SOACQ, SOREL and FENCE: the entry, the target, the writes that a release performs, and the L1 that an acquire
empties (R345, R347, R352, R353, R355, R369, R370, R371, R372). -/
def Obligations.SyncObjectWords : Prop :=
  (∀ (f : FormAB) s c, Starts (.sobind f) s c → (s.part c.part).st ≠ .unconfigured → (c.g.getS f.a).toNat / 2 ^ 19 = 0 →
    (c.g.getS f.a).getLsbD 15 = false →
    let kind := (c.g.getS f.a).toNat / 2 ^ 12 % 8
    let lvl := (c.g.getS f.a).toNat / 2 ^ 16 % 8
    let base := (c.g.getS f.b).toNat + 2 ^ 32 * (c.g.getS (f.b + 1#6)).toNat
    let size := (c.g.getS (f.b + 2#6)).toNat + 2 ^ 32 * (c.g.getS (f.b + 3#6)).toNat
    let e := s.rbEntry c.part (low12 (c.g.getS f.a))
    (kind = 0 → s.acquireWaits c.part (low12 (c.g.getS f.a)) = false → e.issued = e.rels →
      ∃ s', EntryIs s c.part (low12 (c.g.getS f.a)) ⟨0, 0, 0, 0, 0, 0#32, 0#32⟩ s' ∧ Done s' c c.g (exec (.sobind f) s)) ∧
    ∀ level, 1 ≤ kind → kind ≤ 3 → base < 2 ^ 57 → size < 2 ^ 40 → 2 ≤ lvl → c.t.info.levels[lvl]? = some level →
      (kind = 3 → size = 0 ∧ 6 ≤ level.scope) → e.kind = 0 →
      ∃ s', EntryIs s c.part (low12 (c.g.getS f.a))
          ⟨base, kind, level.scope % 8, size, scopeInst level.scope c.t.core % 2 ^ 24, 0#32, 0#32⟩ s' ∧
        Done s' c c.g (exec (.sobind f) s)) ∧
  (∀ (f : FormDAB) s c, Starts (.soacq f) s c → c.ended = none → (c.g.getS f.a).toNat / 2 ^ 18 = 0 →
    let e := s.rbEntry c.part (low12 (c.g.getS f.a))
    e.kind ≠ 0 →
    ((c.g.getS f.a).getLsbD 17 = true → 2 ^ 31 ≤ (e.rels - c.g.getS f.b).toNat →
      Waits s c c.g (.soacq (low12 (c.g.getS f.a)) (c.g.getS f.b)) (exec (.soacq f) s)) ∧
    ((c.g.getS f.a).getLsbD 17 = false ∨ (e.rels - c.g.getS f.b).toNat < 2 ^ 31 →
      ∃ s' g, Acquired s c.t.core e s' ∧ Done s' c g (exec (.soacq f) s) ∧ UniS c f.d e.rels g)) ∧
  (∀ (f : FormDAB) s c w, Starts (.soacq f) s c → c.ended = some w →
    ∃ s' g, Acquired s c.t.core (s.rbEntry c.part (low12 (c.g.getS f.a))) s' ∧ Done s' c g (exec (.soacq f) s) ∧ UniS c f.d w g) ∧
  (∀ (f : FormA) s c, Starts (.sorel f) s c → (c.g.getS f.a).toNat / 2 ^ 17 = 0 →
    let e := s.rbEntry c.part (low12 (c.g.getS f.a))
    let obs := (c.g.getS f.a).extractLsb' 12 5
    (e.kind = 0 ∨ e.kind = 3 → Trapped s c (groupTrap 0x0E#8 7) (exec (.sorel f) s)) ∧
    (e.kind = 1 ∨ 4 ≤ e.kind → ∃ s1 s', ReleaseStarts s c.t.core obs e s1 ∧
      EntryIs s1 c.part (low12 (c.g.getS f.a)) { e with rels := e.rels + 1#32 } s' ∧ Done s' c c.g (exec (.sorel f) s)) ∧
    (e.kind = 2 → e.issued = e.rels → ∃ s1 s', ReleaseStarts s c.t.core obs e s1 ∧ EntryIs s1 c.part (low12 (c.g.getS f.a))
      { e with issued := e.issued + 1#32, rels := e.rels + 1#32 } s' ∧ Done s' c c.g (exec (.sorel f) s)) ∧
    (e.kind = 2 → e.issued ≠ e.rels → ∃ s0 s1 s', ReleaseStarts s c.t.core obs e s0 ∧
      EntryIs s0 c.part (low12 (c.g.getS f.a)) { e with issued := e.issued + 1#32 } s1 ∧
      s' = { s1 with rels := s.rels ++ [⟨c.part, low12 (c.g.getS f.a), e.issued, some c.t.uid⟩] } ∧
      Done s' c c.g (exec (.sorel f) s))) ∧
  ∀ (f : FormFence) s c, Starts (.fence f) s c → ∃ s1 s', MaybePublishes s f.rel c.t.core f.m f.s.toNat s1 ∧
    MaybeEmptied s1 c.t.core f.acq s' ∧ Done s' c c.g (exec (.fence f) s)

/-- HWAIT, HTEST, HCANCEL and AWAIT: a handle or arrival that is read as complete leaves the core's L1 empty (R46, R348, R350,
R373, R374, R375, R376, R258, R317). -/
def Obligations.FutureWords : Prop :=
  (∀ (f : FormDA) s c, Starts (.hwait f) s c →
    (pending c.g f.a → Waits s c c.g (.handle f.a.toNat) (exec (.hwait f) s)) ∧
    (¬ pending c.g f.a → ∃ s' g, MaybeEmptied s c.t.core (complete c.g f.a) s' ∧ Done s' c g (exec (.hwait f) s) ∧
      UniS c f.d (BitVec.ofNat 32 ((c.g.getH f.a).toNat % 4)) g)) ∧
  (∀ (f : FormDA) s c, Starts (.htest f) s c → ∃ s' g, MaybeEmptied s c.t.core (complete c.g f.a) s' ∧
    Done s' c g (exec (.htest f) s) ∧ UniS c f.d (c.g.getH f.a) g) ∧
  (∀ (f : FormA) s c, Starts (.hcancel f) s c →
    ((c.g.getH f.a).toNat % 4 = 0 → Done s c c.g (exec (.hcancel f) s)) ∧
    ((c.g.getH f.a).toNat % 4 = 2 ∨ (c.g.getH f.a).toNat % 4 = 3 → ∃ g, Done s c g (exec (.hcancel f) s) ∧
      g = { c.g with h := g.h } ∧ ∀ r, r.toNat < 16 → g.getH r = if r = f.a then 0#32 else c.g.getH r) ∧
    (pending c.g f.a → (c.g.getH f.a).toNat / 256 % 16 = 1 → ∃ s', s' = { s with copies := s'.copies } ∧
      Done s' c c.g (exec (.hcancel f) s) ∧ s'.copies.length = s.copies.length ∧
      ∀ (n : Nat) x, s.copies[n]? = some x → ∃ y, s'.copies[n]? = some y ∧ y = { x with cancelled := y.cancelled } ∧
        (y.cancelled = true ↔ x.cancelled = true ∨ x.finished = false ∧
          ∃ uid, x.owner = .handle uid c.g.gid f.a.toNat ((c.g.getH f.a).extractLsb' 16 16))) ∧
    (pending c.g f.a → (c.g.getH f.a).toNat / 256 % 16 = 2 ∨ (c.g.getH f.a).toNat / 256 % 16 = 3 →
      ∃ s', s' = { s with records := s'.records } ∧ Done s' c c.g (exec (.hcancel f) s) ∧
      s'.records.length = s.records.length ∧
      ∀ (n : Nat) x, s.records[n]? = some x → ∃ y, s'.records[n]? = some y ∧ y = { x with cancelled := y.cancelled } ∧
        (y.cancelled = true ↔ x.cancelled = true ∨ ∃ z ∈ s.records,
          (z.hasH = true ∧ z.gid = c.g.gid ∧ z.h = f.a.toNat ∧ z.tag = (c.g.getH f.a).extractLsb' 16 16) ∧ z.finished = false ∧
          (z.rid = x.rid ∨ (z.joint ≠ none ∨ s.formed z = true) ∧ ∃ p ∈ s.joinPartners z, p.rid = x.rid)))) ∧
  ∀ (f : FormDAB) s c, Starts (.await f) s c → (c.g.getS f.a).toNat % 16 = 0 → (c.g.getS f.a).toNat + 16 ≤ c.t.hold.scr * 4096 →
    let a := c.t.arrival (c.g.getS f.a).toNat
    let tok := (c.g.getS f.b).toNat % 2 ^ 24
    (a.gen ≠ tok ∧ (a.gen + 2 ^ 24 - tok) % 2 ^ 24 < 2 ^ 23 → ∃ s' g, Emptied s c.t.core s' ∧ Done s' c g (exec (.await f) s) ∧
      UniS c f.d (BitVec.ofNat 32 (a.gen + (if a.fail then 2 ^ 24 else 0) + if a.exceeded then 2 ^ 25 else 0)) g) ∧
    (¬ (a.gen ≠ tok ∧ (a.gen + 2 ^ 24 - tok) % 2 ^ 24 < 2 ^ 23) →
      Waits s c c.g (.await (c.g.getS f.a).toNat tok) (exec (.await f) s))

/-- RACQ, RTRY, RREL and RQRY: what a team holds grows and shrinks by its claim (R140, R141, R142, R145, R146, R147,
R148, R149, R136, R47, R50). -/
def Obligations.ClaimWords : Prop :=
  (∀ (f : FormA) s c, Starts (.racq f) s c → c.ended ≠ some 0#32 → fitsIn (c.g.getS f.a) (headroomOf c.t) →
    (c.g.getS f.a = 0#32 → Done s c c.g (exec (.racq f) s)) ∧
    (c.g.getS f.a ≠ 0#32 → c.t.reqs = [] → granted s c (vectorOf (c.g.getS f.a)) = true →
      ∃ s' g, HoldGrown s c (vectorOf (c.g.getS f.a)) s' ∧ Widened c (vectorOf (c.g.getS f.a)) g ∧
        Done s' c g (exec (.racq f) s)) ∧
    (c.g.getS f.a ≠ 0#32 → ¬ (c.t.reqs = [] ∧ granted s c (vectorOf (c.g.getS f.a)) = true) →
      ∃ s', WithTeam s (asking s c (vectorOf (c.g.getS f.a))) s' ∧
        Waits s' c c.g (.racq (vectorOf (c.g.getS f.a))) (exec (.racq f) s))) ∧
  (∀ (f : FormA) s c, Starts (.racq f) s c → c.ended = some 0#32 → Done s c c.g (exec (.racq f) s)) ∧
  (∀ (f : FormDA) s c, Starts (.rtry f) s c → fitsIn (c.g.getS f.a) (headroomOf c.t) →
    (c.g.getS f.a = 0#32 → ∃ g, Done s c g (exec (.rtry f) s) ∧ UniS c f.d 0#32 g) ∧
    (c.g.getS f.a ≠ 0#32 → granted s c (vectorOf (c.g.getS f.a)) = true → ∃ s' g h,
      HoldGrown s c (vectorOf (c.g.getS f.a)) s' ∧ Widened c (vectorOf (c.g.getS f.a)) g ∧ h = { g with s := h.s } ∧
      (∀ r, h.getS r = if r = f.d ∧ f.d ≠ 0#6 then 0#32 else c.g.getS r) ∧ Done s' c h (exec (.rtry f) s)) ∧
    (c.g.getS f.a ≠ 0#32 → granted s c (vectorOf (c.g.getS f.a)) = false →
      ∃ g, Done s c g (exec (.rtry f) s) ∧ UniS c f.d 1#32 g)) ∧
  (∀ (f : FormA) s c, Starts (.rrel f) s c → fitsIn (c.g.getS f.a) c.t.hold → ∀ q, q = vectorOf (c.g.getS f.a) →
    (∀ i, i < q.bar → s.barBusy c.t (c.t.hold.bar - q.bar + i) = false) →
    (c.g.getS f.a = 0#32 → Done s c c.g (exec (.rrel f) s)) ∧
    (c.g.getS f.a ≠ 0#32 → s.slotsNamed c.t.core ((namesReleased c q.acc).map (slotNamed c.t)) = true →
      Waits s c c.g .rrel (exec (.rrel f) s)) ∧
    (c.g.getS f.a ≠ 0#32 → s.slotsNamed c.t.core ((namesReleased c q.acc).map (slotNamed c.t)) = false →
      ∃ s', HoldShrunk s c q s' ∧ Done s' c c.g (exec (.rrel f) s))) ∧
  ∀ (f : FormDS) s c w, Starts (.rqry f) s c → claimAnswer s c f.s.toNat = some w →
    ∃ g, Done s c g (exec (.rqry f) s) ∧ UniS c f.d w g

/-- The banker's check answers safe exactly where some order lets every team finish (R135, R139). -/
def Obligations.BankerFindsEveryOrder : Prop :=
  ∀ l : List Load, safe l = true ↔ (sumHold l).le coreCapacity = true ∧ ∃ o : List Load, o.Perm l ∧
    ∀ (n : Nat) x, o[n]? = some x → (x.max.sub x.hold).le ((freeOf l).add (sumHold (o.take n))) = true

namespace Sys2Proof.Claims
open Sys2Proof.Machine Sys2Proof.Safety

/-! ### Work items (R231 to R251) -/

/-- The lineage of child `j` (R233). -/
def childLin (p : DWord) (j : Nat) : DWord := p * 0x00000100000001B3#64 + BitVec.ofNat 64 j + 1#64
/-- The legal control words of a fork site, with the kept set that they name (R234). -/
def forkSite (c : Ctx) (b : Reg) (k : Keep) : Prop :=
  c.g.tl = 0 ∧ (c.g.getS (b + 1#6)).toNat / 32 = 0 ∧ c.t.info.keeps[(c.g.getS (b + 1#6)).toNat % 16]? = some k ∧
    (c.g.getS b).toNat % 12 = 0 ∧ keepOutside c.t k = none
/-- What the children of a fork site are: the site's kind, its lanes, the group as the producer leaves it, and the
carried register of the producer and of the child of each lane. -/
structure Site where
  kind : Nat
  lanes : Mask
  g : Group
  b : Reg
  keep : Keep
  mine : Lane → Carried
  child : Lane → Carried
/-- SPLIT: v[D] keeps the lower half, and the child of a lane gets the upper one; an empty interval forks nothing (R235). -/
def splitSite (c : Ctx) (f : FormDAB) (k : Keep) : Site :=
  let g := c.g.setV f.d c.active fun l => (writeF32 (itvHalves (readF32 (c.g.getV f.a l)).1).1).1
  ⟨0, maskOf fun l => laneOn c.active l && !itvIsEmpty (readF32 (c.g.getV f.a l)).1, g, f.b, k, fun l => .v f.d (g.getV f.d l),
    fun l => .v f.d (writeF32 (itvHalves (readF32 (c.g.getV f.a l)).1).2).1⟩
/-- FORK: x[D] is 0 in the producer and 1 in the child (R236). -/
def forkSiteOf (c : Ctx) (f : FormDS) (k : Keep) : Site :=
  let g := c.g.setX f.d c.active fun _ => 0#32
  ⟨1, c.active, g, f.s, k, fun l => .x f.d (g.getX f.d l), fun _ => .x f.d 1#32⟩
/-- The fork words. -/
def forkOf : Instr → Option (Reg × (Ctx → Keep → Site))
  | .split f => some (f.b, fun c k => splitSite c f k)
  | .fork f => some (f.s, fun c k => forkSiteOf c f k)
  | _ => none
/-- The child of a lane, as a work item (R231, R232). -/
def childItem (c : Ctx) (z : Site) (l : Lane) : Item :=
  c.item z.g z.kind (codeAt c.t.info.base (c.g.getS z.b).toNat) ((c.g.getS (z.b + 1#6)).getLsbD 4)
    ((c.g.getS (z.b + 1#6)).toNat % 16) z.keep l (childLin (z.g.lin.get l) 1) (z.child l)
/-- Lineages after a fork: child 0's in the forking lanes that stay the producer, or child 1's where they run inline. -/
def LinIs (g : Group) (lanes : Mask) (j : Nat) (lin : Lanes DWord) : Prop :=
  ∀ l, lin.get l = if laneOn lanes l = true then childLin (g.lin.get l) j else g.lin.get l
/-- The size of an inline frame: header and 32 payloads, to a multiple of 16 (R237). -/
def frameBytesOf (z : Site) : Nat := (16 + 32 * payloadBytes z.keep (z.mine 0) + 15) / 16 * 16
/-- The carried register of the child put in its lane. -/
def CarriedIn (g0 g : Group) (lanes : Mask) (z : Site) : Prop :=
  (∀ l, laneOn lanes l = true → match z.child l with
    | .x r w => r ≠ 0#6 → g.getX r l = w
    | .v r w => g.getV r l = w
    | .none => True) ∧
  (∀ r l, (laneOn lanes l = false ∨ ∀ w, z.child l ≠ .x r w) → g.getX r l = g0.getX r l) ∧
  ∀ r l, (laneOn lanes l = false ∨ ∀ w, z.child l ≠ .v r w) → g.getV r l = g0.getV r l

/-- The bytes of a frame: the next address, EM, the forking lanes, and the payload of every lane as the producer holds it
(R232, R237). -/
def frameImage (c : Ctx) (z : Site) : List Byte :=
  natBytes 8 c.cur.next.toNat ++ natBytes 4 c.p.em.toNat ++ natBytes 4 z.lanes.toNat ++ allLanes.flatMap fun l =>
    natBytes 4 (z.g.qmWord l).toNat ++ ((allRegs.filter fun r => kept z.keep.x r).flatMap fun r => natBytes 4 (z.g.getX r l).toNat)
      ++ ((allRegs.filter fun r => kept z.keep.v r).flatMap fun r => natBytes 8 (z.g.getV r l).toNat)
      ++ ((allRegs.filter fun r => kept z.keep.s r).flatMap fun r => natBytes 4 (z.g.getS r).toNat)
      ++ (match z.mine l with
        | .none => []
        | .x _ w => natBytes 4 w.toNat
        | .v _ w => natBytes 8 w.toNat)

/-- The items owned by a team, on their way to another core too (R245), and what POOLQ counts of them (R251). -/
def poolCount (s : State) (c : Ctx) (sel : Nat) (entry : VAddr) : Nat :=
  let mine := (s.items ++ s.steals.flatMap fun q => q.items).filter fun i => i.owner == c.t.uid
  if sel = 0 then (mine.filter fun i => i.entry == entry && (match i.home with
      | .core k => k == c.t.core
      | .pool p _ => p / 2 == c.t.core / 192)).length
  else if sel = 1 then mine.length
  else 512 - ((s.items.filter fun i => i.home == .core c.t.core).map Item.units).sum

/-- The physical address `a` is where a write of one of `n` bytes at `va` goes. -/
def writesAt (s : State) (c : Ctx) (va n a : Nat) : Prop := ∃ i, i < n ∧ physOf s c (va + i) .write = some a
/-- `t` is `s` but for bytes of memory that satisfy `p`, and for caches, held translations and what follows a write at its
home. -/
def PassedBytes (s t : State) (p : Nat → Prop) : Prop :=
  t = { s with
    cores := t.cores, quadTlb := t.quadTlb, mem := t.mem, mcasts := t.mcasts, bad := t.bad, l2 := t.l2, zipped := t.zipped } ∧
    L1AndTlb s t ∧ ∀ a, ¬ p a → memGet t.mem a = memGet s.mem a
/-- The members that an RSMP word brings: its active lanes and the slots that they name (R247). -/
def rsmpMembers (c : Ctx) (d : Reg) : List (Lane × Nat) := (act c).map fun l => (l, (c.g.getX d l).toNat)
/-- The departing members of its path, which arrive without a copy (R247). -/
def rsmpAway (c : Ctx) : Nat := allLanes.countP fun l => laneOn c.p.members l && laneOn c.p.departing l
/-- The lanes whose count is zero, and those that have one (R248). -/
def rsmpGone (counts : List (Lane × Nat × Nat)) : Mask := maskOf fun l => counts.any fun x => x.1 == l && x.2.2 == 0
def rsmpOn (counts : List (Lane × Nat × Nat)) : Mask := maskOf fun l => counts.any fun x => x.1 == l && x.2.2 != 0
/-- The copies of the members with more than one: children 2 and on, each with its index in the slot order (R248). -/
def rsmpCopies (c : Ctx) (g : Group) (d : Reg) (o : PopObj) (k : Keep) (counts : List (Lane × Nat × Nat)) : List Item :=
  counts.flatMap fun x => (List.range (x.2.2 - 1)).map fun j =>
    c.item g 3 (codeAt c.t.info.base o.entry) o.free o.ks k x.1 (childLin (c.g.lin.get x.1) (j + 1))
      (.x d (BitVec.ofNat 32 (x.2.1 + j + 1)))

end Sys2Proof.Claims

/-- SPLIT and FORK place one child per lane, or run them inline in a frame, or trap with POOLX (R231, R232, R233,
R234, R235, R236, R237). -/
def Obligations.ForkWords : Prop :=
  (∀ i b site, forkOf i = some (b, site) → ∀ s c k, Starts i s c → forkSite c b k → (site c k).lanes = 0#32 →
    Done s c (match i with
      | .split _ => (site c k).g
      | _ => c.g) (exec i s)) ∧
  (∀ i b site, forkOf i = some (b, site) → ∀ s c k s', Starts i s c → forkSite c b k → (site c k).lanes ≠ 0#32 →
    s.placeAll c.t.core ((lanesOf (site c k).lanes).map (childItem c (site c k))) = some s' →
    ∃ g, Done s' c g (exec i s) ∧ g = { (site c k).g with lin := g.lin } ∧ LinIs (site c k).g (site c k).lanes 0 g.lin) ∧
  (∀ i b site, forkOf i = some (b, site) → ∀ s c k, Starts i s c → forkSite c b k → (site c k).lanes ≠ 0#32 →
    s.placeAll c.t.core ((lanesOf (site c k).lanes).map (childItem c (site c k))) = none → c.g.depth = c.g.limit →
    Trapped s c (groupTrap 0x0B#8 0) (exec i s)) ∧
  ∀ i b site, forkOf i = some (b, site) → ∀ s c k, Starts i s c → forkSite c b k → (site c k).lanes ≠ 0#32 →
    s.placeAll c.t.core ((lanesOf (site c k).lanes).map (childItem c (site c k))) = none → c.g.depth ≠ c.g.limit →
    ∀ z off, z = site c k → off = (c.g.getS 61#6 - BitVec.ofNat 32 (frameBytesOf z)).toNat → c.t.inHeld off (frameBytesOf z) = true →
    ∃ s' u g, WithTeam s u s' ∧ u = { c.t with scr := u.scr, venFront := u.venFront, bad := u.bad } ∧
      (∀ o, o ∈ u.bad → o ∈ c.t.bad) ∧
      (∀ o, u.scrGet o = if off ≤ o ∧ o < off + (frameImage c z).length then (frameImage c z).getD (o - off) 0#8
        else c.t.scrGet o) ∧
      DoneAs s' c g { c.p.past (codeAt c.t.info.base (c.g.getS b).toNat) with em := z.lanes } (exec i s) ∧
      g = { z.g with x := g.x, v := g.v, s := g.s, lin := g.lin, depth := c.g.depth + 1#8, frames := g.frames } ∧
      (∀ r, g.getS r = if r = 61#6 then BitVec.ofNat 32 off else c.g.getS r) ∧ LinIs z.g z.lanes 1 g.lin ∧
      CarriedIn z.g g z.lanes z ∧
      ∃ fr, g.frames = c.g.frames ++ [fr] ∧ fr.off = off ∧ fr.size = frameBytesOf z ∧ fr.forked = z.lanes ∧
        fr.mark = c.g.nextEid ∧ fr.members = c.p.members ∧ LinIs z.g z.lanes 0 fr.lin ∧ fr.carried = z.mine 0 ∧
        fr.ks = (c.g.getS (b + 1#6)).toNat % 16

/-- LINID reads or derives a lineage, POOLQ counts items (R233, R250, R251). -/
def Obligations.PoolQueries : Prop :=
  (∀ (f : FormLin) s c, Starts (.linid f) s c → ∃ g, Done s c g (exec (.linid f) s) ∧ g = { c.g with x := g.x } ∧
    ∀ r l, g.getX r l =
      let v := if f.m = true then childLin (c.g.lin.get l) (c.g.getX f.a l).toNat else c.g.lin.get l
      if r ≠ f.d ∧ r ≠ f.d + 1#6 then c.g.getX r l
      else if laneOn c.zeroed l = true then 0#32
      else if laneOn c.active l = true then (if r = f.d then lowHalf v else highHalf v) else c.g.getX r l) ∧
  ∀ (f : FormPool) s c, Starts (.poolq f) s c → ∃ g, Done s c g (exec (.poolq f) s) ∧
    UniS c f.d (BitVec.ofNat 32 (poolCount s c f.s.toNat (codeAt c.t.info.base (c.g.getS f.a).toNat))) g

/-- RSMP: arrival in phase 1, which writes its members' weights and the counts, and placement in phases 3 and 4, which closes
the round behind its last member (R246, R247, R248, R249). -/
def Obligations.ResamplingWord : Prop :=
  (∀ (f : FormDAB) s c va x o k, Starts (.rsmp f) s c → c.g.tl = 0 → c.p.restart = none → c.p.wait = none →
    va = (c.g.getS f.b).toNat + 2 ^ 32 * (c.g.getS (f.b + 1#6)).toNat → va % 64 = 0 →
    (∃ bs, s.bytesAt c.t.core c.part (act c).head? va 64 = .ok bs ∧ o = popObj bs) → physOf s c va .write = some x →
    (∀ i, i < 64 → s.inTable (x + i) = false) → 1 ≤ o.m → o.m ≤ 2 ^ 24 → 1 ≤ o.n → o.n ≤ 2 ^ 24 → c.t.info.keeps[o.ks]? = some k →
    o.entry % 12 = 0 → keepOutside c.t k = none →
    (∀ y ∈ rsmpMembers c f.d, s.memberTrap c o (rsmpMembers c f.d) y = none) → s.canWrite c.t.core c.part va 64 = none →
    act c ≠ [] → o.arrived + (act c).length + rsmpAway c < o.m →
    ∃ s' g, PassedBytes s s' (fun a => writesAt s c (va + 0x28) 8 a ∨ ∃ y ∈ rsmpMembers c f.d, writesAt s c (o.slot y.2) 5 a) ∧
      Waits s' c g (.rsmp va (rsmpMembers c f.d)) (exec (.rsmp f) s) ∧
      g = { c.g with gsr := g.gsr } ∧ FlagsRaised c g (fun l => (popWeight (c.g.getV f.a l)).2) ∧
      memNat s'.mem (x + 0x28) 4 = o.arrived + (act c).length + rsmpAway c ∧
      memNat s'.mem (x + 0x2C) 4 = (o.done + rsmpAway c) % 2 ^ 32 ∧
      ∀ y ∈ rsmpMembers c f.d, ∀ i a, i < 5 → physOf s c (o.slot y.2 + i) .write = some a → s.inTable a = false →
        ¬ writesAt s c (va + 0x28) 8 a → (∀ z ∈ rsmpMembers c f.d, ∀ j, j < 5 → (z ≠ y ∨ j ≠ i) →
          physOf s c (o.slot z.2 + j) .write ≠ some a) →
        (i < 4 → memGet s'.mem a = (natBytes 4 (popWeight (c.g.getV f.a y.1)).1).getD i 0#8) ∧
        (i = 4 → (memGet s'.mem a).getLsbD 0 = true)) ∧
  ∀ (f : FormDAB) s c w va x slots bs o k counts g0 s1, Starts (.rsmp f) s c → c.g.tl = 0 → c.p.restart = none →
    c.p.wait = some w → w.kind = .rsmp va slots → w.ended = true → va % 64 = 0 →
    s.bytesAt c.t.core c.part none va 64 = .ok bs → o = popObj bs → s.canWrite c.t.core c.part va 64 = none →
    physOf s c va .write = some x → (∀ i, i < 64 → s.inTable (x + i) = false) → c.t.info.keeps[o.ks]? = some k →
    s.memberCounts c o slots = .ok counts →
    g0 = (if w.data = 1#32 then { c.g with gsr := c.g.gsr ||| 4#32 } else c.g).setX f.d (rsmpOn counts)
      (fun l => BitVec.ofNat 32 (((counts.find? fun y => y.1 == l).map fun y => y.2.1).getD 0)) →
    s.placeAll c.t.core (rsmpCopies c g0 f.d o k counts) = some s1 →
    ∃ s' g, PassedBytes s1 s' (fun a => writesAt s c (va + 0x28) 8 a ∨ o.done + counts.length = o.m ∧
        (writesAt s c (va + 0x10) 4 a ∨ ∃ i, i < o.m ∧ writesAt s c (o.slot i + 4) 1 a)) ∧
      (o.done + counts.length ≠ o.m → memNat s'.mem (x + 0x2C) 4 = (o.done + counts.length) % 2 ^ 32 ∧
        memNat s'.mem (x + 0x28) 4 = o.arrived) ∧
      (o.done + counts.length = o.m → memNat s'.mem (x + 0x2C) 4 = 0 ∧ memNat s'.mem (x + 0x28) 4 = 0 ∧
        memNat s'.mem (x + 0x10) 4 = (o.round + 1) % 2 ^ 32) ∧
      g = { g0 with lin := g.lin } ∧ LinIs c.g (rsmpOn counts) 0 g.lin ∧
      DoneAs s' c g { c.p.past c.cur.next with departing := c.p.departing ||| rsmpGone counts, em := c.p.em &&& ~~~rsmpGone counts, restart := none }
        (exec (.rsmp f) s)

namespace Sys2Proof.Claims
open Sys2Proof.Machine Sys2Proof.Safety

/-! ### Steps without a word -/

/-- The dies work; the host reaches the part. -/
def DiesUp (s : State) : Prop := s.svc.powered = true ∧ s.svc.diesOn = true ∧ s.svc.stopped = false
def HostUp (s : State) : Prop := s.svc.powered = true ∧ s.svc.hostLink = true ∧ s.svc.stopped = false
/-- The bytes `bs` stand at `a`, but for those of a region binding table, which only the device writes (R345); every other byte
of memory is as in `s`. -/
def Wrote (s : State) (a : Nat) (bs : List Byte) (t : State) : Prop :=
  MemOnly s t ∧ ∀ k, memGet t.mem k =
    if a ≤ k ∧ k < a + bs.length ∧ s.inTable k = false then bs.getD (k - a) 0#8 else memGet s.mem k
/-- No byte of some ranges lies in a region binding table. -/
def OffTables (s : State) (l : List (Nat × Nat)) : Prop := ∀ r ∈ l, ∀ a, r.1 ≤ a → a < r.1 + r.2 → s.inTable a = false
/-- A doorbell of an object, if it is a host stream: the posted writes of the step's stream that were received before it are
performed, then the release is counted (R356). -/
def Rings (s : State) (part soid : Nat) (s2 : State) : Prop :=
  if (s.rbEntry part soid).kind = 3 then ∃ s1, Landed s (fun f => f.who == .host s.arg.stream false) s1 ∧
    EntryIs s1 part soid { s.rbEntry part soid with rels := (s.rbEntry part soid).rels + 1#32 } s2
  else s2 = s
/-- 384 GiB. -/
def hbmTop : Nat := 0x6000000000
/-- The first doubleword that the step carries. -/
def theWord (s : State) : DWord := s.arg.data.headD 0#64
/-- PRIOBASE written; and a priority table at its reset values: eight entries of 32 bytes, SWAPTH 4,096 (R120). -/
def basedAt (s : State) (a : VAddr) : State := { s with fe := { s.fe with regs := { s.fe.regs with prioBase := a } } }
def freshTable : List Byte := (List.replicate 8 (natBytes 16 0 ++ natBytes 4 4096 ++ natBytes 12 0)).flatten
/-- No two of some ranges of memory overlap. -/
def Apart (l : List (Nat × Nat)) : Prop := l.Pairwise fun x y => x.1 + x.2 ≤ y.1 ∨ y.1 + y.2 ≤ x.1
/-- The queue table entry, the QSB and the ring entry of a trigger (R116). -/
def triggerRanges (s : State) (q : Nat) (b : Qsb) : List (Nat × Nat) :=
  [(s.fe.regs.qtabBase.toNat + 8 * q, 8), (b.addr, 128), (b.ring + 64 * (b.tail % 2 ^ b.log2), 64),
    (s.rbAddr b.home b.hsoid, 32)]

/-! ### The command ring (R114, R115) -/

/-- The command at CMDHEAD is `op`, legal, and not yet begun. -/
def CommandIs (s : State) (op : Nat) : Prop :=
  DiesUp s ∧ s.fe.regs.cmdHead ≠ s.fe.regs.cmdTail ∧ s.fe.wait = none ∧ s.cmdBad = false ∧ s.cmdDw 0 % 256 = op
/-- A command has been answered: CMDHEAD has advanced, and nothing waits. -/
def Answered (s t : State) : Prop :=
  t.fe.wait = none ∧ t.fe.regs = { s.fe.regs with cmdHead := s.fe.regs.cmdHead + 1#32 }
/-- The status doubleword of a command that writes nothing else (R39). -/
def StatusIs (s t : State) (code index : Nat) : Prop :=
  s.cmdDw 7 + 8 ≤ hbmTop → OffTables s [(s.cmdDw 7, 8)] → code + 2 ^ 32 * index < 2 ^ 64 → memNat t.mem (s.cmdDw 7) 8 = code + 2 ^ 32 * index
/-- The steps that serve a command of the ring, by OP. -/
def commandOp : Instr → Option Nat
  | .load => some 1
  | .unload => some 2
  | .install => some 3
  | .remove => some 4
  | .qcreate => some 5
  | .qdestroy => some 6
  | .qprio => some 7
  | .setth => some 8
  | .copy => some 9
  | _ => none

end Sys2Proof.Claims

/-- Writes of the host: triggers, registers, the mailbox, device memory, doorbells and page answers (R113, R114, R116,
R270, R356, R413, R414, R417). -/
def Obligations.HostWrites : Prop :=
  -- TRIGGER_WRITE
  (∀ s, HostUp s → DiesUp s → 0x40000 ≤ s.arg.addr → s.arg.addr < 0x80000 →
    (s.arg.size ≠ 64 ∨ s.arg.addr % 64 ≠ 0 ∨ s.qsb ((s.arg.addr - 0x40000) / 64) = none →
      exec .triggerWrite s = .next { s with fe := { s.fe with regs := { s.fe.regs with trigBad := s.fe.regs.trigBad + 1#32 } } }) ∧
    ∀ b, s.arg.size = 64 → s.arg.addr % 64 = 0 → s.qsb ((s.arg.addr - 0x40000) / 64) = some b → b.addr + 128 ≤ hbmTop →
      (b.stored = 2 ^ b.log2 → ∃ t, exec .triggerWrite s = .next t ∧
        Wrote s (b.addr + 0x20) (natBytes 4 (memNat s.mem (b.addr + 0x20) 4 + 1)) t) ∧
      (b.stored < 2 ^ b.log2 → Apart (triggerRanges s ((s.arg.addr - 0x40000) / 64) b) →
        OffTables s ((triggerRanges s ((s.arg.addr - 0x40000) / 64) b).take 3) →
        (∀ f ∈ s.flights, f.who = .host s.arg.stream false →
          ∀ r ∈ triggerRanges s ((s.arg.addr - 0x40000) / 64) b, f.pa + f.bytes.length ≤ r.1 ∨ r.1 + r.2 ≤ f.pa) →
        b.ring + 64 * (b.tail % 2 ^ b.log2) + 64 ≤ hbmTop →
        ∃ s1 t, exec .triggerWrite s = .next t ∧ Rings s b.home b.hsoid s1 ∧
          MemOnly { s1 with fe := { s.fe with trigs := s.fe.trigs ++ [((s.arg.addr - 0x40000) / 64, b.tail)] } } t ∧
          memNat t.mem (b.addr + 0x1C) 4 = (b.tail + 1) % 2 ^ 32 ∧
          (∀ i, i < 8 → memNat t.mem (b.ring + 64 * (b.tail % 2 ^ b.log2) + 8 * i) 8 = (s.arg.data.getD i 0#64).toNat) ∧
          ∀ a, (∀ r ∈ (triggerRanges s ((s.arg.addr - 0x40000) / 64) b).take 3, a < r.1 ∨ r.1 + r.2 ≤ a) →
            memGet t.mem a = memGet s1.mem a)) ∧
  -- CMDTAIL
  (∀ s, HostUp s → DiesUp s → exec .cmdtail s =
    .next { s with fe := { s.fe with regs := { s.fe.regs with cmdTail := (theWord s).setWidth 32 } } }) ∧
  -- REGISTER_WRITE of one doubleword
  (∀ s w, HostUp s → DiesUp s → s.arg.size = 8 → s.arg.data = [w] →
    (s.fe.queues ≠ [] → s.arg.addr < 0x40000 → s.arg.addr + 8 ≤ 0x18 ∨ 0x20 ≤ s.arg.addr → exec .registerWrite s = .next s) ∧
    (s.arg.addr = 0x18 → exec .registerWrite s =
      .next { s with fe := { s.fe with regs := { s.fe.regs with cmdTail := w.setWidth 32 } } }) ∧
    (s.fe.queues = [] → s.arg.addr = 0 →
      exec .registerWrite s = .next { s with fe := { s.fe with regs := { s.fe.regs with cmdBase := w.setWidth 57 } } }) ∧
    (s.fe.queues = [] → s.arg.addr = 8 → 4 ≤ w.toNat % 16 → w.toNat % 16 ≤ 12 →
      exec .registerWrite s = .next { s with fe := { s.fe with regs := { s.fe.regs with cmdLog2 := w.setWidth 4 } } }) ∧
    (s.fe.queues = [] → s.arg.addr = 0x20 →
      exec .registerWrite s = .next { s with fe := { s.fe with regs := { s.fe.regs with qtabBase := w.setWidth 57 } } }) ∧
    (s.fe.queues = [] → s.arg.addr = 0x28 → w.setWidth 57 ≠ 0#57 → (w.setWidth 57).toNat + 256 ≤ hbmTop →
      ∃ t, exec .registerWrite s = .next t ∧ Wrote (basedAt s (w.setWidth 57)) (w.setWidth 57).toNat freshTable t) ∧
    (∀ i, i < 8 → s.arg.addr = 0x200000 + 8 * i →
      exec .registerWrite s = .next { s with svc := { s.svc with host := { s.svc.host with cmd := s.svc.host.cmd.set i w } } }) ∧
    (s.arg.addr = 0x200040 → s.svc.host.job = none → exec .registerWrite s =
      .next { s with svc := { s.svc with host := { s.svc.host with job := some s.svc.host.cmd, begun := false } } }) ∧
    (s.arg.addr = 0x200040 → s.svc.host.job ≠ none → exec .registerWrite s = .next s)) ∧
  -- HOST_POSTED_WRITE and DBELL
  (∀ s w, HostUp s → DiesUp s → 1 ≤ s.arg.size → s.arg.size ≤ 8 → s.arg.data = [w] → s.arg.addr + s.arg.size ≤ hbmTop →
    (s.dbellsAt s.arg.addr s.arg.size).length ≤ 1 →
    ∃ s2, (∀ x ∈ s.dbellsAt s.arg.addr s.arg.size, Rings s x.1 x.2 s2) ∧ (s.dbellsAt s.arg.addr s.arg.size = [] → s2 = s) ∧
      (s.arg.flag = false → ∃ t, exec .hostPostedWrite s = .next t ∧ Wrote s2 s.arg.addr (natBytes s.arg.size w.toNat) t) ∧
      (s.arg.flag = true → exec .hostPostedWrite s = .next { s2 with
        flights := s2.flights ++ [⟨.host s.arg.stream s.arg.relaxed, s.arg.addr, natBytes s.arg.size w.toNat, none, []⟩] })) ∧
  (∀ s, HostUp s → DiesUp s → s.arg.part < 8 → s.arg.item < 4096 →
    ∃ t, exec .dbell s = .next t ∧ Rings s s.arg.part s.arg.item t) ∧
  -- PRRESP
  (∀ s q, HostUp s → DiesUp s → s.svc.prhsoid < 4096 →
    (s.faults.find? fun x => x.id == some ((theWord s).setWidth 32)) = some q →
    (theWord s).toNat / 2 ^ 32 % 4 ≠ 3 → ∃ s1 t, exec .prresp s = .next t ∧ Rings s q.part s.svc.prhsoid s1 ∧
      t = { s1 with faults := (s.faults.filter fun x => !(x.part == q.part && x.region == q.region)) ++
        [{ q with id := none, answer := some ((theWord s).toNat / 2 ^ 32 % 4) }] }) ∧
  ∀ s, (s.arg.flag = true → s.svc.powered = true → exec .mctpControlMessage s =
      .next { s with svc := { s.svc with dynAddr := some (BitVec.ofNat 7 s.arg.item) } }) ∧
    (s.arg.flag = false ∨ s.svc.powered = false → exec .mctpControlMessage s = .next s)

/-- Commands of the ring: their checks, their effects and their status (R114, R115, R120, R25, R37, R39, R440). -/
def Obligations.RingCommands : Prop :=
  (∀ i op, commandOp i = some op → ∀ s, DiesUp s → s.fe.regs.cmdHead ≠ s.fe.regs.cmdTail → s.fe.wait = none → s.cmdBad = true →
    ∃ t, exec i s = .next t ∧ Answered s t ∧ StatusIs s t 0x40 0) ∧
  (∀ s n base, CommandIs s 1 → s.readNco (s.cmdDw 1) (s.cmdDw 2) = .ok n → s.imageBase n.image = some base →
    ((n.sect 8).map fun q => q.size / 24).getD 0 = 0 →
    ∃ t, exec .load s = .next t ∧ Answered s t ∧ t.images = s.images ++
      [⟨base, n.image, s.cmdDw 3, (n.sects.filter fun q => loadedKind q.kind).map fun q => (q.kind, q.load, q.size)⟩]) ∧
  (∀ s e, CommandIs s 1 → s.readNco (s.cmdDw 1) (s.cmdDw 2) = .error e →
    ∃ t, exec .load s = .next t ∧ Answered s t ∧ StatusIs s t e.1 e.2 ∧ t.images = s.images) ∧
  (∀ s img, CommandIs s 2 → (s.images.find? fun i => i.base == s.cmdDw 1) = some img →
    s.fe.graphs.find? (s.graphNames (s.cmdDw 1)) = none →
    ∃ t, exec .unload s = .next t ∧ t.images = s.images.filter (fun i => i.base != s.cmdDw 1) ∧
      t.fe = { s.fe with wait := some (.unload (s.cmdDw 1) img.size) } ∧ t.mem = s.mem ∧
      ∀ k x, x ∈ (t.core k).tlb → x ∈ (s.core k).tlb ∧ ¬ (x.fromImage = true ∧ s.cmdDw 1 ≤ x.vbase ∧ x.vbase < s.cmdDw 1 + pagesOf img.size)) ∧
  (∀ s a n, DiesUp s → s.fe.wait = some (.unload a n) →
    (∀ f ∈ s.flights, f.pa + f.bytes.length ≤ s.cmdAddr ∨ s.cmdAddr + 64 ≤ f.pa) →
    ∃ t, exec .unloadDrained s = .next t ∧ Answered s t ∧ StatusIs s t 0 0) ∧
  (∀ s, CommandIs s 3 → let g := s.graphHeader (s.cmdDw 1)
    (s.graphBad g = none → ∃ t, exec .install s = .next t ∧ Answered s t ∧ StatusIs s t 0 0 ∧
      t.fe.graphs = (s.fe.graphs.filter fun h => h.gid != g.gid) ++ [g]) ∧
    ∀ e, s.graphBad g = some e → ∃ t, exec .install s = .next t ∧ Answered s t ∧ StatusIs s t e.1 e.2 ∧ t.fe.graphs = s.fe.graphs) ∧
  (∀ s, CommandIs s 4 →
    ((s.fe.runs.any fun r => r.gid == s.cmdDw 1) = false → ∃ t, exec .remove s = .next t ∧ Answered s t ∧ StatusIs s t 0 0 ∧
      t.fe.graphs = s.fe.graphs.filter fun h => h.gid != s.cmdDw 1) ∧
    ((s.fe.runs.any fun r => r.gid == s.cmdDw 1) = true → ∃ t, exec .remove s = .next t ∧ Answered s t ∧ StatusIs s t 0x26 0 ∧
      t.fe.graphs = s.fe.graphs)) ∧
  (∀ s, CommandIs s 5 → s.qtabEntry (s.cmdDw 1) = 0 → s.qsbBad (s.cmdDw 2) = false → s.mayLink (s.cmdDw 2) = true →
    ∃ t, exec .qcreate s = .next t ∧ Answered s t ∧ t.fe.queues = s.cmdDw 1 :: s.fe.queues ∧
      t.fe.removed = s.fe.removed.filter fun r => r.1 != s.cmdDw 2) ∧
  (∀ s b, CommandIs s 6 → s.qsb (s.cmdDw 1) = some b → (s.fe.runs.any fun r => r.qidx == s.cmdDw 1) = true →
    ∃ t, exec .qdestroy s = .next t ∧ t.fe = { s.fe with
      wait := some (.qdestroy (s.cmdDw 1)), trigs := s.fe.trigs.filter fun x => x.1 != s.cmdDw 1 || x.2 == b.head }) ∧
  (∀ s, CommandIs s 6 → (s.fe.runs.any fun r => r.qidx == s.cmdDw 1) = false → ∃ t, exec .qdestroy s = .next t ∧ Answered s t) ∧
  (∀ s b, CommandIs s 7 → s.qsb (s.cmdDw 1) = some b → ∃ t, exec .qprio s = .next t ∧
    t.fe.wait = some (.relink (s.cmdDw 1) (s.cmdDw 2)) ∧ t.fe.regs = s.fe.regs) ∧
  (∀ s q p b, DiesUp s → s.fe.regs.cmdHead ≠ s.fe.regs.cmdTail → s.fe.wait = some (.relink q p) → s.cmdDw 0 % 256 = 7 →
    s.qsb q = some b → s.mayLink b.addr = true → ∃ t, exec .qprio s = .next t ∧ Answered s t ∧
      ∀ i, t.fe.lst.get i = if (s.fe.lst.get i).st ≠ 0 ∧ (s.fe.lst.get i).qidx = q then { s.fe.lst.get i with prio := p } else s.fe.lst.get i) ∧
  (∀ s, CommandIs s 8 → s.prioAt (s.cmdDw 1) + 0x14 ≤ hbmTop →
    Apart [(s.prioAt (s.cmdDw 1) + 0x10, 4), (s.cmdAddr, 64)] →
    (s.cmdDw 7 + 8 ≤ s.prioAt (s.cmdDw 1) + 0x10 ∨ s.prioAt (s.cmdDw 1) + 0x14 ≤ s.cmdDw 7) →
    OffTables s [(s.prioAt (s.cmdDw 1) + 0x10, 4)] →
    ∃ t, exec .setth s = .next t ∧ Answered s t ∧ StatusIs s t 0 0 ∧
      memNat t.mem (s.prioAt (s.cmdDw 1) + 0x10) 4 = s.cmdDw 2 % 2 ^ 32) ∧
  ∀ s, CommandIs s 9 →
    ((s.part (s.cmdDw 5)).st = .unconfigured → ∃ t, exec .copy s = .next t ∧ Answered s t ∧ StatusIs s t 0x43 0 ∧ t.copies = s.copies) ∧
    ((s.part (s.cmdDw 5)).st ≠ .unconfigured → ∃ t x, exec .copy s = .next t ∧ t.fe = { s.fe with wait := some .copy } ∧
      t.copies = s.copies ++ [x] ∧ x.owner = .command ∧ x.part = s.cmdDw 5 ∧ x.kind = 0 ∧ x.cid = s.fresh ∧ x.done = [] ∧
      x.acq = (s.cmdDw 4 / 2 ^ 17 % 2 == 1) ∧ x.rel = (s.cmdDw 4 / 2 ^ 18 % 2 == 1) ∧
      (x.ccb.getD 0 0#64).toNat = s.cmdDw 1 % 2 ^ 57 ∧ (x.ccb.getD 1 0#64).toNat = s.cmdDw 2 % 2 ^ 57 ∧
      (x.ccb.getD 2 0#64).toNat = s.cmdDw 3 % 2 ^ 40)

namespace Sys2Proof.Claims
open Sys2Proof.Machine Sys2Proof.Safety

/-! ### Queues, runs and nodes (R117 to R131) -/

/-- The wait node's word, in the queue's home partition (R27). -/
def signalAddr (n : RunNode) : Nat := (n.body.getD 0 0#64).toNat
/-- A node that was ready has started. -/
def started (n : RunNode) : RunNode := if n.st = .ready then { n with st := .running } else n
/-- COND, SIGVA's doubleword and VAL (R27). -/
def condHolds (n : RunNode) (w : Nat) : Prop :=
  let v := (n.body.getD 1 0#64).toNat
  let cond := (n.body.getD 2 0#64).toNat % 8
  cond = 0 ∧ w = v ∨ cond = 1 ∧ w ≠ v ∨ cond = 2 ∧ v ≤ w ∨ cond = 3 ∧ w &&& v = v
/-- PRIOBASE names a table (R120). -/
def lists (s : State) : Prop := s.fe.regs.prioBase ≠ 0#57 ∧ s.fe.regs.prioBase.toNat + 256 ≤ hbmTop

/-- The run of a queue, of one RUNID, is `r` now. -/
def withRun (s : State) (r : Run) : State :=
  { s with fe := { s.fe with runs := s.fe.runs.map fun x => if x.qidx = r.qidx ∧ x.runid = r.runid then r else x } }
/-- The STATE of a queue: 3 while a wait node is parked, 1 while a node is ready or a stored trigger has no run, 2 while a wait
node waits, else 0 (R121, R124). -/
def stateRule (s : State) (q : Nat) (b : Qsb) : Nat :=
  match s.fe.runs.find? fun r => r.qidx == q with
  | none => if b.stored = 0 then 0 else 1
  | some r =>
    if r.nodes.any RunNode.parked = true then 3
    else if (r.nodes.any fun n => n.st == .ready) = true then 1
    else if r.nodes.any RunNode.held = true then 2 else 0
/-- The queue's STATE, bits [5:4] at offset 8 of its QSB, follows its run; no other bit of memory differs (R119, R121). -/
def Refreshed (s : State) (q : Nat) (t : State) : Prop :=
  match s.qsb q with
  | none => t = s
  | some b => MemOnly s t ∧ ∀ a, memGet t.mem a =
      if a = b.addr + 8 ∧ a < hbmTop ∧ s.inTable a = false then (memGet s.mem a &&& 0xCF#8) ||| BitVec.ofNat 8 (16 * stateRule s q b)
      else memGet s.mem a
/-- The QSBs that firmware holds after a pass: those of each list, in order, with STATE 1, join the ones before (R121). -/
def handedOver (s : State) : List Nat :=
  (List.range 8).foldl (fun h p => h ++ (s.listOf p).filter fun a => decide (s.feNat (a + 8) 8 / 16 % 4 = 1) && !h.contains a) s.fe.handed

/-- The copies of the ready copy nodes of a run that starts, in increasing node index, but for the sequence numbers that they take
(R27, R28, R123). Bits [63:57] of SRCVA and DSTVA are left out, as log entry 80 says. -/
def nodeCopies (s : State) (q home : Nat) (nodes : List RunNode) : List Copy :=
  ((nodes.zipIdx.filter fun x => x.1.st == .ready).zipIdx).map fun x =>
    let b := x.1.1.body
    { cid := s.fresh + x.2, owner := .node q x.1.2, gang := none, core := 0, part := home, kind := 0
      ccb := [BitVec.ofNat 64 (blockField b 0 0 57), BitVec.ofNat 64 (blockField b 1 0 57), BitVec.ofNat 64 (blockField b 2 0 40),
        0#64, 0#64, 0#64, 0#64, BitVec.ofNat 64 (blockField b 3 0 17 + (if blockField b 3 17 2 = 0 then 0 else 2 ^ 17))]
      acq := blockBit b 3 17, rel := blockBit b 3 18, relSeq := none, acquired := false, done := [], failed := false
      cancelled := false, stopped := false, lowest := false, released := false, fault := none }

/-- SOID, OBS, ACQ and REL of a node (R17, R27). -/
def syncOf (n : RunNode) : Nat × BitVec 5 × Bool × Bool :=
  if n.kind = 0 then (blockField n.body 6 24 12, BitVec.ofNat 5 (blockField n.body 6 36 5), blockBit n.body 6 41, blockBit n.body 6 42)
  else (blockField n.body 3 0 12, BitVec.ofNat 5 (blockField n.body 3 12 5), blockBit n.body 3 17, blockBit n.body 3 18)
/-- The acquire of a node: the writes that releases have performed to a class of its mask, at the front-end core of die 0, which
stands inside the object, are at their homes (R19, R28, R347, R352). -/
def NodeAcquires (s : State) (r : Run) (n : RunNode) (s1 : State) : Prop :=
  let e := s.rbEntry r.home (syncOf n).1
  if (syncOf n).2.2.1 = true ∧ e.kind ≠ 0 ∧ (Station.die 0).inst e.scope = some e.inst then
    Landed s (fun f => (List.range 5).any fun c => (syncOf n).2.1.getLsbD c && f.seenBy ⟨c, .die 0⟩) s1
  else s1 = s
/-- A release of an object by a party: its writes are performed where it stands inside the object, or in the package on a free
entry, and the release is counted (R347, R352, R442). -/
def ReleasedBy (s : State) (part soid : Nat) (p : Party) (mask : BitVec 5) (s1 : State) : Prop :=
  let e := s.rbEntry part soid
  ∃ s2, (if e.kind = 0 then PublishesAs s p mask 6 s2 else if p.at_.inst e.scope = some e.inst then PublishesAs s p mask e.scope s2 else s2 = s) ∧
    (if e.kind = 0 then s1 = s2 else EntryIs s2 part soid { s2.rbEntry part soid with rels := e.rels + 1#32 } s1)
/-- An ordered release of a node is in its turn (R355). -/
def inTurn (s : State) (r : Run) (n : RunNode) : Prop :=
  let e := s.rbEntry r.home (syncOf n).1
  (syncOf n).2.2.2 = true → (s.part r.home).st ≠ .unconfigured → e.kind = 2 → e.rels = e.issued
/-- The release of a node, if it has one: it takes a number of an ordered object, and is performed (R20, R28, R355). -/
def NodeReleases (s : State) (r : Run) (n : RunNode) (s1 : State) : Prop :=
  if (syncOf n).2.2.2 = false ∨ (s.part r.home).st = .unconfigured then s1 = s else
    ∃ k s0, SeqTaken s r.home (syncOf n).1 k s0 ∧ ReleasedBy s0 r.home (syncOf n).1 (frontEndParty 0) (syncOf n).2.1 s1
/-- The release of a command by its engine: none; or of its writes alone where it names no object; or of the object, in its turn
(R297, R298, R309, R323, R355). -/
def CommandReleases (s : State) (rel released sov : Bool) (part soid : Nat) (p : Party) (mask : BitVec 5) (s1 : State) : Prop :=
  if rel = false ∨ released = true then s1 = s
  else if sov = false then PublishesAs s p mask 6 s1 else ReleasedBy s part soid p mask s1

/-- A run with node `i` completed: each successor has one predecessor less for each time it is named, and is ready without one
(R123). -/
def doneRun (r : Run) (i : Nat) (n : RunNode) : Run :=
  { r with nodes := r.nodes.mapIdx fun j m =>
      if j = i then { m with st := .done } else
      { m with left := m.left - n.succs.count j
               st := if m.st = .blocked ∧ 0 < n.succs.count j ∧ m.left ≤ n.succs.count j then .ready else m.st } }
/-- A run that is over: every node is done, or a code has ended it and no node is in progress (R30, R123). -/
def runOver (r : Run) : Prop :=
  if r.code = 0 then ∀ n ∈ r.nodes, n.st = .done else ∀ n ∈ r.nodes, n.st = .blocked ∨ n.st = .ready ∨ n.st = .done
/-- The run completion doubleword (R405). -/
def endWord (r : Run) : Nat :=
  (BitVec.ofNat 64 (r.runid.toNat + 2 ^ 32 * r.code + 2 ^ 40 * r.failNode + (if r.kill then 2 ^ 62 else 0) + 2 ^ 63)).toNat
/-- A run without capture ends: DONEVA gets its word if it names one, the run goes, and HEAD and RUNSDONE of its queue advance
(R119, R123, R405). -/
def RunEnds (s : State) (r : Run) (t : State) : Prop :=
  ∃ s1 s2, (if r.doneVA = 0 then s1 = s else ∃ pa, s.fePage r.home r.doneVA .write = .ok pa ∧ Wrote s pa (natBytes 8 (endWord r)) s1) ∧
    MemOnly { s1 with fe := { s1.fe with runs := s1.fe.runs.filter fun x => !(x.qidx == r.qidx && x.runid == r.runid) } } s2 ∧
    (s1.qsb r.qidx = none → s2.mem = s1.mem) ∧
    (∀ b, s1.qsb r.qidx = some b → Apart [(s1.fe.regs.qtabBase.toNat + 8 * r.qidx, 8), (b.addr, 128)] →
      (b.addr + 128 ≤ hbmTop → OffTables s1 [(b.addr, 128)] → memNat s2.mem (b.addr + 0x18) 4 = (b.head + 1) % 2 ^ 32 ∧
        memNat s2.mem (b.addr + 0x28) 4 = (memNat s1.mem (b.addr + 0x28) 4 + 1) % 2 ^ 32) ∧
      ∀ a, a ≠ b.addr + 8 → (a < b.addr + 0x18 ∨ b.addr + 0x1C ≤ a) → (a < b.addr + 0x28 ∨ b.addr + 0x2C ≤ a) →
        memGet s2.mem a = memGet s1.mem a) ∧
    Refreshed s2 r.qidx t
/-- The active run of a queue is `r` now, and ends if it is over; a completion word whose page is missing waits (R123, R443). -/
def RunGoesOn (s : State) (r : Run) (t : State) : Prop :=
  let waits := ∃ a ∈ s.fe.accesses, a.qidx = r.qidx ∧ a.target = .donePost
  (¬ runOver r ∨ waits → Refreshed (withRun s r) r.qidx t) ∧
  (runOver r → ¬ waits → r.capture = none → (r.doneVA = 0 ∨ ∃ pa, s.fePage r.home r.doneVA .write = .ok pa) → RunEnds (withRun s r) r t) ∧
  (runOver r → ¬ waits → r.doneVA ≠ 0 → (∃ e, s.fePage r.home r.doneVA .write = .error e) →
    Refreshed { withRun s r with fe := { (withRun s r).fe with
      accesses := s.fe.accesses ++ [⟨r.qidx, r.gid, r.runid, .donePost, r.home, r.doneVA, BitVec.ofNat 64 (endWord r), 0⟩] } } r.qidx t)

/-- The watches of the die that nodes other than `i` of queue `q` hold (R123). -/
def watchesHeld (s : State) (q i : Nat) : Nat :=
  (s.fe.runs.flatMap fun r => r.nodes.zipIdx.filter fun x => (match x.1.st with
    | .watching _ (some _) => true
    | _ => false) && !decide (r.qidx = q ∧ x.2 = i)).length
/-- Node `i`, a wait node, of run `r` reads its word: it waits for a missing page, or watches a word that does not satisfy it, with a
watch while one of 64 is free, or acquires and completes (R27, R28, R123, R124). -/
def WaitRead (s : State) (r : Run) (i : Nat) (n : RunNode) (t : State) : Prop :=
  (∀ e, s.fePage r.home (signalAddr n) .read = .error e →
    Refreshed (withRun s { r with nodes := r.nodes.set i { n with st := .noPage s.now false none } }) r.qidx t) ∧
  ∀ pa, s.fePage r.home (signalAddr n) .read = .ok pa →
    (¬ condHolds n (memNat s.mem pa 8) → Refreshed (withRun s { r with nodes := r.nodes.set i { n with
      st := .watching s.now (if watchesHeld s r.qidx i < 64 then some (memNat s.mem pa 8) else none) } }) r.qidx t) ∧
    (condHolds n (memNat s.mem pa 8) → i ∉ n.succs → ∃ s1, NodeAcquires s r n s1 ∧ RunGoesOn s1 (doneRun r i n) t)

/-- A list's table entry and its QSBs lie apart in HBM, off the region binding tables. -/
def ListPlaced (s : State) (p : Nat) : Prop :=
  s.prioAt p + 32 ≤ hbmTop ∧ OffTables s [(s.prioAt p, 32)] ∧
    ∀ a ∈ s.listOf p, a + 128 ≤ hbmTop ∧ OffTables s [(a, 128)] ∧ Apart [(a, 128), (s.prioAt p, 32)]
/-- A QSB is taken out of a list that holds it: what named it names what it named, TAILQ names the one before it where it was the
last, and the list's WALKGEN is noted (R122). -/
def Unlinked (s : State) (a p : Nat) (s1 : State) : Prop :=
  let next := s.feNat a 8 % 2 ^ 57
  if a ∉ s.listOf p then s1 = s else
  MemOnly { s with fe := { s.fe with removed := s.fe.removed ++ [(a, p, BitVec.ofNat 32 (s.walkgen p))] } } s1 ∧
    (∀ k, (k < s.prioAt p ∨ s.prioAt p + 16 ≤ k) → (∀ x ∈ s.listOf p, k < x ∨ x + 8 ≤ k) → memGet s1.mem k = memGet s.mem k) ∧
    (ListPlaced s p →
      (∀ l, s.listOf p = a :: l → a ∉ l → memNat s1.mem (s.prioAt p) 8 = next ∧
        memNat s1.mem (s.prioAt p + 8) 8 = (if s.tailq p = a then 0 else memNat s.mem (s.prioAt p + 8) 8) ∧ ∀ x ∈ s.listOf p, memNat s1.mem x 8 = memNat s.mem x 8) ∧
      ∀ l1 x l2, s.listOf p = l1 ++ x :: a :: l2 → a ∉ l1 → a ≠ x → memNat s1.mem x 8 = next ∧
        memNat s1.mem (s.prioAt p + 8) 8 = (if s.tailq p = a then x else memNat s.mem (s.prioAt p + 8) 8) ∧ memNat s1.mem (s.prioAt p) 8 = memNat s.mem (s.prioAt p) 8)
/-- A QSB is put at a list's end: its NEXT is 0, TAILQ names it, and so does the last QSB before it, or HEADQ (R122). -/
def Linked (s : State) (a p : Nat) (s1 : State) : Prop :=
  let last := if s.headq p = 0 then s.prioAt p else s.tailq p
  MemOnly { s with fe := { s.fe with removed := s.fe.removed.filter fun x => x.1 != a } } s1 ∧
    (∀ k, (k < s.prioAt p ∨ s.prioAt p + 16 ≤ k) → (k < a ∨ a + 8 ≤ k) → (k < last ∨ last + 8 ≤ k) → memGet s1.mem k = memGet s.mem k) ∧
    (Apart [(a, 8), (last, 8), (s.prioAt p + 8, 8)] → OffTables s [(a, 8), (last, 8), (s.prioAt p + 8, 8)] →
      (∀ k ∈ [a, last, s.prioAt p + 8], k + 8 ≤ hbmTop) →
      memNat s1.mem a 8 = 0 ∧ memNat s1.mem (s.prioAt p + 8) 8 = a ∧ memNat s1.mem last 8 = a)
/-- At most one error record and its interrupt have been added: nothing else differs (R406, R407, R412). -/
def ErrorTold (s s1 : State) : Prop :=
  s1 = { s with mem := s1.mem, mcasts := s1.mcasts, bad := s1.bad, l2 := s1.l2, zipped := s1.zipped, svc := { s.svc with msix := s1.svc.msix } } ∧
    (s.svc.errRing = none → s1 = s) ∧
    ∀ g, s.svc.errRing = some g → ∀ a, (a < g.pa ∨ g.pa + 0x40 + 128 * 2 ^ g.log2 ≤ a) → memGet s1.mem a = memGet s.mem a

/-! ### Placement and work items (R143, R240 to R245) -/

/-- The agent of a core may decide on a reservation: it runs and takes no new image; no return that passes and no request of the
drafter comes before it (R141, R243, R422). -/
def MayServe (s : State) (core : Nat) : Prop :=
  s.agentRuns core = true ∧ (∀ b, s.svc.reload ≠ some (core, b)) ∧ s.returnWaits core = false ∧
    ((s.core core).drafterOn = true → s.draftPick core = none)
/-- The agent of a core serves an entry that is not held back: it takes no new image, and nothing that comes before a placement
waits (R141, R144, R422). -/
def Serves (s : State) (core i : Nat) (e : LstEntry) (img : Image) (k : Kernel) : Prop :=
  MayServe s core ∧ s.firstEntry core = some (i, e) ∧ s.heldBack core i e = false ∧
    s.imageBy (e.record.getD 0 0#64).toNat = some img ∧ s.kernel img (fieldAt e.record 1 0 16) = some k
/-- `s` with entry `i` of a die's Launch Slot Table replaced. -/
def withEntry (s : State) (die i : Nat) (e : LstEntry) : State := { s with fe := { s.fe with lst := s.fe.lst.set (lstIx die i) e } }
/-- `s` with one core replaced. -/
def withCore (s : State) (k : Nat) (c : Core) : State := { s with cores := s.cores.set (coreIx k) c }
/-- The s-registers at team start: the launch's parameters, low words first (R18, R41). -/
def launchWord (ps : List DWord) (i : Nat) : Word :=
  if i = 0 then 0#32 else if i % 2 = 1 then lowHalf (ps.getD ((i - 1) / 2) 0#64) else highHalf (ps.getD ((i - 1) / 2) 0#64)
/-- A group at its start, of no entry and no frame: registers zero but for the s-registers, every n-register set, LIMIT 8, its
lineages, and one path at `pc` with some lanes (R41, R55, R56, R58, R59, R244). -/
def groupStart (gid team idx slot : Nat) (ps : List DWord) (lin : Lane → DWord) (pc : VAddr) (lanes : Mask) : Group :=
  { gid := gid, team := team, idx := idx, slot := slot
    x := Tab.const 64 (Tab.const 32 0#32), v := Tab.const 64 (Tab.const 32 0#64), s := Tab.ofFn fun i => launchWord ps i.val
    q := Tab.const 8 (Tab.const 32 0#2), m := Tab.const 8 0#32, h := Tab.const 16 0#32, n := Tab.const 16 true
    gsr := 0#32, tl := 0, tca1 := 0#32, tca2 := 0#32, tepc1 := 0#57, tepc2 := 0#57, tfa1 := 0#57, tfa2 := 0#57
    depth := 0#8, limit := 8#8, rngKey := 0#64, rngCtr := 0#64, lin := Tab.ofFn lin, tag := 0#16
    paths := [⟨0, some 0, pc, lanes, lanes, 0#32, none, none, 0, none, none, none, none⟩]
    entries := [], frames := [], nextPid := 1, nextEid := 0 }
/-- A team as it starts, but for its accumulator names: INITIAL is its holding (R41, R60, R136, R143). -/
def teamStart (s : State) (core : Nat) (info : Launch) (prio : Nat) (area : Nat × Nat) (acc : Tab 8 Byte) : Team :=
  { uid := s.fresh, core := core, st := .resident, info := info, prio := prio, swapth := s.swapTh prio, hold := info.initial, reqs := []
    scr := [], full := [], bad := [], venFront := [], venBack := [], bars := List.replicate info.initial.bar ⟨0#16, 0, false, 0⟩
    acc := acc, windows := Tab.const 16 none, predCtr := Tab.const 6 0#32, waitSince := none, placed := s.now, saveArea := area
    saved := [], swappedAt := 0, switchedOut := false, watched := [], stirred := false }
/-- The accumulator names of a team that starts, and its core's slots: the lowest names for the free slots in increasing order, each
at its reset value (R47, R304). -/
def SlotsTaken (s : State) (core uid n : Nat) (acc : Tab 8 Byte) (c : Core) : Prop :=
  (∀ i : Fin 8, acc.get i = if i.val < n then (((s.core core).freeSlots[i.val]?).map fun p => 0x80#8 ||| BitVec.ofNat 8 p).getD 0#8 else 0#8) ∧
    ∀ j : Fin 8, c.acc.get j = if ((s.core core).freeSlots.take n).contains j.val then { AccSlot.reset with team := some uid } else (s.core core).acc.get j
/-- The dictionary of an image on a core: a bank holds it already, or the lowest bank that no resident team uses has taken its DICT
section, and the loop bodies of the image that the bank held are gone (R137, R178). -/
def DictTaken (s : State) (core : Nat) (img : Image) (c : Core) : Prop :=
  let old := s.core core
  ((∃ b, (old.dict.get b).image = some img.base) → c.dict = old.dict ∧ c.loops = old.loops) ∧
  ∀ b : Fin 4, (∀ j, (old.dict.get j).image ≠ some img.base) → s.bankUsed core b.val = false → (∀ j : Fin 4, j < b → s.bankUsed core j.val = true) →
    (c.dict.get b).image = some img.base ∧ (∀ j, j ≠ b → c.dict.get j = old.dict.get j) ∧
    (∀ off size, img.sectOf 3 = some (off, size) → ∀ i, i < size / 4 →
      (c.dict.get b).words[i]? = some (BitVec.ofNat 32 (s.feNat (img.pa + off + 4 * i) 4))) ∧
    ∀ i, c.loops.get i = (old.loops.get i).filter fun x => !(x.dict && (old.dict.get b).image == some x.image)
/-- The kept value of a register in an item: what it carries for it, else what its set kept, the last one named. -/
def itemX (i : Item) (r : Reg) : Word :=
  match i.carried with
  | .x d w => if d = r then w else ((i.xs.reverse.find? fun y => y.1 == r).map fun y => y.2).getD 0#32
  | _ => ((i.xs.reverse.find? fun y => y.1 == r).map fun y => y.2).getD 0#32
def itemV (i : Item) (r : Reg) : DWord :=
  match i.carried with
  | .v d w => if d = r then w else ((i.vs.reverse.find? fun y => y.1 == r).map fun y => y.2).getD 0#64
  | _ => ((i.vs.reverse.find? fun y => y.1 == r).map fun y => y.2).getD 0#64
/-- The lanes of a drafted group take the payloads and lineages of their items; the s-registers come from the first (R232, R244). -/
def Drafted (items : List Item) (ps : List DWord) (g : Group) : Prop :=
  (∀ (l : Lane) i, items[l.val]? = some i → g.lin.get l = i.lin ∧ (∀ r, r ≠ 0#6 → g.getX r l = itemX i r) ∧ (∀ r, g.getV r l = itemV i r) ∧
    (∀ n : Fin 8, (g.q.get n).get l = if i.keep.q.getLsbD n.val = true then i.qm.extractLsb' (2 * n.val) 2 else 0#2) ∧
    ∀ n : Fin 8, n ≠ 0 → laneOn (g.m.get n) l = (i.keep.m.getLsbD n.val && i.qm.getLsbD (15 + n.val))) ∧
  (∀ l : Lane, items.length ≤ l.val → g.lin.get l = 0#64 ∧ (∀ r, g.getX r l = 0#32) ∧ (∀ r, g.getV r l = 0#64) ∧
    (∀ n, (g.q.get n).get l = 0#2) ∧ ∀ n : Fin 8, laneOn (g.m.get n) l = false) ∧
  ∀ r, r ≠ 0#6 → g.getS r = (((((items.head?).map fun i => i.ss).getD []).reverse.find? fun y => y.1 == r).map fun y => y.2).getD (launchWord ps r.toNat)
/-- The units of some items. -/
def unitSum (l : List Item) : Nat := (l.map Item.units).sum
/-- The share of a partition in its die pool. -/
def outOfPool (s : State) (p a : Nat) : Prop := a < (s.part p).dpoolPA ∨ (s.part p).dpoolPA + 32 * (s.part p).dpoolU ≤ a
/-- A gang plan with one core's yes, and the save areas that it reserves (R144). -/
def agreed (p : GangPlan) (core : Nat) (areas : List (Nat × Nat)) : GangPlan :=
  { p with answers := p.answers ++ [(core, true)], areas := p.areas ++ areas.map fun a => (core, a) }
/-- An item wherever it lies. -/
def anywhere (i : Item) : Item := { i with home := .core 0 }

end Sys2Proof.Claims

/-- The walker, queue service, wait nodes, parking, reports of ranges and the end of kernel nodes (R121, R122, R123,
R124, R127, R128). -/
def Obligations.QueueSteps : Prop :=
  -- WALKER_PASS
  (∀ s, DiesUp s → lists s → ∃ t, exec .walkerPass s = .next t ∧
    MemOnly { s with fe := { s.fe with handed := t.fe.handed } } t ∧
    (∀ a, (∀ p, p < 8 → a < s.prioAt p + 0x18 ∨ s.prioAt p + 0x1C ≤ a) → memGet t.mem a = memGet s.mem a) ∧
    (OffTables s [(s.prioAt 0, 256)] → ∀ p, p < 8 → memNat t.mem (s.prioAt p + 0x18) 4 = (memNat s.mem (s.prioAt p + 0x18) 4 + 1) % 2 ^ 32) ∧
    ((∀ p, p < 8 → ∀ a ∈ s.listOf p, ∀ k, k < 8 → a + 16 ≤ s.prioAt k + 0x18 ∨ s.prioAt k + 0x1C ≤ a) → t.fe.handed = handedOver s)) ∧
  -- QUEUE_SERVICE
  (∀ s a rest, DiesUp s → s.fe.handed = a :: rest → s.fe.ranges = [] →
    (s.queueOf a = none → exec .queueService s = .next { s with fe := { s.fe with handed := rest } }) ∧
    ∀ q, s.queueOf a = some q → (∀ r ∈ s.fe.runs, r.qidx ≠ q) →
      ((s.qsbAt a).stored = 0 ∨ s.fe.wait = some (.qdestroy q) →
        ∃ t, exec .queueService s = .next t ∧ Refreshed { s with fe := { s.fe with handed := rest } } q t) ∧
      ∀ g ps, (s.qsbAt a).stored ≠ 0 → s.fe.wait ≠ some (.qdestroy q) →
        let b := s.qsbAt a
        let trig := (List.range 8).map fun i => BitVec.ofNat 64 (s.feNat (b.slot b.head + 8 * i) 8)
        (s.fe.graphs.find? fun h => h.gid == fieldAt trig 0 0 12) = some g → (∀ r ∈ s.fe.runs, r.gid ≠ fieldAt trig 0 0 12) →
        s.earlierTrigger q b.head (fieldAt trig 0 0 12) = false → s.triggerParams g trig = .ok ps → s.captureEntry b.home q = none →
        (∀ n ∈ s.runNodes g ps.1, n.kind = 1) →
        let r : Run := ⟨q, g.gid, BitVec.ofNat 32 b.head, b.home, g.doneVA, ps.1, (s.runNodes g ps.1).map started, 0, 0, false, none, 0⟩
        ∃ s1 t cs, exec .queueService s = .next t ∧ Refreshed s1 q t ∧
          MemOnly { s with
            copies := s.copies ++ cs
            fresh := s.fresh + cs.length
            fe := { s.fe with handed := rest, runs := s.fe.runs ++ [r], trigs := s.fe.trigs.filter fun x => x != (q, b.head) } } s1 ∧
          cs.map (fun x => { x with relSeq := none }) = nodeCopies s q b.home (s.runNodes g ps.1) ∧
          (∀ x ∈ cs, x.relSeq.isSome = (x.rel && decide ((s.rbEntry b.home (blockField x.ccb 7 0 12)).kind = 2))) ∧
          ∀ k, (k < s.rbAddr b.home 0 ∨ s.rbAddr b.home 4096 ≤ k ∨ ∀ x ∈ cs, x.rel = false) → memGet s1.mem k = memGet s.mem k) ∧
  -- WAIT_NODE_REREAD
  (∀ s r n, DiesUp s → s.runNode s.arg.item s.arg.team = some (r, n) → n.kind = 2 →
    (∀ old since, n.st = .watching since (some old) → ∀ pa, s.fePage r.home (signalAddr n) .read = .ok pa → memNat s.mem pa 8 = old →
      exec .waitNodeReread s = .next s) ∧
    (∀ since, n.st = .watching since none → s.now < since + 2250 → exec .waitNodeReread s = .next s) ∧
    ((∃ since, n.st = .watching since none ∧ since + 2250 ≤ s.now) ∨ (∃ since old, n.st = .watching since (some old) ∧
        ∀ pa, s.fePage r.home (signalAddr n) .read = .ok pa → memNat s.mem pa 8 ≠ old) →
      ∃ t, exec .waitNodeReread s = .next t ∧ WaitRead s r s.arg.team n t)) ∧
  -- QUEUE_PARK
  (∀ s r n b since a, DiesUp s → s.qsb s.arg.item = some b → s.runNode s.arg.item s.arg.team = some (r, n) → n.st = .noPage since false a →
    (s.now < since + s.swapTh b.prio → exec .queuePark s = .next s) ∧
    (since + s.swapTh b.prio ≤ s.now → ∃ s1 t, exec .queuePark s = .next t ∧ Unlinked s b.addr b.prio s1 ∧
      Refreshed (withRun s1 { r with nodes := r.nodes.set s.arg.team { n with st := .noPage since true a } }) s.arg.item t)) ∧
  -- QUEUE_UNPARK
  (∀ s r n b since a, DiesUp s → s.qsb s.arg.item = some b → s.runNode s.arg.item s.arg.team = some (r, n) →
    n.st = .noPage since true (some a) → n.kind = 2 → (∀ x ∈ s.fe.runs, x.qidx = s.arg.item → x.runid = r.runid) → (∀ p, s.fe.wait ≠ some (.relink s.arg.item p)) →
    (s.mayLink b.addr = false → exec .queueUnpark s = .next s) ∧
    (s.mayLink b.addr = true → (∀ j m, r.nodes[j]? = some m → m.parked = true → j = s.arg.team) →
      ∃ s1 t, exec .queueUnpark s = .next t ∧ Linked s b.addr b.prio s1 ∧
        (a = 0 → WaitRead s1 r s.arg.team n t) ∧
        (a ≠ 0 → ∃ s2, ErrorTold s1 s2 ∧ RunGoesOn s2 { r with
          code := if r.code = 0 then 0x33 else r.code
          failNode := if r.code = 0 then s.arg.team else r.failNode
          nodes := r.nodes.set s.arg.team { n with st := .done } } t))) ∧
  -- LST_REPORT
  (∀ s, DiesUp s → let e := s.entry s.arg.die s.arg.item
    (e.st = 2 → e.done = e.tend - e.tfirst → exec .lstReport s = .next (match s.run e.qidx e.runid with
      | none => s.putEntry s.arg.die s.arg.item { e with st := 3 }
      | some r => (withRun s { r with nodes := r.nodes.modify e.node fun n =>
          { n with reported := n.reported + e.done, killed := n.killed + e.killed } }).putEntry s.arg.die s.arg.item { e with st := 3 })) ∧
    (e.st = 3 → s.fe.ranges = [] → exec .lstReport s = .next (s.putEntry s.arg.die s.arg.item LstEntry.free)) ∧
    (e.st ≠ 2 ∨ e.done ≠ e.tend - e.tfirst → e.st ≠ 3 → exec .lstReport s = .next s)) ∧
  -- KERNEL_NODE_COMPLETE
  ∀ s r n, DiesUp s → s.runNode s.arg.item s.arg.team = some (r, n) → n.kind = 0 → n.st = .running → n.reported = n.total →
    (∀ a ∈ s.fe.accesses, ¬ (a.qidx = s.arg.item ∧ a.target = .complva s.arg.team)) →
    (¬ inTurn s r n → ∃ k s1 t, exec .kernelNodeComplete s = .next t ∧ SeqTaken s r.home (syncOf n).1 (some k) s1 ∧
      Refreshed (withRun s1 { r with nodes := r.nodes.set s.arg.team { n with st := .syncing k } }) s.arg.item t) ∧
    (inTurn s r n → ∃ s1 t, exec .kernelNodeComplete s = .next t ∧ NodeReleases s r n s1 ∧
      let va := blockField n.body 7 0 57
      let word := n.seq.toNat + 2 ^ 32 * min n.killed (2 ^ 24 - 1) + 2 ^ 63
      (s.arg.team ∉ n.succs → (va = 0 ∨ ∃ pa, s1.fePage r.home va .write = .ok pa) →
        ∃ s2, (if va = 0 then s2 = s1 else ∃ pa, s1.fePage r.home va .write = .ok pa ∧ Wrote s1 pa (natBytes 8 word) s2) ∧
          RunGoesOn s2 (doneRun r s.arg.team n) t) ∧
      (va ≠ 0 → (∃ e, s1.fePage r.home va .write = .error e) →
        let s2 := withRun s1 { r with nodes := r.nodes.set s.arg.team n }
        Refreshed { s2 with fe := { s2.fe with accesses := s2.fe.accesses ++
          [⟨s.arg.item, r.gid, r.runid, .complva s.arg.team, r.home, va, BitVec.ofNat 64 word, 0⟩] } } s.arg.item t))

/-- Placing teams and gangs, retiring, drafting groups, stealing and the die pool (R143, R144, R127, R154, R240, R241,
R242, R244, R245). -/
def Obligations.PlacementSteps : Prop :=
  -- AGENT_PLACE of a single team: loaded with its ticket; or the entry is drained; or it does not fit
  (∀ s i e img k, Serves s s.arg.core i e img k → lrGang e.record = none →
    let die := dieOf s.arg.core
    let area := (s.part (partOf s.arg.core)).findArea (needOfRecord e.record k).save
    let info := s.launchOf die i e img k e.ticket none
    (∀ a, Numbered s → s.coreFits s.arg.core (needOfRecord e.record k) 1 = true → area = some a → e.ticket < e.tend →
      ∃ t acc c, exec .agentPlace s = .next t ∧
        t = { withCore (withEntry s die i { e with ticket := e.ticket + 1 }) s.arg.core c with
          teams := t.teams, groups := t.groups, parts := t.parts, fresh := s.fresh + 1 + lrGpt e.record } ∧
        c = { s.core s.arg.core with l1 := [], unfit := none, acc := c.acc, dict := c.dict, loops := c.loops } ∧
        SlotsTaken s s.arg.core s.fresh info.initial.acc acc c ∧
        (if k.dict = true then DictTaken s s.arg.core img c else c.dict = (s.core s.arg.core).dict ∧ c.loops = (s.core s.arg.core).loops) ∧
        (∀ p, t.part p = if p % 8 = partOf s.arg.core % 8 then { s.part p with saveUsed := (s.part p).saveUsed ++ [a] } else s.part p) ∧
        (∀ n, t.team n = if n = s.fresh then some (teamStart s s.arg.core info e.prio a acc) else s.team n) ∧
        (∀ n, (n ≤ s.fresh ∨ s.fresh + lrGpt e.record < n) → t.group n = s.group n) ∧
        ∀ n, n < lrGpt e.record → t.group (s.fresh + 1 + n) = some (groupStart (s.fresh + 1 + n) s.fresh n ((s.slotsFree s.arg.core).getD n 0)
          info.params (fun l => BitVec.ofNat 64 (((e.ticket * lrGpt e.record + n) * 32 + l.val) % 2 ^ 40))
          (codeAt (BitVec.ofNat 57 img.base) ((((img.sectOf 1).map fun q => q.1).getD 0) + k.entryOff)) 0xFFFFFFFF#32)) ∧
    (s.coreFits s.arg.core (needOfRecord e.record k) 1 = true → area ≠ none → e.tend ≤ e.ticket → exec .agentPlace s =
      .next (withCore (withEntry s die i { e with ticket := e.ticket + 1, st := 2 }) s.arg.core { s.core s.arg.core with unfit := none })) ∧
    (s.coreFits s.arg.core (needOfRecord e.record k) 1 = false ∨ area = none →
      ((∃ n, (s.core s.arg.core).unfit = some (e.seq, n)) → exec .agentPlace s = .next s) ∧
      ((∀ n, (s.core s.arg.core).unfit ≠ some (e.seq, n)) → exec .agentPlace s =
        .next (withCore s s.arg.core { s.core s.arg.core with unfit := some (e.seq, s.now) })))) ∧
  -- AGENT_PLACE of a gang entry: the request to the members
  (∀ s i e img k dom size, Serves s s.arg.core i e img k → lrGang e.record = some (dom, size) →
    (∀ p ∈ s.fe.gangs, ¬ (p.leader = s.arg.core ∧ p.die = dieOf s.arg.core ∧ p.lst = i)) →
    let n := needOfRecord e.record k
    exec .agentPlace s = .next { s with fe := { s.fe with gangs := s.fe.gangs ++
      [⟨dieOf s.arg.core, i, e.seq, s.arg.core, size, dom, n.init, n.max, n.gpt, n.ven, n.dict, n.save, [], [], false, s.now⟩] } }) ∧
  -- AGENT_PLACE of a gang entry once every member has said yes: its tickets and its teams
  (∀ s i e img k dom size p, Serves s s.arg.core i e img k → lrGang e.record = some (dom, size) → Numbered s → e.ticket < e.tend →
    (s.fe.gangs.find? fun p => p.leader == s.arg.core && p.die == dieOf s.arg.core && p.lst == i && p.seq == e.seq) = some p →
    p.size = size → p.dom = dom → (∀ j, j < gangCores dom → p.share (s.arg.core + j) ≠ 0 →
      s.agentRuns (s.arg.core + j) = true ∧ (s.arg.core + j, true) ∈ p.answers) →
    (∀ c, (p.areas.filter fun a => a.1 == c).length = p.share c) →
    let s1 := withEntry s (dieOf s.arg.core) i { e with ticket := e.ticket + size }
    ∃ t, exec .agentPlace s = .next t ∧ t = { s1 with
        teams := t.teams, groups := t.groups, cores := t.cores, fresh := t.fresh
        fe := { s1.fe with gangs := s.fe.gangs.filter fun x => x != p } } ∧
      (∀ n, n < s.fresh → t.team n = s.team n ∧ t.group n = s.group n) ∧
      ∀ j, j < size → ∃ u, t.team (s.fresh + j * (1 + lrGpt e.record)) = some u ∧ u.core = s.arg.core + j % gangCores dom ∧ u.st = .resident ∧
        u.info = s.launchOf (dieOf s.arg.core) i e img k (e.ticket + j) (some ⟨e.ticket, size, dom⟩) ∧ u.hold = u.info.initial ∧
        (u.core, u.saveArea) ∈ p.areas) ∧
  -- GANG_RESERVE: a yes with its reservation, or a no that drops every reservation of the gang
  (∀ s p, (s.fe.gangs.find? fun p => p.leader == s.arg.item && p.covers s.arg.core && p.share s.arg.core != 0
      && p.answers.all (fun a => a.1 != s.arg.core)) = some p →
    (s.entry p.die p.lst).st = 1 → (s.entry p.die p.lst).seq = p.seq → s.heldBack s.arg.core p.lst (s.entry p.die p.lst) = false →
    let need : Need4 := ⟨p.init, p.max, p.gpt, p.ven, p.dict, p.save⟩
    (∀ areas s1, MayServe s s.arg.core → s.coreFits s.arg.core need (p.share s.arg.core) = true →
      s.takeAreas (partOf s.arg.core) p.save (p.share s.arg.core) = some (areas, s1) →
      exec .gangReserve s = .next { s with
        parts := s.parts.set (partIx (partOf s.arg.core)) { s.part (partOf s.arg.core) with saveUsed := (s.part (partOf s.arg.core)).saveUsed ++ areas }
        fe := { s.fe with gangs := s.fe.gangs.map fun x => if x = p then agreed p s.arg.core areas else x } } ∧
        areas.length = p.share s.arg.core ∧ ∀ a ∈ areas, a.2 = p.save) ∧
    (MayServe s s.arg.core ∧ (s.coreFits s.arg.core need (p.share s.arg.core) = false ∨
        s.takeAreas (partOf s.arg.core) p.save (p.share s.arg.core) = none) ∨
        s.agentRuns s.arg.core = true ∧ (∃ b, s.svc.reload = some (s.arg.core, b)) →
      ∃ t, exec .gangReserve s = .next t ∧
        t = { s with parts := t.parts, cores := t.cores, fe := { s.fe with gangs := s.fe.gangs.map fun x =>
          if x.leader = p.leader ∧ x.die = p.die ∧ x.lst = p.lst then { p with answers := [], areas := [], refused := true } else x } } ∧
        (∀ n, t.part n = if n % 8 = partOf p.leader % 8 then
          { s.part n with saveUsed := (s.part n).saveUsed.filter fun a => !(p.areas.any fun b => b.2 == a) } else s.part n) ∧
        ∀ n, t.core n = if n % 768 = p.leader % 768 then { s.core n with unfit := match (s.core n).unfit with
            | some (x, since) => if x = p.seq then some (x, since) else some (p.seq, s.now)
            | none => some (p.seq, s.now) } else s.core n)) ∧
  -- GROUP_RETIRE
  (∀ s g u, s.group s.arg.item = some g → s.team g.team = some u →
    (s.svc.diesOn = true → s.svc.stopped = false → g.paths = [] →
      exec .groupRetire s = .next { s with groups := s.groups.filter fun h => h.gid != s.arg.item }) ∧
    (g.paths ≠ [] → exec .groupRetire s = .next s)) ∧
  -- TEAM_RETIRE
  (∀ s u, s.team s.arg.team = some u → s.teamOver u = true → s.teamRuns u = true → (∀ b, s.svc.reload ≠ some (u.core, b)) →
    ∃ t, exec .teamRetire s = .next t ∧
      t = { s with
        teams := s.teams.filter fun x => x.uid != s.arg.team
        cores := t.cores, parts := t.parts, fe := { s.fe with lst := t.fe.lst } } ∧
      (∀ n, ∃ acc, t.core n = { s.core n with acc := acc } ∧ ∀ i, acc.get i =
        if n % 768 = u.core % 768 ∧ ((s.core n).acc.get i).team = some u.uid then AccSlot.reset else (s.core n).acc.get i) ∧
      (∀ p, t.part p = if p % 8 = partOf u.core % 8 then { s.part p with saveUsed := (s.part p).saveUsed.filter fun a => a != u.saveArea } else s.part p) ∧
      ∀ d n, t.entry d n = (let e := s.entry d n
        if lstIx d n = lstIx u.info.die u.info.lst ∧ e.st ≠ 0 ∧ e.seq = BitVec.ofNat 32 u.info.seq then { e with done := e.done + 1 } else e)) ∧
  -- DRAFT_GROUP
  (∀ s p slot, DiesUp s → (s.part (partOf s.arg.core)).st = .running → (s.core s.arg.core).drafterOn = true → s.returnWaits s.arg.core = false →
    s.draftPick s.arg.core = some p → (s.slotsFree s.arg.core).head? = some slot →
    let items := p.items.take 32
    ∀ idx, idx < 64 → (∀ h ∈ s.groups, h.team = p.team.uid → h.idx ≠ idx) → (∀ n, n < idx → ∃ h ∈ s.groups, h.team = p.team.uid ∧ h.idx = n) →
    ∃ t g pc, exec .draftGroup s = .next t ∧
      t = { s with items := items.foldl (fun l i => l.erase i) s.items, groups := s.groups ++ [g], fresh := s.fresh + 1, cores := t.cores } ∧
      items.head?.map (fun i => i.entry) = some pc ∧ Drafted items p.team.info.params g ∧
      g = { groupStart s.fresh p.team.uid idx slot p.team.info.params (fun _ => 0#64) pc (maskOf fun l => decide (l.val < items.length)) with
        x := g.x, v := g.v, s := g.s, q := g.q, m := g.m, lin := g.lin } ∧
      ∀ n, t.core n = { s.core n with
        l1 := if p.queue.team = none ∧ n % 768 = s.arg.core % 768 then [] else (s.core n).l1
        queues := if n % 768 = p.core % 768 then (s.core n).queues.filter fun q => t.items.any fun i => i.coreOf == p.core && q.holds i
          else (s.core n).queues }) ∧
  -- STEAL_REQUEST
  (∀ s u e, DiesUp s → s.team s.arg.team = some u → u.core = s.arg.core → s.takesGroup u = true → s.slotRoom s.arg.core ≠ 0 →
    s.freeItems (dieOf s.arg.core) u.info.seq = [] → (∀ r ∈ s.steals, r.die ≠ dieOf s.arg.core) →
    ([(dieOf s.arg.core + 1) % 4, (dieOf s.arg.core + 3) % 4, (dieOf s.arg.core + 2) % 4].find? fun d =>
      !(s.freeItems d u.info.seq).isEmpty) = some e →
    let p := partOf s.arg.core
    let got := fitItems ((s.part p).dpoolU - s.poolUsed p) ((s.oldestFree e u.info.seq).take (min 32 (((s.freeItems e u.info.seq).length + 1) / 2)))
    (got = [] → exec .stealRequest s = .next s) ∧ (got ≠ [] → ∃ t, exec .stealRequest s = .next t ∧
      t = { s with
        items := got.foldl (fun l i => l.erase i) s.items
        steals := s.steals ++ [⟨dieOf s.arg.core, p, s.arg.core, u.info.seq, got⟩], cores := t.cores } ∧
      ∀ n, n < 768 → t.core n = { s.core n with
        queues := (s.core n).queues.filter fun q => dieOf n != e || t.items.any fun i => i.coreOf == n && q.holds i })) ∧
  -- STEAL_REPLY
  (∀ s r, s.svc.diesOn = true → s.svc.stopped = false → (s.steals.find? fun x => x.die == s.arg.die) = some r →
    ∃ t new, exec .stealReply s = .next t ∧
      MemOnly { s with
        items := s.items ++ r.items.map fun i => { i with home := .pool r.part r.core }
        steals := s.steals.filter fun x => x.die != s.arg.die, draws := s.draws + r.items.length, cores := t.cores } t ∧
      ((∀ i ∈ r.items, i.units ≤ (s.part r.part).dpoolU ∧ i.image.length = 32 * i.units) → ∀ a, outOfPool s r.part a → memGet t.mem a = memGet s.mem a) ∧
      (∀ n, t.core n = if n % 768 = r.core % 768 then { s.core n with queues := (s.core n).queues ++ new } else s.core n) ∧
      (∀ q ∈ new, q.since = s.now ∧ ∃ i ∈ t.items, i.coreOf = r.core ∧ q.holds i = true) ∧
      ∀ i ∈ r.items, (∃ q ∈ (t.core r.core).queues, q.holds i = true) ∨ ∀ n, n < 64 → ∃ q ∈ (t.core r.core).queues, q.num = n) ∧
  -- DIE_POOL_RETURN
  ∀ s, DiesUp s → s.directoryHere s.arg.core = true → (s.items.map anywhere).Nodup →
    ∃ t, exec .diePoolReturn s = .next t ∧ MemOnly { s with items := t.items, cores := t.cores, draws := t.draws } t ∧
      t.items.map anywhere = s.items.map anywhere ∧ (∀ i ∈ s.items, i.coreOf ≠ s.arg.core → i ∈ t.items) ∧
      ((∀ i ∈ s.items, i.image.length = 32 * i.units) → ∀ a, outOfPool s (partOf s.arg.core) a → memGet t.mem a = memGet s.mem a) ∧
      (s.poolUsed (partOf s.arg.core) + unitSum (s.items.filter fun i => i.home == .core s.arg.core && s.mustLeave i) ≤ (s.part (partOf s.arg.core)).dpoolU →
        ∀ i ∈ t.items, i.home = .core s.arg.core → s.mustLeave i = false) ∧
      ((∀ i ∈ s.items, i.coreOf = s.arg.core → s.mustLeave i = false) →
        unitSum (s.items.filter fun i => i.coreOf == s.arg.core) ≤ 512 →
        (∀ i ∈ s.items, i.coreOf = s.arg.core → ∃ q ∈ (s.core s.arg.core).queues, q.holds i = true) →
        ∀ i ∈ t.items, i.coreOf = s.arg.core → i.home = .core s.arg.core) ∧
      (∀ n, n % 768 ≠ s.arg.core % 768 → t.core n = s.core n) ∧
      t.core s.arg.core = { s.core s.arg.core with queues := (t.core s.arg.core).queues } ∧
      ∀ q ∈ (t.core s.arg.core).queues, ∃ i ∈ t.items, i.coreOf = s.arg.core ∧ q.holds i = true

namespace Sys2Proof.Claims
open Sys2Proof.Machine Sys2Proof.Safety

/-! ### Swapping (R150 to R153, R394 to R397) and partitions (R398, R399, R416) -/

/-- A team on its way out, by a switch or by a wait: its timer is cleared, and what its waits wait for is noted (R151, R153). -/
def leaving (s : State) (switched : Bool) (u : Team) : Team :=
  { u with st := .swappingOut, waitSince := none, switchedOut := switched, watched := s.objects u, stirred := false }
/-- A record and a copy of a team that leaves stop at their restart points, and a copy goes on from its lowest chunk; a copy between
global addresses goes on (R152, R301, R325). -/
def stoppedRecord (r : Record) : Record := { r with stopped := true, eng := none }
def stoppedCopy (x : Copy) : Copy := if x.q.dsp ≠ 0 ∨ x.q.avsp ≠ 0 then { x with stopped := true, lowest := true } else x
/-- The team that owns a copy. -/
def ownedBy (x : Copy) (uid : Nat) : Bool :=
  match x.owner with
  | .handle u _ _ _ => u == uid
  | _ => false
/-- Some teams leave their cores; nothing else differs (R151, R152, R395). -/
def Leave (s : State) (ts : List Team) (switched : Bool) (t : State) : Prop :=
  t = { s with teams := t.teams, records := t.records, copies := t.copies } ∧
    (∀ n, t.team n = if ts.any (fun u => u.uid == n) = true then (s.team n).map (leaving s switched) else s.team n) ∧
    t.records = s.records.map (fun r => if ts.any (fun u => u.uid == r.team) = true then stoppedRecord r else r) ∧
    t.copies = s.copies.map fun x => if ts.any (fun u => ownedBy x u.uid) = true then stoppedCopy x else x
/-- A team that was coming back is resident, and so are its commands on its core: a record's slots are those that its names hold now
(R152). -/
def resumedRecord (u : Team) (r : Record) : Record := { r with core := u.core, slots := r.slots.map (slotNamed u), stopped := false }
def resumedCopy (u : Team) (x : Copy) : Copy := { x with core := u.core, part := partOf u.core, stopped := false }
/-- What a switch of a core does to the teams of its list: those that run or come back leave (R395, R397). -/
def Preempted (s : State) (uids : List Nat) (t : State) : Prop :=
  (∀ n, t.team n = if uids.contains n = true then (s.team n).map (fun u =>
    if u.st = .resident ∨ u.st = .waiting ∨ u.st = .returning then leaving s true u else u) else s.team n) ∧
  (t.records = s.records.map fun r => match (if uids.contains r.team then s.team r.team else none) with
    | some u => if u.st = .returning then stoppedRecord (resumedRecord u r) else if u.st = .resident ∨ u.st = .waiting then stoppedRecord r else r
    | none => r) ∧
  t.copies = s.copies.map fun x => match x.owner with
    | .handle n _ _ _ => (match (if uids.contains n then s.team n else none) with
      | some u => if u.st = .returning then stoppedCopy (resumedCopy u x) else if u.st = .resident ∨ u.st = .waiting then stoppedCopy x else x
      | none => x)
    | _ => x

/-- The command `c` is in its turn, no activation of an agent image being under way: it waits in the host's mailbox, or comes as a
message of the side-band port (R415, R422). -/
def Turned (s : State) (side : Bool) (c : List DWord) : Prop :=
  s.svc.powered = true ∧ s.svc.restarting = none ∧ s.svc.reload = none ∧ s.arg.flag = side ∧
    if side = true then s.arg.data = c ∧ s.svc.side.job = none ∧ ¬ (s.svc.host.job ≠ none ∧ s.svc.host.begun = false)
    else s.svc.host.job = some c ∧ s.svc.host.begun = false ∧ s.svc.stopped = false
/-- It is legal, and the dies work if it needs them. -/
def Legal (s : State) (c : List DWord) : Prop := mgmtBad c = false ∧ (mgmtNeedsDies (mgmtOp c) = true → DiesUp s)
/-- The mailbox has its answer: no command is left in it, the status is code and index, and its count of commands done is
one more (R39, R414); the host's mailbox signals vector 0 (R412). -/
def Replied (s : State) (side : Bool) (code index : Nat) (t : State) : Prop :=
  if side = true then t.svc.side = { s.svc.side with job := none, begun := false, stat := BitVec.ofNat 64 (code + 2 ^ 32 * index), done := s.svc.side.done + 1#32 } ∧ t.svc.host = s.svc.host ∧ t.svc.msix = s.svc.msix
  else t.svc.host = { s.svc.host with job := none, begun := false, stat := BitVec.ofNat 64 (code + 2 ^ 32 * index), done := s.svc.host.done + 1#32 } ∧ t.svc.side = s.svc.side ∧
    ∀ v, t.svc.msix.get v = if v = 0 then s.svc.msix.get v + 1 else s.svc.msix.get v
/-- The command has begun and waits for its end. -/
def Begun (s : State) (side : Bool) (c : List DWord) (t : State) : Prop :=
  if side = true then t.svc = { s.svc with side := { s.svc.side with job := some c, begun := true } }
  else t.svc = { s.svc with host := { s.svc.host with begun := true } }
/-- The management commands by OP (R415). -/
def managementOp : Instr → Option (Nat × (List DWord → Prop))
  | .pconf => some (1, fun _ => True)
  | .phalt => some (2, fun _ => True)
  | .presume => some (3, fun _ => True)
  | .pswapout => some (4, fun _ => True)
  | .pswapin => some (5, fun _ => True)
  | .preset => some (6, fun _ => True)
  | .cswitch => some (7, fun _ => True)
  | .rings => some (8, fun _ => True)
  | .logread => some (9, fun _ => True)
  | .health => some (10, fun _ => True)
  | .fwstage => some (11, fun _ => True)
  | .fwactFe => some (12, fun c => (c.getD 1 0#64).toNat = 0)
  | .fwactAgent => some (12, fun c => (c.getD 1 0#64).toNat = 1)
  | .fwactService => some (12, fun c => (c.getD 1 0#64).toNat = 2)
  | .attest => some (13, fun c => (c.getD 5 0#64).toNat % 2 = 0)
  | .attestKey => some (13, fun c => (c.getD 5 0#64).toNat % 2 = 1)
  | .pcap => some (14, fun _ => True)
  | _ => none
/-- The command `c` of a step `i` is in its turn and legal. -/
def Serving (i : Instr) (s : State) (side : Bool) (c : List DWord) : Prop :=
  Turned s side c ∧ Legal s c ∧ ∃ op ok, managementOp i = some (op, ok) ∧ mgmtOp c = op ∧ ok c
/-- A partition's record with another state and command in progress. -/
def partWith (s : State) (p : Nat) (st : PartState) (busy : Option (Nat × Bool)) : Partition := { s.part p with st := st, busy := busy }
/-- The descriptor at an address (R416). -/
def descriptorAt (s : State) (a : Nat) : List DWord := (List.range 16).map fun i => BitVec.ofNat 64 (s.feNat (a + 8 * i) 8)
/-- The other partition of the die has no context in the shadow slot, and the slot is reserved (R399). -/
def shadowFree (s : State) (p : Nat) : Prop :=
  ((s.part (p / 2 * 2)).shadow = true ∨ (s.part (p / 2 * 2 + 1)).shadow = true) ∧
    ∀ q, (q = p / 2 * 2 ∨ q = p / 2 * 2 + 1) → (s.part q).st ≠ .swappingOut ∧ (s.part q).st ≠ .swapped ∧ (s.part q).st ≠ .swappingIn

end Sys2Proof.Claims

/-- Teams swapped out, returned, resumed, switched by priority, and the core switch (R150, R151, R152, R153, R394,
R395, R397). -/
def Obligations.SwapSteps : Prop :=
  -- WAIT_SWAP_OUT
  (∀ s u, s.team s.arg.team = some u → s.agentRuns u.core = true →
    ((s.together u).all s.timedOut = true → (s.together u).any s.swapReason = true →
      ∃ t, exec .waitSwapOut s = .next t ∧ Leave s (s.together u) false t) ∧
    ((s.together u).all s.timedOut = false ∨ (s.together u).any s.swapReason = false → exec .waitSwapOut s = .next s)) ∧
  -- SWAP_OUT_DONE
  (∀ s u, s.team s.arg.team = some u → u.st = .swappingOut → (s.part (partOf u.core)).st = .running → DiesUp s →
    let names := (List.range 8).filter (named u)
    ∃ t, exec .swapOutDone s = .next t ∧
      MemOnly { s with teams := t.teams, records := t.records, items := t.items, cores := t.cores, draws := t.draws } t ∧
      (∀ n, t.team n = if n = u.uid then
        some { u with st := .swapped, saved := names.map (fun i => (i, s.slot u.core (slotNamed u i))), swappedAt := s.now } else s.team n) ∧
      (t.records = s.records.map fun r => if r.team = u.uid then
        { r with slots := r.slots.map (fun k => (names.find? fun i => slotNamed u i == k).getD 0) } else r) ∧
      (∀ n, ∃ acc qs, t.core n = { s.core n with acc := acc, queues := qs } ∧
        (∀ i, acc.get i = if n % 768 = u.core % 768 ∧ ((s.core n).acc.get i).team = some u.uid then AccSlot.reset else (s.core n).acc.get i) ∧
        (n % 768 ≠ u.core % 768 → qs = (s.core n).queues)) ∧
      t.items.map anywhere = s.items.map anywhere ∧ (∀ i ∈ s.items, i.owner ≠ u.uid ∨ i.free = true → i ∈ t.items) ∧
      ((s.items.map anywhere).Nodup → (∀ i ∈ s.items, i.owner = u.uid → i.free = false → i.coreOf = u.core) →
        s.poolUsed (partOf u.core) + unitSum (s.items.filter fun i => i.home == .core u.core && i.owner == u.uid && !i.free) ≤
          (s.part (partOf u.core)).dpoolU →
        ∀ i ∈ t.items, i.owner = u.uid → i.free = false → i.home ≠ .core u.core) ∧
      ((∀ i ∈ s.items, i.image.length = 32 * i.units) → ∀ a, (a < u.saveArea.1 ∨ u.saveArea.1 + u.saveArea.2 ≤ a) →
        (∀ p, outOfPool s p a) → memGet t.mem a = memGet s.mem a)) ∧
  -- TEAM_RETURN
  (∀ s u s1, Numbered s → s.team s.arg.team = some u → s.eligible u = true →
    (∀ v ∈ s.together u, ∀ r ∈ v.reqs, ∀ g, s.group r.gid = some g → g.team = v.uid) →
    ((s.returners u.core).find? fun v => (s.tryReturn v s.arg.core).isSome) = some u → s.tryReturn u s.arg.core = some s1 →
    exec .teamReturn s = .next s1 ∧
      s1 = { s with teams := s1.teams, groups := s1.groups, cores := s1.cores, items := s1.items } ∧
      (∀ n, (∀ v ∈ s.together u, v.uid ≠ n) → s1.team n = s.team n) ∧
      (∀ n g, s.group n = some g → (∀ v ∈ s.together u, v.uid ≠ g.team) → s1.group n = some g) ∧
      ∀ v ∈ s.together u, ∃ w, s1.team v.uid = some w ∧ w.st = .returning ∧ w.reqs = v.reqs.drop 1 ∧ (s1.core w.core).l1 = [] ∧
        s.agentRuns w.core = true ∧ (w.core = v.core ∨ partOf w.core = partOf u.core) ∧
        (v.reqs = [] → w = { v with core := w.core, st := .returning, acc := w.acc, saved := [] }) ∧
        ∀ r rest, v.reqs = r :: rest → w.hold = v.hold.add r.want ∧ ∀ g p y q, s.group r.gid = some g → g.path r.pid = some p →
          p.wait = some y → y.kind = .racq q → ∃ g' p', s1.group r.gid = some g' ∧ g'.path r.pid = some p' ∧
            p'.wait = some { y with ended := true, data := 0#32 }) ∧
  (∀ s u, s.team s.arg.team = some u → s.eligible u = false → exec .teamReturn s = .next s) ∧
  -- TEAM_RESUME
  (∀ s u, s.team s.arg.team = some u → u.st = .returning → s.agentRuns u.core = true →
    ∃ t, exec .teamResume s = .next t ∧ t = { s with teams := t.teams, records := t.records, copies := t.copies } ∧
      (∀ n, t.team n = if n = u.uid then some { u with st := .resident, waitSince := none, switchedOut := false } else s.team n) ∧
      (t.records = s.records.map fun r => if r.team = u.uid then resumedRecord u r else r) ∧
      t.copies = s.copies.map fun x => if ownedBy x u.uid = true then resumedCopy u x else x) ∧
  (∀ s u, s.team s.arg.team = some u → u.st ≠ .returning ∨ s.agentRuns u.core = false → exec .teamResume s = .next s) ∧
  -- TEAM_SWITCH
  (∀ s i e seq since v, s.agentRuns s.arg.core = true → (s.part (partOf s.arg.core)).preemptTh ≠ 0 →
    (s.core s.arg.core).unfit = some (seq, since) → s.firstEntry s.arg.core = some (i, e) → seq = e.seq →
    since + (s.part (partOf s.arg.core)).preemptTh ≤ s.now →
    (∀ u ∈ s.teams, ¬ (u.core = s.arg.core ∧ u.st = .swappingOut ∧ u.switchedOut = true)) → s.entryFits s.arg.core e = false →
    s.victim s.arg.core e.prio = some v → ∃ t, exec .teamSwitch s = .next t ∧ Leave s (s.together v) true t) ∧
  (∀ s, s.agentRuns s.arg.core = true → (s.part (partOf s.arg.core)).preemptTh = 0 → exec .teamSwitch s = .next s) ∧
  -- CSWITCH
  ∀ s side c, Serving .cswitch s side c → let k := (c.getD 1 0#64).toNat
    ((s.part (partOf k)).st ≠ .running → ∃ t, exec .cswitch s = .next t ∧ Replied s side 0x51 0 t ∧ t = { s with svc := t.svc }) ∧
    ((s.part (partOf k)).st = .running →
      let plans := s.fe.gangs.filter fun g => g.covers k
      ∃ t, exec .cswitch s = .next t ∧ Replied s side 0 0 t ∧
        t = { s with
          teams := t.teams, records := t.records, copies := t.copies, parts := t.parts, cores := t.cores, svc := t.svc
          fe := { s.fe with gangs := s.fe.gangs.filter fun x => !plans.any fun g => g.leader == x.leader && g.die == x.die && g.lst == x.lst } } ∧
        Preempted s (((s.teams.filter fun u => u.core == k).flatMap s.together).map fun u => u.uid) t ∧
        (∀ n, t.core n = if n % 768 = k % 768 then { s.core n with agentOn := false, drafterOn := false } else s.core n) ∧
        ∀ p, t.part p = { s.part p with saveUsed := (s.part p).saveUsed.filter (fun a =>
          !(plans.any fun g => partOf g.leader % 8 == p % 8 && g.areas.any (fun b => b.2 == a))) })

/-- Partition commands: their checks, their codes and the states they lead to (R398, R399, R414, R415, R416). -/
def Obligations.PartitionSteps : Prop :=
  (∀ i op ok, managementOp i = some (op, ok) → ∀ s side c, Turned s side c → mgmtBad c = true →
    ∃ t, exec i s = .next t ∧ Replied s side 0x55 0 t ∧ t.mem = s.mem ∧ t.parts = s.parts) ∧
  (∀ i op ok, managementOp i = some (op, ok) → ∀ s side c, Turned s side c → mgmtBad c = false → mgmtOp c = op → ok c →
    mgmtNeedsDies op = true → ¬ DiesUp s → ∃ t, exec i s = .next t ∧ Replied s side 0x52 0 t ∧ t.parts = s.parts) ∧
  (∀ i op ok, managementOp i = some (op, ok) → op ≤ 6 → ∀ s side c, Serving i s side c → (s.part (mgmtPart c)).busy ≠ none →
    ∃ t, exec i s = .next t ∧ Replied s side 0x50 0 t ∧ t.parts = s.parts) ∧
  (∀ s side c, Serving .pconf s side c → (s.part (mgmtPart c)).busy = none →
    let p := mgmtPart c
    let d := descriptorAt s (c.getD 1 0#64).toNat
    (s.part p).st = .unconfigured ∨ ((s.part p).st = .halted ∧ ∀ u ∈ s.teams, partOf u.core ≠ p) →
    (∀ off, descBad d = some off → ∃ t, exec .pconf s = .next t ∧ Replied s side 0x56 off t ∧ t.parts = s.parts) ∧
    (descBad d = none →
      ((d.getD 6 0#64).getLsbD 16 = true →
        (s.part (otherPart p)).st = .unconfigured ∨ (s.part (otherPart p)).st = .halted) →
      ∃ t, exec .pconf s = .next t ∧ Replied s side 0 0 t ∧ (∀ q, q % 8 ≠ p → t.part q = s.part q) ∧
        (t.part p).st = .halted ∧ (t.part p).ptRoot = (d.getD 0 0#64).toNat ∧ (t.part p).rbtPA = (d.getD 1 0#64).toNat ∧
        (t.part p).savePA = (d.getD 2 0#64).toNat ∧ (t.part p).saveSize = (d.getD 3 0#64).toNat ∧
        (t.part p).dpoolU = (d.getD 5 0#64).toNat ∧ (t.part p).preemptTh = (d.getD 7 0#64).toNat ∧
        (t.part p).shadow = (d.getD 6 0#64).getLsbD 16)) ∧
  (∀ s side c, Serving .phalt s side c → (s.part (mgmtPart c)).busy = none →
    ((s.part (mgmtPart c)).st = .running → ∃ t, exec .phalt s = .next t ∧ Begun s side c t ∧
      t.part (mgmtPart c) = partWith s (mgmtPart c) .halting (some (2, side)) ∧ t.teams = s.teams ∧ t.groups = s.groups) ∧
    ((s.part (mgmtPart c)).st ≠ .running → ∃ t, exec .phalt s = .next t ∧ Replied s side 0x51 0 t ∧ t.parts = s.parts)) ∧
  (∀ s, DiesUp s → s.arg.part < 8 → (s.part s.arg.part).st = .halting → ∃ t, exec .partitionHalted s = .next t ∧
    t.part s.arg.part = partWith s s.arg.part .halted none ∧
    (∀ k, k < 768 → partOf k = s.arg.part → (t.core k).l1 = []) ∧
    ∀ op side, (s.part s.arg.part).busy = some (op, side) → Replied s side 0 0 t) ∧
  (∀ s side c, Serving .presume s side c → (s.part (mgmtPart c)).busy = none → (s.part (mgmtPart c)).st = .halted →
    ∃ t, exec .presume s = .next t ∧ Replied s side 0 0 t ∧ t.part (mgmtPart c) = partWith s (mgmtPart c) .running none ∧
      ∀ k, k < 768 → partOf k = mgmtPart c → (t.core k).agentOn = Config.imageSigned s.svc.agentImage ∧
        (t.core k).drafterOn = Config.imageSigned s.svc.agentImage) ∧
  (∀ s side c, Serving .pswapout s side c → (s.part (mgmtPart c)).busy = none →
    ((s.part (mgmtPart c)).st = .halted → shadowFree s (mgmtPart c) → ∃ t, exec .pswapout s = .next t ∧ Begun s side c t ∧
      t.part (mgmtPart c) = partWith s (mgmtPart c) .swappingOut (some (4, side))) ∧
    ((s.part (mgmtPart c)).st ≠ .halted ∨ ¬ shadowFree s (mgmtPart c) → ∃ t, exec .pswapout s = .next t ∧
      Replied s side 0x51 0 t ∧ t.parts = s.parts)) ∧
  (∀ s side c, Serving .pswapin s side c → (s.part (mgmtPart c)).busy = none → (s.part (mgmtPart c)).st = .swapped →
    ∃ t, exec .pswapin s = .next t ∧ Begun s side c t ∧ t.part (mgmtPart c) = partWith s (mgmtPart c) .swappingIn (some (5, side))) ∧
  (∀ s, DiesUp s → s.arg.part < 8 → (s.part s.arg.part).owed = none →
    ((s.part s.arg.part).st = .swappingOut → ∃ t, exec .partitionSwapDone s = .next t ∧
      t.part s.arg.part = partWith s s.arg.part .swapped none) ∧
    ((s.part s.arg.part).st = .swappingIn → ∃ t, exec .partitionSwapDone s = .next t ∧
      t.part s.arg.part = partWith s s.arg.part .halted none)) ∧
  ∀ s side c, Serving .preset s side c → (s.part (mgmtPart c)).busy = none → (s.part (mgmtPart c)).st = .halted →
    ∃ t, exec .preset s = .next t ∧ (t.part (mgmtPart c)).st = .running ∧ (∀ u ∈ t.teams, partOf u.core ≠ mgmtPart c) ∧
      ∀ q ∈ t.faults, q.part ≠ mgmtPart c

namespace Sys2Proof.Claims
open Sys2Proof.Machine Sys2Proof.Safety

/-! ### Engines (R296 to R342) -/

/-- A record that named a handle learns how its command has ended (R322). -/
def learnt (gid h : Nat) (tag : BitVec 16) (failed : Bool) (r : Record) : Record :=
  if r.gid = gid ∧ r.pend.getLsbD h = true ∧ r.dtags.getD h 0#16 = tag then
    { r with pend := r.pend &&& ~~~(BitVec.ofNat 16 (2 ^ h)), badDep := r.badDep || failed } else r
/-- The handle of a command that has ended: if it is pending under the command's tag, it is complete or failed now. Nothing else of
the groups differs (R46, R296). -/
def HandleEnded (s : State) (gid h eng : Nat) (tag : BitVec 16) (failed : Bool) (t : State) : Prop :=
  (∀ n, n ≠ gid → t.group n = s.group n) ∧ (s.group gid = none → t.group gid = none) ∧
  ∀ g, s.group gid = some g → ∃ g', t.group gid = some g' ∧ g' = { g with h := g'.h } ∧
    ∀ r, r.toNat < 16 → g'.getH r = if r.toNat = h % 16 ∧ g.getH r = tag ++ BitVec.ofNat 16 (1 + 256 * eng)
      then tag ++ BitVec.ofNat 16 ((if failed then 3 else 2) + 256 * eng) else g.getH r
/-- `s` with the records of a number, or the copies of one, replaced. -/
def withRecord (s : State) (r : Record) : State := { s with records := s.records.map fun x => if x.rid = r.rid then r else x }
def withCopy (s : State) (x : Copy) : State := { s with copies := s.copies.map fun y => if y.cid = x.cid then x else y }
/-- `t` is `s` but for the lines that the slices hold, which an engine's reads have allocated (R262, R267). -/
def Fetched (s t : State) : Prop := t = { s with l2 := t.l2, zipped := t.zipped }
/-- One accumulator slot of a core is `a` now. -/
def withSlot (s : State) (core n : Nat) (a : AccSlot) : State :=
  withCore s core { s.core core with acc := (s.core core).acc.set (Fin.ofNat 8 n) a }
/-- What became of an access that an engine could not make: the fault service is asked, or the record has failed (R324). -/
def refusedAs (r : Record) : EngStop → Record
  | .fault f => { r with fault := some f }
  | .fails => { r with failed := true }
def refusedCopy (x : Copy) : EngStop → Copy
  | .fault f => { x with fault := some f }
  | .fails => { x with failed := true }
/-- A record starts on an engine, or on none. -/
def startedOn (r : Record) (e : Option Nat) : Record := { r with started := true, eng := e }
/-- The slots of a record that has failed show it (R306, R324). -/
def SlotsFailed (s : State) (r : Record) (t : State) : Prop :=
  t = { s with cores := t.cores } ∧ ∀ n, ∃ acc, t.core n = { s.core n with acc := acc } ∧ ∀ i, acc.get i =
    if (r.failed = true ∨ r.cancelled = true) ∧ n % 768 = r.core % 768 ∧ (∃ k ∈ r.slots, Fin.ofNat 8 k = i) then
      { (s.core n).acc.get i with status := ((s.core n).acc.get i).status ||| 0x40#32 } else (s.core n).acc.get i
/-- A record that its engine has left, with the ticket and the status word, if it owes them, written: it owes its release and its
handle. It is no part of a joint. -/
def OnlyHandle (r : Record) : Prop :=
  r.started = true ∧ r.fault = none ∧ r.stopped = false ∧ (r.finished = true ∨ r.failed = true ∨ r.cancelled = true) ∧ r.joint = none ∧
    (r.fn = 7 → r.ticketDone = true) ∧ (r.stva = 0 ∨ r.stvaDone = true ∨ r.failed = true ∨ r.cancelled = true)
/-- The release of a record, by R309 and R328: whether it names an object, the object and the mask. -/
def recordSync (r : Record) : Bool × Nat × BitVec 5 :=
  let w := r.block.getD (if r.fn < 11 ∨ r.fn = 16 then 6 else 10) 0#64
  (w.getLsbD 33, w.toNat / 2 ^ 16 % 2 ^ 12, BitVec.ofNat 5 (w.toNat / 2 ^ 28))
/-- A record with no number of an ordered object, or in its turn (R355). -/
def recordInTurn (s : State) (r : Record) : Prop :=
  ∀ n, r.rel = true → r.released = false → (recordSync r).1 = true → r.relSeq = some n → (s.rbEntry (partOf r.core) (recordSync r).2.1).rels = n
/-- The end of a record: its slots show a failure, its release is performed, and it is gone with its handle ended. -/
def RecordEnds (s : State) (r : Record) (eng : Nat) (t : State) : Prop :=
  ∃ s1 s2, SlotsFailed s r s1 ∧
    CommandReleases s1 r.rel r.released (recordSync r).1 (partOf r.core) (recordSync r).2.1 (recordParty r.core) (recordSync r).2.2 s2 ∧
    ∃ s3, s3 = { s2 with groups := s3.groups } ∧
      (∀ n, s3.group n = (s2.group n).map fun g => if n = r.gid ∧ r.fn = 6 ∧ (s1.slot r.core r.slot).status &&& 0xF#32 ≠ 0#32 then g.flag fACCOV else g) ∧
      t = { s3 with groups := t.groups, records := (s3.records.filter fun x => x.rid != r.rid).map fun x =>
        if r.hasH = true then learnt r.gid r.h r.tag (r.failed || r.cancelled) x else x } ∧
      (r.hasH = true → HandleEnded s3 r.gid r.h eng r.tag (r.failed || r.cancelled) t) ∧ (r.hasH = false → t.groups = s3.groups)

end Sys2Proof.Claims

/-- Copies, records and their handles: chunks, steps, starts and ends (R299, R300, R305, R321, R322, R320, R46, R278).
-/
def Obligations.EngineSteps : Prop :=
  -- COPY_CHUNK
  (∀ s x, s.copy s.arg.item = some x → s.copyRuns x = true → (s.arg.addr, s.arg.size) ∈ x.remaining →
    (x.lowest = true → ∀ c ∈ x.remaining, s.arg.size ≤ c.2) →
    let k := 4096 * s.arg.size
    let n := x.chunkLen s.arg.size
    let y := { x with done := x.done ++ [(s.arg.addr, s.arg.size)], lowest := false }
    (∀ bs s1 s2, s.copyBytes x k n = .ok (bs, s1) → s1.copyPutAll x s.arg.addr k bs = .ok s2 →
      bs.length = n ∧ s2 = { s with
        teams := s2.teams, cores := s2.cores, quadTlb := s2.quadTlb, mem := s2.mem, mcasts := s2.mcasts, bad := s2.bad, l2 := s2.l2
        zipped := s2.zipped, flights := s2.flights } ∧ L1AndTlb s s2 ∧ (x.q.dsp ≠ 0 → s2.mem = s.mem) ∧ (x.q.dsp = 0 → s2.teams = s.teams) ∧
      (x.q.avsp = 0 → exec .copyChunk s = .next (withCopy s2 y)) ∧
      ∀ u off, x.q.avsp ≠ 0 → s2.copyPlace x s.arg.addr x.q.avsp x.q.av = some (u, off) → off + 16 ≤ u.hold.scr * 4096 → u.hold.scr ≤ 64 →
        s2.team u.uid = some u → ∃ s3 v, WithTeam s2 v s3 ∧ Contributed u off n v ∧ exec .copyChunk s = .next (withCopy s3 y)) ∧
    (∀ e, s.copyBytes x k n = .error e → exec .copyChunk s = .next (withCopy s (refusedCopy x e))) ∧
    ∀ bs s1 e, s.copyBytes x k n = .ok (bs, s1) → s1.copyPutAll x s.arg.addr k bs = .error e →
      exec .copyChunk s = .next (withCopy s (refusedCopy x e))) ∧
  -- COPY_COMPLETE
  (∀ s x u gid h tag, DiesUp s → s.copy s.arg.item = some x → x.owner = .handle u gid h tag →
    (x.stopped = true ∨ (x.finished = false ∧ x.failed = false ∧ x.cancelled = false) → exec .copyComplete s = .next s) ∧
    (x.stopped = false → x.finished = true ∨ ((x.failed = true ∨ x.cancelled = true) ∧ x.q.avsp = 0) →
      let failed := x.failed || (!x.finished && x.cancelled)
      (∀ n, x.rel = true → x.released = false → x.q.sov = true → x.relSeq = some n → (s.rbEntry x.part x.q.soid).rels = n) →
      ∃ s1 t, exec .copyComplete s = .next t ∧
        CommandReleases s x.rel x.released x.q.sov x.part x.q.soid (copyParty x.core) x.q.obs s1 ∧
        t = { s1 with
          copies := s.copies.filter fun y => y.cid != x.cid
          records := s.records.map (learnt gid h tag failed), groups := t.groups } ∧ HandleEnded s gid h 1 tag failed t)) ∧
  -- DOVETAIL_START
  (∀ s, s.svc.diesOn = true → s.svc.stopped = false → let quad := s.arg.core % 768 / 4
    s.askTickets quad = s →
    ((∀ r ∈ s.records, r.core / 4 = quad → s.canStart r = false) → exec .dovetailStart s = .next s) ∧
    ∀ r, (s.records.find? fun r => r.core / 4 == quad && s.canStart r) = some r →
      (s.doomed r = true → exec .dovetailStart s = .next (withRecord s { r with started := true, failed := true, stvaDone := true, ticketDone := true })) ∧
      (s.doomed r = false →
        (r.fn = 16 ∨ r.fn = 1 ∨ r.fn = 8 → exec .dovetailStart s = .next (withRecord s { r with started := true })) ∧
        (11 ≤ r.fn → r.fn ≤ 13 → exec .dovetailStart s = .next (withRecord s (startedOn r (some 4)))) ∧
        (r.fn ∈ [2, 3, 4, 6, 9, 14] ∨ r.fn = 7 ∧ (r.started = true ∨ ∃ n, s.ticket r = .ok n) →
          ∃ e, e < 4 ∧ (∀ x ∈ s.records, x.core / 4 = quad → x.eng ≠ some e) ∧ (∀ d, d < e → ∃ x ∈ s.records, x.core / 4 = quad ∧ x.eng = some d) ∧
            exec .dovetailStart s = .next (withRecord s (startedOn r (some e)))) ∧
        (r.fn = 7 → r.started = false → s.ticket r = .error .fails →
          exec .dovetailStart s = .next (withRecord s { r with started := true, failed := true })) ∧
        (r.fn = 5 → let ps := s.joinPartners r
          let same := ps.all fun x => x.tcb.klen == r.tcb.klen && x.tcb.af == r.tcb.af && x.tcb.bf == r.tcb.bf
          exec .dovetailStart s = .next { s with
            fresh := s.fresh + 1
            records := s.records.map fun x => if (ps.any fun p => p.rid == x.rid) = true then
              { x with
                started := true, joint := some (x.joint.getD s.fresh), eng := if same = true then some (x.core % 4) else none
                failed := x.failed || !same } else x }))) ∧
  -- TILE_RECORD_STEP
  (∀ s r, s.record s.arg.item = some r → s.mayStep r = true →
    let a := s.slot r.core r.slot
    let shaped := (a.status &&& 0xFF8080FF#32) ||| BitVec.ofNat 32 (blockField r.block 0 0 7 * 2 ^ 8) ||| BitVec.ofNat 32 (blockField r.block 0 8 7 * 2 ^ 16)
    (r.fn = 16 → exec .tileRecordStep s = .next (withRecord (withSlot s r.core r.slot { a with status := shaped }) { r with finished := true })) ∧
    (r.fn = 1 → exec .tileRecordStep s = .next (withRecord (withSlot s r.core r.slot
      { a with elems := [], bad := false, status := a.status &&& 0xFFFFFF80#32 }) { r with finished := true })) ∧
    (r.fn = 8 → s.slotsBad r = false → exec .tileRecordStep s =
      .next (withRecord (withSlot s r.core r.slot a.scanned) { r with finished := true })) ∧
    (r.fn < 11 → r.fn ≠ 1 → r.fn ≠ 2 → s.slotsBad r = true → ∃ s1, Fetched s s1 ∧
      exec .tileRecordStep s = .next (withRecord s1 { r with failed := true })) ∧
    (r.fn = 2 ∨ (r.fn = 6 ∨ r.fn = 7) ∧ s.slotsBad r = false → ∃ s1, Fetched s s1 ∧
      let out := if r.fn = 2 then s1.loadBlock r r.next else if r.fn = 6 then s1.storeBlock r r.next else s1.mergeBlock r r.next
      (∀ s2, out = .ok s2 → exec .tileRecordStep s = .next (withRecord s2 { r with next := r.next + 1, finished := decide (8 ≤ r.next + 1) })) ∧
      ∀ e, out = .error e → exec .tileRecordStep s = .next (withRecord s1 (refusedAs r e))) ∧
    (r.fn = 3 → s.slotsBad r = false → ∃ s1, Fetched s s1 ∧
      (r.tcb.klen ≤ 64 * r.next → exec .tileRecordStep s = .next (withRecord s1 { r with finished := true })) ∧
      (64 * r.next < r.tcb.klen → let out := s1.mulChunk r r.slot r.tcb.p0 r.tcb.s0 r.tcb.p1 r.tcb.s1 r.next
        (∀ s2, out = .ok s2 → ∃ s3, exec .tileRecordStep s = .next (withRecord s3
            { r with next := r.next + 1, finished := decide ((r.tcb.klen + 63) / 64 ≤ r.next + 1) }) ∧
          s3 = { s2 with cores := s3.cores, now := s3.now } ∧ ∀ n, s3.core n = { s2.core n with
            arraysOn := (s3.core n).arraysOn, arraysIdle := (s3.core n).arraysIdle }) ∧
        ∀ e, out = .error e → exec .tileRecordStep s = .next (withRecord s1 (refusedAs r e))))) ∧
  -- TILE_RECORD_COMPLETE
  (∀ s r, s.svc.diesOn = true → s.svc.stopped = false → s.record s.arg.item = some r → r.fn < 11 ∨ r.fn = 16 →
    (r.started = false → exec .tileRecordComplete s = .next s) ∧
    (OnlyHandle r → recordInTurn s r → ∃ t, exec .tileRecordComplete s = .next t ∧ RecordEnds s r 2 t) ∧
    (r.started = true → r.fault = none → r.stopped = false → r.finished = true → r.failed = false → r.cancelled = false → r.fn < 11 →
      r.fn ≠ 7 → r.fn ≠ 1 → r.fn ≠ 8 → r.stva ≠ 0 → r.stvaDone = false →
      let out := s.engineWrite r.core (partOf r.core) r.stva (natBytes 4 (s.slot r.core r.slot).status.toNat)
      let r1 := { r with finished := true, eng := none }
      (∀ s1, out = .ok s1 → exec .tileRecordComplete s = .next (withRecord s1 { r1 with stvaDone := true })) ∧
      (∀ f, out = .error (.fault f) → exec .tileRecordComplete s = .next (withRecord s { r1 with fault := some f })) ∧
      (out = .error .fails → exec .tileRecordComplete s = .next (withRecord s { r1 with failed := true, stvaDone := true })))) ∧
  -- PRED_RECORD_STEP
  (∀ s r, s.record s.arg.item = some r → s.mayStep r = true → 11 ≤ r.fn → r.fn ≤ 14 →
    (s.slotsBad r = true → exec .predRecordStep s = .next (withRecord s { r with failed := true })) ∧
    (s.slotsBad r = false → ∃ s1, Fetched s s1 ∧
      (r.fn = 11 → exec .predRecordStep s = .next (s1.stepScore r)) ∧ (r.fn = 12 → exec .predRecordStep s = .next (s1.stepSel r)) ∧
      (r.fn = 13 → exec .predRecordStep s = .next (s1.stepKerf r)) ∧
      (r.fn = 14 → r.entryRead = false →
        (∀ r1, s1.ffnStart r = .ok r1 → exec .predRecordStep s = .next (withRecord s1 r1)) ∧
        ∀ e, s1.ffnStart r = .error e → exec .predRecordStep s = .next (withRecord s1 (refusedAs r e))) ∧
      (r.fn = 14 → r.entryRead = true → r.nlist ≤ 64 * r.next → ∃ s2, s2 = { s1 with cores := s2.cores } ∧
        (∀ n, n % 768 ≠ r.core % 768 → s2.core n = s1.core n) ∧ exec .predRecordStep s = .next (withRecord s2 { r with finished := true })))) ∧
  -- PRED_RECORD_COMPLETE
  (∀ s r, s.svc.diesOn = true → s.svc.stopped = false → s.record s.arg.item = some r → 11 ≤ r.fn → r.fn < 15 →
    (r.started = false → exec .predRecordComplete s = .next s) ∧
    (OnlyHandle r → r.finished = true ∨ r.fn = 14 → recordInTurn s r →
      ∃ s1 t, exec .predRecordComplete s = .next t ∧ RecordEnds s r 3 s1 ∧ t = { s1 with teams := t.teams } ∧
        ∀ n, t.team n = (s1.team n).map fun u => if n = r.team then { u with predCtr := (r.count u).predCtr } else u)) ∧
  -- SUBARRAY_POWER_DOWN and MULTICAST_ENTRY_CLOSE
  (∀ s k, s.svc.diesOn = true → s.svc.stopped = false → k = s.arg.core % 768 → (s.core k).arraysOn = true → s.engineBusy k = false →
    (s.core k).arraysIdle + (if (s.part (k / 96)).idlet = 0 then 2048 else (s.part (k / 96)).idlet) ≤ s.now →
    ∃ t, exec .subarrayPowerDown s = .next t ∧ t = { s with cores := t.cores } ∧
      ∀ n, n < 768 → t.core n = if n = k then { s.core n with arraysOn := false, arraysIdle := s.now } else s.core n) ∧
  ∀ s, DiesUp s → ∃ t, exec .multicastEntryClose s = .next t ∧ t = { s with mcasts := t.mcasts } ∧
    ∀ e, e ∈ t.mcasts ↔ e ∈ s.mcasts ∧ ¬ (e.addr = s.arg.addr ∧ e.replied + 64 ≤ s.now)

namespace Sys2Proof.Claims
open Sys2Proof.Machine Sys2Proof.Safety

/-! ### The memory system, the fault service and errors (R263 to R278, R346 to R356, R384 to R391, R417) -/

/-- The bank ALU operations by number: the bytes of the word, and the new word from the old one, the operand and the
compare value (R263, R292 to R294). -/
def aluOp (op v cmp old : Nat) : Option (Nat × Nat) :=
  match op with
  | 0 => some (4, (old + v) % 2 ^ 32)
  | 1 => some (4, (modWord (min (BitVec.ofNat 32 old).toInt (BitVec.ofNat 32 v).toInt)).toNat)
  | 2 => some (4, (modWord (max (BitVec.ofNat 32 old).toInt (BitVec.ofNat 32 v).toInt)).toNat)
  | 3 => some (4, min old (v % 2 ^ 32))
  | 4 => some (4, max old (v % 2 ^ 32))
  | 5 => some (4, old &&& v % 2 ^ 32)
  | 6 => some (4, old ||| v % 2 ^ 32)
  | 7 => some (4, old ^^^ v % 2 ^ 32)
  | 8 => some (4, v % 2 ^ 32)
  | 9 => some (4, if old = cmp % 2 ^ 32 then v % 2 ^ 32 else old)
  | 10 => some (8, (old + v) % 2 ^ 64)
  | 11 => some (8, (writeF32 (itvAdd (readF32 (BitVec.ofNat 64 old)).1 (readF32 (BitVec.ofNat 64 v)).1)).1.toNat)
  | 12 => some (8, min old (v % 2 ^ 64))
  | _ => none
def carried (s : State) (i : Nat) : Nat := (s.arg.data.getD i 0#64).toNat

/-- Bytes of the module's own memory: HBM, or the second tier behind it (R273). -/
def inModule (pa n : Nat) : Prop := pa + n ≤ hbmTop ∨ 2 ^ 52 ≤ pa ∧ pa + n ≤ 2 ^ 52 + 2 ^ 40
/-- The acquire of a command, of an object that the core stands inside or of none: the writes that releases have performed to a
class of its mask at the core are at their homes (R297, R309, R347, R352). -/
def CommandAcquires (s : State) (core part soid : Nat) (sov : Bool) (mask : BitVec 5) (s1 : State) : Prop :=
  let e := s.rbEntry part soid
  if sov = true ∧ ¬ (e.kind ≠ 0 ∧ (Station.core core).inst e.scope = some e.inst) then s1 = s
  else Landed s (fun f => (List.range 5).any fun c => mask.getLsbD c && f.seenBy ⟨c, .core core⟩) s1
/-- The entry of an object with one release more. -/
def released (e : RbEntry) : RbEntry := { e with rels := e.rels + 1#32 }
/-- The slice of a physical address holds its line, and a sector of it that memory does not hold yet (R267). -/
def dirtyLine (s : State) (pa : Nat) : Bool :=
  match s.l2.find? fun l => l.line == pa / 1024 with
  | some l => l.dirty != 0#4
  | none => false
/-- A path whose wait has ended with a status. -/
def told (p : Path) (w : Wait) (st : Word) : Path := { p with wait := some { w with ended := true, data := st } }
/-- The error log with an error of an address counted, or entered when it is new and its slice has room (R275). -/
def Logged (pa kind src mask : Nat) (t : State) : Prop :=
  ∃ e ∈ t.logs, e.die = homeDie pa ∧ e.slice = homeSlice pa ∧ e.pa = pa % 2 ^ 52 / 1024 * 1024 ∧ e.sect = pa / 256 % 4 ∧
    e.kind = kind ∧ e.src = src ∧ e.parts &&& mask = mask

end Sys2Proof.Claims

/-- Bank operations, releases, acquires, LDFE service, translation invalidation and peer accesses (R263, R270, R278,
R287, R352, R355, R420). -/
def Obligations.MemorySystemSteps : Prop :=
  (∀ s size new, DiesUp s → inModule s.arg.addr size → aluOp s.arg.item (carried s 0) (carried s 1) (memNat s.mem s.arg.addr size) = some (size, new) →
    s.arg.addr % size = 0 → ∃ t, exec .bankAluOp s = .next t ∧ Wrote s s.arg.addr (natBytes size new) t) ∧
  -- RELEASE_PERFORM of a copy and of a record
  (∀ s x, DiesUp s → s.copy s.arg.item = some x → x.rel = true → x.released = false → x.stopped = false → x.finished = true →
    (∀ n, x.q.sov = true → x.relSeq = some n → (s.rbEntry x.part x.q.soid).rels = n) → ∃ s1,
      CommandReleases s true false x.q.sov x.part x.q.soid (copyParty x.core) x.q.obs s1 ∧
      exec .releasePerform s = .next (withCopy s1 { x with released := true }) ∧
      (x.q.sov = true → (s.rbEntry x.part x.q.soid).kind ≠ 0 → s1.rbEntry x.part x.q.soid = released (s.rbEntry x.part x.q.soid))) ∧
  (∀ s r, DiesUp s → s.copy s.arg.item = none → s.record s.arg.item = some r → r.rel = true → r.released = false → r.finished = true →
    r.fault = none → r.stopped = false → (r.fn = 7 → r.ticketDone = true) → (r.stva = 0 ∨ r.stvaDone = true ∨ r.failed = true) →
    recordInTurn s r → ∃ s1,
      CommandReleases s true false (recordSync r).1 (partOf r.core) (recordSync r).2.1 (recordParty r.core) (recordSync r).2.2 s1 ∧
      exec .releasePerform s = .next (withRecord s1 { r with released := true })) ∧
  -- ACQUIRE_PERFORM
  (∀ s x, DiesUp s → s.copy s.arg.item = some x → x.acq = true → x.stopped = false → ∃ s1,
    CommandAcquires s x.core x.part x.q.soid x.q.sov x.q.obs s1 ∧ exec .acquirePerform s = .next (withCopy s1 { x with acquired := true })) ∧
  (∀ s r, DiesUp s → s.copy s.arg.item = none → s.record s.arg.item = some r → r.acq = true → r.started = true → r.stopped = false → ∃ s1,
    CommandAcquires s r.core (partOf r.core) (recordSync r).2.1 (recordSync r).1 (recordSync r).2.2 s1 ∧
    exec .acquirePerform s = .next (withRecord s1 { r with acquired := true })) ∧
  (∀ s g u p w soid target, DiesUp s → s.copy s.arg.item = none → s.record s.arg.item = none → s.group s.arg.item = some g →
    s.team g.team = some u → g.path s.arg.team = some p → p.wait = some w → w.ended = false → w.kind = .soacq soid target →
    ((s.rbEntry (partOf u.core) soid).rels - target).toNat < 2 ^ 31 → ∃ t h, exec .acquirePerform s = .next t ∧
      t.group s.arg.item = some h ∧
      h.path s.arg.team = some { p with wait := some { w with ended := true, data := (s.rbEntry (partOf u.core) soid).rels } }) ∧
  (∀ s r, DiesUp s → s.arg.part < 8 → (s.rels.find? fun r => r.part == s.arg.part && r.soid == s.arg.item &&
      r.seq == (s.rbEntry s.arg.part s.arg.item).rels) = some r → (s.rbEntry s.arg.part s.arg.item).kind ≠ 0 →
    ∃ t, exec .orderedReleaseTurn s = .next t ∧ t.rels = s.rels.filter (fun x => x != r) ∧
      t.rbEntry s.arg.part s.arg.item = { s.rbEntry s.arg.part s.arg.item with rels := (s.rbEntry s.arg.part s.arg.item).rels + 1#32 }) ∧
  (∀ s g p u w f ad zeroed next, s.group s.arg.item = some g → g.path s.arg.team = some p → s.team g.team = some u → p.wait = some w →
    w.kind = .ldfe f ad zeroed next → w.ended = false → s.teamRuns u = true → (linesOf ad).all s.lineFull = true →
    s.ldfeAhead w.start (linesOf ad) = false → ∃ t h, exec .ldfeServe s = .next t ∧ t.group s.arg.item = some h ∧
      h.path s.arg.team = some (p.past next) ∧ t.mem = s.mem ∧ ∀ k, IsFull t k ↔ IsFull s k ∧ k ∉ linesOf ad) ∧
  (∀ s, HostUp s → DiesUp s → s.arg.die < 4 → let d : Fin 4 := Fin.ofNat 4 s.arg.die
    let r := (s.tinv.get d)
    let r' : TinvRegs := { r with size := (theWord s).extractLsb' 0 2, part := (theWord s).extractLsb' 8 3, hsoid := (theWord s).extractLsb' 12 12 }
    (r.busy = true → exec .tinvctlGo s = .next { s with tinv := s.tinv.set d r' }) ∧
    (r.busy = false → ∃ t, exec .tinvctlGo s = .next t ∧ t.tinv = s.tinv.set d { r' with busy := true } ∧
      ∀ k x, x ∈ (t.core k).tlb → x ∈ (s.core k).tlb ∧ r'.hits x = false)) ∧
  (∀ s, DiesUp s → s.arg.die < 4 → let d : Fin 4 := Fin.ofNat 4 s.arg.die
    (s.tinv.get d).busy = true → ∃ s1, Landed s (fun f => f.attr.any (s.tinv.get d).hits) s1 ∧ exec .tinvDone s =
      .next { s1 with tinv := s.tinv.set d { s.tinv.get d with busy := false, done := (s.tinv.get d).done + 1#32 } }) ∧
  (∀ s, exec .escapeChannelEntry s = .next s) ∧
  ∀ s, DiesUp s → s.svc.ports ≠ 0#48 →
    (s.arg.item = 0 → exec .peerPartyAccess s = .next s) ∧
    (s.arg.item = 1 → inModule s.arg.addr s.arg.size → s.arg.size ≤ 8 * s.arg.data.length →
      ∃ t, exec .peerPartyAccess s = .next t ∧ Wrote s s.arg.addr ((s.arg.data.flatMap fun w => natBytes 8 w.toNat).take s.arg.size) t) ∧
    (∀ size new, s.arg.item = 2 → inModule s.arg.addr size → s.arg.addr % size = 0 →
      aluOp s.arg.core (carried s 0) (carried s 1) (memNat s.mem s.arg.addr size) = some (size, new) →
      ∃ t, exec .peerPartyAccess s = .next t ∧ Wrote s s.arg.addr (natBytes size new) t) ∧
    let part := s.arg.part % 8
    let soid := s.arg.team % 4096
    let e := s.rbEntry part soid
    s.arg.item = 3 → e.kind ≠ 0 →
      (e.kind ≠ 2 → ∃ t, exec .peerPartyAccess s = .next t ∧ EntryIs s part soid (released e) t) ∧
      -- a release of an ordered object takes a number, and is counted in its turn (R355)
      (e.kind = 2 → e.rels = e.issued → ∃ t, exec .peerPartyAccess s = .next t ∧
        EntryIs s part soid { released e with issued := e.issued + 1#32 } t) ∧
      (e.kind = 2 → e.rels ≠ e.issued → ∃ s1, SeqTaken s part soid (some e.issued) s1 ∧
        exec .peerPartyAccess s = .next { s1 with rels := s.rels ++ [⟨part, soid, e.issued, none⟩] })

/-- The fault service: from the tables, or by a page request; and its answers (R384, R385, R417, R269, R406). -/
def Obligations.FaultServiceSteps : Prop :=
  (∀ s, DiesUp s → s.arg.part < 8 → s.arg.addr < 2 ^ 57 → let region := s.arg.addr / 65536
    (∃ f ∈ s.missing, f.part = s.arg.part ∧ f.va / 65536 = region) → (∀ q ∈ s.faults, ¬ (q.part = s.arg.part ∧ q.region = region)) →
    (s.part s.arg.part).st ≠ .unconfigured →
    ((∃ x, s.walk s.arg.part (region * 65536) = .ok x) → ∃ t q, exec .faultServiceRequest s = .next t ∧
      t = { s with faults := s.faults ++ [q] } ∧ q.part = s.arg.part ∧ q.region = region ∧ q.answer = some 0 ∧ q.held = false) ∧
    -- no ring, or a page of a loaded image that no section overlaps (R37)
    ((∀ x, s.walk s.arg.part (region * 65536) ≠ .ok x) → s.svc.pageRing = none ∨ s.imageAt (region * 65536) ≠ none → ∃ t q, exec .faultServiceRequest s = .next t ∧
      t = { s with faults := s.faults ++ [q] } ∧ q.part = s.arg.part ∧ q.region = region ∧ q.answer = some 1) ∧
    ∀ ring, (∀ x, s.walk s.arg.part (region * 65536) ≠ .ok x) → s.imageAt (region * 65536) = none → s.svc.pageRing = some ring →
      (s.ringFull ring = true → ∃ t q, exec .faultServiceRequest s = .next t ∧ t = { s with faults := s.faults ++ [q] } ∧
        q.part = s.arg.part ∧ q.region = region ∧ q.answer = none ∧ q.held = true) ∧
      (s.ringFull ring = false → ∃ t q, exec .faultServiceRequest s = .next t ∧ t.faults = s.faults ++ [q] ∧
        q.part = s.arg.part ∧ q.region = region ∧ q.answer = none ∧ q.held = false ∧ q.id = some s.svc.nextReq ∧
        t.svc.nextReq = s.svc.nextReq + 1#32 ∧ t.svc.msix.get 2 = s.svc.msix.get 2 + 1 ∧
        memNat t.mem ring.pa 4 = (memNat s.mem ring.pa 4 + 1) % 2 ^ 32 ∧
        memNat t.mem (ring.pa + 0x40 + 16 * (memNat s.mem ring.pa 4 % 2 ^ ring.log2)) 8 = region * 65536 + s.arg.part)) ∧
  ∀ s q st, DiesUp s → s.arg.part < 8 → let region := s.arg.addr / 65536
    (s.faults.find? fun q => q.part == s.arg.part && q.region == region) = some q → q.answer = some st →
    (st ≠ 0 ∨ s.regionMapped s.arg.part region = true) → s.fe.accesses = [] → (∀ r ∈ s.fe.runs, r.nodes = []) →
    ∃ t, exec .faultServiceAnswer s = .next t ∧
      t.faults = s.faults.filter (fun x => !(x.part == s.arg.part && x.region == region)) ∧
      (∀ g u p w tr, s.group g.gid = some g → s.team g.team = some u → partOf u.core = s.arg.part → g.path p.pid = some p →
        p.level = g.tl → p.wait = some w → w.kind = .fault tr → w.ended = false → tr.fa.toNat / 65536 = region →
        ∃ h, t.group g.gid = some h ∧ h.path p.pid = some (told p w (BitVec.ofNat 32 (s.statusOf st ⟨s.arg.part, tr.fa.toNat, needOf tr.tca⟩)))) ∧
      ∀ x f, s.copy x.cid = some x → x.fault = some f → f.part = s.arg.part → f.va / 65536 = region →
        t.copy x.cid = some { x with fault := none, failed := x.failed || decide (s.statusOf st f ≠ 0) }

/-- Memory errors, containment resets, peer time-outs and the critical temperature (R274, R275, R389, R390, R391,
R418, R420). -/
def Obligations.ErrorSteps : Prop :=
  (∀ s, DiesUp s → s.arg.item < 8 → s.arg.flag = false → ∃ t, exec .correctedSoftError s = .next t ∧ t = { s with logs := t.logs } ∧
    Logged s.arg.addr 0 s.arg.item s.arg.size t) ∧
  (∀ s k, DiesUp s → s.arg.flag = true → k = s.arg.core % 768 →
    exec .correctedSoftError s = .next (withCore s k { s.core k with corrected := (s.core k).corrected + 1 })) ∧
  -- MEMORY_ERROR in a sector of global memory, of a line that is not dirty in its slice, and of a dirty one
  (∀ s, DiesUp s → s.arg.item < 4 → dirtyLine s s.arg.addr = false → s.svc.restarting = none →
    let src := if s.arg.item = 2 then 2 else if s.arg.addr < 2 ^ 52 then 0 else if s.arg.addr < 2 ^ 53 then 1 else 3
    ∃ t, exec .memoryError s = .next t ∧ Logged s.arg.addr 1 src s.arg.size t ∧ t.svc = { s.svc with ibi := s.svc.ibi + 1 } ∧
      (∃ b ∈ t.bad, b.addr = s.arg.addr / 256 * 256) ∧ t.mem = s.mem ∧
      ∀ b ∈ t.bad, b ∈ s.bad ∨ b = ⟨s.arg.addr / 256 * 256, false, s.arg.size, BitVec.allOnes 256⟩) ∧
  (∀ s, DiesUp s → s.arg.item < 4 → dirtyLine s s.arg.addr = true → s.svc.restarting = none →
    (s.retainedLines (homeDie s.arg.addr) (homeSlice s.arg.addr)).length < 16 →
    let src := if s.arg.item = 2 then 2 else if s.arg.addr < 2 ^ 52 then 0 else if s.arg.addr < 2 ^ 53 then 1 else 3
    ∃ t, exec .memoryError s = .next t ∧ Logged s.arg.addr 2 src s.arg.size t ∧ t.mem = s.mem ∧
      ⟨s.arg.addr / 256 * 256, true, s.arg.size, BitVec.allOnes 256⟩ ∈ t.bad) ∧
  -- the limit of retained lines is passed, and no partition has met the error: the line is gone, and both masters are told
  (∀ s, DiesUp s → s.arg.item < 4 → dirtyLine s s.arg.addr = true → s.svc.restarting = none → s.arg.size = 0 →
    16 ≤ (s.retainedLines (homeDie s.arg.addr) (homeSlice s.arg.addr)).length →
    s.arg.addr / 1024 ∉ s.retainedLines (homeDie s.arg.addr) (homeSlice s.arg.addr) →
    (∀ e ∈ s.logs, e.pa = s.arg.addr % 2 ^ 52 / 1024 * 1024 → e.kind = 3 → e.parts = 0) →
    let src := if s.arg.item = 2 then 2 else if s.arg.addr < 2 ^ 52 then 0 else if s.arg.addr < 2 ^ 53 then 1 else 3
    ∃ t, exec .memoryError s = .next t ∧ Logged s.arg.addr 3 src 0 t ∧ t.svc.msix.get 3 = s.svc.msix.get 3 + 1 ∧
      t.svc.log = s.svc.log ++ [.retainedLimit (homeDie s.arg.addr) (homeSlice s.arg.addr)] ∧ dirtyLine t s.arg.addr = false ∧
      (∀ b ∈ t.bad, b.addr / 1024 ≠ s.arg.addr / 1024) ∧ t.teams = s.teams ∧ t.groups = s.groups) ∧
  -- MEMORY_ERROR in scratchpad bytes, in an L1 sector, in an accumulator slot and in a register
  (∀ s u, DiesUp s → s.arg.item = 4 → s.team s.arg.team = some u → ∃ t v, exec .memoryError s = .next t ∧ WithTeam s v t ∧
    v = { u with bad := v.bad } ∧
    ∀ o, o ∈ v.bad ↔ o ∈ u.bad ∨ s.arg.addr ≤ o ∧ o < s.arg.addr + s.arg.size ∧ o < u.hold.scr * 4096) ∧
  (∀ s k, DiesUp s → k = s.arg.core % 768 →
    (s.arg.item = 5 → exec .memoryError s = .next (withCore s k { s.core k with
      l1 := (s.core k).l1.map fun e => if e.addr = s.arg.addr / 256 * 256 then { e with bad := true } else e })) ∧
    (s.arg.item = 7 → exec .memoryError s = .next (withSlot s k s.arg.addr { s.slot k s.arg.addr with bad := true }))) ∧
  (∀ s g u p, DiesUp s → s.arg.item = 6 → s.group s.arg.core = some g → g.path s.arg.team = some p → s.team g.team = some u →
    s.ready g u p = true → g.tl = 0 → noVector u = false → ∃ t h, exec .memoryError s = .next t ∧
      t = { s with draws := s.draws + 1, groups := t.groups } ∧ (∀ n, n ≠ g.gid → t.group n = s.group n) ∧ t.group g.gid = some h ∧
      h = { g with
        tl := 1, tca1 := (groupTrap causeMemerr 0).tca, tepc1 := (match p.pfx with | some l => l.addr | none => p.pc)
        tfa1 := Config.registerFa s.draws, paths := h.paths } ∧
      h.path p.pid = some { p with pc := kernelVector u, level := 1, pfx := none, wait := none } ∧
      ∀ n, n ≠ p.pid → h.path n = g.path n) ∧
  (∀ s, DiesUp s → s.arg.part < 8 → ∃ t, exec .peerTimeout s = .next t ∧
    Logged (peerKey s.arg.item s.arg.addr) 1 3 (2 ^ s.arg.part) t ∧
    ⟨peerKey s.arg.item s.arg.addr / 256 * 256, false, 2 ^ s.arg.part, BitVec.allOnes 256⟩ ∈ t.bad) ∧
  (∀ i, (i = .watchdogExpiry ∨ i = .controlStateError) → ∀ s k, DiesUp s → k = s.arg.core % 768 →
    (i = .watchdogExpiry → s.watchdogDue k = true) → (i = .controlStateError → s.arg.size = 0) → s.contextAway k = false →
    ∃ t, exec i s = .next t ∧ (∀ u ∈ t.teams, u.core = k → u.st = .swapped) ∧ (t.core k).cycBase = s.now ∧ (t.core k).l1 = [] ∧
      (t.core k).tlb = [] ∧ (t.core k).icache = [] ∧ (t.core k).agentOn = Config.imageSigned s.svc.agentImage ∧
      .containment k ∈ t.svc.log) ∧
  (∀ s, DiesUp s → s.arg.size = 2 → (s.part (partOf (s.arg.core % 768))).st = .running →
    ∃ t, exec .controlStateError s = .next t ∧ (t.part (partOf (s.arg.core % 768))).st = .running ∧
      ∀ u ∈ t.teams, partOf u.core ≠ partOf (s.arg.core % 768)) ∧
  ∀ s, DiesUp s → s.svc.restarting = none → ∃ t, exec .criticalTempStop s = .next t ∧ t.svc.stopped = true ∧
    t.svc.log = s.svc.log ++ [.criticalStop] ∧ t.svc.msix.get 3 = s.svc.msix.get 3 + 1 ∧ t.svc.ibi = s.svc.ibi + 1 ∧ t = { s with svc := t.svc }

namespace Sys2Proof.Claims
open Sys2Proof.Machine Sys2Proof.Safety

/-! ### The service core, power and links (R412, R415, R418 to R427) -/

def operand (c : List DWord) (i : Nat) : Nat := (c.getD i 0#64).toNat
/-- RESPA of a command, with room for `n` bytes in HBM outside the region binding tables (R345). -/
def RespAt (s : State) (c : List DWord) (n r : Nat) : Prop :=
  DiesUp s ∧ operand c 7 = r ∧ r ≠ 0 ∧ r + n ≤ hbmTop ∧ OffTables s [(r, n)]
/-- Only the `n` bytes from `r` of memory may have changed. -/
def OnlyAt (s : State) (r n : Nat) (t : State) : Prop := ∀ k, k < r ∨ r + n ≤ k → memGet t.mem k = memGet s.mem k
def ringAt (pa log2 : Nat) : Option Ring := if pa = 0 then none else some ⟨pa, log2⟩
/-- Measurement register `i` has taken a digest, and no other has changed (R425, R426). -/
def Extended (s : State) (i : Fin 8) (digest : BitVec 512) (t : State) : Prop :=
  ∀ j, t.svc.mr.get j = if j = i then sha3 (digestBytes (s.svc.mr.get j) ++ digestBytes digest) else s.svc.mr.get j
/-- The front-end image that does not run: 0 is A, 1 is B. -/
def standby (s : State) : Fin 2 := if s.fe.image.get 0 = true then 0 else 1
/-- The interrupts that the restart held back have been raised, and no restart is under way (R424). -/
def Restarted (s t : State) : Prop :=
  t.svc.restarting = none ∧ t.svc.held = [] ∧ t.svc.ibi = s.svc.ibi + (s.svc.held.filter fun x => x == 4).length ∧
    ∀ v, t.svc.msix.get v = s.svc.msix.get v + (s.svc.held.filter fun x => x != 4 && x % 4 == v.val).length
/-- The states of a partition, by number. -/
def stateNo : PartState → Nat
  | .unconfigured => 0
  | .running => 1
  | .halting => 2
  | .halted => 3
  | .swappingOut => 4
  | .swapped => 5
  | .swappingIn => 6
/-- The next core from number `k` on whose partition runs, and none before it. -/
def NextCore (s : State) (k i : Nat) : Prop :=
  k ≤ i ∧ i < 768 ∧ (s.part (i / 96)).st = .running ∧ ∀ j, k ≤ j → j < i → (s.part (j / 96)).st ≠ .running
/-- No core from number `k` on has a partition that runs. -/
def NoCore (s : State) (k : Nat) : Prop := ∀ j, k ≤ j → j < 768 → (s.part (j / 96)).st ≠ .running
/-- A log entry as LOGREAD lays it out (R275). -/
def logWords (e : LogEntry) : List Byte :=
  natBytes 8 (e.pa + 2 ^ 52 * e.sect + 2 ^ 54 * e.kind + 2 ^ 56 * e.src) ++ natBytes 8 (e.count + 2 ^ 32 * e.parts)

end Sys2Proof.Claims

/-- RINGS, LOGREAD, HEALTH, PCAP and ATTEST: effect, result bytes and status (R414, R415, R418, R427, R275, R406). -/
def Obligations.ServiceCommands : Prop :=
  (∀ s side c, Serving .rings s side c →
    ((∀ p, p < 8 → (s.part p).st ≠ .running ∧ (s.part p).st ≠ .halting) → ∃ t, exec .rings s = .next t ∧ Replied s side 0 0 t ∧
      t.svc.errRing = ringAt (operand c 1) (operand c 2) ∧ t.svc.pageRing = ringAt (operand c 3) (operand c 4 % 16) ∧
      t.svc.prhsoid = operand c 4 / 2 ^ 16 % 4096 ∧ t = { s with svc := t.svc }) ∧
    ∀ p, p < 8 → ((s.part p).st = .running ∨ (s.part p).st = .halting) → ∃ t, exec .rings s = .next t ∧ Replied s side 0x51 0 t ∧
      t.svc.errRing = s.svc.errRing ∧ t.svc.pageRing = s.svc.pageRing ∧ t.svc.prhsoid = s.svc.prhsoid) ∧
  (∀ s side c r, Serving .logread s side c → RespAt s c 512 r → ∃ t, exec .logread s = .next t ∧ Replied s side 0 0 t ∧
    OnlyAt s r 512 t ∧ ∀ k, k < 512 → memGet t.mem (r + k) =
      ((s.logs.filter fun e => e.die == operand c 1 % 4 && e.slice == operand c 1 / 4 % 64).flatMap logWords).getD k 0#8) ∧
  (∀ s side c r, Serving .health s side c → RespAt s c 64 r →
    ∃ t, exec .health s = .next t ∧ Replied s side 0 0 t ∧ OnlyAt s r 64 t ∧ t.logs = s.logs ∧ t.parts = s.parts ∧
      -- the layout is open; the words hang on what the record holds, a failed activation among it (R415, R424)
      ∀ i, i < 8 → memNat t.mem (r + 8 * i) 8 =
        (Config.healthWord s.draws s.svc.clock ((List.range 8).map fun p => stateNo (s.part p).st) s.svc.ports s.svc.failedAct i).toNat) ∧
  (∀ s side c, Serving .pcap s side c → ∃ t, exec .pcap s = .next t ∧ Replied s side 0 0 t ∧ t.svc.powerCap = operand c 1 ∧
    t = { s with svc := t.svc }) ∧
  (∀ s side c r, Serving .attest s side c → RespAt s c 5195 r → ∃ t, exec .attest s = .next t ∧ Replied s side 0 0 t ∧
    OnlyAt s r 5195 t ∧ memNat t.mem r 8 = 1 ∧ memNat t.mem (r + 8) 8 = (s.capid 0).toNat ∧
    (∀ i, i < 4 → memNat t.mem (r + 16 + 8 * i) 8 = operand c (i + 1)) ∧
    (∀ i : Fin 8, memBytes t.mem (r + 0x30 + 64 * i.val) 64 = digestBytes (s.svc.mr.get i)) ∧
    memNat t.mem (r + 0x230) 8 = s.svc.acts.toNat ∧
    ∀ k, k < 4627 → memGet t.mem (r + 0x238 + k) = Config.attestSig (memBytes t.mem r 0x238) k) ∧
  -- the certificate's length is open: where the bytes fit, they are there
  (∀ s side c, Serving .attestKey s side c → ∃ t, exec .attestKey s = .next t ∧ Replied s side 0 0 t ∧
    OnlyAt s (operand c 7) (2592 + Config.identityCertLen) t ∧ ∀ r, RespAt s c (2592 + Config.identityCertLen) r →
      (∀ k, k < 2592 → memGet t.mem (r + k) = Config.identityKey k) ∧
      ∀ k, k < Config.identityCertLen → memGet t.mem (r + 2592 + k) = Config.identityCert k)

/-- Staging and activating firmware, its measurement, and the restart of the service core (R421, R422, R423, R424,
R425, R426). -/
def Obligations.FirmwareSteps : Prop :=
  (∀ s side c, Serving .fwstage s side c →
    let d := sha3 ((List.range (operand c 3)).map fun i => BitVec.ofNat 8 (s.feNat (operand c 2 + i) 1))
    (Config.imageSigned d = false → ∃ t, exec .fwstage s = .next t ∧ Replied s side 0x53 0 t ∧ t.svc.feImage = s.svc.feImage ∧
      t.svc.staged = s.svc.staged) ∧
    (Config.imageSigned d = true → ∃ t, exec .fwstage s = .next t ∧ Replied s side 0 0 t ∧ t = { s with svc := t.svc } ∧
      t.svc.mr = s.svc.mr ∧
      (∀ i, t.svc.feImage.get i = if operand c 1 = 0 ∧ i = standby s then d else s.svc.feImage.get i) ∧
      -- one staging slot holds the agent's image or the service core's (R421)
      t.svc.staged = if operand c 1 = 0 then s.svc.staged else some (decide (operand c 1 = 2), d))) ∧
  (∀ s side c, Serving .fwactFe s side c → let d := s.svc.feImage.get (standby s)
    (Config.imageSigned d = false → ∃ t, exec .fwactFe s = .next t ∧ Replied s side 0x53 0 t ∧ t.svc.mr = s.svc.mr ∧ t.fe = s.fe) ∧
    (Config.imageSigned d = true → ∃ t, exec .fwactFe s = .next t ∧ Replied s side 0 0 t ∧ Extended s 4 d t ∧
      t.svc.acts = s.svc.acts + 1#32 ∧ (∀ i, t.fe.image.get i = !(s.fe.image.get 0)) ∧
      (∀ i, t.fe.rel.get i = s.svc.feRel.get (standby s)) ∧ t.fe.runs = s.fe.runs ∧ t.fe.lst = s.fe.lst ∧ t.teams = s.teams)) ∧
  (∀ s side c, Serving .fwactAgent s side c →
    ((∀ d, s.svc.staged ≠ some (false, d)) → ∃ t, exec .fwactAgent s = .next t ∧ Replied s side 0x54 0 t ∧ t.svc.mr = s.svc.mr) ∧
    ∀ d, s.svc.staged = some (false, d) → ∃ t, exec .fwactAgent s = .next t ∧ Extended s 5 d t ∧
      t.svc.acts = s.svc.acts + 1#32 ∧ t.svc.agentImage = d ∧ t.svc.agentRel = Config.imageRelease d ∧ t.svc.staged = none ∧
      t = { s with svc := t.svc, cores := t.cores } ∧ (∀ k, t.core k = { s.core k with agentStale := true }) ∧
      (NoCore s 0 → Replied s side 0 0 t ∧ t.svc.reload = none) ∧ ∀ i, NextCore s 0 i → t.svc.reload = some (i, side)) ∧
  -- the activation under way: one core's agent takes the image, and the next core's turn comes (R422)
  (∀ s k side, DiesUp s → s.svc.reload = some (k, side) → k < 768 → ∃ t, exec .fwactAgent s = .next t ∧
    t = { s with svc := t.svc, cores := t.cores } ∧
    (∀ n, n < 768 → t.core n = if n = k ∧ (s.part (partOf k)).st = .running then
      { s.core k with agentRel := s.svc.agentRel, agentStale := false } else s.core n) ∧
    (NoCore s (k + 1) → Replied s side 0 0 t ∧ t.svc.reload = none) ∧
    ∀ i, NextCore s (k + 1) i → t.svc = { s.svc with reload := some (i, side) }) ∧
  (∀ s side c, Serving .fwactService s side c →
    ((∀ d, s.svc.staged ≠ some (true, d)) → ∃ t, exec .fwactService s = .next t ∧ Replied s side 0x54 0 t ∧ t.svc.mr = s.svc.mr) ∧
    ∀ d, s.svc.staged = some (true, d) → (if side = true then s.svc.host.begun else s.svc.side.begun) = false →
      ∃ t, exec .fwactService s = .next t ∧ Replied s side 0 0 t ∧ Extended s 6 d t ∧ t.svc.acts = s.svc.acts + 1#32 ∧
        t.svc.svcImage = d ∧ t.svc.svcPrevious = s.svc.svcImage ∧ t.svc.restarting = some s.now ∧ t = { s with svc := t.svc }) ∧
  (∀ s n, s.svc.restarting = some n → s.now ≤ n + 450000000 → ∃ t, exec .serviceCoreRestarted s = .next t ∧ Restarted s t ∧
    t.svc.mr = s.svc.mr ∧ t.svc.svcImage = s.svc.svcImage ∧ t = { s with svc := t.svc }) ∧
  ∀ s n, s.svc.restarting = some n → n + 450000000 ≤ s.now → ∃ t, exec .serviceCoreFallback s = .next t ∧ Restarted s t ∧
    Extended s 6 s.svc.svcPrevious t ∧ t.svc.svcImage = s.svc.svcPrevious ∧ t.svc.failedAct = true ∧ t = { s with svc := t.svc }

/-- Power-up, the die domain, clock steps, the host link and ports (R412, R418, R419, R420, R425). -/
def Obligations.PowerAndLinkSteps : Prop :=
  (∀ s, s.svc.powered = false → ∃ t, exec .powerUp s = .next t ∧
    (∀ j : Fin 8, t.svc.mr.get j = if j.val < 4 then sha3 (digestBytes (s.svc.mr.get j) ++ digestBytes (Config.storedImage j.val)) else s.svc.mr.get j) ∧
    t.svc.powered = Config.imageSigned (Config.storedImage 0) ∧
    t.svc.diesOn = (Config.imageSigned (Config.storedImage 1) || Config.imageSigned (Config.storedImage 2)) ∧
    (∀ i, t.fe.image.get i = (!Config.imageSigned (Config.storedImage 1) && Config.imageSigned (Config.storedImage 2))) ∧
    t.parts = s.parts ∧ t.mem = s.mem ∧ t.teams = s.teams) ∧
  (∀ s, s.svc.powered = true → s.svc.diesOn = true → ∃ t, exec .dieDomainOff s = .next t ∧ t.svc.diesOn = false ∧
    t.svc.errRing = none ∧ t.svc.pageRing = none ∧ t.svc.mr = s.svc.mr ∧ t.logs = s.logs ∧ t.teams = [] ∧ t.groups = [] ∧
    t.parts = State.reset.parts ∧ t.cores = State.reset.cores ∧ ∀ a, 2 ^ 53 ≤ a → memGet t.mem a = memGet s.mem a) ∧
  -- a reload of the agents' firmware that the domain cuts off ends with NODIE
  (∀ s k side, s.svc.powered = true → s.svc.diesOn = true → s.svc.reload = some (k, side) → (∀ p, (s.part p).busy = none) →
    ∃ t, exec .dieDomainOff s = .next t ∧ Replied s side 0x52 0 t ∧ t.svc.reload = none) ∧
  (∀ s, s.svc.powered = true → s.svc.diesOn = false → ∃ t, exec .dieDomainOn s = .next t ∧
    t.svc.diesOn = (Config.imageSigned (s.svc.feImage.get 0) || Config.imageSigned (s.svc.feImage.get 1)) ∧
    (∀ k, (t.core k).cycBase = s.now) ∧ t = { s with svc := t.svc, cores := t.cores }) ∧
  (∀ s, DiesUp s → s.svc.restarting = none → s.arg.item < 4 → s.arg.item ≠ s.svc.clock → ∃ t, exec .clockStep s = .next t ∧
    t.svc.clock = s.arg.item ∧ t.svc.msix.get 3 = s.svc.msix.get 3 + 1 ∧ t.svc.ibi = s.svc.ibi + 1 ∧ t = { s with svc := t.svc }) ∧
  (∀ s, exec .hostLinkDown s = .next { s with svc := { s.svc with hostLink := false } }) ∧
  (∀ s, exec .hostLinkUp s = .next { s with svc := { s.svc with hostLink := true } }) ∧
  (∀ s, s.arg.item < 48 → ∃ t, exec .kazotLinkPortDown s = .next t ∧ t = { s with svc := { s.svc with ports := t.svc.ports } } ∧
    ∀ k, k < 48 → t.svc.ports.getLsbD k = if k = s.arg.item then false else s.svc.ports.getLsbD k) ∧
  (∀ s, s.arg.item < 48 → ∃ t, exec .kazotLinkPortUp s = .next t ∧ t = { s with svc := { s.svc with ports := t.svc.ports } } ∧
    ∀ k, k < 48 → t.svc.ports.getLsbD k = if k = s.arg.item then true else s.svc.ports.getLsbD k) ∧
  -- BAR2 and BAR0 while a link or the dies are down
  ∀ s, HostUp s ∧ DiesUp s ∨ exec .dbell s = .next s ∧ exec .hostPostedWrite s = .next s ∧ exec .prresp s = .next s

namespace Sys2Proof.Claims
open Sys2Proof.Machine Sys2Proof.Safety

/-! ### One step, and the machine as a whole -/

/-- Words that the spec writes out beside their assembly, one for most majors. -/
def writtenWords : List (Nat × Instr) :=
  [(0x00314000, .srd ⟨false, 5, 0⟩), (0x008287FD, .dictld ⟨false, 10, 511, 1⟩), (0x0407FFFC, .bra ⟨false, BitVec.ofInt 19 (-4)⟩),
   (0x0657FFFD, .loop ⟨false, 2, BitVec.ofInt 19 (-3)⟩), (0x0810C902, .calli ⟨false, 3, 9, 2⟩), (0x0C114720, .sub ⟨false, 5, 7, 8, false, false⟩),
   (0x100A3FFC, .addi ⟨false, 5, 7, BitVec.ofInt 11 (-4)⟩), (0x14345678, .movi ⟨false, 6, 0x45678⟩)] ++
  [(0x24004400, .cvtiv ⟨false, 1, 4, false⟩), (0x2810C108, .vsub ⟨false, 3, 1, 2, false, false⟩), (0x30608214, .vhull ⟨false, 2, 2, 5, false, false⟩),
   (0x34204108, .vcgt ⟨false, 1, 1, 2, false, false⟩), (0x3800C100, .vexp ⟨false, 3, 1, false⟩), (0x4C008A01, .cpy ⟨false, 2, 10, false, true⟩),
   (0x5030CA22, .tmma ⟨false, 3, 10, 2, true, false⟩), (0x54310C22, .pffn ⟨false, 4, 12, 2, true, false⟩)] ++
  [(0x58000417, .bar ⟨false, 4, 5, true, true⟩), (0x58524828, .soacq ⟨false, 9, 8, 10⟩), (0x5C010450, .split ⟨false, 4, 4, 20⟩),
   (0x60324004, .rqry ⟨false, 9, 1⟩), (0x64000310, .rngseed ⟨false, 3, 4⟩), (0x6801461C, .uadd ⟨false, 5, 6, 7⟩),
   (0x68B14064, .uaddi ⟨false, 5, 100⟩), (0x78400100, .pfx ⟨false, 0, 4, 0, false, false, 1⟩)]

/-- The state in which the word `w` of path `p` runs, `next` after it: the path's clock is reset, and the return address
is the word's or its prefix's (R99). -/
def inHand (s : State) (g : Group) (p : Path) (w : Word) (next : VAddr) : State :=
  s.atWord g p w p.pc (match p.pfx with | some l => l.addr | none => p.pc) next
/-- The turn of a path comes: its issue partition and its slot are the last to have issued, and its team's clock runs (R160). -/
def turnOf (s : State) (g : Group) (t : Team) : State := (s.noteIssue g t).putTeam t.issues
/-- Only what a core, its quad and the slices hold of translations, lines and loop bodies may have changed. -/
def FetchedOnly (s t : State) : Prop := t = { s with cores := t.cores, quadTlb := t.quadTlb, l2 := t.l2, zipped := t.zipped }
/-- What follows a word: a prefix issues with the word after it (R92, R99), and the step ends. -/
def Goes (gid pid : Nat) (o r : Out) : Prop :=
  (∀ t h q u, o = .next t → t.group gid = some h → h.path pid = some q → t.team h.team = some u → q.pfx ≠ none → q.wait = none →
    r = settled (issueNew t h u q)) ∧
  ((∀ t h q u, o = .next t → t.group gid = some h → h.path pid = some q → t.team h.team = some u → q.pfx = none ∨ q.wait ≠ none) →
    r = settled o)
/-- The code address after slot `o` of the packet at `base` (R90). -/
def nextSlot (base : VAddr) (o : Nat) : VAddr := if o < 2 then base + BitVec.ofNat 57 (o + 1) else base + 12#57

end Sys2Proof.Claims

/-- A step fetches the word at the program counter, decodes it and runs exactly it (R155, R160, R90, R91, R99). -/
def Obligations.StepRunsTheDecodedWord : Prop :=
  (∀ s gid pid rest g t p w next s1 i c, s.agenda = .issue gid pid :: rest → s.group gid = some g → g.path pid = some p →
    s.team g.team = some t → s.ready g t p = true → p.wait = none →
    (turnOf { s with agenda := rest } g t).fetch g t.issues p.pc = .ok (.word w next, s1) →
    decodeWord w = .ok i → (inHand s1 g p w next).ctx = some c → mustWait c.g c.p i = false →
    Goes g.gid p.pid (exec i ((inHand s1 g p w next).landFor i)) (step s)) ∧
  (∀ s g t p w next s1 i c, s.agenda = [] → s.nextIssue = some (g, t, p) → p.wait = none →
    (turnOf s g t).fetch g t.issues p.pc = .ok (.word w next, s1) →
    decodeWord w = .ok i → (inHand s1 g p w next).ctx = some c → mustWait c.g c.p i = false →
    Goes g.gid p.pid (exec i ((inHand s1 g p w next).landFor i)) (step s)) ∧
  (∀ s i a rest, s.agenda = .event i a :: rest → isWord i = false →
    step s = settled (exec i (State.landFor { s with agenda := rest, arg := a, cur := none } i))) ∧
  -- what stands between the fetch and the word: the writes on their way, where the word comes after them (R350)
  (∀ i s, if landsFirst i = true then Landed s (fun _ => true) (s.landFor i) else s.landFor i = s) ∧
  ∀ s (g : Group) (t : Team) (p : Path) x, (∀ i ∈ s.images, i.base % 65536 = 0) → s.bad = [] → slotOf p.pc < 3 → (∀ b ∈ (s.core t.core).loops.get (Fin.ofNat 4 g.slot), b.holds (partOf t.core) (packetOf p.pc) = false) →
    (s.core t.core).icache = [] → s.fetchTrap t.core (partOf t.core) (packetOf p.pc) = none →
    let a := (packetOf p.pc).toNat + 4 * slotOf p.pc
    let line := (packetOf p.pc).toNat / 192 * 192
    (∀ b, line ≤ b → b < line + 192 → b / 65536 = a / 65536 → s.reach t.core (partOf t.core) b .exec = .page x) →
    let w := BitVec.ofNat 32 (bytesNat (s.homeBytes x (x.phys a) 4))
    w.extractLsb' 26 5 ≠ 0x1F#5 → ∃ s1, s.fetch g t p.pc = .ok (.word w (nextSlot (packetOf p.pc) (slotOf p.pc)), s1) ∧ FetchedOnly s s1

/-- Words that the spec writes out decode to the instruction beside them (R93, R94, R102, R194). -/
def Obligations.WrittenWordsDecode : Prop := ∀ x ∈ writtenWords, decodeTableWord 32 x.1 = some x.2

/-- Decoding undoes encoding for every instruction and operand, and encoding gives back every bit but a spare chain
bit (R93, R94, R95, R96, R97, R102, R103). -/
def Obligations.DecodeAndEncodeAgree : Prop :=
  (∀ i w rest, encode i = some w → decode (wordBytes w ++ rest) = .ok (i, rest)) ∧
  (∀ i w, encode i = some w → decodeTableWord 32 w.toNat = some i) ∧
  (∀ w i, decodeWord w = .ok i → ∃ v, encode i = some v ∧ v.extractLsb' 0 31 = w.extractLsb' 0 31) ∧
  ∀ i j w, encode i = some w → encode j = some w → i = j

/-- x0 and s0 read as zero and discard writes; m0 reads as all ones and cannot be written (R42). -/
def Obligations.FixedRegisters : Prop :=
  (∀ (g : Group) l, g.getX 0#6 l = 0#32) ∧ (∀ g : Group, g.getS 0#6 = 0#32) ∧ (∀ g : Group, g.getM 0#6 = 0xFFFFFFFF#32) ∧
  (∀ (g : Group) m f, g.setX 0#6 m f = g) ∧ (∀ (g : Group) w, g.setS 0#6 w = g) ∧ (∀ (g : Group) w, g.setM 0#6 w = g) ∧
  (∀ (c : Ctx) l, c.p.pfx = some l → l.form.m = 0#3 → c.active = c.p.em) ∧
  ∀ i val s c, maskValue i = some (0#6, val) → s.ctx = some c → Trapped s c (groupTrap 0x01#8 0) (exec i s)

/-- The state after reset: the values that the spec gives, and the invariants of the two statements below (R113, R270,
R414, R416, R425, R394, R57). -/
def Obligations.StateAfterReset : Prop :=
  let s := State.reset
  MemOk s ∧ Numbered s ∧
  s.fe.regs = { cmdBase := 0, cmdLog2 := 4, cmdHead := 0, cmdTail := 0, qtabBase := 0, prioBase := 0, trigBad := 0 } ∧
  (∀ d, s.tinv.get d = { va := 0, size := 0, part := 0, hsoid := 0, busy := false, done := 0 }) ∧
  s.svc.host.stat = 0 ∧ s.svc.host.done = 0 ∧ (∀ i, s.svc.mr.get i = 0) ∧
  (∀ p, (s.part p).st = .unconfigured ∧ (s.part p).preemptTh = 0) ∧ (∀ k, (s.core k).cycBase = s.now) ∧
  s.svc.errRing = none ∧ s.svc.pageRing = none ∧ s.teams = [] ∧ s.groups = [] ∧ s.images = []

/-- No step faults and no instruction is refused: from every state the machine goes on (R103, R380). -/
def Obligations.EveryStepGoesOn : Prop :=
  (∀ s, GoesOn (step s)) ∧ (∀ i s c, s.ctx = some c → GoesOn (exec i s)) ∧ (∀ i s, isWord i = false → GoesOn (exec i s)) ∧
  ∀ i s, isWord i = true → s.ctx = none → exec i s = .fault .noPath

/-- Every step keeps the memory in its canonical form (R252, R265). -/
def Obligations.MemoryStaysCanonical : Prop := ∀ s, MemOk s → Keeps MemOk (step s)

/-- Every step keeps the numbers of teams and groups apart (R143, R245). -/
def Obligations.NumbersStayApart : Prop := ∀ s, Numbered s → Keeps Numbered (step s)
end

