-- ==== Sys2Proof/Laws/State.lean ====
section
/-! SUPPORT. What each named update of a state or a group leaves of every field, and the reads of a record by its key
after an update: so that no later proof unfolds a record update. -/

namespace Sys2Proof.Machine

/-! ### State updates, field by field -/

@[simp] theorem State.putGroup_now (s : State) (g : Group) : (s.putGroup g).now = s.now := by simp only [State.putGroup]
@[simp] theorem State.putGroup_cur (s : State) (g : Group) : (s.putGroup g).cur = s.cur := by simp only [State.putGroup]
@[simp] theorem State.putGroup_arg (s : State) (g : Group) : (s.putGroup g).arg = s.arg := by simp only [State.putGroup]
@[simp] theorem State.putGroup_agenda (s : State) (g : Group) : (s.putGroup g).agenda = s.agenda := by simp only [State.putGroup]
@[simp] theorem State.putGroup_lastPart (s : State) (g : Group) : (s.putGroup g).lastPart = s.lastPart := by simp only [State.putGroup]
@[simp] theorem State.putGroup_fresh (s : State) (g : Group) : (s.putGroup g).fresh = s.fresh := by simp only [State.putGroup]
@[simp] theorem State.putGroup_draws (s : State) (g : Group) : (s.putGroup g).draws = s.draws := by simp only [State.putGroup]
@[simp] theorem State.putGroup_teams (s : State) (g : Group) : (s.putGroup g).teams = s.teams := by simp only [State.putGroup]
@[simp] theorem State.putGroup_cores (s : State) (g : Group) : (s.putGroup g).cores = s.cores := by simp only [State.putGroup]
@[simp] theorem State.putGroup_quadTlb (s : State) (g : Group) : (s.putGroup g).quadTlb = s.quadTlb := by simp only [State.putGroup]
@[simp] theorem State.putGroup_items (s : State) (g : Group) : (s.putGroup g).items = s.items := by simp only [State.putGroup]
@[simp] theorem State.putGroup_parts (s : State) (g : Group) : (s.putGroup g).parts = s.parts := by simp only [State.putGroup]
@[simp] theorem State.putGroup_images (s : State) (g : Group) : (s.putGroup g).images = s.images := by simp only [State.putGroup]
@[simp] theorem State.putGroup_mem (s : State) (g : Group) : (s.putGroup g).mem = s.mem := by simp only [State.putGroup]
@[simp] theorem State.putGroup_l2 (s : State) (g : Group) : (s.putGroup g).l2 = s.l2 := by simp only [State.putGroup]
@[simp] theorem State.putGroup_zipped (s : State) (g : Group) : (s.putGroup g).zipped = s.zipped := by simp only [State.putGroup]
@[simp] theorem State.putGroup_flights (s : State) (g : Group) : (s.putGroup g).flights = s.flights := by simp only [State.putGroup]
@[simp] theorem State.putGroup_late (s : State) (g : Group) : (s.putGroup g).late = s.late := by simp only [State.putGroup]
@[simp] theorem State.putGroup_copies (s : State) (g : Group) : (s.putGroup g).copies = s.copies := by simp only [State.putGroup]
@[simp] theorem State.putGroup_records (s : State) (g : Group) : (s.putGroup g).records = s.records := by simp only [State.putGroup]
@[simp] theorem State.putGroup_rels (s : State) (g : Group) : (s.putGroup g).rels = s.rels := by simp only [State.putGroup]
@[simp] theorem State.putGroup_fe (s : State) (g : Group) : (s.putGroup g).fe = s.fe := by simp only [State.putGroup]
@[simp] theorem State.putGroup_faults (s : State) (g : Group) : (s.putGroup g).faults = s.faults := by simp only [State.putGroup]
@[simp] theorem State.putGroup_tinv (s : State) (g : Group) : (s.putGroup g).tinv = s.tinv := by simp only [State.putGroup]
@[simp] theorem State.putGroup_mcasts (s : State) (g : Group) : (s.putGroup g).mcasts = s.mcasts := by simp only [State.putGroup]
@[simp] theorem State.putGroup_bad (s : State) (g : Group) : (s.putGroup g).bad = s.bad := by simp only [State.putGroup]
@[simp] theorem State.putGroup_logs (s : State) (g : Group) : (s.putGroup g).logs = s.logs := by simp only [State.putGroup]
@[simp] theorem State.putGroup_steals (s : State) (g : Group) : (s.putGroup g).steals = s.steals := by simp only [State.putGroup]
@[simp] theorem State.putGroup_svc (s : State) (g : Group) : (s.putGroup g).svc = s.svc := by simp only [State.putGroup]
@[simp] theorem State.putTeam_now (s : State) (t : Team) : (s.putTeam t).now = s.now := by simp only [State.putTeam]
@[simp] theorem State.putTeam_cur (s : State) (t : Team) : (s.putTeam t).cur = s.cur := by simp only [State.putTeam]
@[simp] theorem State.putTeam_arg (s : State) (t : Team) : (s.putTeam t).arg = s.arg := by simp only [State.putTeam]
@[simp] theorem State.putTeam_agenda (s : State) (t : Team) : (s.putTeam t).agenda = s.agenda := by simp only [State.putTeam]
@[simp] theorem State.putTeam_lastPart (s : State) (t : Team) : (s.putTeam t).lastPart = s.lastPart := by simp only [State.putTeam]
@[simp] theorem State.putTeam_fresh (s : State) (t : Team) : (s.putTeam t).fresh = s.fresh := by simp only [State.putTeam]
@[simp] theorem State.putTeam_draws (s : State) (t : Team) : (s.putTeam t).draws = s.draws := by simp only [State.putTeam]
@[simp] theorem State.putTeam_groups (s : State) (t : Team) : (s.putTeam t).groups = s.groups := by simp only [State.putTeam]
@[simp] theorem State.putTeam_cores (s : State) (t : Team) : (s.putTeam t).cores = s.cores := by simp only [State.putTeam]
@[simp] theorem State.putTeam_quadTlb (s : State) (t : Team) : (s.putTeam t).quadTlb = s.quadTlb := by simp only [State.putTeam]
@[simp] theorem State.putTeam_items (s : State) (t : Team) : (s.putTeam t).items = s.items := by simp only [State.putTeam]
@[simp] theorem State.putTeam_parts (s : State) (t : Team) : (s.putTeam t).parts = s.parts := by simp only [State.putTeam]
@[simp] theorem State.putTeam_images (s : State) (t : Team) : (s.putTeam t).images = s.images := by simp only [State.putTeam]
@[simp] theorem State.putTeam_mem (s : State) (t : Team) : (s.putTeam t).mem = s.mem := by simp only [State.putTeam]
@[simp] theorem State.putTeam_l2 (s : State) (t : Team) : (s.putTeam t).l2 = s.l2 := by simp only [State.putTeam]
@[simp] theorem State.putTeam_zipped (s : State) (t : Team) : (s.putTeam t).zipped = s.zipped := by simp only [State.putTeam]
@[simp] theorem State.putTeam_flights (s : State) (t : Team) : (s.putTeam t).flights = s.flights := by simp only [State.putTeam]
@[simp] theorem State.putTeam_late (s : State) (t : Team) : (s.putTeam t).late = s.late := by simp only [State.putTeam]
@[simp] theorem State.putTeam_copies (s : State) (t : Team) : (s.putTeam t).copies = s.copies := by simp only [State.putTeam]
@[simp] theorem State.putTeam_records (s : State) (t : Team) : (s.putTeam t).records = s.records := by simp only [State.putTeam]
@[simp] theorem State.putTeam_rels (s : State) (t : Team) : (s.putTeam t).rels = s.rels := by simp only [State.putTeam]
@[simp] theorem State.putTeam_fe (s : State) (t : Team) : (s.putTeam t).fe = s.fe := by simp only [State.putTeam]
@[simp] theorem State.putTeam_faults (s : State) (t : Team) : (s.putTeam t).faults = s.faults := by simp only [State.putTeam]
@[simp] theorem State.putTeam_tinv (s : State) (t : Team) : (s.putTeam t).tinv = s.tinv := by simp only [State.putTeam]
@[simp] theorem State.putTeam_mcasts (s : State) (t : Team) : (s.putTeam t).mcasts = s.mcasts := by simp only [State.putTeam]
@[simp] theorem State.putTeam_bad (s : State) (t : Team) : (s.putTeam t).bad = s.bad := by simp only [State.putTeam]
@[simp] theorem State.putTeam_logs (s : State) (t : Team) : (s.putTeam t).logs = s.logs := by simp only [State.putTeam]
@[simp] theorem State.putTeam_steals (s : State) (t : Team) : (s.putTeam t).steals = s.steals := by simp only [State.putTeam]
@[simp] theorem State.putTeam_svc (s : State) (t : Team) : (s.putTeam t).svc = s.svc := by simp only [State.putTeam]
@[simp] theorem State.putCore_now (s : State) (k : Nat) (c : Core) : (s.putCore k c).now = s.now := by simp only [State.putCore]
@[simp] theorem State.putCore_cur (s : State) (k : Nat) (c : Core) : (s.putCore k c).cur = s.cur := by simp only [State.putCore]
@[simp] theorem State.putCore_arg (s : State) (k : Nat) (c : Core) : (s.putCore k c).arg = s.arg := by simp only [State.putCore]
@[simp] theorem State.putCore_agenda (s : State) (k : Nat) (c : Core) : (s.putCore k c).agenda = s.agenda := by simp only [State.putCore]
@[simp] theorem State.putCore_lastPart (s : State) (k : Nat) (c : Core) : (s.putCore k c).lastPart = s.lastPart := by simp only [State.putCore]
@[simp] theorem State.putCore_fresh (s : State) (k : Nat) (c : Core) : (s.putCore k c).fresh = s.fresh := by simp only [State.putCore]
@[simp] theorem State.putCore_draws (s : State) (k : Nat) (c : Core) : (s.putCore k c).draws = s.draws := by simp only [State.putCore]
@[simp] theorem State.putCore_groups (s : State) (k : Nat) (c : Core) : (s.putCore k c).groups = s.groups := by simp only [State.putCore]
@[simp] theorem State.putCore_teams (s : State) (k : Nat) (c : Core) : (s.putCore k c).teams = s.teams := by simp only [State.putCore]
@[simp] theorem State.putCore_quadTlb (s : State) (k : Nat) (c : Core) : (s.putCore k c).quadTlb = s.quadTlb := by simp only [State.putCore]
@[simp] theorem State.putCore_items (s : State) (k : Nat) (c : Core) : (s.putCore k c).items = s.items := by simp only [State.putCore]
@[simp] theorem State.putCore_parts (s : State) (k : Nat) (c : Core) : (s.putCore k c).parts = s.parts := by simp only [State.putCore]
@[simp] theorem State.putCore_images (s : State) (k : Nat) (c : Core) : (s.putCore k c).images = s.images := by simp only [State.putCore]
@[simp] theorem State.putCore_mem (s : State) (k : Nat) (c : Core) : (s.putCore k c).mem = s.mem := by simp only [State.putCore]
@[simp] theorem State.putCore_l2 (s : State) (k : Nat) (c : Core) : (s.putCore k c).l2 = s.l2 := by simp only [State.putCore]
@[simp] theorem State.putCore_zipped (s : State) (k : Nat) (c : Core) : (s.putCore k c).zipped = s.zipped := by simp only [State.putCore]
@[simp] theorem State.putCore_flights (s : State) (k : Nat) (c : Core) : (s.putCore k c).flights = s.flights := by simp only [State.putCore]
@[simp] theorem State.putCore_late (s : State) (k : Nat) (c : Core) : (s.putCore k c).late = s.late := by simp only [State.putCore]
@[simp] theorem State.putCore_copies (s : State) (k : Nat) (c : Core) : (s.putCore k c).copies = s.copies := by simp only [State.putCore]
@[simp] theorem State.putCore_records (s : State) (k : Nat) (c : Core) : (s.putCore k c).records = s.records := by simp only [State.putCore]
@[simp] theorem State.putCore_rels (s : State) (k : Nat) (c : Core) : (s.putCore k c).rels = s.rels := by simp only [State.putCore]
@[simp] theorem State.putCore_fe (s : State) (k : Nat) (c : Core) : (s.putCore k c).fe = s.fe := by simp only [State.putCore]
@[simp] theorem State.putCore_faults (s : State) (k : Nat) (c : Core) : (s.putCore k c).faults = s.faults := by simp only [State.putCore]
@[simp] theorem State.putCore_tinv (s : State) (k : Nat) (c : Core) : (s.putCore k c).tinv = s.tinv := by simp only [State.putCore]
@[simp] theorem State.putCore_mcasts (s : State) (k : Nat) (c : Core) : (s.putCore k c).mcasts = s.mcasts := by simp only [State.putCore]
@[simp] theorem State.putCore_bad (s : State) (k : Nat) (c : Core) : (s.putCore k c).bad = s.bad := by simp only [State.putCore]
@[simp] theorem State.putCore_logs (s : State) (k : Nat) (c : Core) : (s.putCore k c).logs = s.logs := by simp only [State.putCore]
@[simp] theorem State.putCore_steals (s : State) (k : Nat) (c : Core) : (s.putCore k c).steals = s.steals := by simp only [State.putCore]
@[simp] theorem State.putCore_svc (s : State) (k : Nat) (c : Core) : (s.putCore k c).svc = s.svc := by simp only [State.putCore]
@[simp] theorem State.putPart_now (s : State) (p : Nat) (q : Partition) : (s.putPart p q).now = s.now := by simp only [State.putPart]
@[simp] theorem State.putPart_cur (s : State) (p : Nat) (q : Partition) : (s.putPart p q).cur = s.cur := by simp only [State.putPart]
@[simp] theorem State.putPart_arg (s : State) (p : Nat) (q : Partition) : (s.putPart p q).arg = s.arg := by simp only [State.putPart]
@[simp] theorem State.putPart_agenda (s : State) (p : Nat) (q : Partition) : (s.putPart p q).agenda = s.agenda := by simp only [State.putPart]
@[simp] theorem State.putPart_lastPart (s : State) (p : Nat) (q : Partition) : (s.putPart p q).lastPart = s.lastPart := by simp only [State.putPart]
@[simp] theorem State.putPart_fresh (s : State) (p : Nat) (q : Partition) : (s.putPart p q).fresh = s.fresh := by simp only [State.putPart]
@[simp] theorem State.putPart_draws (s : State) (p : Nat) (q : Partition) : (s.putPart p q).draws = s.draws := by simp only [State.putPart]
@[simp] theorem State.putPart_groups (s : State) (p : Nat) (q : Partition) : (s.putPart p q).groups = s.groups := by simp only [State.putPart]
@[simp] theorem State.putPart_teams (s : State) (p : Nat) (q : Partition) : (s.putPart p q).teams = s.teams := by simp only [State.putPart]
@[simp] theorem State.putPart_cores (s : State) (p : Nat) (q : Partition) : (s.putPart p q).cores = s.cores := by simp only [State.putPart]
@[simp] theorem State.putPart_quadTlb (s : State) (p : Nat) (q : Partition) : (s.putPart p q).quadTlb = s.quadTlb := by simp only [State.putPart]
@[simp] theorem State.putPart_items (s : State) (p : Nat) (q : Partition) : (s.putPart p q).items = s.items := by simp only [State.putPart]
@[simp] theorem State.putPart_images (s : State) (p : Nat) (q : Partition) : (s.putPart p q).images = s.images := by simp only [State.putPart]
@[simp] theorem State.putPart_mem (s : State) (p : Nat) (q : Partition) : (s.putPart p q).mem = s.mem := by simp only [State.putPart]
@[simp] theorem State.putPart_l2 (s : State) (p : Nat) (q : Partition) : (s.putPart p q).l2 = s.l2 := by simp only [State.putPart]
@[simp] theorem State.putPart_zipped (s : State) (p : Nat) (q : Partition) : (s.putPart p q).zipped = s.zipped := by simp only [State.putPart]
@[simp] theorem State.putPart_flights (s : State) (p : Nat) (q : Partition) : (s.putPart p q).flights = s.flights := by simp only [State.putPart]
@[simp] theorem State.putPart_late (s : State) (p : Nat) (q : Partition) : (s.putPart p q).late = s.late := by simp only [State.putPart]
@[simp] theorem State.putPart_copies (s : State) (p : Nat) (q : Partition) : (s.putPart p q).copies = s.copies := by simp only [State.putPart]
@[simp] theorem State.putPart_records (s : State) (p : Nat) (q : Partition) : (s.putPart p q).records = s.records := by simp only [State.putPart]
@[simp] theorem State.putPart_rels (s : State) (p : Nat) (q : Partition) : (s.putPart p q).rels = s.rels := by simp only [State.putPart]
@[simp] theorem State.putPart_fe (s : State) (p : Nat) (q : Partition) : (s.putPart p q).fe = s.fe := by simp only [State.putPart]
@[simp] theorem State.putPart_faults (s : State) (p : Nat) (q : Partition) : (s.putPart p q).faults = s.faults := by simp only [State.putPart]
@[simp] theorem State.putPart_tinv (s : State) (p : Nat) (q : Partition) : (s.putPart p q).tinv = s.tinv := by simp only [State.putPart]
@[simp] theorem State.putPart_mcasts (s : State) (p : Nat) (q : Partition) : (s.putPart p q).mcasts = s.mcasts := by simp only [State.putPart]
@[simp] theorem State.putPart_bad (s : State) (p : Nat) (q : Partition) : (s.putPart p q).bad = s.bad := by simp only [State.putPart]
@[simp] theorem State.putPart_logs (s : State) (p : Nat) (q : Partition) : (s.putPart p q).logs = s.logs := by simp only [State.putPart]
@[simp] theorem State.putPart_steals (s : State) (p : Nat) (q : Partition) : (s.putPart p q).steals = s.steals := by simp only [State.putPart]
@[simp] theorem State.putPart_svc (s : State) (p : Nat) (q : Partition) : (s.putPart p q).svc = s.svc := by simp only [State.putPart]

@[simp] theorem State.putGroup_core (s : State) (g : Group) (k : Nat) : (s.putGroup g).core k = s.core k := rfl
@[simp] theorem State.putTeam_core (s : State) (t : Team) (k : Nat) : (s.putTeam t).core k = s.core k := rfl
@[simp] theorem State.putGroup_team (s : State) (g : Group) (n : Nat) : (s.putGroup g).team n = s.team n := rfl
@[simp] theorem State.putTeam_group (s : State) (t : Team) (n : Nat) : (s.putTeam t).group n = s.group n := rfl
@[simp] theorem State.putCore_group (s : State) (k : Nat) (c : Core) (n : Nat) : (s.putCore k c).group n = s.group n := by simp only [State.putCore, State.group]
@[simp] theorem State.putCore_team (s : State) (k : Nat) (c : Core) (n : Nat) : (s.putCore k c).team n = s.team n := by simp only [State.putCore, State.team]

/-! ### Group updates, field by field -/

@[simp] theorem Group.setX_gid (g : Group) (r : Reg) (on : Mask) (f : Lane → Word) : (g.setX r on f).gid = g.gid := by unfold Group.setX; split <;> rfl
@[simp] theorem Group.setX_team (g : Group) (r : Reg) (on : Mask) (f : Lane → Word) : (g.setX r on f).team = g.team := by unfold Group.setX; split <;> rfl
@[simp] theorem Group.setX_idx (g : Group) (r : Reg) (on : Mask) (f : Lane → Word) : (g.setX r on f).idx = g.idx := by unfold Group.setX; split <;> rfl
@[simp] theorem Group.setX_slot (g : Group) (r : Reg) (on : Mask) (f : Lane → Word) : (g.setX r on f).slot = g.slot := by unfold Group.setX; split <;> rfl
@[simp] theorem Group.setX_v (g : Group) (r : Reg) (on : Mask) (f : Lane → Word) : (g.setX r on f).v = g.v := by unfold Group.setX; split <;> rfl
@[simp] theorem Group.setX_s (g : Group) (r : Reg) (on : Mask) (f : Lane → Word) : (g.setX r on f).s = g.s := by unfold Group.setX; split <;> rfl
@[simp] theorem Group.setX_q (g : Group) (r : Reg) (on : Mask) (f : Lane → Word) : (g.setX r on f).q = g.q := by unfold Group.setX; split <;> rfl
@[simp] theorem Group.setX_m (g : Group) (r : Reg) (on : Mask) (f : Lane → Word) : (g.setX r on f).m = g.m := by unfold Group.setX; split <;> rfl
@[simp] theorem Group.setX_h (g : Group) (r : Reg) (on : Mask) (f : Lane → Word) : (g.setX r on f).h = g.h := by unfold Group.setX; split <;> rfl
@[simp] theorem Group.setX_n (g : Group) (r : Reg) (on : Mask) (f : Lane → Word) : (g.setX r on f).n = g.n := by unfold Group.setX; split <;> rfl
@[simp] theorem Group.setX_gsr (g : Group) (r : Reg) (on : Mask) (f : Lane → Word) : (g.setX r on f).gsr = g.gsr := by unfold Group.setX; split <;> rfl
@[simp] theorem Group.setX_tl (g : Group) (r : Reg) (on : Mask) (f : Lane → Word) : (g.setX r on f).tl = g.tl := by unfold Group.setX; split <;> rfl
@[simp] theorem Group.setX_tca1 (g : Group) (r : Reg) (on : Mask) (f : Lane → Word) : (g.setX r on f).tca1 = g.tca1 := by unfold Group.setX; split <;> rfl
@[simp] theorem Group.setX_tca2 (g : Group) (r : Reg) (on : Mask) (f : Lane → Word) : (g.setX r on f).tca2 = g.tca2 := by unfold Group.setX; split <;> rfl
@[simp] theorem Group.setX_tepc1 (g : Group) (r : Reg) (on : Mask) (f : Lane → Word) : (g.setX r on f).tepc1 = g.tepc1 := by unfold Group.setX; split <;> rfl
@[simp] theorem Group.setX_tepc2 (g : Group) (r : Reg) (on : Mask) (f : Lane → Word) : (g.setX r on f).tepc2 = g.tepc2 := by unfold Group.setX; split <;> rfl
@[simp] theorem Group.setX_tfa1 (g : Group) (r : Reg) (on : Mask) (f : Lane → Word) : (g.setX r on f).tfa1 = g.tfa1 := by unfold Group.setX; split <;> rfl
@[simp] theorem Group.setX_tfa2 (g : Group) (r : Reg) (on : Mask) (f : Lane → Word) : (g.setX r on f).tfa2 = g.tfa2 := by unfold Group.setX; split <;> rfl
@[simp] theorem Group.setX_depth (g : Group) (r : Reg) (on : Mask) (f : Lane → Word) : (g.setX r on f).depth = g.depth := by unfold Group.setX; split <;> rfl
@[simp] theorem Group.setX_limit (g : Group) (r : Reg) (on : Mask) (f : Lane → Word) : (g.setX r on f).limit = g.limit := by unfold Group.setX; split <;> rfl
@[simp] theorem Group.setX_rngKey (g : Group) (r : Reg) (on : Mask) (f : Lane → Word) : (g.setX r on f).rngKey = g.rngKey := by unfold Group.setX; split <;> rfl
@[simp] theorem Group.setX_rngCtr (g : Group) (r : Reg) (on : Mask) (f : Lane → Word) : (g.setX r on f).rngCtr = g.rngCtr := by unfold Group.setX; split <;> rfl
@[simp] theorem Group.setX_lin (g : Group) (r : Reg) (on : Mask) (f : Lane → Word) : (g.setX r on f).lin = g.lin := by unfold Group.setX; split <;> rfl
@[simp] theorem Group.setX_tag (g : Group) (r : Reg) (on : Mask) (f : Lane → Word) : (g.setX r on f).tag = g.tag := by unfold Group.setX; split <;> rfl
@[simp] theorem Group.setX_paths (g : Group) (r : Reg) (on : Mask) (f : Lane → Word) : (g.setX r on f).paths = g.paths := by unfold Group.setX; split <;> rfl
@[simp] theorem Group.setX_entries (g : Group) (r : Reg) (on : Mask) (f : Lane → Word) : (g.setX r on f).entries = g.entries := by unfold Group.setX; split <;> rfl
@[simp] theorem Group.setX_frames (g : Group) (r : Reg) (on : Mask) (f : Lane → Word) : (g.setX r on f).frames = g.frames := by unfold Group.setX; split <;> rfl
@[simp] theorem Group.setX_nextPid (g : Group) (r : Reg) (on : Mask) (f : Lane → Word) : (g.setX r on f).nextPid = g.nextPid := by unfold Group.setX; split <;> rfl
@[simp] theorem Group.setX_nextEid (g : Group) (r : Reg) (on : Mask) (f : Lane → Word) : (g.setX r on f).nextEid = g.nextEid := by unfold Group.setX; split <;> rfl
@[simp] theorem Group.setV_gid (g : Group) (r : Reg) (on : Mask) (f : Lane → DWord) : (g.setV r on f).gid = g.gid := rfl
@[simp] theorem Group.setV_team (g : Group) (r : Reg) (on : Mask) (f : Lane → DWord) : (g.setV r on f).team = g.team := rfl
@[simp] theorem Group.setV_idx (g : Group) (r : Reg) (on : Mask) (f : Lane → DWord) : (g.setV r on f).idx = g.idx := rfl
@[simp] theorem Group.setV_slot (g : Group) (r : Reg) (on : Mask) (f : Lane → DWord) : (g.setV r on f).slot = g.slot := rfl
@[simp] theorem Group.setV_x (g : Group) (r : Reg) (on : Mask) (f : Lane → DWord) : (g.setV r on f).x = g.x := rfl
@[simp] theorem Group.setV_s (g : Group) (r : Reg) (on : Mask) (f : Lane → DWord) : (g.setV r on f).s = g.s := rfl
@[simp] theorem Group.setV_q (g : Group) (r : Reg) (on : Mask) (f : Lane → DWord) : (g.setV r on f).q = g.q := rfl
@[simp] theorem Group.setV_m (g : Group) (r : Reg) (on : Mask) (f : Lane → DWord) : (g.setV r on f).m = g.m := rfl
@[simp] theorem Group.setV_h (g : Group) (r : Reg) (on : Mask) (f : Lane → DWord) : (g.setV r on f).h = g.h := rfl
@[simp] theorem Group.setV_n (g : Group) (r : Reg) (on : Mask) (f : Lane → DWord) : (g.setV r on f).n = g.n := rfl
@[simp] theorem Group.setV_gsr (g : Group) (r : Reg) (on : Mask) (f : Lane → DWord) : (g.setV r on f).gsr = g.gsr := rfl
@[simp] theorem Group.setV_tl (g : Group) (r : Reg) (on : Mask) (f : Lane → DWord) : (g.setV r on f).tl = g.tl := rfl
@[simp] theorem Group.setV_tca1 (g : Group) (r : Reg) (on : Mask) (f : Lane → DWord) : (g.setV r on f).tca1 = g.tca1 := rfl
@[simp] theorem Group.setV_tca2 (g : Group) (r : Reg) (on : Mask) (f : Lane → DWord) : (g.setV r on f).tca2 = g.tca2 := rfl
@[simp] theorem Group.setV_tepc1 (g : Group) (r : Reg) (on : Mask) (f : Lane → DWord) : (g.setV r on f).tepc1 = g.tepc1 := rfl
@[simp] theorem Group.setV_tepc2 (g : Group) (r : Reg) (on : Mask) (f : Lane → DWord) : (g.setV r on f).tepc2 = g.tepc2 := rfl
@[simp] theorem Group.setV_tfa1 (g : Group) (r : Reg) (on : Mask) (f : Lane → DWord) : (g.setV r on f).tfa1 = g.tfa1 := rfl
@[simp] theorem Group.setV_tfa2 (g : Group) (r : Reg) (on : Mask) (f : Lane → DWord) : (g.setV r on f).tfa2 = g.tfa2 := rfl
@[simp] theorem Group.setV_depth (g : Group) (r : Reg) (on : Mask) (f : Lane → DWord) : (g.setV r on f).depth = g.depth := rfl
@[simp] theorem Group.setV_limit (g : Group) (r : Reg) (on : Mask) (f : Lane → DWord) : (g.setV r on f).limit = g.limit := rfl
@[simp] theorem Group.setV_rngKey (g : Group) (r : Reg) (on : Mask) (f : Lane → DWord) : (g.setV r on f).rngKey = g.rngKey := rfl
@[simp] theorem Group.setV_rngCtr (g : Group) (r : Reg) (on : Mask) (f : Lane → DWord) : (g.setV r on f).rngCtr = g.rngCtr := rfl
@[simp] theorem Group.setV_lin (g : Group) (r : Reg) (on : Mask) (f : Lane → DWord) : (g.setV r on f).lin = g.lin := rfl
@[simp] theorem Group.setV_tag (g : Group) (r : Reg) (on : Mask) (f : Lane → DWord) : (g.setV r on f).tag = g.tag := rfl
@[simp] theorem Group.setV_paths (g : Group) (r : Reg) (on : Mask) (f : Lane → DWord) : (g.setV r on f).paths = g.paths := rfl
@[simp] theorem Group.setV_entries (g : Group) (r : Reg) (on : Mask) (f : Lane → DWord) : (g.setV r on f).entries = g.entries := rfl
@[simp] theorem Group.setV_frames (g : Group) (r : Reg) (on : Mask) (f : Lane → DWord) : (g.setV r on f).frames = g.frames := rfl
@[simp] theorem Group.setV_nextPid (g : Group) (r : Reg) (on : Mask) (f : Lane → DWord) : (g.setV r on f).nextPid = g.nextPid := rfl
@[simp] theorem Group.setV_nextEid (g : Group) (r : Reg) (on : Mask) (f : Lane → DWord) : (g.setV r on f).nextEid = g.nextEid := rfl
@[simp] theorem Group.setQ_gid (g : Group) (r : Reg) (on : Mask) (f : Lane → BitVec 2) : (g.setQ r on f).gid = g.gid := rfl
@[simp] theorem Group.setQ_team (g : Group) (r : Reg) (on : Mask) (f : Lane → BitVec 2) : (g.setQ r on f).team = g.team := rfl
@[simp] theorem Group.setQ_idx (g : Group) (r : Reg) (on : Mask) (f : Lane → BitVec 2) : (g.setQ r on f).idx = g.idx := rfl
@[simp] theorem Group.setQ_slot (g : Group) (r : Reg) (on : Mask) (f : Lane → BitVec 2) : (g.setQ r on f).slot = g.slot := rfl
@[simp] theorem Group.setQ_x (g : Group) (r : Reg) (on : Mask) (f : Lane → BitVec 2) : (g.setQ r on f).x = g.x := rfl
@[simp] theorem Group.setQ_v (g : Group) (r : Reg) (on : Mask) (f : Lane → BitVec 2) : (g.setQ r on f).v = g.v := rfl
@[simp] theorem Group.setQ_s (g : Group) (r : Reg) (on : Mask) (f : Lane → BitVec 2) : (g.setQ r on f).s = g.s := rfl
@[simp] theorem Group.setQ_m (g : Group) (r : Reg) (on : Mask) (f : Lane → BitVec 2) : (g.setQ r on f).m = g.m := rfl
@[simp] theorem Group.setQ_h (g : Group) (r : Reg) (on : Mask) (f : Lane → BitVec 2) : (g.setQ r on f).h = g.h := rfl
@[simp] theorem Group.setQ_n (g : Group) (r : Reg) (on : Mask) (f : Lane → BitVec 2) : (g.setQ r on f).n = g.n := rfl
@[simp] theorem Group.setQ_gsr (g : Group) (r : Reg) (on : Mask) (f : Lane → BitVec 2) : (g.setQ r on f).gsr = g.gsr := rfl
@[simp] theorem Group.setQ_tl (g : Group) (r : Reg) (on : Mask) (f : Lane → BitVec 2) : (g.setQ r on f).tl = g.tl := rfl
@[simp] theorem Group.setQ_tca1 (g : Group) (r : Reg) (on : Mask) (f : Lane → BitVec 2) : (g.setQ r on f).tca1 = g.tca1 := rfl
@[simp] theorem Group.setQ_tca2 (g : Group) (r : Reg) (on : Mask) (f : Lane → BitVec 2) : (g.setQ r on f).tca2 = g.tca2 := rfl
@[simp] theorem Group.setQ_tepc1 (g : Group) (r : Reg) (on : Mask) (f : Lane → BitVec 2) : (g.setQ r on f).tepc1 = g.tepc1 := rfl
@[simp] theorem Group.setQ_tepc2 (g : Group) (r : Reg) (on : Mask) (f : Lane → BitVec 2) : (g.setQ r on f).tepc2 = g.tepc2 := rfl
@[simp] theorem Group.setQ_tfa1 (g : Group) (r : Reg) (on : Mask) (f : Lane → BitVec 2) : (g.setQ r on f).tfa1 = g.tfa1 := rfl
@[simp] theorem Group.setQ_tfa2 (g : Group) (r : Reg) (on : Mask) (f : Lane → BitVec 2) : (g.setQ r on f).tfa2 = g.tfa2 := rfl
@[simp] theorem Group.setQ_depth (g : Group) (r : Reg) (on : Mask) (f : Lane → BitVec 2) : (g.setQ r on f).depth = g.depth := rfl
@[simp] theorem Group.setQ_limit (g : Group) (r : Reg) (on : Mask) (f : Lane → BitVec 2) : (g.setQ r on f).limit = g.limit := rfl
@[simp] theorem Group.setQ_rngKey (g : Group) (r : Reg) (on : Mask) (f : Lane → BitVec 2) : (g.setQ r on f).rngKey = g.rngKey := rfl
@[simp] theorem Group.setQ_rngCtr (g : Group) (r : Reg) (on : Mask) (f : Lane → BitVec 2) : (g.setQ r on f).rngCtr = g.rngCtr := rfl
@[simp] theorem Group.setQ_lin (g : Group) (r : Reg) (on : Mask) (f : Lane → BitVec 2) : (g.setQ r on f).lin = g.lin := rfl
@[simp] theorem Group.setQ_tag (g : Group) (r : Reg) (on : Mask) (f : Lane → BitVec 2) : (g.setQ r on f).tag = g.tag := rfl
@[simp] theorem Group.setQ_paths (g : Group) (r : Reg) (on : Mask) (f : Lane → BitVec 2) : (g.setQ r on f).paths = g.paths := rfl
@[simp] theorem Group.setQ_entries (g : Group) (r : Reg) (on : Mask) (f : Lane → BitVec 2) : (g.setQ r on f).entries = g.entries := rfl
@[simp] theorem Group.setQ_frames (g : Group) (r : Reg) (on : Mask) (f : Lane → BitVec 2) : (g.setQ r on f).frames = g.frames := rfl
@[simp] theorem Group.setQ_nextPid (g : Group) (r : Reg) (on : Mask) (f : Lane → BitVec 2) : (g.setQ r on f).nextPid = g.nextPid := rfl
@[simp] theorem Group.setQ_nextEid (g : Group) (r : Reg) (on : Mask) (f : Lane → BitVec 2) : (g.setQ r on f).nextEid = g.nextEid := rfl
@[simp] theorem Group.setS_gid (g : Group) (r : Reg) (w : Word) : (g.setS r w).gid = g.gid := by unfold Group.setS; split <;> rfl
@[simp] theorem Group.setS_team (g : Group) (r : Reg) (w : Word) : (g.setS r w).team = g.team := by unfold Group.setS; split <;> rfl
@[simp] theorem Group.setS_idx (g : Group) (r : Reg) (w : Word) : (g.setS r w).idx = g.idx := by unfold Group.setS; split <;> rfl
@[simp] theorem Group.setS_slot (g : Group) (r : Reg) (w : Word) : (g.setS r w).slot = g.slot := by unfold Group.setS; split <;> rfl
@[simp] theorem Group.setS_x (g : Group) (r : Reg) (w : Word) : (g.setS r w).x = g.x := by unfold Group.setS; split <;> rfl
@[simp] theorem Group.setS_v (g : Group) (r : Reg) (w : Word) : (g.setS r w).v = g.v := by unfold Group.setS; split <;> rfl
@[simp] theorem Group.setS_q (g : Group) (r : Reg) (w : Word) : (g.setS r w).q = g.q := by unfold Group.setS; split <;> rfl
@[simp] theorem Group.setS_m (g : Group) (r : Reg) (w : Word) : (g.setS r w).m = g.m := by unfold Group.setS; split <;> rfl
@[simp] theorem Group.setS_h (g : Group) (r : Reg) (w : Word) : (g.setS r w).h = g.h := by unfold Group.setS; split <;> rfl
@[simp] theorem Group.setS_n (g : Group) (r : Reg) (w : Word) : (g.setS r w).n = g.n := by unfold Group.setS; split <;> rfl
@[simp] theorem Group.setS_gsr (g : Group) (r : Reg) (w : Word) : (g.setS r w).gsr = g.gsr := by unfold Group.setS; split <;> rfl
@[simp] theorem Group.setS_tl (g : Group) (r : Reg) (w : Word) : (g.setS r w).tl = g.tl := by unfold Group.setS; split <;> rfl
@[simp] theorem Group.setS_tca1 (g : Group) (r : Reg) (w : Word) : (g.setS r w).tca1 = g.tca1 := by unfold Group.setS; split <;> rfl
@[simp] theorem Group.setS_tca2 (g : Group) (r : Reg) (w : Word) : (g.setS r w).tca2 = g.tca2 := by unfold Group.setS; split <;> rfl
@[simp] theorem Group.setS_tepc1 (g : Group) (r : Reg) (w : Word) : (g.setS r w).tepc1 = g.tepc1 := by unfold Group.setS; split <;> rfl
@[simp] theorem Group.setS_tepc2 (g : Group) (r : Reg) (w : Word) : (g.setS r w).tepc2 = g.tepc2 := by unfold Group.setS; split <;> rfl
@[simp] theorem Group.setS_tfa1 (g : Group) (r : Reg) (w : Word) : (g.setS r w).tfa1 = g.tfa1 := by unfold Group.setS; split <;> rfl
@[simp] theorem Group.setS_tfa2 (g : Group) (r : Reg) (w : Word) : (g.setS r w).tfa2 = g.tfa2 := by unfold Group.setS; split <;> rfl
@[simp] theorem Group.setS_depth (g : Group) (r : Reg) (w : Word) : (g.setS r w).depth = g.depth := by unfold Group.setS; split <;> rfl
@[simp] theorem Group.setS_limit (g : Group) (r : Reg) (w : Word) : (g.setS r w).limit = g.limit := by unfold Group.setS; split <;> rfl
@[simp] theorem Group.setS_rngKey (g : Group) (r : Reg) (w : Word) : (g.setS r w).rngKey = g.rngKey := by unfold Group.setS; split <;> rfl
@[simp] theorem Group.setS_rngCtr (g : Group) (r : Reg) (w : Word) : (g.setS r w).rngCtr = g.rngCtr := by unfold Group.setS; split <;> rfl
@[simp] theorem Group.setS_lin (g : Group) (r : Reg) (w : Word) : (g.setS r w).lin = g.lin := by unfold Group.setS; split <;> rfl
@[simp] theorem Group.setS_tag (g : Group) (r : Reg) (w : Word) : (g.setS r w).tag = g.tag := by unfold Group.setS; split <;> rfl
@[simp] theorem Group.setS_paths (g : Group) (r : Reg) (w : Word) : (g.setS r w).paths = g.paths := by unfold Group.setS; split <;> rfl
@[simp] theorem Group.setS_entries (g : Group) (r : Reg) (w : Word) : (g.setS r w).entries = g.entries := by unfold Group.setS; split <;> rfl
@[simp] theorem Group.setS_frames (g : Group) (r : Reg) (w : Word) : (g.setS r w).frames = g.frames := by unfold Group.setS; split <;> rfl
@[simp] theorem Group.setS_nextPid (g : Group) (r : Reg) (w : Word) : (g.setS r w).nextPid = g.nextPid := by unfold Group.setS; split <;> rfl
@[simp] theorem Group.setS_nextEid (g : Group) (r : Reg) (w : Word) : (g.setS r w).nextEid = g.nextEid := by unfold Group.setS; split <;> rfl
@[simp] theorem Group.setM_gid (g : Group) (r : Reg) (w : Mask) : (g.setM r w).gid = g.gid := by unfold Group.setM; split <;> rfl
@[simp] theorem Group.setM_team (g : Group) (r : Reg) (w : Mask) : (g.setM r w).team = g.team := by unfold Group.setM; split <;> rfl
@[simp] theorem Group.setM_idx (g : Group) (r : Reg) (w : Mask) : (g.setM r w).idx = g.idx := by unfold Group.setM; split <;> rfl
@[simp] theorem Group.setM_slot (g : Group) (r : Reg) (w : Mask) : (g.setM r w).slot = g.slot := by unfold Group.setM; split <;> rfl
@[simp] theorem Group.setM_x (g : Group) (r : Reg) (w : Mask) : (g.setM r w).x = g.x := by unfold Group.setM; split <;> rfl
@[simp] theorem Group.setM_v (g : Group) (r : Reg) (w : Mask) : (g.setM r w).v = g.v := by unfold Group.setM; split <;> rfl
@[simp] theorem Group.setM_s (g : Group) (r : Reg) (w : Mask) : (g.setM r w).s = g.s := by unfold Group.setM; split <;> rfl
@[simp] theorem Group.setM_q (g : Group) (r : Reg) (w : Mask) : (g.setM r w).q = g.q := by unfold Group.setM; split <;> rfl
@[simp] theorem Group.setM_h (g : Group) (r : Reg) (w : Mask) : (g.setM r w).h = g.h := by unfold Group.setM; split <;> rfl
@[simp] theorem Group.setM_n (g : Group) (r : Reg) (w : Mask) : (g.setM r w).n = g.n := by unfold Group.setM; split <;> rfl
@[simp] theorem Group.setM_gsr (g : Group) (r : Reg) (w : Mask) : (g.setM r w).gsr = g.gsr := by unfold Group.setM; split <;> rfl
@[simp] theorem Group.setM_tl (g : Group) (r : Reg) (w : Mask) : (g.setM r w).tl = g.tl := by unfold Group.setM; split <;> rfl
@[simp] theorem Group.setM_tca1 (g : Group) (r : Reg) (w : Mask) : (g.setM r w).tca1 = g.tca1 := by unfold Group.setM; split <;> rfl
@[simp] theorem Group.setM_tca2 (g : Group) (r : Reg) (w : Mask) : (g.setM r w).tca2 = g.tca2 := by unfold Group.setM; split <;> rfl
@[simp] theorem Group.setM_tepc1 (g : Group) (r : Reg) (w : Mask) : (g.setM r w).tepc1 = g.tepc1 := by unfold Group.setM; split <;> rfl
@[simp] theorem Group.setM_tepc2 (g : Group) (r : Reg) (w : Mask) : (g.setM r w).tepc2 = g.tepc2 := by unfold Group.setM; split <;> rfl
@[simp] theorem Group.setM_tfa1 (g : Group) (r : Reg) (w : Mask) : (g.setM r w).tfa1 = g.tfa1 := by unfold Group.setM; split <;> rfl
@[simp] theorem Group.setM_tfa2 (g : Group) (r : Reg) (w : Mask) : (g.setM r w).tfa2 = g.tfa2 := by unfold Group.setM; split <;> rfl
@[simp] theorem Group.setM_depth (g : Group) (r : Reg) (w : Mask) : (g.setM r w).depth = g.depth := by unfold Group.setM; split <;> rfl
@[simp] theorem Group.setM_limit (g : Group) (r : Reg) (w : Mask) : (g.setM r w).limit = g.limit := by unfold Group.setM; split <;> rfl
@[simp] theorem Group.setM_rngKey (g : Group) (r : Reg) (w : Mask) : (g.setM r w).rngKey = g.rngKey := by unfold Group.setM; split <;> rfl
@[simp] theorem Group.setM_rngCtr (g : Group) (r : Reg) (w : Mask) : (g.setM r w).rngCtr = g.rngCtr := by unfold Group.setM; split <;> rfl
@[simp] theorem Group.setM_lin (g : Group) (r : Reg) (w : Mask) : (g.setM r w).lin = g.lin := by unfold Group.setM; split <;> rfl
@[simp] theorem Group.setM_tag (g : Group) (r : Reg) (w : Mask) : (g.setM r w).tag = g.tag := by unfold Group.setM; split <;> rfl
@[simp] theorem Group.setM_paths (g : Group) (r : Reg) (w : Mask) : (g.setM r w).paths = g.paths := by unfold Group.setM; split <;> rfl
@[simp] theorem Group.setM_entries (g : Group) (r : Reg) (w : Mask) : (g.setM r w).entries = g.entries := by unfold Group.setM; split <;> rfl
@[simp] theorem Group.setM_frames (g : Group) (r : Reg) (w : Mask) : (g.setM r w).frames = g.frames := by unfold Group.setM; split <;> rfl
@[simp] theorem Group.setM_nextPid (g : Group) (r : Reg) (w : Mask) : (g.setM r w).nextPid = g.nextPid := by unfold Group.setM; split <;> rfl
@[simp] theorem Group.setM_nextEid (g : Group) (r : Reg) (w : Mask) : (g.setM r w).nextEid = g.nextEid := by unfold Group.setM; split <;> rfl
@[simp] theorem Group.setH_gid (g : Group) (r : Reg) (w : Word) : (g.setH r w).gid = g.gid := rfl
@[simp] theorem Group.setH_team (g : Group) (r : Reg) (w : Word) : (g.setH r w).team = g.team := rfl
@[simp] theorem Group.setH_idx (g : Group) (r : Reg) (w : Word) : (g.setH r w).idx = g.idx := rfl
@[simp] theorem Group.setH_slot (g : Group) (r : Reg) (w : Word) : (g.setH r w).slot = g.slot := rfl
@[simp] theorem Group.setH_x (g : Group) (r : Reg) (w : Word) : (g.setH r w).x = g.x := rfl
@[simp] theorem Group.setH_v (g : Group) (r : Reg) (w : Word) : (g.setH r w).v = g.v := rfl
@[simp] theorem Group.setH_s (g : Group) (r : Reg) (w : Word) : (g.setH r w).s = g.s := rfl
@[simp] theorem Group.setH_q (g : Group) (r : Reg) (w : Word) : (g.setH r w).q = g.q := rfl
@[simp] theorem Group.setH_m (g : Group) (r : Reg) (w : Word) : (g.setH r w).m = g.m := rfl
@[simp] theorem Group.setH_n (g : Group) (r : Reg) (w : Word) : (g.setH r w).n = g.n := rfl
@[simp] theorem Group.setH_gsr (g : Group) (r : Reg) (w : Word) : (g.setH r w).gsr = g.gsr := rfl
@[simp] theorem Group.setH_tl (g : Group) (r : Reg) (w : Word) : (g.setH r w).tl = g.tl := rfl
@[simp] theorem Group.setH_tca1 (g : Group) (r : Reg) (w : Word) : (g.setH r w).tca1 = g.tca1 := rfl
@[simp] theorem Group.setH_tca2 (g : Group) (r : Reg) (w : Word) : (g.setH r w).tca2 = g.tca2 := rfl
@[simp] theorem Group.setH_tepc1 (g : Group) (r : Reg) (w : Word) : (g.setH r w).tepc1 = g.tepc1 := rfl
@[simp] theorem Group.setH_tepc2 (g : Group) (r : Reg) (w : Word) : (g.setH r w).tepc2 = g.tepc2 := rfl
@[simp] theorem Group.setH_tfa1 (g : Group) (r : Reg) (w : Word) : (g.setH r w).tfa1 = g.tfa1 := rfl
@[simp] theorem Group.setH_tfa2 (g : Group) (r : Reg) (w : Word) : (g.setH r w).tfa2 = g.tfa2 := rfl
@[simp] theorem Group.setH_depth (g : Group) (r : Reg) (w : Word) : (g.setH r w).depth = g.depth := rfl
@[simp] theorem Group.setH_limit (g : Group) (r : Reg) (w : Word) : (g.setH r w).limit = g.limit := rfl
@[simp] theorem Group.setH_rngKey (g : Group) (r : Reg) (w : Word) : (g.setH r w).rngKey = g.rngKey := rfl
@[simp] theorem Group.setH_rngCtr (g : Group) (r : Reg) (w : Word) : (g.setH r w).rngCtr = g.rngCtr := rfl
@[simp] theorem Group.setH_lin (g : Group) (r : Reg) (w : Word) : (g.setH r w).lin = g.lin := rfl
@[simp] theorem Group.setH_tag (g : Group) (r : Reg) (w : Word) : (g.setH r w).tag = g.tag := rfl
@[simp] theorem Group.setH_paths (g : Group) (r : Reg) (w : Word) : (g.setH r w).paths = g.paths := rfl
@[simp] theorem Group.setH_entries (g : Group) (r : Reg) (w : Word) : (g.setH r w).entries = g.entries := rfl
@[simp] theorem Group.setH_frames (g : Group) (r : Reg) (w : Word) : (g.setH r w).frames = g.frames := rfl
@[simp] theorem Group.setH_nextPid (g : Group) (r : Reg) (w : Word) : (g.setH r w).nextPid = g.nextPid := rfl
@[simp] theorem Group.setH_nextEid (g : Group) (r : Reg) (w : Word) : (g.setH r w).nextEid = g.nextEid := rfl
@[simp] theorem Group.setN_gid (g : Group) (r : Reg) (b : Bool) : (g.setN r b).gid = g.gid := rfl
@[simp] theorem Group.setN_team (g : Group) (r : Reg) (b : Bool) : (g.setN r b).team = g.team := rfl
@[simp] theorem Group.setN_idx (g : Group) (r : Reg) (b : Bool) : (g.setN r b).idx = g.idx := rfl
@[simp] theorem Group.setN_slot (g : Group) (r : Reg) (b : Bool) : (g.setN r b).slot = g.slot := rfl
@[simp] theorem Group.setN_x (g : Group) (r : Reg) (b : Bool) : (g.setN r b).x = g.x := rfl
@[simp] theorem Group.setN_v (g : Group) (r : Reg) (b : Bool) : (g.setN r b).v = g.v := rfl
@[simp] theorem Group.setN_s (g : Group) (r : Reg) (b : Bool) : (g.setN r b).s = g.s := rfl
@[simp] theorem Group.setN_q (g : Group) (r : Reg) (b : Bool) : (g.setN r b).q = g.q := rfl
@[simp] theorem Group.setN_m (g : Group) (r : Reg) (b : Bool) : (g.setN r b).m = g.m := rfl
@[simp] theorem Group.setN_h (g : Group) (r : Reg) (b : Bool) : (g.setN r b).h = g.h := rfl
@[simp] theorem Group.setN_gsr (g : Group) (r : Reg) (b : Bool) : (g.setN r b).gsr = g.gsr := rfl
@[simp] theorem Group.setN_tl (g : Group) (r : Reg) (b : Bool) : (g.setN r b).tl = g.tl := rfl
@[simp] theorem Group.setN_tca1 (g : Group) (r : Reg) (b : Bool) : (g.setN r b).tca1 = g.tca1 := rfl
@[simp] theorem Group.setN_tca2 (g : Group) (r : Reg) (b : Bool) : (g.setN r b).tca2 = g.tca2 := rfl
@[simp] theorem Group.setN_tepc1 (g : Group) (r : Reg) (b : Bool) : (g.setN r b).tepc1 = g.tepc1 := rfl
@[simp] theorem Group.setN_tepc2 (g : Group) (r : Reg) (b : Bool) : (g.setN r b).tepc2 = g.tepc2 := rfl
@[simp] theorem Group.setN_tfa1 (g : Group) (r : Reg) (b : Bool) : (g.setN r b).tfa1 = g.tfa1 := rfl
@[simp] theorem Group.setN_tfa2 (g : Group) (r : Reg) (b : Bool) : (g.setN r b).tfa2 = g.tfa2 := rfl
@[simp] theorem Group.setN_depth (g : Group) (r : Reg) (b : Bool) : (g.setN r b).depth = g.depth := rfl
@[simp] theorem Group.setN_limit (g : Group) (r : Reg) (b : Bool) : (g.setN r b).limit = g.limit := rfl
@[simp] theorem Group.setN_rngKey (g : Group) (r : Reg) (b : Bool) : (g.setN r b).rngKey = g.rngKey := rfl
@[simp] theorem Group.setN_rngCtr (g : Group) (r : Reg) (b : Bool) : (g.setN r b).rngCtr = g.rngCtr := rfl
@[simp] theorem Group.setN_lin (g : Group) (r : Reg) (b : Bool) : (g.setN r b).lin = g.lin := rfl
@[simp] theorem Group.setN_tag (g : Group) (r : Reg) (b : Bool) : (g.setN r b).tag = g.tag := rfl
@[simp] theorem Group.setN_paths (g : Group) (r : Reg) (b : Bool) : (g.setN r b).paths = g.paths := rfl
@[simp] theorem Group.setN_entries (g : Group) (r : Reg) (b : Bool) : (g.setN r b).entries = g.entries := rfl
@[simp] theorem Group.setN_frames (g : Group) (r : Reg) (b : Bool) : (g.setN r b).frames = g.frames := rfl
@[simp] theorem Group.setN_nextPid (g : Group) (r : Reg) (b : Bool) : (g.setN r b).nextPid = g.nextPid := rfl
@[simp] theorem Group.setN_nextEid (g : Group) (r : Reg) (b : Bool) : (g.setN r b).nextEid = g.nextEid := rfl
@[simp] theorem Group.setLin_gid (g : Group) (on : Mask) (f : Lane → DWord) : (g.setLin on f).gid = g.gid := rfl
@[simp] theorem Group.setLin_team (g : Group) (on : Mask) (f : Lane → DWord) : (g.setLin on f).team = g.team := rfl
@[simp] theorem Group.setLin_idx (g : Group) (on : Mask) (f : Lane → DWord) : (g.setLin on f).idx = g.idx := rfl
@[simp] theorem Group.setLin_slot (g : Group) (on : Mask) (f : Lane → DWord) : (g.setLin on f).slot = g.slot := rfl
@[simp] theorem Group.setLin_x (g : Group) (on : Mask) (f : Lane → DWord) : (g.setLin on f).x = g.x := rfl
@[simp] theorem Group.setLin_v (g : Group) (on : Mask) (f : Lane → DWord) : (g.setLin on f).v = g.v := rfl
@[simp] theorem Group.setLin_s (g : Group) (on : Mask) (f : Lane → DWord) : (g.setLin on f).s = g.s := rfl
@[simp] theorem Group.setLin_q (g : Group) (on : Mask) (f : Lane → DWord) : (g.setLin on f).q = g.q := rfl
@[simp] theorem Group.setLin_m (g : Group) (on : Mask) (f : Lane → DWord) : (g.setLin on f).m = g.m := rfl
@[simp] theorem Group.setLin_h (g : Group) (on : Mask) (f : Lane → DWord) : (g.setLin on f).h = g.h := rfl
@[simp] theorem Group.setLin_n (g : Group) (on : Mask) (f : Lane → DWord) : (g.setLin on f).n = g.n := rfl
@[simp] theorem Group.setLin_gsr (g : Group) (on : Mask) (f : Lane → DWord) : (g.setLin on f).gsr = g.gsr := rfl
@[simp] theorem Group.setLin_tl (g : Group) (on : Mask) (f : Lane → DWord) : (g.setLin on f).tl = g.tl := rfl
@[simp] theorem Group.setLin_tca1 (g : Group) (on : Mask) (f : Lane → DWord) : (g.setLin on f).tca1 = g.tca1 := rfl
@[simp] theorem Group.setLin_tca2 (g : Group) (on : Mask) (f : Lane → DWord) : (g.setLin on f).tca2 = g.tca2 := rfl
@[simp] theorem Group.setLin_tepc1 (g : Group) (on : Mask) (f : Lane → DWord) : (g.setLin on f).tepc1 = g.tepc1 := rfl
@[simp] theorem Group.setLin_tepc2 (g : Group) (on : Mask) (f : Lane → DWord) : (g.setLin on f).tepc2 = g.tepc2 := rfl
@[simp] theorem Group.setLin_tfa1 (g : Group) (on : Mask) (f : Lane → DWord) : (g.setLin on f).tfa1 = g.tfa1 := rfl
@[simp] theorem Group.setLin_tfa2 (g : Group) (on : Mask) (f : Lane → DWord) : (g.setLin on f).tfa2 = g.tfa2 := rfl
@[simp] theorem Group.setLin_depth (g : Group) (on : Mask) (f : Lane → DWord) : (g.setLin on f).depth = g.depth := rfl
@[simp] theorem Group.setLin_limit (g : Group) (on : Mask) (f : Lane → DWord) : (g.setLin on f).limit = g.limit := rfl
@[simp] theorem Group.setLin_rngKey (g : Group) (on : Mask) (f : Lane → DWord) : (g.setLin on f).rngKey = g.rngKey := rfl
@[simp] theorem Group.setLin_rngCtr (g : Group) (on : Mask) (f : Lane → DWord) : (g.setLin on f).rngCtr = g.rngCtr := rfl
@[simp] theorem Group.setLin_tag (g : Group) (on : Mask) (f : Lane → DWord) : (g.setLin on f).tag = g.tag := rfl
@[simp] theorem Group.setLin_paths (g : Group) (on : Mask) (f : Lane → DWord) : (g.setLin on f).paths = g.paths := rfl
@[simp] theorem Group.setLin_entries (g : Group) (on : Mask) (f : Lane → DWord) : (g.setLin on f).entries = g.entries := rfl
@[simp] theorem Group.setLin_frames (g : Group) (on : Mask) (f : Lane → DWord) : (g.setLin on f).frames = g.frames := rfl
@[simp] theorem Group.setLin_nextPid (g : Group) (on : Mask) (f : Lane → DWord) : (g.setLin on f).nextPid = g.nextPid := rfl
@[simp] theorem Group.setLin_nextEid (g : Group) (on : Mask) (f : Lane → DWord) : (g.setLin on f).nextEid = g.nextEid := rfl
@[simp] theorem Group.flag_gid (g : Group) (f : Flags) : (g.flag f).gid = g.gid := rfl
@[simp] theorem Group.flag_team (g : Group) (f : Flags) : (g.flag f).team = g.team := rfl
@[simp] theorem Group.flag_idx (g : Group) (f : Flags) : (g.flag f).idx = g.idx := rfl
@[simp] theorem Group.flag_slot (g : Group) (f : Flags) : (g.flag f).slot = g.slot := rfl
@[simp] theorem Group.flag_x (g : Group) (f : Flags) : (g.flag f).x = g.x := rfl
@[simp] theorem Group.flag_v (g : Group) (f : Flags) : (g.flag f).v = g.v := rfl
@[simp] theorem Group.flag_s (g : Group) (f : Flags) : (g.flag f).s = g.s := rfl
@[simp] theorem Group.flag_q (g : Group) (f : Flags) : (g.flag f).q = g.q := rfl
@[simp] theorem Group.flag_m (g : Group) (f : Flags) : (g.flag f).m = g.m := rfl
@[simp] theorem Group.flag_h (g : Group) (f : Flags) : (g.flag f).h = g.h := rfl
@[simp] theorem Group.flag_n (g : Group) (f : Flags) : (g.flag f).n = g.n := rfl
@[simp] theorem Group.flag_tl (g : Group) (f : Flags) : (g.flag f).tl = g.tl := rfl
@[simp] theorem Group.flag_tca1 (g : Group) (f : Flags) : (g.flag f).tca1 = g.tca1 := rfl
@[simp] theorem Group.flag_tca2 (g : Group) (f : Flags) : (g.flag f).tca2 = g.tca2 := rfl
@[simp] theorem Group.flag_tepc1 (g : Group) (f : Flags) : (g.flag f).tepc1 = g.tepc1 := rfl
@[simp] theorem Group.flag_tepc2 (g : Group) (f : Flags) : (g.flag f).tepc2 = g.tepc2 := rfl
@[simp] theorem Group.flag_tfa1 (g : Group) (f : Flags) : (g.flag f).tfa1 = g.tfa1 := rfl
@[simp] theorem Group.flag_tfa2 (g : Group) (f : Flags) : (g.flag f).tfa2 = g.tfa2 := rfl
@[simp] theorem Group.flag_depth (g : Group) (f : Flags) : (g.flag f).depth = g.depth := rfl
@[simp] theorem Group.flag_limit (g : Group) (f : Flags) : (g.flag f).limit = g.limit := rfl
@[simp] theorem Group.flag_rngKey (g : Group) (f : Flags) : (g.flag f).rngKey = g.rngKey := rfl
@[simp] theorem Group.flag_rngCtr (g : Group) (f : Flags) : (g.flag f).rngCtr = g.rngCtr := rfl
@[simp] theorem Group.flag_lin (g : Group) (f : Flags) : (g.flag f).lin = g.lin := rfl
@[simp] theorem Group.flag_tag (g : Group) (f : Flags) : (g.flag f).tag = g.tag := rfl
@[simp] theorem Group.flag_paths (g : Group) (f : Flags) : (g.flag f).paths = g.paths := rfl
@[simp] theorem Group.flag_entries (g : Group) (f : Flags) : (g.flag f).entries = g.entries := rfl
@[simp] theorem Group.flag_frames (g : Group) (f : Flags) : (g.flag f).frames = g.frames := rfl
@[simp] theorem Group.flag_nextPid (g : Group) (f : Flags) : (g.flag f).nextPid = g.nextPid := rfl
@[simp] theorem Group.flag_nextEid (g : Group) (f : Flags) : (g.flag f).nextEid = g.nextEid := rfl
@[simp] theorem Group.putPath_gid (g : Group) (p : Path) : (g.putPath p).gid = g.gid := rfl
@[simp] theorem Group.putPath_team (g : Group) (p : Path) : (g.putPath p).team = g.team := rfl
@[simp] theorem Group.putPath_idx (g : Group) (p : Path) : (g.putPath p).idx = g.idx := rfl
@[simp] theorem Group.putPath_slot (g : Group) (p : Path) : (g.putPath p).slot = g.slot := rfl
@[simp] theorem Group.putPath_x (g : Group) (p : Path) : (g.putPath p).x = g.x := rfl
@[simp] theorem Group.putPath_v (g : Group) (p : Path) : (g.putPath p).v = g.v := rfl
@[simp] theorem Group.putPath_s (g : Group) (p : Path) : (g.putPath p).s = g.s := rfl
@[simp] theorem Group.putPath_q (g : Group) (p : Path) : (g.putPath p).q = g.q := rfl
@[simp] theorem Group.putPath_m (g : Group) (p : Path) : (g.putPath p).m = g.m := rfl
@[simp] theorem Group.putPath_h (g : Group) (p : Path) : (g.putPath p).h = g.h := rfl
@[simp] theorem Group.putPath_n (g : Group) (p : Path) : (g.putPath p).n = g.n := rfl
@[simp] theorem Group.putPath_gsr (g : Group) (p : Path) : (g.putPath p).gsr = g.gsr := rfl
@[simp] theorem Group.putPath_tl (g : Group) (p : Path) : (g.putPath p).tl = g.tl := rfl
@[simp] theorem Group.putPath_tca1 (g : Group) (p : Path) : (g.putPath p).tca1 = g.tca1 := rfl
@[simp] theorem Group.putPath_tca2 (g : Group) (p : Path) : (g.putPath p).tca2 = g.tca2 := rfl
@[simp] theorem Group.putPath_tepc1 (g : Group) (p : Path) : (g.putPath p).tepc1 = g.tepc1 := rfl
@[simp] theorem Group.putPath_tepc2 (g : Group) (p : Path) : (g.putPath p).tepc2 = g.tepc2 := rfl
@[simp] theorem Group.putPath_tfa1 (g : Group) (p : Path) : (g.putPath p).tfa1 = g.tfa1 := rfl
@[simp] theorem Group.putPath_tfa2 (g : Group) (p : Path) : (g.putPath p).tfa2 = g.tfa2 := rfl
@[simp] theorem Group.putPath_depth (g : Group) (p : Path) : (g.putPath p).depth = g.depth := rfl
@[simp] theorem Group.putPath_limit (g : Group) (p : Path) : (g.putPath p).limit = g.limit := rfl
@[simp] theorem Group.putPath_rngKey (g : Group) (p : Path) : (g.putPath p).rngKey = g.rngKey := rfl
@[simp] theorem Group.putPath_rngCtr (g : Group) (p : Path) : (g.putPath p).rngCtr = g.rngCtr := rfl
@[simp] theorem Group.putPath_lin (g : Group) (p : Path) : (g.putPath p).lin = g.lin := rfl
@[simp] theorem Group.putPath_tag (g : Group) (p : Path) : (g.putPath p).tag = g.tag := rfl
@[simp] theorem Group.putPath_entries (g : Group) (p : Path) : (g.putPath p).entries = g.entries := rfl
@[simp] theorem Group.putPath_frames (g : Group) (p : Path) : (g.putPath p).frames = g.frames := rfl
@[simp] theorem Group.putPath_nextPid (g : Group) (p : Path) : (g.putPath p).nextPid = g.nextPid := rfl
@[simp] theorem Group.putPath_nextEid (g : Group) (p : Path) : (g.putPath p).nextEid = g.nextEid := rfl
@[simp] theorem Group.updatePath_gid (g : Group) (n : Nat) (f : Path → Path) : (g.updatePath n f).gid = g.gid := rfl
@[simp] theorem Group.updatePath_team (g : Group) (n : Nat) (f : Path → Path) : (g.updatePath n f).team = g.team := rfl
@[simp] theorem Group.updatePath_idx (g : Group) (n : Nat) (f : Path → Path) : (g.updatePath n f).idx = g.idx := rfl
@[simp] theorem Group.updatePath_slot (g : Group) (n : Nat) (f : Path → Path) : (g.updatePath n f).slot = g.slot := rfl
@[simp] theorem Group.updatePath_x (g : Group) (n : Nat) (f : Path → Path) : (g.updatePath n f).x = g.x := rfl
@[simp] theorem Group.updatePath_v (g : Group) (n : Nat) (f : Path → Path) : (g.updatePath n f).v = g.v := rfl
@[simp] theorem Group.updatePath_s (g : Group) (n : Nat) (f : Path → Path) : (g.updatePath n f).s = g.s := rfl
@[simp] theorem Group.updatePath_q (g : Group) (n : Nat) (f : Path → Path) : (g.updatePath n f).q = g.q := rfl
@[simp] theorem Group.updatePath_m (g : Group) (n : Nat) (f : Path → Path) : (g.updatePath n f).m = g.m := rfl
@[simp] theorem Group.updatePath_h (g : Group) (n : Nat) (f : Path → Path) : (g.updatePath n f).h = g.h := rfl
@[simp] theorem Group.updatePath_n (g : Group) (n : Nat) (f : Path → Path) : (g.updatePath n f).n = g.n := rfl
@[simp] theorem Group.updatePath_gsr (g : Group) (n : Nat) (f : Path → Path) : (g.updatePath n f).gsr = g.gsr := rfl
@[simp] theorem Group.updatePath_tl (g : Group) (n : Nat) (f : Path → Path) : (g.updatePath n f).tl = g.tl := rfl
@[simp] theorem Group.updatePath_tca1 (g : Group) (n : Nat) (f : Path → Path) : (g.updatePath n f).tca1 = g.tca1 := rfl
@[simp] theorem Group.updatePath_tca2 (g : Group) (n : Nat) (f : Path → Path) : (g.updatePath n f).tca2 = g.tca2 := rfl
@[simp] theorem Group.updatePath_tepc1 (g : Group) (n : Nat) (f : Path → Path) : (g.updatePath n f).tepc1 = g.tepc1 := rfl
@[simp] theorem Group.updatePath_tepc2 (g : Group) (n : Nat) (f : Path → Path) : (g.updatePath n f).tepc2 = g.tepc2 := rfl
@[simp] theorem Group.updatePath_tfa1 (g : Group) (n : Nat) (f : Path → Path) : (g.updatePath n f).tfa1 = g.tfa1 := rfl
@[simp] theorem Group.updatePath_tfa2 (g : Group) (n : Nat) (f : Path → Path) : (g.updatePath n f).tfa2 = g.tfa2 := rfl
@[simp] theorem Group.updatePath_depth (g : Group) (n : Nat) (f : Path → Path) : (g.updatePath n f).depth = g.depth := rfl
@[simp] theorem Group.updatePath_limit (g : Group) (n : Nat) (f : Path → Path) : (g.updatePath n f).limit = g.limit := rfl
@[simp] theorem Group.updatePath_rngKey (g : Group) (n : Nat) (f : Path → Path) : (g.updatePath n f).rngKey = g.rngKey := rfl
@[simp] theorem Group.updatePath_rngCtr (g : Group) (n : Nat) (f : Path → Path) : (g.updatePath n f).rngCtr = g.rngCtr := rfl
@[simp] theorem Group.updatePath_lin (g : Group) (n : Nat) (f : Path → Path) : (g.updatePath n f).lin = g.lin := rfl
@[simp] theorem Group.updatePath_tag (g : Group) (n : Nat) (f : Path → Path) : (g.updatePath n f).tag = g.tag := rfl
@[simp] theorem Group.updatePath_entries (g : Group) (n : Nat) (f : Path → Path) : (g.updatePath n f).entries = g.entries := rfl
@[simp] theorem Group.updatePath_frames (g : Group) (n : Nat) (f : Path → Path) : (g.updatePath n f).frames = g.frames := rfl
@[simp] theorem Group.updatePath_nextPid (g : Group) (n : Nat) (f : Path → Path) : (g.updatePath n f).nextPid = g.nextPid := rfl
@[simp] theorem Group.updatePath_nextEid (g : Group) (n : Nat) (f : Path → Path) : (g.updatePath n f).nextEid = g.nextEid := rfl

/-! ### Tables -/

@[simp] theorem Tab.get_ofFn {n : Nat} {α : Type} (f : Fin n → α) (i : Fin n) : (Tab.ofFn f).get i = f i := by
  simp [Tab.ofFn, Tab.get]; rfl

@[simp] theorem Tab.get_const {n : Nat} {α : Type} (a : α) (i : Fin n) : (Tab.const n a).get i = a := by
  simp [Tab.const]

theorem Tab.get_set {n : Nat} {α : Type} (t : Tab n α) (i j : Fin n) (a : α) :
    (t.set i a).get j = if j = i then a else t.get j := by
  simp [Tab.set]

@[simp] theorem Tab.get_set_self {n : Nat} {α : Type} (t : Tab n α) (i : Fin n) (a : α) : (t.set i a).get i = a := by
  simp [Tab.set]

theorem Tab.get_set_ne {n : Nat} {α : Type} (t : Tab n α) {i j : Fin n} (a : α) (h : j ≠ i) :
    (t.set i a).get j = t.get j := by
  simp [Tab.set, h]

@[simp] theorem State.core_putCore (s : State) (k : Nat) (c : Core) : (s.putCore k c).core k = c := by
  simp [State.core, State.putCore]

@[simp] theorem State.part_putPart (s : State) (p : Nat) (q : Partition) : (s.putPart p q).part p = q := by
  simp [State.part, State.putPart]

theorem State.core_putCore_ne (s : State) {k n : Nat} (c : Core) (h : coreIx n ≠ coreIx k) :
    (s.putCore k c).core n = s.core n := by
  simp [State.core, State.putCore, Tab.get_set_ne _ _ h]

/-! ### Records by key -/

/-- A record of a table is the one of its key; the update replaces it alone. -/
theorem keyed_find {α : Type} (l : List α) (key : α → Nat) (a : α) (n : Nat) :
    (l.map fun b => if key b = key a then a else b).find? (fun b => key b == n) =
      (l.find? fun b => key b == n).map fun b => if n = key a then a else b := by
  have same : ((fun b => key b == n) ∘ fun b => if key b = key a then a else b) = fun b => key b == n := by
    funext b; simp only [Function.comp_apply]; split <;> simp [*]
  rw [List.find?_map, same]
  refine Option.map_congr fun b hb => ?_
  rw [show key b = n by simpa using List.find?_some hb]

theorem keyed_other {α : Type} (l : List α) (key : α → Nat) (a : α) (n : Nat) (h : n ≠ key a) :
    (l.map fun b => if key b = key a then a else b).find? (fun b => key b == n) = l.find? fun b => key b == n := by
  rw [keyed_find]
  simp only [if_neg h, Option.map_id']

theorem keyed_self {α : Type} (l : List α) (key : α → Nat) (a b : α) (h : l.find? (fun b => key b == key a) = some b) :
    (l.map fun b => if key b = key a then a else b).find? (fun b => key b == key a) = some a := by
  rw [keyed_find, h]
  simp

theorem State.group_gid {s : State} {n : Nat} {g : Group} (h : s.group n = some g) : g.gid = n := by
  simpa using List.find?_some h

theorem State.team_uid {s : State} {n : Nat} {t : Team} (h : s.team n = some t) : t.uid = n := by
  simpa using List.find?_some h

theorem Group.path_pid {g : Group} {n : Nat} {p : Path} (h : g.path n = some p) : p.pid = n := by
  simpa using List.find?_some h

theorem State.group_putGroup_ne (s : State) (g : Group) (n : Nat) (h : n ≠ g.gid) :
    (s.putGroup g).group n = s.group n :=
  keyed_other s.groups Group.gid g n h

theorem State.group_putGroup {s : State} {g g0 : Group} (h : s.group g.gid = some g0) :
    (s.putGroup g).group g.gid = some g :=
  keyed_self s.groups Group.gid g g0 h

theorem State.team_putTeam_ne (s : State) (t : Team) (n : Nat) (h : n ≠ t.uid) : (s.putTeam t).team n = s.team n :=
  keyed_other s.teams Team.uid t n h

theorem State.team_putTeam {s : State} {t t0 : Team} (h : s.team t.uid = some t0) : (s.putTeam t).team t.uid = some t :=
  keyed_self s.teams Team.uid t t0 h

theorem Group.path_putPath_ne (g : Group) (p : Path) (n : Nat) (h : n ≠ p.pid) : (g.putPath p).path n = g.path n :=
  keyed_other g.paths Path.pid p n h

theorem Group.path_putPath {g : Group} {p p0 : Path} (h : g.path p.pid = some p0) : (g.putPath p).path p.pid = some p :=
  keyed_self g.paths Path.pid p p0 h

/-- The context of the word in hand names records of the state. -/
theorem State.ctx_parts {s : State} {c : Ctx} (h : s.ctx = some c) :
    s.cur = some c.cur ∧ s.group c.cur.gid = some c.g ∧ c.g.path c.cur.pid = some c.p ∧ s.team c.g.team = some c.t := by
  unfold State.ctx at h
  split at h
  · cases h
  · split at h
    · cases h
    · split at h
      · cases h
        exact ⟨by assumption, by assumption, by assumption, by assumption⟩
      · cases h

theorem State.ctx_gid {s : State} {c : Ctx} (h : s.ctx = some c) : c.g.gid = c.cur.gid :=
  State.group_gid (State.ctx_parts h).2.1

theorem withCtx_eq {s : State} {c : Ctx} (h : s.ctx = some c) (k : Ctx → Out) : withCtx s k = k c := by
  simp [withCtx, h]

end Sys2Proof.Machine
end

