-- ==== Sys2Proof/Laws/Lane.lean ====
section
/-! SUPPORT. What the shared operations of a word can do, said once: how a word starts, how it completes, and what a
lane, uniform or mask destination holds after it. -/

namespace Sys2Proof.Laws

open Sys2Proof.Machine Sys2Proof.Safety

/-! ### Masks and flags -/

theorem bit_add_pow {n i : Nat} (h : n < 2 ^ i) (k : Nat) :
    (n + 2 ^ i).testBit k = (n.testBit k || decide (k = i)) := by
  have h1 : n + 2 ^ i = 2 ^ i ||| n := by simpa [Nat.add_comm] using Nat.two_pow_add_eq_or_of_lt h 1
  rw [h1, Nat.testBit_or, Nat.testBit_two_pow, Bool.or_comm]
  simp [eq_comm]

theorem maskFold_bits (p : Lane → Bool) (ls : List Lane) (h : ls.Pairwise (· < ·)) (n : Nat)
    (hn : ∀ l ∈ ls, n < 2 ^ l.val) (k : Lane) :
    (ls.foldl (fun n l => if p l then n + 2 ^ l.val else n) n).testBit k.val =
      (n.testBit k.val || (decide (k ∈ ls) && p k)) := by
  induction ls generalizing n with
  | nil => simp
  | cons l ls ih =>
    obtain ⟨h1, h2⟩ := List.pairwise_cons.1 h
    rw [List.foldl_cons]
    have step : ∀ m, (m = if p l then n + 2 ^ l.val else n) → m < 2 ^ (l.val + 1) := by
      intro m hm
      have := hn l (by simp)
      rw [hm]; split <;> rw [Nat.pow_succ] <;> omega
    rw [ih h2 _ fun l' hl' => lt_of_lt_of_le (step _ rfl) (Nat.pow_le_pow_right (by decide) (h1 l' hl'))]
    by_cases hp : p l = true
    · rw [if_pos hp, bit_add_pow (hn l (by simp))]
      by_cases hk : k = l
      · subst hk; simp [hp]
      · have : k.val ≠ l.val := fun e => hk (Fin.ext e)
        simp [hk, this]
    · rw [if_neg hp]
      by_cases hk : k = l
      · subst hk; simp [hp]
      · simp [hk]

theorem laneOn_maskOf (p : Lane → Bool) (l : Lane) : laneOn (maskOf p) l = p l := by
  unfold laneOn maskOf
  rw [BitVec.getLsbD_ofNat, maskFold_bits p allLanes (by unfold allLanes; exact List.pairwise_lt_finRange 32) 0 (by simp)]
  simp [allLanes, l.isLt]

theorem getLsbD_foldl_or (fl : Lane → Flags) (k : Nat) (ls : List Lane) (a : Flags) :
    (ls.foldl (fun b l => b ||| fl l) a).getLsbD k = (a.getLsbD k || ls.any fun l => (fl l).getLsbD k) := by
  induction ls generalizing a with
  | nil => simp
  | cons l ls ih => simp [ih, Bool.or_assoc]

theorem flagsOver_getLsbD (on : Mask) (fl : Lane → Flags) (k : Nat) :
    (flagsOver on fl).getLsbD k = (lanesOf on).any fun l => (fl l).getLsbD k := by
  simp [flagsOver, getLsbD_foldl_or]

theorem flag_raised (c : Ctx) (g : Group) (fl : Lane → Flags) (h : g.gsr = c.g.gsr) :
    FlagsRaised c (g.flag (flagsOver c.active fl)) fl := by
  intro k
  simp only [Group.flag, h, BitVec.getLsbD_or, BitVec.getLsbD_setWidth, flagsOver_getLsbD]
  by_cases hk : k < 32
  · simp [hk]
  · have : ∀ l, (fl l).getLsbD k = false := fun l => BitVec.getLsbD_of_ge _ _ (by omega)
    simp [hk, this]

/-! ### Register reads after writes -/

theorem getX_setX (g : Group) (d r : Reg) (on : Mask) (f : Lane → Word) (l : Lane) :
    (g.setX d on f).getX r l = if r = d ∧ d ≠ 0#6 ∧ laneOn on l = true then f l else g.getX r l := by
  unfold Group.setX Group.getX
  by_cases hd : d = 0#6
  · subst hd; simp
  · by_cases hr : r = d
    · subst hr; simp [hd]
    · have h2 : r.toFin ≠ d.toFin := fun e => hr (BitVec.eq_of_toFin_eq e)
      simp [hd, hr, Tab.get_set_ne _ _ h2]

theorem getV_setV (g : Group) (d r : Reg) (on : Mask) (f : Lane → DWord) (l : Lane) :
    (g.setV d on f).getV r l = if r = d ∧ laneOn on l = true then f l else g.getV r l := by
  unfold Group.setV Group.getV
  by_cases hr : r = d
  · subst hr; simp
  · have h2 : r.toFin ≠ d.toFin := fun e => hr (BitVec.eq_of_toFin_eq e)
    simp [hr, Tab.get_set_ne _ _ h2]

theorem qIx_inj {r d : Reg} (hr : r.toNat < 8) (hd : d.toNat < 8) : qIx r = qIx d ↔ r = d := by
  constructor
  · intro h
    have := congrArg Fin.val h
    simp [qIx, Fin.ofNat, Nat.mod_eq_of_lt hr, Nat.mod_eq_of_lt hd] at this
    exact BitVec.eq_of_toNat_eq this
  · rintro rfl; rfl

theorem hIx_inj {r d : Reg} (hr : r.toNat < 16) (hd : d.toNat < 16) : hIx r = hIx d ↔ r = d := by
  constructor
  · intro h
    have := congrArg Fin.val h
    simp [hIx, Fin.ofNat, Nat.mod_eq_of_lt hr, Nat.mod_eq_of_lt hd] at this
    exact BitVec.eq_of_toNat_eq this
  · rintro rfl; rfl

theorem getQ_setQ (g : Group) (d r : Reg) (hr : r.toNat < 8) (hd : d.toNat < 8) (on : Mask) (f : Lane → BitVec 2) (l : Lane) :
    (g.setQ d on f).getQ r l =
      if r = d ∧ laneOn on l = true then (if f l = 3#2 then 2#2 else f l) else g.getQ r l := by
  unfold Group.setQ Group.getQ
  by_cases h : r = d
  · subst h
    by_cases ho : laneOn on l = true <;> simp [ho]
  · have h2 : qIx r ≠ qIx d := fun e => h ((qIx_inj hr hd).1 e)
    simp [h, Tab.get_set_ne _ _ h2]

theorem getS_setS (g : Group) (d r : Reg) (w : Word) :
    (g.setS d w).getS r = if r = d ∧ d ≠ 0#6 then w else g.getS r := by
  unfold Group.setS Group.getS
  by_cases hd : d = 0#6
  · subst hd; simp
  · by_cases hr : r = d
    · subst hr; simp [hd]
    · have h2 : r.toFin ≠ d.toFin := fun e => hr (BitVec.eq_of_toFin_eq e)
      simp [hd, hr, Tab.get_set_ne _ _ h2]

theorem getM_setM (g : Group) (d r : Reg) (hr : r.toNat < 8) (hd : d.toNat < 8) (w : Mask) :
    (g.setM d w).getM r = if r = d ∧ d ≠ 0#6 then w else g.getM r := by
  have hz : qIx d = 0 ↔ d = 0#6 := qIx_inj (d := 0#6) hd (by decide)
  unfold Group.setM Group.getM
  by_cases hd0 : d = 0#6
  · subst hd0; simp [show qIx 0#6 = 0 from rfl]
  · have hd1 : qIx d ≠ 0 := fun e => hd0 (hz.1 e)
    by_cases h : r = d
    · subst h; simp [hd1, hd0]
    · have h2 : qIx r ≠ qIx d := fun e => h ((qIx_inj hr hd).1 e)
      simp [hd1, hd0, h, Tab.get_set_ne _ _ h2]

/-! ### Destinations -/

theorem writeX_lane (c : Ctx) (d : Reg) (val : Lane → Word × Flags) : LaneX c d val (c.writeX d val) := by
  refine ⟨?_, ?_, ?_⟩
  · unfold Ctx.writeX Group.flag Group.setX; split <;> rfl
  · exact flag_raised c _ _ (by simp)
  · intro r l
    have : (c.writeX d val).getX r l = ((c.g.setX d c.active fun l => (val l).1).setX d c.zeroed fun _ => 0#32).getX r l := rfl
    rw [this, getX_setX, getX_setX]

theorem writeV_lane (c : Ctx) (d : Reg) (val : Lane → DWord × Flags) : LaneV c d val (c.writeV d val) := by
  refine ⟨rfl, flag_raised c _ _ (by simp), ?_⟩
  intro r l
  have : (c.writeV d val).getV r l = ((c.g.setV d c.active fun l => (val l).1).setV d c.zeroed fun _ => 0#64).getV r l := rfl
  rw [this, getV_setV, getV_setV]

theorem writeQ_lane (c : Ctx) (d : Reg) (hd : d.toNat < 8) (val : Lane → BitVec 2 × Flags) :
    LaneQ c d val (c.writeQ d val) := by
  refine ⟨rfl, flag_raised c _ _ (by simp), ?_⟩
  intro r l hr
  have : (c.writeQ d val).getQ r l = ((c.g.setQ d c.active fun l => (val l).1).setQ d c.zeroed fun _ => 0#2).getQ r l := rfl
  rw [this, getQ_setQ _ _ _ hr hd, getQ_setQ _ _ _ hr hd]
  simp

theorem setS_uni (c : Ctx) (d : Reg) (w : Word) : UniS c d w (c.g.setS d w) := by
  refine ⟨?_, fun r => getS_setS c.g d r w⟩
  unfold Group.setS; split <;> rfl

theorem setM_uni (c : Ctx) (d : Reg) (hd : d.toNat < 8) (w : Mask) : UniM c d w (c.g.setM d w) := by
  refine ⟨?_, fun r hr => getM_setM c.g d r hr hd w⟩
  unfold Group.setM; split <;> rfl

/-! ### Completion -/

/-- The group in hand replaced by one with the path in hand changed, and nothing else. -/
theorem putPath_done {s s' : State} {c : Ctx} {g : Group} (h : s.ctx = some c) (hs : s'.groups = s.groups)
    (hi : g.gid = c.g.gid) (hp : g.paths = c.g.paths) (p : Path) (hpp : p.pid = c.cur.pid) :
    LeavesAs s' c g p (s'.putGroup (g.putPath p)) := by
  obtain ⟨-, hg, hpath, -⟩ := State.ctx_parts h
  have hid := State.ctx_gid h
  have hp1 : g.path p.pid = some c.p := by rw [← hpath, hpp]; simp only [Group.path, hp]
  have hgid : (g.putPath p).gid = c.g.gid := by simp [hi]
  refine ⟨?_, ?_, g.putPath p, ?_, rfl, ?_, ?_⟩
  · simp [State.putGroup]
  · intro n hn
    exact State.group_putGroup_ne _ _ _ (by rw [hgid]; exact hn)
  · rw [← hgid]
    have : s'.group (g.putPath p).gid = some c.g := by
      simp only [State.group, hs]; rw [hgid, hid]; exact hg
    exact State.group_putGroup this
  · rw [← hpp]; exact Group.path_putPath hp1
  · intro n hn
    rw [Group.path_putPath_ne _ _ _ (by rw [hpp]; exact hn)]
    simp only [Group.path, hp]

/-- The path goes to `pc`, and nothing but the group in hand changes. -/
theorem finishAt_done {s s' : State} {c : Ctx} {g : Group} (h : s.ctx = some c) (hs : s'.groups = s.groups)
    (hi : g.gid = c.g.gid) (hp : g.paths = c.g.paths) (pc : VAddr) : DoneAt s' c g pc (finishAt s' c g pc) := by
  obtain ⟨-, -, hpath, -⟩ := State.ctx_parts h
  have hp1 : g.path c.cur.pid = some c.p := by rw [← hpath]; simp only [Group.path, hp]
  have hat : c.pathAt g pc = g.putPath (c.p.past pc) := by simp [Ctx.pathAt, hp1]
  refine ⟨_, rfl, ?_⟩
  rw [hat]
  have hpid : c.p.pid = c.cur.pid := Group.path_pid hpath
  exact putPath_done h hs hi hp (c.p.past pc) hpid

/-- The word waits at its path. -/
theorem waitAt_waits {s s' : State} {c : Ctx} {g : Group} (h : s.ctx = some c) (hs : s'.groups = s.groups)
    (hi : g.gid = c.g.gid) (hp : g.paths = c.g.paths) (k : WaitKind) : Waits s' c g k (waitAt s' c g k) := by
  obtain ⟨-, -, hpath, -⟩ := State.ctx_parts h
  have hp1 : g.path c.cur.pid = some c.p := by rw [← hpath]; simp only [Group.path, hp]
  refine ⟨s'.putGroup (g.putPath (c.stand c.p k (waitStart s' c k))), by rw [waitAt, hp1]; rfl, ?_⟩
  have hpid : c.p.pid = c.cur.pid := Group.path_pid hpath
  exact putPath_done h hs hi hp (c.stand c.p k (waitStart s' c k)) hpid

theorem finish_done {s s' : State} {c : Ctx} {g : Group} (h : s.ctx = some c) (hs : s'.groups = s.groups)
    (hi : g.gid = c.g.gid) (hp : g.paths = c.g.paths) : Done s' c g (finish s' c g) :=
  finishAt_done h hs hi hp c.cur.next

/-! ### How a word starts -/

theorem startWord_starts {i : Instr} {s : State} {c : Ctx} (h : Starts i s c) {ill al : Ctx → Bool} (hi : ill c = false)
    (ha : al c = true) (k : Ctx → Out) : startWord i s ill al k = k c := by
  obtain ⟨hc, hw, hr⟩ := h
  simp [startWord, withCtx, hc, hw, hi, ha, regxOf, hr]

theorem word_starts {i : Instr} {s : State} {c : Ctx} (h : Starts i s c) (k : Ctx → Out) : word i s k = k c :=
  startWord_starts h rfl rfl k

theorem laneXF_done {i : Instr} {s : State} {c : Ctx} (h : Starts i s c) (d : Reg) (f : Ctx → Lane → Word × Flags) :
    ∃ g, Done s c g (laneXF i s d f) ∧ LaneX c d (f c) g :=
  ⟨c.writeX d (f c), by
    rw [laneXF, word_starts h]; exact finish_done h.1 rfl (by simp [Ctx.writeX]) (by simp [Ctx.writeX]), writeX_lane c d _⟩

theorem laneX_done {i : Instr} {s : State} {c : Ctx} (h : Starts i s c) (d : Reg) (f : Ctx → Lane → Word) :
    ∃ g, Done s c g (laneX i s d f) ∧ LaneX c d (fun l => (f c l, 0#6)) g :=
  laneXF_done h d fun c l => (f c l, 0#6)

theorem laneV_done {i : Instr} {s : State} {c : Ctx} (h : Starts i s c) (d : Reg) (f : Ctx → Lane → DWord × Flags) :
    ∃ g, Done s c g (laneV i s d f) ∧ LaneV c d (f c) g :=
  ⟨c.writeV d (f c), by
    rw [laneV, word_starts h]; exact finish_done h.1 rfl (by simp [Ctx.writeV]) (by simp [Ctx.writeV]), writeV_lane c d _⟩

theorem laneQ_done {i : Instr} {s : State} {c : Ctx} (h : Starts i s c) (d : Reg) (hd : d.toNat < 8)
    (f : Ctx → Lane → BitVec 2 × Flags) : ∃ g, Done s c g (laneQ i s d f) ∧ LaneQ c d (f c) g :=
  ⟨c.writeQ d (f c), by
    rw [laneQ, word_starts h]; exact finish_done h.1 rfl (by simp [Ctx.writeQ]) (by simp [Ctx.writeQ]), writeQ_lane c d hd _⟩

end Sys2Proof.Laws
end

