-- ==== Sys2Proof/Laws/Mem.lean ====
section
/-! SUPPORT. Memory: a read after a write, and the canonical form kept by every memory operation. -/

namespace Sys2Proof.Laws

open Sys2Proof.Machine

/-! ### Reads after writes -/

theorem memGet_append (m n : Memory) (x : Nat) (h : ∀ c ∈ m, c.1 ≠ x) : memGet (m ++ n) x = memGet n x := by
  have : (m.find? fun c => c.1 == x) = none := List.find?_eq_none.2 fun c hc => by simpa using h c hc
  simp [memGet, List.find?_append, this]

theorem memGet_filter (m : Memory) (x : Nat) (p : Nat × Byte → Bool) (h : ∀ c : Nat × Byte, c.1 = x → p c = true) :
    memGet (m.filter p) x = memGet m x := by
  have : (m.filter p).find? (fun c => c.1 == x) = m.find? fun c => c.1 == x := by
    rw [List.find?_filter]
    congr 1
    funext c
    by_cases hc : c.1 = x <;> simp [hc, h c]
  rw [memGet, memGet, this]

theorem memGet_none (m : Memory) (x : Nat) (h : ∀ c ∈ m, c.1 ≠ x) : memGet m x = emptyByte := by
  have h1 := memGet_append m [] x h
  rw [List.append_nil] at h1
  exact h1

/-- A read after a write of one byte, in any memory. -/
theorem memGet_set (m : Memory) (a x : Nat) (b : Byte) : memGet (memSet m a b) x = if x = a then b else memGet m x := by
  rw [memSet, List.append_assoc]
  have above (h : x ≤ a) : ∀ c ∈ m.filter fun c => decide (a < c.1), c.1 ≠ x := fun c hc => by
    have := (List.mem_filter.1 hc).2; simp at this; omega
  have below (h : a ≤ x) : ∀ c ∈ m.filter fun c => decide (c.1 < a), c.1 ≠ x := fun c hc => by
    have := (List.mem_filter.1 hc).2; simp at this; omega
  rcases Nat.lt_trichotomy x a with h | rfl | h
  · have none_there : memGet ((if b = emptyByte then [] else [(a, b)]) ++ m.filter fun c => decide (a < c.1)) x = emptyByte := by
      refine memGet_none _ _ fun c hc => ?_
      rcases List.mem_append.1 hc with hc | hc
      · split at hc
        · simp at hc
        · have : c = (a, b) := by simpa using hc
          rw [this]; exact Nat.ne_of_gt h
      · exact above h.le c hc
    rw [if_neg (Nat.ne_of_lt h), ← memGet_filter m x (fun c => decide (c.1 < a)) fun c hc => by simpa [hc] using h]
    generalize (m.filter fun c => decide (c.1 < a)) = low at *
    by_cases hl : (low.find? fun c => c.1 == x) = none
    · have : ∀ c ∈ low, c.1 ≠ x := fun c hc => by simpa using List.find?_eq_none.1 hl c hc
      rw [memGet_append _ _ _ this, none_there, memGet_none _ _ this]
    · obtain ⟨e, he⟩ := Option.ne_none_iff_exists'.1 hl
      simp [memGet, List.find?_append, he]
  · rw [if_pos rfl, memGet_append _ _ _ (below (Nat.le_refl x))]
    split
    · rename_i hb
      rw [List.nil_append, memGet_none _ _ (above (Nat.le_refl x)), hb]
    · simp [memGet]
  · rw [if_neg (Nat.ne_of_gt h), memGet_append _ _ _ (below h.le), memGet_append, memGet_filter]
    · intro c hc; simpa [hc] using h
    · intro c hc
      split at hc
      · simp at hc
      · have : c = (a, b) := by simpa using hc
        rw [this]; exact Nat.ne_of_lt h

/-- A read after a write of bytes. -/
theorem memGet_put (bs : List Byte) (m : Memory) (a x : Nat) :
    memGet (memPut m a bs) x = if a ≤ x ∧ x < a + bs.length then bs.getD (x - a) emptyByte else memGet m x := by
  induction bs generalizing m a with
  | nil => simp [memPut]
  | cons b bs ih =>
    rw [memPut, ih, memGet_set]
    by_cases h1 : x = a
    · subst h1
      simp
    · by_cases h2 : a ≤ x ∧ x < a + (b :: bs).length
      · have h3 : a + 1 ≤ x ∧ x < a + 1 + bs.length := by simp at h2; omega
        rw [if_pos h2, if_pos h3]
        have : x - a = (x - (a + 1)) + 1 := by omega
        rw [this, List.getD_cons_succ]
      · have h3 : ¬ (a + 1 ≤ x ∧ x < a + 1 + bs.length) := by simp at h2; omega
        rw [if_neg h2, if_neg h3, if_neg h1]

/-! ### The canonical form -/

/-- The form as one says it: the addresses rise, and no byte is that of an unlisted address. -/
theorem memWf_iff (m : Memory) : memWf m = true ↔ m.Pairwise (fun x y => x.1 < y.1) ∧ ∀ e ∈ m, e.2 ≠ emptyByte := by
  simp [memWf]

/-- A byte written keeps the form. -/
theorem memWf_set {m : Memory} (h : memWf m = true) (a : Nat) (b : Byte) : memWf (memSet m a b) = true := by
  rw [memWf_iff] at h ⊢
  have kept (p : Nat × Byte → Bool) : (m.filter p).Pairwise fun x y => x.1 < y.1 := h.1.sublist List.filter_sublist
  have full (p : Nat × Byte → Bool) (c : Nat × Byte) (hc : c ∈ m.filter p) : c.2 ≠ emptyByte := h.2 c (List.mem_filter.1 hc).1
  by_cases hb : b = emptyByte
  · simp only [memSet, if_pos hb, List.append_nil]
    refine ⟨List.pairwise_append.2 ⟨kept _, kept _, fun x hx y hy => ?_⟩, fun c hc => ?_⟩
    · have h1 := (List.mem_filter.1 hx).2
      have h2 := (List.mem_filter.1 hy).2
      simp at h1 h2; omega
    · exact (List.mem_append.1 hc).elim (full _ c) (full _ c)
  · simp only [memSet, if_neg hb, List.append_assoc, List.singleton_append]
    refine ⟨List.pairwise_append.2 ⟨kept _, List.pairwise_cons.2 ⟨fun y hy => ?_, kept _⟩, fun x hx y hy => ?_⟩, fun c hc => ?_⟩
    · simpa using (List.mem_filter.1 hy).2
    · have h1 := (List.mem_filter.1 hx).2
      rcases List.mem_cons.1 hy with e | hy
      · rw [e]; simpa using h1
      · have h2 := (List.mem_filter.1 hy).2
        simp at h1 h2; omega
    · rcases List.mem_append.1 hc with hc | hc
      · exact full _ c hc
      · exact (List.mem_cons.1 hc).elim (fun e => e ▸ hb) (full _ c)

/-- Bytes written keep the form. -/
theorem memWf_put (bs : List Byte) {m : Memory} (h : memWf m = true) (a : Nat) : memWf (memPut m a bs) = true := by
  induction bs generalizing m a with
  | nil => exact h
  | cons b bs ih => exact ih (memWf_set h a b) (a + 1)

/-- A part of the entries keeps the form. -/
theorem memWf_filter {m : Memory} (h : memWf m = true) (p : Nat × Byte → Bool) : memWf (m.filter p) = true := by
  rw [memWf_iff] at h ⊢
  exact ⟨h.1.sublist List.filter_sublist, fun e he => h.2 e (List.mem_filter.1 he).1⟩

theorem memWf_drop {m : Memory} (h : memWf m = true) (lo hi : Nat) : memWf (memDrop m lo hi) = true := memWf_filter h _

end Sys2Proof.Laws
end

