-- ==== Sys2Proof/Laws/Trap.lean ====
section
/-! SUPPORT. What taking a trap can do, said once (R380, R381), and how a word that can not start ends (R103). -/

namespace Sys2Proof.Laws

open Sys2Proof.Machine Sys2Proof.Safety

/-- Entering level 1 or 2 from a context. -/
theorem enterAt_entered {s : State} {c : Ctx} (h : s.ctx = some c) (r : TrapRec) (ret vec : VAddr) :
    EnteredAt s c r (if c.g.tl = 0 then 1 else 2) ret vec (.next (enterAt s c.g c.cur.pid r ret vec)) := by
  obtain ⟨-, hg, hpath, -⟩ := State.ctx_parts h
  have hid := State.ctx_gid h
  have hpid : c.p.pid = c.cur.pid := Group.path_pid hpath
  have hp1 : (c.g.enterTrap r ret).path c.cur.pid = some c.p := by
    rw [← hpath]; unfold Group.enterTrap Group.path; split <;> rfl
  have hgid : (c.g.enterTrap r ret).gid = c.g.gid := by unfold Group.enterTrap; split <;> rfl
  let lvl : Fin 3 := (c.g.enterTrap r ret).tl
  have he : enterAt s c.g c.cur.pid r ret vec =
      s.putGroup ((c.g.enterTrap r ret).putPath (c.p.toVector vec lvl)) := by
    simp [enterAt, hp1, lvl]
  have hl : lvl = if c.g.tl = 0 then 1 else 2 := by
    simp only [lvl, Group.enterTrap]; split <;> rfl
  rw [he]
  refine ⟨_, (c.g.enterTrap r ret).putPath (c.p.toVector vec lvl), rfl, rfl, ?_, ?_, ?_, ?_, ?_⟩
  · intro n hn
    exact State.group_putGroup_ne _ _ _ (by simpa [hgid] using hn)
  · have : s.group ((c.g.enterTrap r ret).putPath (c.p.toVector vec lvl)).gid = some c.g := by
      simp [hgid, hid, hg]
    have h2 := State.group_putGroup this
    simpa [hgid] using h2
  · by_cases h0 : c.g.tl = 0
    · simp [h0, Group.enterTrap, Group.putPath]
    · simp [h0, Group.enterTrap, Group.putPath]
  · have h1 : (c.g.enterTrap r ret).path (c.p.toVector vec lvl).pid = some c.p := by
      simpa [Path.toVector, hpid] using hp1
    have := Group.path_putPath h1
    rw [← hl]
    simpa [Path.toVector, hpid] using this
  · intro n hn
    have h1 : n ≠ (c.p.toVector vec lvl).pid := by simpa [Path.toVector, hpid] using hn
    rw [Group.path_putPath_ne _ _ _ h1]
    unfold Group.enterTrap Group.path; split <;> rfl

/-- Everything that taking a trap can do. -/
theorem takeTrap_trapped {s : State} {c : Ctx} (h : s.ctx = some c) (r : TrapRec) : Trapped s c r (takeTrap s c r) := by
  refine ⟨?_, ?_, ?_, ?_⟩
  · intro h0 hv
    have := enterAt_entered h r c.cur.ret (kernelVector c.t)
    simpa [takeTrap, trapTo, h0, hv] using this
  · intro h1
    have := enterAt_entered h r c.cur.ret (stubVector c.t)
    simpa [takeTrap, trapTo, h1] using this
  · intro h2
    simp [takeTrap, trapTo, h2]
  · intro h0 hv
    simp [takeTrap, trapTo, h0, hv]

/-- An illegal word traps with ILLOP (R96 to R98). -/
theorem startWord_illegal {i : Instr} {s : State} {c : Ctx} (hc : s.ctx = some c) {ill : Ctx → Bool}
    (hi : wordLegal i c = false ∨ ill c = true) (al : Ctx → Bool) (k : Ctx → Out) :
    Trapped s c (groupTrap causeIllop 0) (startWord i s ill al k) := by
  have : startWord i s ill al k = takeTrap s c (groupTrap causeIllop 0) := by
    rcases hi with hi | hi <;> simp [startWord, withCtx, hc, hi]
  rw [this]; exact takeTrap_trapped hc _

/-- A legal word without the privilege traps with PRIV (R52). -/
theorem startWord_priv {i : Instr} {s : State} {c : Ctx} (hc : s.ctx = some c) (hw : wordLegal i c = true)
    {ill al : Ctx → Bool} (hi : ill c = false) (ha : al c = false) (k : Ctx → Out) :
    Trapped s c (groupTrap causePriv 0) (startWord i s ill al k) := by
  have : startWord i s ill al k = takeTrap s c (groupTrap causePriv 0) := by simp [startWord, withCtx, hc, hw, hi, ha]
  rw [this]; exact takeTrap_trapped hc _

/-- A legal word that names a register outside the window traps with REGX (R49). -/
theorem startWord_regx {i : Instr} {s : State} {c : Ctx} (hc : s.ctx = some c) (hw : wordLegal i c = true)
    {ill al : Ctx → Bool} (hi : ill c = false) (ha : al c = true) {isV : Bool} {r : Nat}
    (hr : regxOf i c = some (isV, r)) (k : Ctx → Out) :
    Trapped s c (groupTrap causeRegx (regxInfo isV r)) (startWord i s ill al k) := by
  have : startWord i s ill al k = takeTrap s c (groupTrap causeRegx (regxInfo isV r)) := by
    simp [startWord, withCtx, hc, hw, hi, ha, hr]
  rw [this]; exact takeTrap_trapped hc _

end Sys2Proof.Laws
end

