-- ==== Sys2Proof/Laws/Paths.lean ====
section
/-! SUPPORT. What a diverging word can do, said once (R164). -/

namespace Sys2Proof.Laws

open Sys2Proof.Machine Sys2Proof.Safety

theorem addPaths_spec (e : Nat) (lvl : Fin 3) (l : List (VAddr × Mask)) (g : Group) :
    ∃ added, Group.addPaths g e lvl l = { g with paths := g.paths ++ added, nextPid := g.nextPid + l.length } ∧
      added.map (fun q => (q.pc, q.members)) = l ∧
      ∀ q ∈ added, q.em = q.members ∧ q.departing = 0#32 ∧ q.entry = some e ∧ q.level = lvl ∧ q.wait = none ∧
        q.pfx = none ∧ q.join = none := by
  induction l generalizing g with
  | nil => exact ⟨[], by simp [Group.addPaths]⟩
  | cons x l ih =>
    obtain ⟨pc, lanes⟩ := x
    rw [Group.addPaths]
    obtain ⟨added, h1, h2, h3⟩ := ih { g with
      paths := g.paths ++ [(⟨g.nextPid, g.freeSplit, pc, lanes, lanes, 0#32, none, some e, lvl, none, none, none, none⟩ : Path)]
      nextPid := g.nextPid + 1 }
    refine ⟨(⟨g.nextPid, g.freeSplit, pc, lanes, lanes, 0#32, none, some e, lvl, none, none, none, none⟩ : Path) :: added, ?_, ?_, ?_⟩
    · rw [h1]; simp [Nat.add_assoc, Nat.add_comm 1]
    · simp [h2]
    · simp only [List.mem_cons, forall_eq_or_imp]
      exact ⟨by simp, h3⟩

theorem divergeTo_divides {s : State} {c : Ctx} {g : Group} (h : s.ctx = some c)
    (hi : g.gid = c.g.gid) (hp : g.paths = c.g.paths) (he : g.entries = c.g.entries) (hn : g.nextEid = c.g.nextEid)
    (transfer : Bool) (places : List (VAddr × Mask)) (dflt : VAddr) :
    Divides s c g transfer places dflt (divergeTo s c g transfer places dflt) := by
  obtain ⟨-, hg, hpath, -⟩ := State.ctx_parts h
  have hid := State.ctx_gid h
  have hpid : c.p.pid = c.cur.pid := Group.path_pid hpath
  have hp1 : g.path c.cur.pid = some c.p := by rw [← hpath]; simp only [Group.path, hp]
  unfold Divides divergeTo
  rw [hp1]
  simp only [Group.diverge]
  generalize places.filter (fun x => x.2 != 0#32) = live
  rcases live with _ | ⟨x, _ | ⟨y, rest⟩⟩
  · exact ⟨_, rfl, putPath_done h rfl hi hp (c.p.past dflt) hpid⟩
  · exact ⟨_, rfl, putPath_done h rfl hi hp (c.p.past x.1) hpid⟩
  · obtain ⟨pc, lanes⟩ := x
    simp only [he, hn]
    constructor
    · intro h16
      rw [if_pos h16]
      exact takeTrap_trapped h _
    · intro h16
      rw [if_neg (by omega)]
      generalize hX : ({ g.putPath { c.p.past pc with
          members := c.p.members &&& ~~~((y :: rest).foldl (fun m q => m ||| q.2) 0#32), em := lanes,
          entry := some c.g.nextEid, join := if transfer = true then c.p.join else none } with
        entries := c.g.entries ++ [⟨c.g.nextEid, if transfer = true then none else c.p.join, c.p.entry, c.p.level⟩],
        nextEid := c.g.nextEid + 1 } : Group) = X
      obtain ⟨added, h1, h2, h3⟩ := addPaths_spec c.g.nextEid c.p.level (y :: rest) X
      have hgid : (Group.addPaths X c.g.nextEid c.p.level (y :: rest)).gid = c.g.gid := by rw [h1, ← hX]; simp [hi]
      refine ⟨_, Group.addPaths X c.g.nextEid c.p.level (y :: rest), rfl, by simp [State.putGroup], ?_, ?_, added, ?_, ?_, h2, h3⟩
      · intro n hne
        exact State.group_putGroup_ne _ _ _ (by rw [hgid]; exact hne)
      · have h4 : s.group (Group.addPaths X c.g.nextEid c.p.level (y :: rest)).gid = some c.g := by rw [hgid, hid]; exact hg
        have h5 := State.group_putGroup h4
        rwa [hgid] at h5
      · rw [h1, ← hX]; simp [he, hn, Group.putPath]
      · rw [h1, ← hX]; simp [Group.putPath, Path.past, hpid]

/-- Noting a loop body changes nothing but the loop buffers of the core. -/
theorem noteBody_ctx (s : State) (c : Ctx) (off : BitVec 19) (target : VAddr) :
    (s.noteBody c off target).ctx = s.ctx := by
  unfold State.noteBody; split
  · simp [State.ctx]
  · rfl

end Sys2Proof.Laws
end

