-- ==== Sys2Proof/Laws/PerInstr.lean ====
section
/-! SUPPORT. What decoding makes of an encoded instruction, one lemma per constructor: the reading of every field of every
form gives back what was laid out, and every word's major and member select its own constructor (R93, R94, R102). -/

namespace Sys2Proof
set_option linter.unusedTactic false
set_option linter.unreachableTactic false
set_option Elab.async false

theorem cut_above {n m : Nat} (lo k : Nat) (x : BitVec n) (y : BitVec m) (h : m ≤ lo) :
    (x ++ y).extractLsb' lo k = x.extractLsb' (lo - m) k := by
  ext i hi
  simp [BitVec.getLsbD_append]
  have : ¬ (lo + i < m) := by omega
  simp [this]; congr 1; omega

theorem cut_below {n m : Nat} (lo k : Nat) (x : BitVec n) (y : BitVec m) (h : lo + k ≤ m) :
    (x ++ y).extractLsb' lo k = y.extractLsb' lo k := by
  ext i hi
  simp [BitVec.getLsbD_append]
  omega

theorem bit_above {n m : Nat} (i : Nat) (x : BitVec n) (y : BitVec m) (h : m ≤ i) :
    (x ++ y).getLsbD i = x.getLsbD (i - m) := by
  simp [BitVec.getLsbD_append, Nat.not_lt.mpr h]

theorem bit_below {n m : Nat} (i : Nat) (x : BitVec n) (y : BitVec m) (h : i < m) :
    (x ++ y).getLsbD i = y.getLsbD i := by
  simp [BitVec.getLsbD_append, h]

/-! ### What each form's reading makes of its layout -/

theorem FormC.dec_enc (maj : BitVec 5) (fn : BitVec 6) (f : FormC) : FormC.dec (f.enc maj fn) = some f := by
  unfold FormC.dec FormC.enc
  unfold zeroAt
  repeat (first
    | rw [cut_above _ _ _ _ (by decide)] | rw [cut_below _ _ _ _ (by decide)]
    | rw [bit_above _ _ _ (by decide)] | rw [bit_below _ _ _ (by decide)])
  simp

theorem FormC.major_enc (maj : BitVec 5) (fn : BitVec 6) (f : FormC) : (f.enc maj fn).extractLsb' 26 5 = maj := by
  unfold FormC.enc
  repeat (first
    | rw [cut_above _ _ _ _ (by decide)] | rw [cut_below _ _ _ _ (by decide)]
    | rw [bit_above _ _ _ (by decide)] | rw [bit_below _ _ _ (by decide)])
  simp

theorem FormC.member_enc (maj : BitVec 5) (fn : BitVec 6) (f : FormC) : (f.enc maj fn).extractLsb' 20 6 = fn := by
  unfold FormC.enc
  repeat (first
    | rw [cut_above _ _ _ _ (by decide)] | rw [cut_below _ _ _ _ (by decide)]
    | rw [bit_above _ _ _ (by decide)] | rw [bit_below _ _ _ (by decide)])
  simp

theorem FormN14.dec_enc (maj : BitVec 5) (fn : BitVec 6) (f : FormN14) : FormN14.dec (f.enc maj fn) = some f := by
  unfold FormN14.dec FormN14.enc
  unfold zeroAt
  repeat (first
    | rw [cut_above _ _ _ _ (by decide)] | rw [cut_below _ _ _ _ (by decide)]
    | rw [bit_above _ _ _ (by decide)] | rw [bit_below _ _ _ (by decide)])
  simp

theorem FormN14.major_enc (maj : BitVec 5) (fn : BitVec 6) (f : FormN14) : (f.enc maj fn).extractLsb' 26 5 = maj := by
  unfold FormN14.enc
  repeat (first
    | rw [cut_above _ _ _ _ (by decide)] | rw [cut_below _ _ _ _ (by decide)]
    | rw [bit_above _ _ _ (by decide)] | rw [bit_below _ _ _ (by decide)])
  simp

theorem FormN14.member_enc (maj : BitVec 5) (fn : BitVec 6) (f : FormN14) : (f.enc maj fn).extractLsb' 20 6 = fn := by
  unfold FormN14.enc
  repeat (first
    | rw [cut_above _ _ _ _ (by decide)] | rw [cut_below _ _ _ _ (by decide)]
    | rw [bit_above _ _ _ (by decide)] | rw [bit_below _ _ _ (by decide)])
  simp

theorem FormDR.dec_enc (maj : BitVec 5) (fn : BitVec 6) (f : FormDR) : FormDR.dec (f.enc maj fn) = some f := by
  unfold FormDR.dec FormDR.enc
  repeat (first
    | rw [cut_above _ _ _ _ (by decide)] | rw [cut_below _ _ _ _ (by decide)]
    | rw [bit_above _ _ _ (by decide)] | rw [bit_below _ _ _ (by decide)])
  simp

theorem FormDR.major_enc (maj : BitVec 5) (fn : BitVec 6) (f : FormDR) : (f.enc maj fn).extractLsb' 26 5 = maj := by
  unfold FormDR.enc
  repeat (first
    | rw [cut_above _ _ _ _ (by decide)] | rw [cut_below _ _ _ _ (by decide)]
    | rw [bit_above _ _ _ (by decide)] | rw [bit_below _ _ _ (by decide)])
  simp

theorem FormDR.member_enc (maj : BitVec 5) (fn : BitVec 6) (f : FormDR) : (f.enc maj fn).extractLsb' 20 6 = fn := by
  unfold FormDR.enc
  repeat (first
    | rw [cut_above _ _ _ _ (by decide)] | rw [cut_below _ _ _ _ (by decide)]
    | rw [bit_above _ _ _ (by decide)] | rw [bit_below _ _ _ (by decide)])
  simp

theorem FormD.dec_enc (maj : BitVec 5) (fn : BitVec 6) (f : FormD) : FormD.dec (f.enc maj fn) = some f := by
  unfold FormD.dec FormD.enc
  unfold zeroAt
  repeat (first
    | rw [cut_above _ _ _ _ (by decide)] | rw [cut_below _ _ _ _ (by decide)]
    | rw [bit_above _ _ _ (by decide)] | rw [bit_below _ _ _ (by decide)])
  simp

theorem FormD.major_enc (maj : BitVec 5) (fn : BitVec 6) (f : FormD) : (f.enc maj fn).extractLsb' 26 5 = maj := by
  unfold FormD.enc
  repeat (first
    | rw [cut_above _ _ _ _ (by decide)] | rw [cut_below _ _ _ _ (by decide)]
    | rw [bit_above _ _ _ (by decide)] | rw [bit_below _ _ _ (by decide)])
  simp

theorem FormD.member_enc (maj : BitVec 5) (fn : BitVec 6) (f : FormD) : (f.enc maj fn).extractLsb' 20 6 = fn := by
  unfold FormD.enc
  repeat (first
    | rw [cut_above _ _ _ _ (by decide)] | rw [cut_below _ _ _ _ (by decide)]
    | rw [bit_above _ _ _ (by decide)] | rw [bit_below _ _ _ (by decide)])
  simp

theorem FormDict.dec_enc (maj : BitVec 5) (fn : BitVec 6) (f : FormDict) : FormDict.dec (f.enc maj fn) = some f := by
  unfold FormDict.dec FormDict.enc
  unfold zeroAt
  repeat (first
    | rw [cut_above _ _ _ _ (by decide)] | rw [cut_below _ _ _ _ (by decide)]
    | rw [bit_above _ _ _ (by decide)] | rw [bit_below _ _ _ (by decide)])
  simp

theorem FormDict.major_enc (maj : BitVec 5) (fn : BitVec 6) (f : FormDict) : (f.enc maj fn).extractLsb' 26 5 = maj := by
  unfold FormDict.enc
  repeat (first
    | rw [cut_above _ _ _ _ (by decide)] | rw [cut_below _ _ _ _ (by decide)]
    | rw [bit_above _ _ _ (by decide)] | rw [bit_below _ _ _ (by decide)])
  simp

theorem FormDict.member_enc (maj : BitVec 5) (fn : BitVec 6) (f : FormDict) : (f.enc maj fn).extractLsb' 20 6 = fn := by
  unfold FormDict.enc
  repeat (first
    | rw [cut_above _ _ _ _ (by decide)] | rw [cut_below _ _ _ _ (by decide)]
    | rw [bit_above _ _ _ (by decide)] | rw [bit_below _ _ _ (by decide)])
  simp

theorem FormO.dec_enc (maj : BitVec 5) (fn : BitVec 4) (f : FormO) : FormO.dec (f.enc maj fn) = some f := by
  unfold FormO.dec FormO.enc
  unfold zeroAt
  repeat (first
    | rw [cut_above _ _ _ _ (by decide)] | rw [cut_below _ _ _ _ (by decide)]
    | rw [bit_above _ _ _ (by decide)] | rw [bit_below _ _ _ (by decide)])
  simp

theorem FormO.major_enc (maj : BitVec 5) (fn : BitVec 4) (f : FormO) : (f.enc maj fn).extractLsb' 26 5 = maj := by
  unfold FormO.enc
  repeat (first
    | rw [cut_above _ _ _ _ (by decide)] | rw [cut_below _ _ _ _ (by decide)]
    | rw [bit_above _ _ _ (by decide)] | rw [bit_below _ _ _ (by decide)])
  simp

theorem FormO.member_enc (maj : BitVec 5) (fn : BitVec 4) (f : FormO) : (f.enc maj fn).extractLsb' 22 4 = fn := by
  unfold FormO.enc
  repeat (first
    | rw [cut_above _ _ _ _ (by decide)] | rw [cut_below _ _ _ _ (by decide)]
    | rw [bit_above _ _ _ (by decide)] | rw [bit_below _ _ _ (by decide)])
  simp

theorem FormSO.dec_enc (maj : BitVec 5) (fn : BitVec 4) (f : FormSO) : FormSO.dec (f.enc maj fn) = some f := by
  unfold FormSO.dec FormSO.enc
  repeat (first
    | rw [cut_above _ _ _ _ (by decide)] | rw [cut_below _ _ _ _ (by decide)]
    | rw [bit_above _ _ _ (by decide)] | rw [bit_below _ _ _ (by decide)])
  simp

theorem FormSO.major_enc (maj : BitVec 5) (fn : BitVec 4) (f : FormSO) : (f.enc maj fn).extractLsb' 26 5 = maj := by
  unfold FormSO.enc
  repeat (first
    | rw [cut_above _ _ _ _ (by decide)] | rw [cut_below _ _ _ _ (by decide)]
    | rw [bit_above _ _ _ (by decide)] | rw [bit_below _ _ _ (by decide)])
  simp

theorem FormSO.member_enc (maj : BitVec 5) (fn : BitVec 4) (f : FormSO) : (f.enc maj fn).extractLsb' 22 4 = fn := by
  unfold FormSO.enc
  repeat (first
    | rw [cut_above _ _ _ _ (by decide)] | rw [cut_below _ _ _ _ (by decide)]
    | rw [bit_above _ _ _ (by decide)] | rw [bit_below _ _ _ (by decide)])
  simp

theorem FormQ3.dec_enc (maj : BitVec 5) (fn : BitVec 4) (f : FormQ3) : FormQ3.dec (f.enc maj fn) = some f := by
  unfold FormQ3.dec FormQ3.enc
  unfold zeroAt
  repeat (first
    | rw [cut_above _ _ _ _ (by decide)] | rw [cut_below _ _ _ _ (by decide)]
    | rw [bit_above _ _ _ (by decide)] | rw [bit_below _ _ _ (by decide)])
  simp

theorem FormQ3.major_enc (maj : BitVec 5) (fn : BitVec 4) (f : FormQ3) : (f.enc maj fn).extractLsb' 26 5 = maj := by
  unfold FormQ3.enc
  repeat (first
    | rw [cut_above _ _ _ _ (by decide)] | rw [cut_below _ _ _ _ (by decide)]
    | rw [bit_above _ _ _ (by decide)] | rw [bit_below _ _ _ (by decide)])
  simp

theorem FormQ3.member_enc (maj : BitVec 5) (fn : BitVec 4) (f : FormQ3) : (f.enc maj fn).extractLsb' 22 4 = fn := by
  unfold FormQ3.enc
  repeat (first
    | rw [cut_above _ _ _ _ (by decide)] | rw [cut_below _ _ _ _ (by decide)]
    | rw [bit_above _ _ _ (by decide)] | rw [bit_below _ _ _ (by decide)])
  simp

theorem FormDI.dec_enc (maj : BitVec 5) (fn : BitVec 6) (f : FormDI) : FormDI.dec (f.enc maj fn) = some f := by
  unfold FormDI.dec FormDI.enc
  repeat (first
    | rw [cut_above _ _ _ _ (by decide)] | rw [cut_below _ _ _ _ (by decide)]
    | rw [bit_above _ _ _ (by decide)] | rw [bit_below _ _ _ (by decide)])
  simp

theorem FormDI.major_enc (maj : BitVec 5) (fn : BitVec 6) (f : FormDI) : (f.enc maj fn).extractLsb' 26 5 = maj := by
  unfold FormDI.enc
  repeat (first
    | rw [cut_above _ _ _ _ (by decide)] | rw [cut_below _ _ _ _ (by decide)]
    | rw [bit_above _ _ _ (by decide)] | rw [bit_below _ _ _ (by decide)])
  simp

theorem FormDI.member_enc (maj : BitVec 5) (fn : BitVec 6) (f : FormDI) : (f.enc maj fn).extractLsb' 20 6 = fn := by
  unfold FormDI.enc
  repeat (first
    | rw [cut_above _ _ _ _ (by decide)] | rw [cut_below _ _ _ _ (by decide)]
    | rw [bit_above _ _ _ (by decide)] | rw [bit_below _ _ _ (by decide)])
  simp

theorem FormDAK.dec_enc (maj : BitVec 5) (fn : BitVec 6) (f : FormDAK) : FormDAK.dec (f.enc maj fn) = some f := by
  unfold FormDAK.dec FormDAK.enc
  unfold zeroAt
  repeat (first
    | rw [cut_above _ _ _ _ (by decide)] | rw [cut_below _ _ _ _ (by decide)]
    | rw [bit_above _ _ _ (by decide)] | rw [bit_below _ _ _ (by decide)])
  simp

theorem FormDAK.major_enc (maj : BitVec 5) (fn : BitVec 6) (f : FormDAK) : (f.enc maj fn).extractLsb' 26 5 = maj := by
  unfold FormDAK.enc
  repeat (first
    | rw [cut_above _ _ _ _ (by decide)] | rw [cut_below _ _ _ _ (by decide)]
    | rw [bit_above _ _ _ (by decide)] | rw [bit_below _ _ _ (by decide)])
  simp

theorem FormDAK.member_enc (maj : BitVec 5) (fn : BitVec 6) (f : FormDAK) : (f.enc maj fn).extractLsb' 20 6 = fn := by
  unfold FormDAK.enc
  repeat (first
    | rw [cut_above _ _ _ _ (by decide)] | rw [cut_below _ _ _ _ (by decide)]
    | rw [bit_above _ _ _ (by decide)] | rw [bit_below _ _ _ (by decide)])
  simp

theorem FormAK.dec_enc (maj : BitVec 5) (fn : BitVec 6) (f : FormAK) : FormAK.dec (f.enc maj fn) = some f := by
  unfold FormAK.dec FormAK.enc
  unfold zeroAt
  repeat (first
    | rw [cut_above _ _ _ _ (by decide)] | rw [cut_below _ _ _ _ (by decide)]
    | rw [bit_above _ _ _ (by decide)] | rw [bit_below _ _ _ (by decide)])
  simp

theorem FormAK.major_enc (maj : BitVec 5) (fn : BitVec 6) (f : FormAK) : (f.enc maj fn).extractLsb' 26 5 = maj := by
  unfold FormAK.enc
  repeat (first
    | rw [cut_above _ _ _ _ (by decide)] | rw [cut_below _ _ _ _ (by decide)]
    | rw [bit_above _ _ _ (by decide)] | rw [bit_below _ _ _ (by decide)])
  simp

theorem FormAK.member_enc (maj : BitVec 5) (fn : BitVec 6) (f : FormAK) : (f.enc maj fn).extractLsb' 20 6 = fn := by
  unfold FormAK.enc
  repeat (first
    | rw [cut_above _ _ _ _ (by decide)] | rw [cut_below _ _ _ _ (by decide)]
    | rw [bit_above _ _ _ (by decide)] | rw [bit_below _ _ _ (by decide)])
  simp

theorem FormDK.dec_enc (maj : BitVec 5) (fn : BitVec 6) (f : FormDK) : FormDK.dec (f.enc maj fn) = some f := by
  unfold FormDK.dec FormDK.enc
  unfold zeroAt
  repeat (first
    | rw [cut_above _ _ _ _ (by decide)] | rw [cut_below _ _ _ _ (by decide)]
    | rw [bit_above _ _ _ (by decide)] | rw [bit_below _ _ _ (by decide)])
  simp

theorem FormDK.major_enc (maj : BitVec 5) (fn : BitVec 6) (f : FormDK) : (f.enc maj fn).extractLsb' 26 5 = maj := by
  unfold FormDK.enc
  repeat (first
    | rw [cut_above _ _ _ _ (by decide)] | rw [cut_below _ _ _ _ (by decide)]
    | rw [bit_above _ _ _ (by decide)] | rw [bit_below _ _ _ (by decide)])
  simp

theorem FormDK.member_enc (maj : BitVec 5) (fn : BitVec 6) (f : FormDK) : (f.enc maj fn).extractLsb' 20 6 = fn := by
  unfold FormDK.enc
  repeat (first
    | rw [cut_above _ _ _ _ (by decide)] | rw [cut_below _ _ _ _ (by decide)]
    | rw [bit_above _ _ _ (by decide)] | rw [bit_below _ _ _ (by decide)])
  simp

theorem FormI.dec_enc (maj : BitVec 5) (fn : BitVec 6) (f : FormI) : FormI.dec (f.enc maj fn) = some f := by
  unfold FormI.dec FormI.enc
  unfold zeroAt
  repeat (first
    | rw [cut_above _ _ _ _ (by decide)] | rw [cut_below _ _ _ _ (by decide)]
    | rw [bit_above _ _ _ (by decide)] | rw [bit_below _ _ _ (by decide)])
  simp

theorem FormI.major_enc (maj : BitVec 5) (fn : BitVec 6) (f : FormI) : (f.enc maj fn).extractLsb' 26 5 = maj := by
  unfold FormI.enc
  repeat (first
    | rw [cut_above _ _ _ _ (by decide)] | rw [cut_below _ _ _ _ (by decide)]
    | rw [bit_above _ _ _ (by decide)] | rw [bit_below _ _ _ (by decide)])
  simp

theorem FormI.member_enc (maj : BitVec 5) (fn : BitVec 6) (f : FormI) : (f.enc maj fn).extractLsb' 20 6 = fn := by
  unfold FormI.enc
  repeat (first
    | rw [cut_above _ _ _ _ (by decide)] | rw [cut_below _ _ _ _ (by decide)]
    | rw [bit_above _ _ _ (by decide)] | rw [bit_below _ _ _ (by decide)])
  simp

theorem FormA.dec_enc (maj : BitVec 5) (fn : BitVec 6) (f : FormA) : FormA.dec (f.enc maj fn) = some f := by
  unfold FormA.dec FormA.enc
  unfold zeroAt
  repeat (first
    | rw [cut_above _ _ _ _ (by decide)] | rw [cut_below _ _ _ _ (by decide)]
    | rw [bit_above _ _ _ (by decide)] | rw [bit_below _ _ _ (by decide)])
  simp

theorem FormA.major_enc (maj : BitVec 5) (fn : BitVec 6) (f : FormA) : (f.enc maj fn).extractLsb' 26 5 = maj := by
  unfold FormA.enc
  repeat (first
    | rw [cut_above _ _ _ _ (by decide)] | rw [cut_below _ _ _ _ (by decide)]
    | rw [bit_above _ _ _ (by decide)] | rw [bit_below _ _ _ (by decide)])
  simp

theorem FormA.member_enc (maj : BitVec 5) (fn : BitVec 6) (f : FormA) : (f.enc maj fn).extractLsb' 20 6 = fn := by
  unfold FormA.enc
  repeat (first
    | rw [cut_above _ _ _ _ (by decide)] | rw [cut_below _ _ _ _ (by decide)]
    | rw [bit_above _ _ _ (by decide)] | rw [bit_below _ _ _ (by decide)])
  simp

theorem FormDAB.dec_enc (maj : BitVec 5) (fn : BitVec 6) (f : FormDAB) : FormDAB.dec (f.enc maj fn) = some f := by
  unfold FormDAB.dec FormDAB.enc
  unfold zeroAt
  repeat (first
    | rw [cut_above _ _ _ _ (by decide)] | rw [cut_below _ _ _ _ (by decide)]
    | rw [bit_above _ _ _ (by decide)] | rw [bit_below _ _ _ (by decide)])
  simp

theorem FormDAB.major_enc (maj : BitVec 5) (fn : BitVec 6) (f : FormDAB) : (f.enc maj fn).extractLsb' 26 5 = maj := by
  unfold FormDAB.enc
  repeat (first
    | rw [cut_above _ _ _ _ (by decide)] | rw [cut_below _ _ _ _ (by decide)]
    | rw [bit_above _ _ _ (by decide)] | rw [bit_below _ _ _ (by decide)])
  simp

theorem FormDAB.member_enc (maj : BitVec 5) (fn : BitVec 6) (f : FormDAB) : (f.enc maj fn).extractLsb' 20 6 = fn := by
  unfold FormDAB.enc
  repeat (first
    | rw [cut_above _ _ _ _ (by decide)] | rw [cut_below _ _ _ _ (by decide)]
    | rw [bit_above _ _ _ (by decide)] | rw [bit_below _ _ _ (by decide)])
  simp

theorem FormDA.dec_enc (maj : BitVec 5) (fn : BitVec 6) (f : FormDA) : FormDA.dec (f.enc maj fn) = some f := by
  unfold FormDA.dec FormDA.enc
  unfold zeroAt
  repeat (first
    | rw [cut_above _ _ _ _ (by decide)] | rw [cut_below _ _ _ _ (by decide)]
    | rw [bit_above _ _ _ (by decide)] | rw [bit_below _ _ _ (by decide)])
  simp

theorem FormDA.major_enc (maj : BitVec 5) (fn : BitVec 6) (f : FormDA) : (f.enc maj fn).extractLsb' 26 5 = maj := by
  unfold FormDA.enc
  repeat (first
    | rw [cut_above _ _ _ _ (by decide)] | rw [cut_below _ _ _ _ (by decide)]
    | rw [bit_above _ _ _ (by decide)] | rw [bit_below _ _ _ (by decide)])
  simp

theorem FormDA.member_enc (maj : BitVec 5) (fn : BitVec 6) (f : FormDA) : (f.enc maj fn).extractLsb' 20 6 = fn := by
  unfold FormDA.enc
  repeat (first
    | rw [cut_above _ _ _ _ (by decide)] | rw [cut_below _ _ _ _ (by decide)]
    | rw [bit_above _ _ _ (by decide)] | rw [bit_below _ _ _ (by decide)])
  simp

theorem FormR.dec_enc (maj : BitVec 5) (fn : BitVec 6) (f : FormR) : FormR.dec (f.enc maj fn) = some f := by
  unfold FormR.dec FormR.enc
  repeat (first
    | rw [cut_above _ _ _ _ (by decide)] | rw [cut_below _ _ _ _ (by decide)]
    | rw [bit_above _ _ _ (by decide)] | rw [bit_below _ _ _ (by decide)])
  simp

theorem FormR.major_enc (maj : BitVec 5) (fn : BitVec 6) (f : FormR) : (f.enc maj fn).extractLsb' 26 5 = maj := by
  unfold FormR.enc
  repeat (first
    | rw [cut_above _ _ _ _ (by decide)] | rw [cut_below _ _ _ _ (by decide)]
    | rw [bit_above _ _ _ (by decide)] | rw [bit_below _ _ _ (by decide)])
  simp

theorem FormR.member_enc (maj : BitVec 5) (fn : BitVec 6) (f : FormR) : (f.enc maj fn).extractLsb' 20 6 = fn := by
  unfold FormR.enc
  repeat (first
    | rw [cut_above _ _ _ _ (by decide)] | rw [cut_below _ _ _ _ (by decide)]
    | rw [bit_above _ _ _ (by decide)] | rw [bit_below _ _ _ (by decide)])
  simp

theorem FormRU.dec_enc (maj : BitVec 5) (fn : BitVec 6) (f : FormRU) : FormRU.dec (f.enc maj fn) = some f := by
  unfold FormRU.dec FormRU.enc
  unfold zeroAt
  repeat (first
    | rw [cut_above _ _ _ _ (by decide)] | rw [cut_below _ _ _ _ (by decide)]
    | rw [bit_above _ _ _ (by decide)] | rw [bit_below _ _ _ (by decide)])
  simp

theorem FormRU.major_enc (maj : BitVec 5) (fn : BitVec 6) (f : FormRU) : (f.enc maj fn).extractLsb' 26 5 = maj := by
  unfold FormRU.enc
  repeat (first
    | rw [cut_above _ _ _ _ (by decide)] | rw [cut_below _ _ _ _ (by decide)]
    | rw [bit_above _ _ _ (by decide)] | rw [bit_below _ _ _ (by decide)])
  simp

theorem FormRU.member_enc (maj : BitVec 5) (fn : BitVec 6) (f : FormRU) : (f.enc maj fn).extractLsb' 20 6 = fn := by
  unfold FormRU.enc
  repeat (first
    | rw [cut_above _ _ _ _ (by decide)] | rw [cut_below _ _ _ _ (by decide)]
    | rw [bit_above _ _ _ (by decide)] | rw [bit_below _ _ _ (by decide)])
  simp

theorem FormI11.dec_enc (maj : BitVec 5) (fn : BitVec 3) (f : FormI11) : FormI11.dec (f.enc maj fn) = some f := by
  unfold FormI11.dec FormI11.enc
  repeat (first
    | rw [cut_above _ _ _ _ (by decide)] | rw [cut_below _ _ _ _ (by decide)]
    | rw [bit_above _ _ _ (by decide)] | rw [bit_below _ _ _ (by decide)])
  simp

theorem FormI11.major_enc (maj : BitVec 5) (fn : BitVec 3) (f : FormI11) : (f.enc maj fn).extractLsb' 26 5 = maj := by
  unfold FormI11.enc
  repeat (first
    | rw [cut_above _ _ _ _ (by decide)] | rw [cut_below _ _ _ _ (by decide)]
    | rw [bit_above _ _ _ (by decide)] | rw [bit_below _ _ _ (by decide)])
  simp

theorem FormI11.member_enc (maj : BitVec 5) (fn : BitVec 3) (f : FormI11) : (f.enc maj fn).extractLsb' 23 3 = fn := by
  unfold FormI11.enc
  repeat (first
    | rw [cut_above _ _ _ _ (by decide)] | rw [cut_below _ _ _ _ (by decide)]
    | rw [bit_above _ _ _ (by decide)] | rw [bit_below _ _ _ (by decide)])
  simp

theorem FormI5.dec_enc (maj : BitVec 5) (fn : BitVec 3) (f : FormI5) : FormI5.dec (f.enc maj fn) = some f := by
  unfold FormI5.dec FormI5.enc
  unfold zeroAt
  repeat (first
    | rw [cut_above _ _ _ _ (by decide)] | rw [cut_below _ _ _ _ (by decide)]
    | rw [bit_above _ _ _ (by decide)] | rw [bit_below _ _ _ (by decide)])
  simp

theorem FormI5.major_enc (maj : BitVec 5) (fn : BitVec 3) (f : FormI5) : (f.enc maj fn).extractLsb' 26 5 = maj := by
  unfold FormI5.enc
  repeat (first
    | rw [cut_above _ _ _ _ (by decide)] | rw [cut_below _ _ _ _ (by decide)]
    | rw [bit_above _ _ _ (by decide)] | rw [bit_below _ _ _ (by decide)])
  simp

theorem FormI5.member_enc (maj : BitVec 5) (fn : BitVec 3) (f : FormI5) : (f.enc maj fn).extractLsb' 23 3 = fn := by
  unfold FormI5.enc
  repeat (first
    | rw [cut_above _ _ _ _ (by decide)] | rw [cut_below _ _ _ _ (by decide)]
    | rw [bit_above _ _ _ (by decide)] | rw [bit_below _ _ _ (by decide)])
  simp

theorem FormM.dec_enc (maj : BitVec 5) (fn : BitVec 1) (f : FormM) : FormM.dec (f.enc maj fn) = some f := by
  unfold FormM.dec FormM.enc
  repeat (first
    | rw [cut_above _ _ _ _ (by decide)] | rw [cut_below _ _ _ _ (by decide)]
    | rw [bit_above _ _ _ (by decide)] | rw [bit_below _ _ _ (by decide)])
  simp

theorem FormM.major_enc (maj : BitVec 5) (fn : BitVec 1) (f : FormM) : (f.enc maj fn).extractLsb' 26 5 = maj := by
  unfold FormM.enc
  repeat (first
    | rw [cut_above _ _ _ _ (by decide)] | rw [cut_below _ _ _ _ (by decide)]
    | rw [bit_above _ _ _ (by decide)] | rw [bit_below _ _ _ (by decide)])
  simp

theorem FormM.member_enc (maj : BitVec 5) (fn : BitVec 1) (f : FormM) : (f.enc maj fn).extractLsb' 25 1 = fn := by
  unfold FormM.enc
  repeat (first
    | rw [cut_above _ _ _ _ (by decide)] | rw [cut_below _ _ _ _ (by decide)]
    | rw [bit_above _ _ _ (by decide)] | rw [bit_below _ _ _ (by decide)])
  simp

theorem FormMH.dec_enc (maj : BitVec 5) (fn : BitVec 1) (f : FormMH) : FormMH.dec (f.enc maj fn) = some f := by
  unfold FormMH.dec FormMH.enc
  unfold zeroAt
  repeat (first
    | rw [cut_above _ _ _ _ (by decide)] | rw [cut_below _ _ _ _ (by decide)]
    | rw [bit_above _ _ _ (by decide)] | rw [bit_below _ _ _ (by decide)])
  simp

theorem FormMH.major_enc (maj : BitVec 5) (fn : BitVec 1) (f : FormMH) : (f.enc maj fn).extractLsb' 26 5 = maj := by
  unfold FormMH.enc
  repeat (first
    | rw [cut_above _ _ _ _ (by decide)] | rw [cut_below _ _ _ _ (by decide)]
    | rw [bit_above _ _ _ (by decide)] | rw [bit_below _ _ _ (by decide)])
  simp

theorem FormMH.member_enc (maj : BitVec 5) (fn : BitVec 1) (f : FormMH) : (f.enc maj fn).extractLsb' 25 1 = fn := by
  unfold FormMH.enc
  repeat (first
    | rw [cut_above _ _ _ _ (by decide)] | rw [cut_below _ _ _ _ (by decide)]
    | rw [bit_above _ _ _ (by decide)] | rw [bit_below _ _ _ (by decide)])
  simp

theorem FormPK.dec_enc (maj : BitVec 5) (fn : BitVec 6) (f : FormPK) : FormPK.dec (f.enc maj fn) = some f := by
  unfold FormPK.dec FormPK.enc
  unfold zeroAt
  repeat (first
    | rw [cut_above _ _ _ _ (by decide)] | rw [cut_below _ _ _ _ (by decide)]
    | rw [bit_above _ _ _ (by decide)] | rw [bit_below _ _ _ (by decide)])
  simp

theorem FormPK.major_enc (maj : BitVec 5) (fn : BitVec 6) (f : FormPK) : (f.enc maj fn).extractLsb' 26 5 = maj := by
  unfold FormPK.enc
  repeat (first
    | rw [cut_above _ _ _ _ (by decide)] | rw [cut_below _ _ _ _ (by decide)]
    | rw [bit_above _ _ _ (by decide)] | rw [bit_below _ _ _ (by decide)])
  simp

theorem FormPK.member_enc (maj : BitVec 5) (fn : BitVec 6) (f : FormPK) : (f.enc maj fn).extractLsb' 20 6 = fn := by
  unfold FormPK.enc
  repeat (first
    | rw [cut_above _ _ _ _ (by decide)] | rw [cut_below _ _ _ _ (by decide)]
    | rw [bit_above _ _ _ (by decide)] | rw [bit_below _ _ _ (by decide)])
  simp

theorem FormRF.dec_enc (maj : BitVec 5) (fn : BitVec 6) (f : FormRF) : FormRF.dec (f.enc maj fn) = some f := by
  unfold FormRF.dec FormRF.enc
  unfold zeroAt
  repeat (first
    | rw [cut_above _ _ _ _ (by decide)] | rw [cut_below _ _ _ _ (by decide)]
    | rw [bit_above _ _ _ (by decide)] | rw [bit_below _ _ _ (by decide)])
  simp

theorem FormRF.major_enc (maj : BitVec 5) (fn : BitVec 6) (f : FormRF) : (f.enc maj fn).extractLsb' 26 5 = maj := by
  unfold FormRF.enc
  repeat (first
    | rw [cut_above _ _ _ _ (by decide)] | rw [cut_below _ _ _ _ (by decide)]
    | rw [bit_above _ _ _ (by decide)] | rw [bit_below _ _ _ (by decide)])
  simp

theorem FormRF.member_enc (maj : BitVec 5) (fn : BitVec 6) (f : FormRF) : (f.enc maj fn).extractLsb' 20 6 = fn := by
  unfold FormRF.enc
  repeat (first
    | rw [cut_above _ _ _ _ (by decide)] | rw [cut_below _ _ _ _ (by decide)]
    | rw [bit_above _ _ _ (by decide)] | rw [bit_below _ _ _ (by decide)])
  simp

theorem FormSh.dec_enc (maj : BitVec 5) (fn : BitVec 6) (f : FormSh) : FormSh.dec (f.enc maj fn) = some f := by
  unfold FormSh.dec FormSh.enc
  unfold zeroAt
  repeat (first
    | rw [cut_above _ _ _ _ (by decide)] | rw [cut_below _ _ _ _ (by decide)]
    | rw [bit_above _ _ _ (by decide)] | rw [bit_below _ _ _ (by decide)])
  simp

theorem FormSh.major_enc (maj : BitVec 5) (fn : BitVec 6) (f : FormSh) : (f.enc maj fn).extractLsb' 26 5 = maj := by
  unfold FormSh.enc
  repeat (first
    | rw [cut_above _ _ _ _ (by decide)] | rw [cut_below _ _ _ _ (by decide)]
    | rw [bit_above _ _ _ (by decide)] | rw [bit_below _ _ _ (by decide)])
  simp

theorem FormSh.member_enc (maj : BitVec 5) (fn : BitVec 6) (f : FormSh) : (f.enc maj fn).extractLsb' 20 6 = fn := by
  unfold FormSh.enc
  repeat (first
    | rw [cut_above _ _ _ _ (by decide)] | rw [cut_below _ _ _ _ (by decide)]
    | rw [bit_above _ _ _ (by decide)] | rw [bit_below _ _ _ (by decide)])
  simp

theorem FormVote.dec_enc (maj : BitVec 5) (fn : BitVec 6) (f : FormVote) : FormVote.dec (f.enc maj fn) = some f := by
  unfold FormVote.dec FormVote.enc
  unfold zeroAt
  repeat (first
    | rw [cut_above _ _ _ _ (by decide)] | rw [cut_below _ _ _ _ (by decide)]
    | rw [bit_above _ _ _ (by decide)] | rw [bit_below _ _ _ (by decide)])
  simp

theorem FormVote.major_enc (maj : BitVec 5) (fn : BitVec 6) (f : FormVote) : (f.enc maj fn).extractLsb' 26 5 = maj := by
  unfold FormVote.enc
  repeat (first
    | rw [cut_above _ _ _ _ (by decide)] | rw [cut_below _ _ _ _ (by decide)]
    | rw [bit_above _ _ _ (by decide)] | rw [bit_below _ _ _ (by decide)])
  simp

theorem FormVote.member_enc (maj : BitVec 5) (fn : BitVec 6) (f : FormVote) : (f.enc maj fn).extractLsb' 20 6 = fn := by
  unfold FormVote.enc
  repeat (first
    | rw [cut_above _ _ _ _ (by decide)] | rw [cut_below _ _ _ _ (by decide)]
    | rw [bit_above _ _ _ (by decide)] | rw [bit_below _ _ _ (by decide)])
  simp

theorem FormRed.dec_enc (maj : BitVec 5) (fn : BitVec 6) (f : FormRed) : FormRed.dec (f.enc maj fn) = some f := by
  unfold FormRed.dec FormRed.enc
  unfold zeroAt
  repeat (first
    | rw [cut_above _ _ _ _ (by decide)] | rw [cut_below _ _ _ _ (by decide)]
    | rw [bit_above _ _ _ (by decide)] | rw [bit_below _ _ _ (by decide)])
  simp

theorem FormRed.major_enc (maj : BitVec 5) (fn : BitVec 6) (f : FormRed) : (f.enc maj fn).extractLsb' 26 5 = maj := by
  unfold FormRed.enc
  repeat (first
    | rw [cut_above _ _ _ _ (by decide)] | rw [cut_below _ _ _ _ (by decide)]
    | rw [bit_above _ _ _ (by decide)] | rw [bit_below _ _ _ (by decide)])
  simp

theorem FormRed.member_enc (maj : BitVec 5) (fn : BitVec 6) (f : FormRed) : (f.enc maj fn).extractLsb' 20 6 = fn := by
  unfold FormRed.enc
  repeat (first
    | rw [cut_above _ _ _ _ (by decide)] | rw [cut_below _ _ _ _ (by decide)]
    | rw [bit_above _ _ _ (by decide)] | rw [bit_below _ _ _ (by decide)])
  simp

theorem FormHist.dec_enc (maj : BitVec 5) (fn : BitVec 6) (f : FormHist) : FormHist.dec (f.enc maj fn) = some f := by
  unfold FormHist.dec FormHist.enc
  unfold zeroAt
  repeat (first
    | rw [cut_above _ _ _ _ (by decide)] | rw [cut_below _ _ _ _ (by decide)]
    | rw [bit_above _ _ _ (by decide)] | rw [bit_below _ _ _ (by decide)])
  simp

theorem FormHist.major_enc (maj : BitVec 5) (fn : BitVec 6) (f : FormHist) : (f.enc maj fn).extractLsb' 26 5 = maj := by
  unfold FormHist.enc
  repeat (first
    | rw [cut_above _ _ _ _ (by decide)] | rw [cut_below _ _ _ _ (by decide)]
    | rw [bit_above _ _ _ (by decide)] | rw [bit_below _ _ _ (by decide)])
  simp

theorem FormHist.member_enc (maj : BitVec 5) (fn : BitVec 6) (f : FormHist) : (f.enc maj fn).extractLsb' 20 6 = fn := by
  unfold FormHist.enc
  repeat (first
    | rw [cut_above _ _ _ _ (by decide)] | rw [cut_below _ _ _ _ (by decide)]
    | rw [bit_above _ _ _ (by decide)] | rw [bit_below _ _ _ (by decide)])
  simp

theorem FormL.dec_enc (maj : BitVec 5) (fn : BitVec 4) (f : FormL) : FormL.dec (f.enc maj fn) = some f := by
  unfold FormL.dec FormL.enc
  repeat (first
    | rw [cut_above _ _ _ _ (by decide)] | rw [cut_below _ _ _ _ (by decide)]
    | rw [bit_above _ _ _ (by decide)] | rw [bit_below _ _ _ (by decide)])
  simp

theorem FormL.major_enc (maj : BitVec 5) (fn : BitVec 4) (f : FormL) : (f.enc maj fn).extractLsb' 26 5 = maj := by
  unfold FormL.enc
  repeat (first
    | rw [cut_above _ _ _ _ (by decide)] | rw [cut_below _ _ _ _ (by decide)]
    | rw [bit_above _ _ _ (by decide)] | rw [bit_below _ _ _ (by decide)])
  simp

theorem FormL.member_enc (maj : BitVec 5) (fn : BitVec 4) (f : FormL) : (f.enc maj fn).extractLsb' 20 4 = fn := by
  unfold FormL.enc
  repeat (first
    | rw [cut_above _ _ _ _ (by decide)] | rw [cut_below _ _ _ _ (by decide)]
    | rw [bit_above _ _ _ (by decide)] | rw [bit_below _ _ _ (by decide)])
  simp

theorem FormAt.dec_enc (maj : BitVec 5) (fn : BitVec 6) (f : FormAt) : FormAt.dec (f.enc maj fn) = some f := by
  unfold FormAt.dec FormAt.enc
  repeat (first
    | rw [cut_above _ _ _ _ (by decide)] | rw [cut_below _ _ _ _ (by decide)]
    | rw [bit_above _ _ _ (by decide)] | rw [bit_below _ _ _ (by decide)])
  simp

theorem FormAt.major_enc (maj : BitVec 5) (fn : BitVec 6) (f : FormAt) : (f.enc maj fn).extractLsb' 26 5 = maj := by
  unfold FormAt.enc
  repeat (first
    | rw [cut_above _ _ _ _ (by decide)] | rw [cut_below _ _ _ _ (by decide)]
    | rw [bit_above _ _ _ (by decide)] | rw [bit_below _ _ _ (by decide)])
  simp

theorem FormAt.member_enc (maj : BitVec 5) (fn : BitVec 6) (f : FormAt) : (f.enc maj fn).extractLsb' 20 6 = fn := by
  unfold FormAt.enc
  repeat (first
    | rw [cut_above _ _ _ _ (by decide)] | rw [cut_below _ _ _ _ (by decide)]
    | rw [bit_above _ _ _ (by decide)] | rw [bit_below _ _ _ (by decide)])
  simp

theorem FormCpy.dec_enc (maj : BitVec 5) (fn : BitVec 6) (f : FormCpy) : FormCpy.dec (f.enc maj fn) = some f := by
  unfold FormCpy.dec FormCpy.enc
  unfold zeroAt
  repeat (first
    | rw [cut_above _ _ _ _ (by decide)] | rw [cut_below _ _ _ _ (by decide)]
    | rw [bit_above _ _ _ (by decide)] | rw [bit_below _ _ _ (by decide)])
  simp

theorem FormCpy.major_enc (maj : BitVec 5) (fn : BitVec 6) (f : FormCpy) : (f.enc maj fn).extractLsb' 26 5 = maj := by
  unfold FormCpy.enc
  repeat (first
    | rw [cut_above _ _ _ _ (by decide)] | rw [cut_below _ _ _ _ (by decide)]
    | rw [bit_above _ _ _ (by decide)] | rw [bit_below _ _ _ (by decide)])
  simp

theorem FormCpy.member_enc (maj : BitVec 5) (fn : BitVec 6) (f : FormCpy) : (f.enc maj fn).extractLsb' 20 6 = fn := by
  unfold FormCpy.enc
  repeat (first
    | rw [cut_above _ _ _ _ (by decide)] | rw [cut_below _ _ _ _ (by decide)]
    | rw [bit_above _ _ _ (by decide)] | rw [bit_below _ _ _ (by decide)])
  simp

theorem FormShapeP.dec_enc (maj : BitVec 5) (fn : BitVec 6) (f : FormShapeP) : FormShapeP.dec (f.enc maj fn) = some f := by
  unfold FormShapeP.dec FormShapeP.enc
  unfold zeroAt
  repeat (first
    | rw [cut_above _ _ _ _ (by decide)] | rw [cut_below _ _ _ _ (by decide)]
    | rw [bit_above _ _ _ (by decide)] | rw [bit_below _ _ _ (by decide)])
  simp

theorem FormShapeP.major_enc (maj : BitVec 5) (fn : BitVec 6) (f : FormShapeP) : (f.enc maj fn).extractLsb' 26 5 = maj := by
  unfold FormShapeP.enc
  repeat (first
    | rw [cut_above _ _ _ _ (by decide)] | rw [cut_below _ _ _ _ (by decide)]
    | rw [bit_above _ _ _ (by decide)] | rw [bit_below _ _ _ (by decide)])
  simp

theorem FormShapeP.member_enc (maj : BitVec 5) (fn : BitVec 6) (f : FormShapeP) : (f.enc maj fn).extractLsb' 20 6 = fn := by
  unfold FormShapeP.enc
  repeat (first
    | rw [cut_above _ _ _ _ (by decide)] | rw [cut_below _ _ _ _ (by decide)]
    | rw [bit_above _ _ _ (by decide)] | rw [bit_below _ _ _ (by decide)])
  simp

theorem FormDG.dec_enc (maj : BitVec 5) (fn : BitVec 6) (f : FormDG) : FormDG.dec (f.enc maj fn) = some f := by
  unfold FormDG.dec FormDG.enc
  unfold zeroAt
  repeat (first
    | rw [cut_above _ _ _ _ (by decide)] | rw [cut_below _ _ _ _ (by decide)]
    | rw [bit_above _ _ _ (by decide)] | rw [bit_below _ _ _ (by decide)])
  simp

theorem FormDG.major_enc (maj : BitVec 5) (fn : BitVec 6) (f : FormDG) : (f.enc maj fn).extractLsb' 26 5 = maj := by
  unfold FormDG.enc
  repeat (first
    | rw [cut_above _ _ _ _ (by decide)] | rw [cut_below _ _ _ _ (by decide)]
    | rw [bit_above _ _ _ (by decide)] | rw [bit_below _ _ _ (by decide)])
  simp

theorem FormDG.member_enc (maj : BitVec 5) (fn : BitVec 6) (f : FormDG) : (f.enc maj fn).extractLsb' 20 6 = fn := by
  unfold FormDG.enc
  repeat (first
    | rw [cut_above _ _ _ _ (by decide)] | rw [cut_below _ _ _ _ (by decide)]
    | rw [bit_above _ _ _ (by decide)] | rw [bit_below _ _ _ (by decide)])
  simp

theorem FormT.dec_enc (maj : BitVec 5) (fn : BitVec 6) (f : FormT) : FormT.dec (f.enc maj fn) = some f := by
  unfold FormT.dec FormT.enc
  unfold zeroAt
  repeat (first
    | rw [cut_above _ _ _ _ (by decide)] | rw [cut_below _ _ _ _ (by decide)]
    | rw [bit_above _ _ _ (by decide)] | rw [bit_below _ _ _ (by decide)])
  simp

theorem FormT.major_enc (maj : BitVec 5) (fn : BitVec 6) (f : FormT) : (f.enc maj fn).extractLsb' 26 5 = maj := by
  unfold FormT.enc
  repeat (first
    | rw [cut_above _ _ _ _ (by decide)] | rw [cut_below _ _ _ _ (by decide)]
    | rw [bit_above _ _ _ (by decide)] | rw [bit_below _ _ _ (by decide)])
  simp

theorem FormT.member_enc (maj : BitVec 5) (fn : BitVec 6) (f : FormT) : (f.enc maj fn).extractLsb' 20 6 = fn := by
  unfold FormT.enc
  repeat (first
    | rw [cut_above _ _ _ _ (by decide)] | rw [cut_below _ _ _ _ (by decide)]
    | rw [bit_above _ _ _ (by decide)] | rw [bit_below _ _ _ (by decide)])
  simp

theorem FormDS.dec_enc (maj : BitVec 5) (fn : BitVec 6) (f : FormDS) : FormDS.dec (f.enc maj fn) = some f := by
  unfold FormDS.dec FormDS.enc
  unfold zeroAt
  repeat (first
    | rw [cut_above _ _ _ _ (by decide)] | rw [cut_below _ _ _ _ (by decide)]
    | rw [bit_above _ _ _ (by decide)] | rw [bit_below _ _ _ (by decide)])
  simp

theorem FormDS.major_enc (maj : BitVec 5) (fn : BitVec 6) (f : FormDS) : (f.enc maj fn).extractLsb' 26 5 = maj := by
  unfold FormDS.enc
  repeat (first
    | rw [cut_above _ _ _ _ (by decide)] | rw [cut_below _ _ _ _ (by decide)]
    | rw [bit_above _ _ _ (by decide)] | rw [bit_below _ _ _ (by decide)])
  simp

theorem FormDS.member_enc (maj : BitVec 5) (fn : BitVec 6) (f : FormDS) : (f.enc maj fn).extractLsb' 20 6 = fn := by
  unfold FormDS.enc
  repeat (first
    | rw [cut_above _ _ _ _ (by decide)] | rw [cut_below _ _ _ _ (by decide)]
    | rw [bit_above _ _ _ (by decide)] | rw [bit_below _ _ _ (by decide)])
  simp

theorem FormBar.dec_enc (maj : BitVec 5) (fn : BitVec 6) (f : FormBar) : FormBar.dec (f.enc maj fn) = some f := by
  unfold FormBar.dec FormBar.enc
  unfold zeroAt
  repeat (first
    | rw [cut_above _ _ _ _ (by decide)] | rw [cut_below _ _ _ _ (by decide)]
    | rw [bit_above _ _ _ (by decide)] | rw [bit_below _ _ _ (by decide)])
  simp

theorem FormBar.major_enc (maj : BitVec 5) (fn : BitVec 6) (f : FormBar) : (f.enc maj fn).extractLsb' 26 5 = maj := by
  unfold FormBar.enc
  repeat (first
    | rw [cut_above _ _ _ _ (by decide)] | rw [cut_below _ _ _ _ (by decide)]
    | rw [bit_above _ _ _ (by decide)] | rw [bit_below _ _ _ (by decide)])
  simp

theorem FormBar.member_enc (maj : BitVec 5) (fn : BitVec 6) (f : FormBar) : (f.enc maj fn).extractLsb' 20 6 = fn := by
  unfold FormBar.enc
  repeat (first
    | rw [cut_above _ _ _ _ (by decide)] | rw [cut_below _ _ _ _ (by decide)]
    | rw [bit_above _ _ _ (by decide)] | rw [bit_below _ _ _ (by decide)])
  simp

theorem FormBarA.dec_enc (maj : BitVec 5) (fn : BitVec 6) (f : FormBarA) : FormBarA.dec (f.enc maj fn) = some f := by
  unfold FormBarA.dec FormBarA.enc
  unfold zeroAt
  repeat (first
    | rw [cut_above _ _ _ _ (by decide)] | rw [cut_below _ _ _ _ (by decide)]
    | rw [bit_above _ _ _ (by decide)] | rw [bit_below _ _ _ (by decide)])
  simp

theorem FormBarA.major_enc (maj : BitVec 5) (fn : BitVec 6) (f : FormBarA) : (f.enc maj fn).extractLsb' 26 5 = maj := by
  unfold FormBarA.enc
  repeat (first
    | rw [cut_above _ _ _ _ (by decide)] | rw [cut_below _ _ _ _ (by decide)]
    | rw [bit_above _ _ _ (by decide)] | rw [bit_below _ _ _ (by decide)])
  simp

theorem FormBarA.member_enc (maj : BitVec 5) (fn : BitVec 6) (f : FormBarA) : (f.enc maj fn).extractLsb' 20 6 = fn := by
  unfold FormBarA.enc
  repeat (first
    | rw [cut_above _ _ _ _ (by decide)] | rw [cut_below _ _ _ _ (by decide)]
    | rw [bit_above _ _ _ (by decide)] | rw [bit_below _ _ _ (by decide)])
  simp

theorem FormBarW.dec_enc (maj : BitVec 5) (fn : BitVec 6) (f : FormBarW) : FormBarW.dec (f.enc maj fn) = some f := by
  unfold FormBarW.dec FormBarW.enc
  unfold zeroAt
  repeat (first
    | rw [cut_above _ _ _ _ (by decide)] | rw [cut_below _ _ _ _ (by decide)]
    | rw [bit_above _ _ _ (by decide)] | rw [bit_below _ _ _ (by decide)])
  simp

theorem FormBarW.major_enc (maj : BitVec 5) (fn : BitVec 6) (f : FormBarW) : (f.enc maj fn).extractLsb' 26 5 = maj := by
  unfold FormBarW.enc
  repeat (first
    | rw [cut_above _ _ _ _ (by decide)] | rw [cut_below _ _ _ _ (by decide)]
    | rw [bit_above _ _ _ (by decide)] | rw [bit_below _ _ _ (by decide)])
  simp

theorem FormBarW.member_enc (maj : BitVec 5) (fn : BitVec 6) (f : FormBarW) : (f.enc maj fn).extractLsb' 20 6 = fn := by
  unfold FormBarW.enc
  repeat (first
    | rw [cut_above _ _ _ _ (by decide)] | rw [cut_below _ _ _ _ (by decide)]
    | rw [bit_above _ _ _ (by decide)] | rw [bit_below _ _ _ (by decide)])
  simp

theorem FormBarX.dec_enc (maj : BitVec 5) (fn : BitVec 6) (f : FormBarX) : FormBarX.dec (f.enc maj fn) = some f := by
  unfold FormBarX.dec FormBarX.enc
  unfold zeroAt
  repeat (first
    | rw [cut_above _ _ _ _ (by decide)] | rw [cut_below _ _ _ _ (by decide)]
    | rw [bit_above _ _ _ (by decide)] | rw [bit_below _ _ _ (by decide)])
  simp

theorem FormBarX.major_enc (maj : BitVec 5) (fn : BitVec 6) (f : FormBarX) : (f.enc maj fn).extractLsb' 26 5 = maj := by
  unfold FormBarX.enc
  repeat (first
    | rw [cut_above _ _ _ _ (by decide)] | rw [cut_below _ _ _ _ (by decide)]
    | rw [bit_above _ _ _ (by decide)] | rw [bit_below _ _ _ (by decide)])
  simp

theorem FormBarX.member_enc (maj : BitVec 5) (fn : BitVec 6) (f : FormBarX) : (f.enc maj fn).extractLsb' 20 6 = fn := by
  unfold FormBarX.enc
  repeat (first
    | rw [cut_above _ _ _ _ (by decide)] | rw [cut_below _ _ _ _ (by decide)]
    | rw [bit_above _ _ _ (by decide)] | rw [bit_below _ _ _ (by decide)])
  simp

theorem FormAB.dec_enc (maj : BitVec 5) (fn : BitVec 6) (f : FormAB) : FormAB.dec (f.enc maj fn) = some f := by
  unfold FormAB.dec FormAB.enc
  unfold zeroAt
  repeat (first
    | rw [cut_above _ _ _ _ (by decide)] | rw [cut_below _ _ _ _ (by decide)]
    | rw [bit_above _ _ _ (by decide)] | rw [bit_below _ _ _ (by decide)])
  simp

theorem FormAB.major_enc (maj : BitVec 5) (fn : BitVec 6) (f : FormAB) : (f.enc maj fn).extractLsb' 26 5 = maj := by
  unfold FormAB.enc
  repeat (first
    | rw [cut_above _ _ _ _ (by decide)] | rw [cut_below _ _ _ _ (by decide)]
    | rw [bit_above _ _ _ (by decide)] | rw [bit_below _ _ _ (by decide)])
  simp

theorem FormAB.member_enc (maj : BitVec 5) (fn : BitVec 6) (f : FormAB) : (f.enc maj fn).extractLsb' 20 6 = fn := by
  unfold FormAB.enc
  repeat (first
    | rw [cut_above _ _ _ _ (by decide)] | rw [cut_below _ _ _ _ (by decide)]
    | rw [bit_above _ _ _ (by decide)] | rw [bit_below _ _ _ (by decide)])
  simp

theorem FormFence.dec_enc (maj : BitVec 5) (fn : BitVec 6) (f : FormFence) : FormFence.dec (f.enc maj fn) = some f := by
  unfold FormFence.dec FormFence.enc
  unfold zeroAt
  repeat (first
    | rw [cut_above _ _ _ _ (by decide)] | rw [cut_below _ _ _ _ (by decide)]
    | rw [bit_above _ _ _ (by decide)] | rw [bit_below _ _ _ (by decide)])
  simp

theorem FormFence.major_enc (maj : BitVec 5) (fn : BitVec 6) (f : FormFence) : (f.enc maj fn).extractLsb' 26 5 = maj := by
  unfold FormFence.enc
  repeat (first
    | rw [cut_above _ _ _ _ (by decide)] | rw [cut_below _ _ _ _ (by decide)]
    | rw [bit_above _ _ _ (by decide)] | rw [bit_below _ _ _ (by decide)])
  simp

theorem FormFence.member_enc (maj : BitVec 5) (fn : BitVec 6) (f : FormFence) : (f.enc maj fn).extractLsb' 20 6 = fn := by
  unfold FormFence.enc
  repeat (first
    | rw [cut_above _ _ _ _ (by decide)] | rw [cut_below _ _ _ _ (by decide)]
    | rw [bit_above _ _ _ (by decide)] | rw [bit_below _ _ _ (by decide)])
  simp

theorem FormLin.dec_enc (maj : BitVec 5) (fn : BitVec 6) (f : FormLin) : FormLin.dec (f.enc maj fn) = some f := by
  unfold FormLin.dec FormLin.enc
  unfold zeroAt
  repeat (first
    | rw [cut_above _ _ _ _ (by decide)] | rw [cut_below _ _ _ _ (by decide)]
    | rw [bit_above _ _ _ (by decide)] | rw [bit_below _ _ _ (by decide)])
  simp

theorem FormLin.major_enc (maj : BitVec 5) (fn : BitVec 6) (f : FormLin) : (f.enc maj fn).extractLsb' 26 5 = maj := by
  unfold FormLin.enc
  repeat (first
    | rw [cut_above _ _ _ _ (by decide)] | rw [cut_below _ _ _ _ (by decide)]
    | rw [bit_above _ _ _ (by decide)] | rw [bit_below _ _ _ (by decide)])
  simp

theorem FormLin.member_enc (maj : BitVec 5) (fn : BitVec 6) (f : FormLin) : (f.enc maj fn).extractLsb' 20 6 = fn := by
  unfold FormLin.enc
  repeat (first
    | rw [cut_above _ _ _ _ (by decide)] | rw [cut_below _ _ _ _ (by decide)]
    | rw [bit_above _ _ _ (by decide)] | rw [bit_below _ _ _ (by decide)])
  simp

theorem FormPool.dec_enc (maj : BitVec 5) (fn : BitVec 6) (f : FormPool) : FormPool.dec (f.enc maj fn) = some f := by
  unfold FormPool.dec FormPool.enc
  unfold zeroAt
  repeat (first
    | rw [cut_above _ _ _ _ (by decide)] | rw [cut_below _ _ _ _ (by decide)]
    | rw [bit_above _ _ _ (by decide)] | rw [bit_below _ _ _ (by decide)])
  simp

theorem FormPool.major_enc (maj : BitVec 5) (fn : BitVec 6) (f : FormPool) : (f.enc maj fn).extractLsb' 26 5 = maj := by
  unfold FormPool.enc
  repeat (first
    | rw [cut_above _ _ _ _ (by decide)] | rw [cut_below _ _ _ _ (by decide)]
    | rw [bit_above _ _ _ (by decide)] | rw [bit_below _ _ _ (by decide)])
  simp

theorem FormPool.member_enc (maj : BitVec 5) (fn : BitVec 6) (f : FormPool) : (f.enc maj fn).extractLsb' 20 6 = fn := by
  unfold FormPool.enc
  repeat (first
    | rw [cut_above _ _ _ _ (by decide)] | rw [cut_below _ _ _ _ (by decide)]
    | rw [bit_above _ _ _ (by decide)] | rw [bit_below _ _ _ (by decide)])
  simp

theorem FormP.dec_enc (maj : BitVec 5) (f : FormP) : FormP.dec (f.enc maj) = some f := by
  unfold FormP.dec FormP.enc
  unfold zeroAt
  repeat (first
    | rw [cut_above _ _ _ _ (by decide)] | rw [cut_below _ _ _ _ (by decide)]
    | rw [bit_above _ _ _ (by decide)] | rw [bit_below _ _ _ (by decide)])
  simp

theorem FormP.major_enc (maj : BitVec 5) (f : FormP) : (f.enc maj).extractLsb' 26 5 = maj := by
  unfold FormP.enc
  repeat (first
    | rw [cut_above _ _ _ _ (by decide)] | rw [cut_below _ _ _ _ (by decide)]
    | rw [bit_above _ _ _ (by decide)] | rw [bit_below _ _ _ (by decide)])
  simp

theorem FormDA.dec_shapeP (maj : BitVec 5) (fn : BitVec 6) (f : FormShapeP) : FormDA.dec (f.enc maj fn) = none := by
  have hb : (f.enc maj fn).getLsbD 2 = true := by
    unfold FormShapeP.enc
    rw [bit_below _ _ _ (by decide)]
    rfl
  have hz : ¬ (f.enc maj fn).extractLsb' 0 8 = 0#8 := by
    intro h0
    have h1 := congrArg (fun v : BitVec 8 => v.getLsbD 2) h0
    simp at h1
    rw [BitVec.getLsbD_eq_getElem (by decide), h1] at hb
    cases hb
  unfold FormDA.dec zeroAt
  simp [hz]

namespace Laws.RoundTrip

/-- The word of an instruction decodes to that instruction. -/
def Statement (i : Instr) : Prop := ∀ w, encode i = some w → decodeWord w = .ok i

theorem trap (f : FormN14) : Statement (.trap f) := by
  intro w h
  cases h
  simp [decodeWord, FormN14.major_enc, FormN14.dec_enc, took, FormN14.member_enc, decSys]

theorem srd (f : FormDR) : Statement (.srd f) := by
  intro w h
  cases h
  simp [decodeWord, FormDR.major_enc, FormDR.dec_enc, took, FormDR.member_enc, decSys]

theorem swr (f : FormDR) : Statement (.swr f) := by
  intro w h
  cases h
  simp [decodeWord, FormDR.major_enc, FormDR.dec_enc, took, FormDR.member_enc, decSys]

theorem bkpt (f : FormN14) : Statement (.bkpt f) := by
  intro w h
  cases h
  simp [decodeWord, FormN14.major_enc, FormN14.dec_enc, took, FormN14.member_enc, decSys]

theorem cyc (f : FormD) : Statement (.cyc f) := by
  intro w h
  cases h
  simp [decodeWord, FormD.major_enc, FormD.dec_enc, took, FormD.member_enc, decSys]

theorem dictld (f : FormDict) : Statement (.dictld f) := by
  intro w h
  cases h
  simp [decodeWord, FormDict.major_enc, FormDict.dec_enc, took, FormDict.member_enc, decSys]

theorem fsvc (f : FormD) : Statement (.fsvc f) := by
  intro w h
  cases h
  simp [decodeWord, FormD.major_enc, FormD.dec_enc, took, FormD.member_enc, decSys]

theorem bra (f : FormO) : Statement (.bra f) := by
  intro w h
  cases h
  simp [decodeWord, FormO.major_enc, FormO.dec_enc, took, FormO.member_enc, decBr]

theorem bqt (f : FormSO) : Statement (.bqt f) := by
  intro w h
  cases h
  simp [decodeWord, FormSO.major_enc, FormSO.dec_enc, took, FormSO.member_enc, decBr]

theorem bqf (f : FormSO) : Statement (.bqf f) := by
  intro w h
  cases h
  simp [decodeWord, FormSO.major_enc, FormSO.dec_enc, took, FormSO.member_enc, decBr]

theorem bqu (f : FormSO) : Statement (.bqu f) := by
  intro w h
  cases h
  simp [decodeWord, FormSO.major_enc, FormSO.dec_enc, took, FormSO.member_enc, decBr]

theorem bqnt (f : FormSO) : Statement (.bqnt f) := by
  intro w h
  cases h
  simp [decodeWord, FormSO.major_enc, FormSO.dec_enc, took, FormSO.member_enc, decBr]

theorem bqnf (f : FormSO) : Statement (.bqnf f) := by
  intro w h
  cases h
  simp [decodeWord, FormSO.major_enc, FormSO.dec_enc, took, FormSO.member_enc, decBr]

theorem bq3 (f : FormQ3) : Statement (.bq3 f) := by
  intro w h
  cases h
  simp [decodeWord, FormQ3.major_enc, FormQ3.dec_enc, took, FormQ3.member_enc, decBr]

theorem bmz (f : FormSO) : Statement (.bmz f) := by
  intro w h
  cases h
  simp [decodeWord, FormSO.major_enc, FormSO.dec_enc, took, FormSO.member_enc, decBr]

theorem bmnz (f : FormSO) : Statement (.bmnz f) := by
  intro w h
  cases h
  simp [decodeWord, FormSO.major_enc, FormSO.dec_enc, took, FormSO.member_enc, decBr]

theorem loop (f : FormSO) : Statement (.loop f) := by
  intro w h
  cases h
  simp [decodeWord, FormSO.major_enc, FormSO.dec_enc, took, FormSO.member_enc, decBr]

theorem call (f : FormDI) : Statement (.call f) := by
  intro w h
  cases h
  simp [decodeWord, FormDI.major_enc, FormDI.dec_enc, took, FormDI.member_enc, decCtl]

theorem calli (f : FormDAK) : Statement (.calli f) := by
  intro w h
  cases h
  simp [decodeWord, FormDAK.major_enc, FormDAK.dec_enc, took, FormDAK.member_enc, decCtl]

theorem jmpi (f : FormAK) : Statement (.jmpi f) := by
  intro w h
  cases h
  simp [decodeWord, FormAK.major_enc, FormAK.dec_enc, took, FormAK.member_enc, decCtl]

theorem ret (f : FormAK) : Statement (.ret f) := by
  intro w h
  cases h
  simp [decodeWord, FormAK.major_enc, FormAK.dec_enc, took, FormAK.member_enc, decCtl]

theorem exit (f : FormC) : Statement (.exit f) := by
  intro w h
  cases h
  simp [decodeWord, FormC.major_enc, FormC.dec_enc, took, FormC.member_enc, decCtl]

theorem exits (f : FormDK) : Statement (.exits f) := by
  intro w h
  cases h
  simp [decodeWord, FormDK.major_enc, FormDK.dec_enc, took, FormDK.member_enc, decCtl]

theorem joinat (f : FormI) : Statement (.joinat f) := by
  intro w h
  cases h
  simp [decodeWord, FormI.major_enc, FormI.dec_enc, took, FormI.member_enc, decCtl]

theorem msave (f : FormD) : Statement (.msave f) := by
  intro w h
  cases h
  simp [decodeWord, FormD.major_enc, FormD.dec_enc, took, FormD.member_enc, decCtl]

theorem mrest (f : FormA) : Statement (.mrest f) := by
  intro w h
  cases h
  simp [decodeWord, FormA.major_enc, FormA.dec_enc, took, FormA.member_enc, decCtl]

theorem mand (f : FormDAB) : Statement (.mand f) := by
  intro w h
  cases h
  simp [decodeWord, FormDAB.major_enc, FormDAB.dec_enc, took, FormDAB.member_enc, decCtl]

theorem mor (f : FormDAB) : Statement (.mor f) := by
  intro w h
  cases h
  simp [decodeWord, FormDAB.major_enc, FormDAB.dec_enc, took, FormDAB.member_enc, decCtl]

theorem mxor (f : FormDAB) : Statement (.mxor f) := by
  intro w h
  cases h
  simp [decodeWord, FormDAB.major_enc, FormDAB.dec_enc, took, FormDAB.member_enc, decCtl]

theorem mnot (f : FormDA) : Statement (.mnot f) := by
  intro w h
  cases h
  simp [decodeWord, FormDA.major_enc, FormDA.dec_enc, took, FormDA.member_enc, decCtl]

theorem mfromq (f : FormDAB) : Statement (.mfromq f) := by
  intro w h
  cases h
  simp [decodeWord, FormDAB.major_enc, FormDAB.dec_enc, took, FormDAB.member_enc, decCtl]

theorem mcnt (f : FormDA) : Statement (.mcnt f) := by
  intro w h
  cases h
  simp [decodeWord, FormDA.major_enc, FormDA.dec_enc, took, FormDA.member_enc, decCtl]

theorem add (f : FormR) : Statement (.add f) := by
  intro w h
  cases h
  simp [decodeWord, FormR.major_enc, FormR.dec_enc, took, FormR.member_enc, decIalu]

theorem sub (f : FormR) : Statement (.sub f) := by
  intro w h
  cases h
  simp [decodeWord, FormR.major_enc, FormR.dec_enc, took, FormR.member_enc, decIalu]

theorem and (f : FormR) : Statement (.and f) := by
  intro w h
  cases h
  simp [decodeWord, FormR.major_enc, FormR.dec_enc, took, FormR.member_enc, decIalu]

theorem or (f : FormR) : Statement (.or f) := by
  intro w h
  cases h
  simp [decodeWord, FormR.major_enc, FormR.dec_enc, took, FormR.member_enc, decIalu]

theorem xor (f : FormR) : Statement (.xor f) := by
  intro w h
  cases h
  simp [decodeWord, FormR.major_enc, FormR.dec_enc, took, FormR.member_enc, decIalu]

theorem andn (f : FormR) : Statement (.andn f) := by
  intro w h
  cases h
  simp [decodeWord, FormR.major_enc, FormR.dec_enc, took, FormR.member_enc, decIalu]

theorem min (f : FormR) : Statement (.min f) := by
  intro w h
  cases h
  simp [decodeWord, FormR.major_enc, FormR.dec_enc, took, FormR.member_enc, decIalu]

theorem max (f : FormR) : Statement (.max f) := by
  intro w h
  cases h
  simp [decodeWord, FormR.major_enc, FormR.dec_enc, took, FormR.member_enc, decIalu]

theorem minu (f : FormR) : Statement (.minu f) := by
  intro w h
  cases h
  simp [decodeWord, FormR.major_enc, FormR.dec_enc, took, FormR.member_enc, decIalu]

theorem maxu (f : FormR) : Statement (.maxu f) := by
  intro w h
  cases h
  simp [decodeWord, FormR.major_enc, FormR.dec_enc, took, FormR.member_enc, decIalu]

theorem slt (f : FormR) : Statement (.slt f) := by
  intro w h
  cases h
  simp [decodeWord, FormR.major_enc, FormR.dec_enc, took, FormR.member_enc, decIalu]

theorem sltu (f : FormR) : Statement (.sltu f) := by
  intro w h
  cases h
  simp [decodeWord, FormR.major_enc, FormR.dec_enc, took, FormR.member_enc, decIalu]

theorem seq (f : FormR) : Statement (.seq f) := by
  intro w h
  cases h
  simp [decodeWord, FormR.major_enc, FormR.dec_enc, took, FormR.member_enc, decIalu]

theorem abs (f : FormRU) : Statement (.abs f) := by
  intro w h
  cases h
  simp [decodeWord, FormRU.major_enc, FormRU.dec_enc, took, FormRU.member_enc, decIalu]

theorem lea (f : FormR) : Statement (.lea f) := by
  intro w h
  cases h
  simp [decodeWord, FormR.major_enc, FormR.dec_enc, took, FormR.member_enc, decIalu]

theorem selm (f : FormR) : Statement (.selm f) := by
  intro w h
  cases h
  simp [decodeWord, FormR.major_enc, FormR.dec_enc, took, FormR.member_enc, decIalu]

theorem addi (f : FormI11) : Statement (.addi f) := by
  intro w h
  cases h
  simp [decodeWord, FormI11.major_enc, FormI11.dec_enc, took, FormI11.member_enc, decIalui]

theorem andi (f : FormI11) : Statement (.andi f) := by
  intro w h
  cases h
  simp [decodeWord, FormI11.major_enc, FormI11.dec_enc, took, FormI11.member_enc, decIalui]

theorem ori (f : FormI11) : Statement (.ori f) := by
  intro w h
  cases h
  simp [decodeWord, FormI11.major_enc, FormI11.dec_enc, took, FormI11.member_enc, decIalui]

theorem xori (f : FormI11) : Statement (.xori f) := by
  intro w h
  cases h
  simp [decodeWord, FormI11.major_enc, FormI11.dec_enc, took, FormI11.member_enc, decIalui]

theorem slti (f : FormI11) : Statement (.slti f) := by
  intro w h
  cases h
  simp [decodeWord, FormI11.major_enc, FormI11.dec_enc, took, FormI11.member_enc, decIalui]

theorem sltiu (f : FormI11) : Statement (.sltiu f) := by
  intro w h
  cases h
  simp [decodeWord, FormI11.major_enc, FormI11.dec_enc, took, FormI11.member_enc, decIalui]

theorem leai (f : FormI11) : Statement (.leai f) := by
  intro w h
  cases h
  simp [decodeWord, FormI11.major_enc, FormI11.dec_enc, took, FormI11.member_enc, decIalui]

theorem shli (f : FormI5) : Statement (.shli f) := by
  intro w h
  cases h
  simp [decodeWord, FormI5.major_enc, FormI5.dec_enc, took, FormI5.member_enc, decIalui]

theorem movi (f : FormM) : Statement (.movi f) := by
  intro w h
  cases h
  simp [decodeWord, FormM.major_enc, FormM.dec_enc, took, FormM.member_enc, decImm]

theorem movhi (f : FormMH) : Statement (.movhi f) := by
  intro w h
  cases h
  simp [decodeWord, FormMH.major_enc, FormMH.dec_enc, took, FormMH.member_enc, decImm]

theorem shl (f : FormR) : Statement (.shl f) := by
  intro w h
  cases h
  simp [decodeWord, FormR.major_enc, FormR.dec_enc, took, FormR.member_enc, decShf]

theorem shr (f : FormR) : Statement (.shr f) := by
  intro w h
  cases h
  simp [decodeWord, FormR.major_enc, FormR.dec_enc, took, FormR.member_enc, decShf]

theorem sar (f : FormR) : Statement (.sar f) := by
  intro w h
  cases h
  simp [decodeWord, FormR.major_enc, FormR.dec_enc, took, FormR.member_enc, decShf]

theorem rotl (f : FormR) : Statement (.rotl f) := by
  intro w h
  cases h
  simp [decodeWord, FormR.major_enc, FormR.dec_enc, took, FormR.member_enc, decShf]

theorem bfx (f : FormR) : Statement (.bfx f) := by
  intro w h
  cases h
  simp [decodeWord, FormR.major_enc, FormR.dec_enc, took, FormR.member_enc, decShf]

theorem bfi (f : FormR) : Statement (.bfi f) := by
  intro w h
  cases h
  simp [decodeWord, FormR.major_enc, FormR.dec_enc, took, FormR.member_enc, decShf]

theorem popc (f : FormRU) : Statement (.popc f) := by
  intro w h
  cases h
  simp [decodeWord, FormRU.major_enc, FormRU.dec_enc, took, FormRU.member_enc, decShf]

theorem clz (f : FormRU) : Statement (.clz f) := by
  intro w h
  cases h
  simp [decodeWord, FormRU.major_enc, FormRU.dec_enc, took, FormRU.member_enc, decShf]

theorem ctz (f : FormRU) : Statement (.ctz f) := by
  intro w h
  cases h
  simp [decodeWord, FormRU.major_enc, FormRU.dec_enc, took, FormRU.member_enc, decShf]

theorem brev (f : FormRU) : Statement (.brev f) := by
  intro w h
  cases h
  simp [decodeWord, FormRU.major_enc, FormRU.dec_enc, took, FormRU.member_enc, decShf]

theorem bperm (f : FormR) : Statement (.bperm f) := by
  intro w h
  cases h
  simp [decodeWord, FormR.major_enc, FormR.dec_enc, took, FormR.member_enc, decShf]

theorem mul (f : FormR) : Statement (.mul f) := by
  intro w h
  cases h
  simp [decodeWord, FormR.major_enc, FormR.dec_enc, took, FormR.member_enc, decImul]

theorem mulh (f : FormR) : Statement (.mulh f) := by
  intro w h
  cases h
  simp [decodeWord, FormR.major_enc, FormR.dec_enc, took, FormR.member_enc, decImul]

theorem mulhu (f : FormR) : Statement (.mulhu f) := by
  intro w h
  cases h
  simp [decodeWord, FormR.major_enc, FormR.dec_enc, took, FormR.member_enc, decImul]

theorem mad (f : FormR) : Statement (.mad f) := by
  intro w h
  cases h
  simp [decodeWord, FormR.major_enc, FormR.dec_enc, took, FormR.member_enc, decImul]

theorem div (f : FormR) : Statement (.div f) := by
  intro w h
  cases h
  simp [decodeWord, FormR.major_enc, FormR.dec_enc, took, FormR.member_enc, decImul]

theorem divu (f : FormR) : Statement (.divu f) := by
  intro w h
  cases h
  simp [decodeWord, FormR.major_enc, FormR.dec_enc, took, FormR.member_enc, decImul]

theorem rem (f : FormR) : Statement (.rem f) := by
  intro w h
  cases h
  simp [decodeWord, FormR.major_enc, FormR.dec_enc, took, FormR.member_enc, decImul]

theorem remu (f : FormR) : Statement (.remu f) := by
  intro w h
  cases h
  simp [decodeWord, FormR.major_enc, FormR.dec_enc, took, FormR.member_enc, decImul]

theorem dp4i8 (f : FormR) : Statement (.dp4i8 f) := by
  intro w h
  cases h
  simp [decodeWord, FormR.major_enc, FormR.dec_enc, took, FormR.member_enc, decPack]

theorem dp4n8 (f : FormR) : Statement (.dp4n8 f) := by
  intro w h
  cases h
  simp [decodeWord, FormR.major_enc, FormR.dec_enc, took, FormR.member_enc, decPack]

theorem dp8i4 (f : FormR) : Statement (.dp8i4 f) := by
  intro w h
  cases h
  simp [decodeWord, FormR.major_enc, FormR.dec_enc, took, FormR.member_enc, decPack]

theorem dp4e4 (f : FormR) : Statement (.dp4e4 f) := by
  intro w h
  cases h
  simp [decodeWord, FormR.major_enc, FormR.dec_enc, took, FormR.member_enc, decPack]

theorem dp4e5 (f : FormR) : Statement (.dp4e5 f) := by
  intro w h
  cases h
  simp [decodeWord, FormR.major_enc, FormR.dec_enc, took, FormR.member_enc, decPack]

theorem dp8f4 (f : FormR) : Statement (.dp8f4 f) := by
  intro w h
  cases h
  simp [decodeWord, FormR.major_enc, FormR.dec_enc, took, FormR.member_enc, decPack]

theorem pksel (f : FormPK) : Statement (.pksel f) := by
  intro w h
  cases h
  simp [decodeWord, FormPK.major_enc, FormPK.dec_enc, took, FormPK.member_enc, decPack]

theorem pknarrow (f : FormRF) : Statement (.pknarrow f) := by
  intro w h
  cases h
  simp [decodeWord, FormRF.major_enc, FormRF.dec_enc, took, FormRF.member_enc, decPack]

theorem cvtiv (f : FormRU) : Statement (.cvtiv f) := by
  intro w h
  cases h
  simp [decodeWord, FormRU.major_enc, FormRU.dec_enc, took, FormRU.member_enc, decCvt]

theorem cvtniv (f : FormRU) : Statement (.cvtniv f) := by
  intro w h
  cases h
  simp [decodeWord, FormRU.major_enc, FormRU.dec_enc, took, FormRU.member_enc, decCvt]

theorem cvtvi (f : FormRU) : Statement (.cvtvi f) := by
  intro w h
  cases h
  simp [decodeWord, FormRU.major_enc, FormRU.dec_enc, took, FormRU.member_enc, decCvt]

theorem cvtvni (f : FormRU) : Statement (.cvtvni f) := by
  intro w h
  cases h
  simp [decodeWord, FormRU.major_enc, FormRU.dec_enc, took, FormRU.member_enc, decCvt]

theorem cvtdv (f : FormDA) : Statement (.cvtdv f) := by
  intro w h
  cases h
  simp [decodeWord, FormDA.major_enc, FormDA.dec_enc, took, FormDA.member_enc, decCvt]

theorem cvtvd (f : FormRU) : Statement (.cvtvd f) := by
  intro w h
  cases h
  simp [decodeWord, FormRU.major_enc, FormRU.dec_enc, took, FormRU.member_enc, decCvt]

theorem cvtnv (f : FormRF) : Statement (.cvtnv f) := by
  intro w h
  cases h
  simp [decodeWord, FormRF.major_enc, FormRF.dec_enc, took, FormRF.member_enc, decCvt]

theorem cvtvn (f : FormRF) : Statement (.cvtvn f) := by
  intro w h
  cases h
  simp [decodeWord, FormRF.major_enc, FormRF.dec_enc, took, FormRF.member_enc, decCvt]

theorem vadd (f : FormR) : Statement (.vadd f) := by
  intro w h
  cases h
  simp [decodeWord, FormR.major_enc, FormR.dec_enc, took, FormR.member_enc, decVadd]

theorem vsub (f : FormR) : Statement (.vsub f) := by
  intro w h
  cases h
  simp [decodeWord, FormR.major_enc, FormR.dec_enc, took, FormR.member_enc, decVadd]

theorem vneg (f : FormRU) : Statement (.vneg f) := by
  intro w h
  cases h
  simp [decodeWord, FormRU.major_enc, FormRU.dec_enc, took, FormRU.member_enc, decVadd]

theorem vabs (f : FormRU) : Statement (.vabs f) := by
  intro w h
  cases h
  simp [decodeWord, FormRU.major_enc, FormRU.dec_enc, took, FormRU.member_enc, decVadd]

theorem vmin (f : FormR) : Statement (.vmin f) := by
  intro w h
  cases h
  simp [decodeWord, FormR.major_enc, FormR.dec_enc, took, FormR.member_enc, decVadd]

theorem vmax (f : FormR) : Statement (.vmax f) := by
  intro w h
  cases h
  simp [decodeWord, FormR.major_enc, FormR.dec_enc, took, FormR.member_enc, decVadd]

theorem vmul (f : FormR) : Statement (.vmul f) := by
  intro w h
  cases h
  simp [decodeWord, FormR.major_enc, FormR.dec_enc, took, FormR.member_enc, decVmul]

theorem vdiv (f : FormR) : Statement (.vdiv f) := by
  intro w h
  cases h
  simp [decodeWord, FormR.major_enc, FormR.dec_enc, took, FormR.member_enc, decVmul]

theorem vfma (f : FormR) : Statement (.vfma f) := by
  intro w h
  cases h
  simp [decodeWord, FormR.major_enc, FormR.dec_enc, took, FormR.member_enc, decVmul]

theorem vsqr (f : FormRU) : Statement (.vsqr f) := by
  intro w h
  cases h
  simp [decodeWord, FormRU.major_enc, FormRU.dec_enc, took, FormRU.member_enc, decVmul]

theorem vsqrt (f : FormRU) : Statement (.vsqrt f) := by
  intro w h
  cases h
  simp [decodeWord, FormRU.major_enc, FormRU.dec_enc, took, FormRU.member_enc, decVmul]

theorem vrcp (f : FormRU) : Statement (.vrcp f) := by
  intro w h
  cases h
  simp [decodeWord, FormRU.major_enc, FormRU.dec_enc, took, FormRU.member_enc, decVmul]

theorem vscale (f : FormR) : Statement (.vscale f) := by
  intro w h
  cases h
  simp [decodeWord, FormR.major_enc, FormR.dec_enc, took, FormR.member_enc, decVmul]

theorem vmk (f : FormR) : Statement (.vmk f) := by
  intro w h
  cases h
  simp [decodeWord, FormR.major_enc, FormR.dec_enc, took, FormR.member_enc, decVset]

theorem vlo (f : FormRU) : Statement (.vlo f) := by
  intro w h
  cases h
  simp [decodeWord, FormRU.major_enc, FormRU.dec_enc, took, FormRU.member_enc, decVset]

theorem vhi (f : FormRU) : Statement (.vhi f) := by
  intro w h
  cases h
  simp [decodeWord, FormRU.major_enc, FormRU.dec_enc, took, FormRU.member_enc, decVset]

theorem vmid (f : FormRU) : Statement (.vmid f) := by
  intro w h
  cases h
  simp [decodeWord, FormRU.major_enc, FormRU.dec_enc, took, FormRU.member_enc, decVset]

theorem vrad (f : FormRU) : Statement (.vrad f) := by
  intro w h
  cases h
  simp [decodeWord, FormRU.major_enc, FormRU.dec_enc, took, FormRU.member_enc, decVset]

theorem vwid (f : FormRU) : Statement (.vwid f) := by
  intro w h
  cases h
  simp [decodeWord, FormRU.major_enc, FormRU.dec_enc, took, FormRU.member_enc, decVset]

theorem vhull (f : FormR) : Statement (.vhull f) := by
  intro w h
  cases h
  simp [decodeWord, FormR.major_enc, FormR.dec_enc, took, FormR.member_enc, decVset]

theorem visect (f : FormR) : Statement (.visect f) := by
  intro w h
  cases h
  simp [decodeWord, FormR.major_enc, FormR.dec_enc, took, FormR.member_enc, decVset]

theorem vbis (f : FormRU) : Statement (.vbis f) := by
  intro w h
  cases h
  simp [decodeWord, FormRU.major_enc, FormRU.dec_enc, took, FormRU.member_enc, decVset]

theorem vent (f : FormD) : Statement (.vent f) := by
  intro w h
  cases h
  simp [decodeWord, FormD.major_enc, FormD.dec_enc, took, FormD.member_enc, decVset]

theorem vemp (f : FormD) : Statement (.vemp f) := by
  intro w h
  cases h
  simp [decodeWord, FormD.major_enc, FormD.dec_enc, took, FormD.member_enc, decVset]

theorem vmrc (f : FormRU) : Statement (.vmrc f) := by
  intro w h
  cases h
  simp [decodeWord, FormRU.major_enc, FormRU.dec_enc, took, FormRU.member_enc, decVset]

theorem vfmr (f : FormRU) : Statement (.vfmr f) := by
  intro w h
  cases h
  simp [decodeWord, FormRU.major_enc, FormRU.dec_enc, took, FormRU.member_enc, decVset]

theorem vclt (f : FormR) : Statement (.vclt f) := by
  intro w h
  cases h
  simp [decodeWord, FormR.major_enc, FormR.dec_enc, took, FormR.member_enc, decVcmp]

theorem vcle (f : FormR) : Statement (.vcle f) := by
  intro w h
  cases h
  simp [decodeWord, FormR.major_enc, FormR.dec_enc, took, FormR.member_enc, decVcmp]

theorem vcgt (f : FormR) : Statement (.vcgt f) := by
  intro w h
  cases h
  simp [decodeWord, FormR.major_enc, FormR.dec_enc, took, FormR.member_enc, decVcmp]

theorem vcge (f : FormR) : Statement (.vcge f) := by
  intro w h
  cases h
  simp [decodeWord, FormR.major_enc, FormR.dec_enc, took, FormR.member_enc, decVcmp]

theorem vceq (f : FormR) : Statement (.vceq f) := by
  intro w h
  cases h
  simp [decodeWord, FormR.major_enc, FormR.dec_enc, took, FormR.member_enc, decVcmp]

theorem vcsub (f : FormR) : Statement (.vcsub f) := by
  intro w h
  cases h
  simp [decodeWord, FormR.major_enc, FormR.dec_enc, took, FormR.member_enc, decVcmp]

theorem vcdis (f : FormR) : Statement (.vcdis f) := by
  intro w h
  cases h
  simp [decodeWord, FormR.major_enc, FormR.dec_enc, took, FormR.member_enc, decVcmp]

theorem vcin (f : FormR) : Statement (.vcin f) := by
  intro w h
  cases h
  simp [decodeWord, FormR.major_enc, FormR.dec_enc, took, FormR.member_enc, decVcmp]

theorem qand (f : FormDAB) : Statement (.qand f) := by
  intro w h
  cases h
  simp [decodeWord, FormDAB.major_enc, FormDAB.dec_enc, took, FormDAB.member_enc, decVcmp]

theorem qor (f : FormDAB) : Statement (.qor f) := by
  intro w h
  cases h
  simp [decodeWord, FormDAB.major_enc, FormDAB.dec_enc, took, FormDAB.member_enc, decVcmp]

theorem qnot (f : FormDA) : Statement (.qnot f) := by
  intro w h
  cases h
  simp [decodeWord, FormDA.major_enc, FormDA.dec_enc, took, FormDA.member_enc, decVcmp]

theorem qsure (f : FormDA) : Statement (.qsure f) := by
  intro w h
  cases h
  simp [decodeWord, FormDA.major_enc, FormDA.dec_enc, took, FormDA.member_enc, decVcmp]

theorem qmaybe (f : FormDA) : Statement (.qmaybe f) := by
  intro w h
  cases h
  simp [decodeWord, FormDA.major_enc, FormDA.dec_enc, took, FormDA.member_enc, decVcmp]

theorem qmov (f : FormDA) : Statement (.qmov f) := by
  intro w h
  cases h
  simp [decodeWord, FormDA.major_enc, FormDA.dec_enc, took, FormDA.member_enc, decVcmp]

theorem vexp (f : FormRU) : Statement (.vexp f) := by
  intro w h
  cases h
  simp [decodeWord, FormRU.major_enc, FormRU.dec_enc, took, FormRU.member_enc, decVsfu]

theorem vlog (f : FormRU) : Statement (.vlog f) := by
  intro w h
  cases h
  simp [decodeWord, FormRU.major_enc, FormRU.dec_enc, took, FormRU.member_enc, decVsfu]

theorem vtanh (f : FormRU) : Statement (.vtanh f) := by
  intro w h
  cases h
  simp [decodeWord, FormRU.major_enc, FormRU.dec_enc, took, FormRU.member_enc, decVsfu]

theorem vsigm (f : FormRU) : Statement (.vsigm f) := by
  intro w h
  cases h
  simp [decodeWord, FormRU.major_enc, FormRU.dec_enc, took, FormRU.member_enc, decVsfu]

theorem vsilu (f : FormRU) : Statement (.vsilu f) := by
  intro w h
  cases h
  simp [decodeWord, FormRU.major_enc, FormRU.dec_enc, took, FormRU.member_enc, decVsfu]

theorem vgelu (f : FormRU) : Statement (.vgelu f) := by
  intro w h
  cases h
  simp [decodeWord, FormRU.major_enc, FormRU.dec_enc, took, FormRU.member_enc, decVsfu]

theorem vsin (f : FormRU) : Statement (.vsin f) := by
  intro w h
  cases h
  simp [decodeWord, FormRU.major_enc, FormRU.dec_enc, took, FormRU.member_enc, decVsfu]

theorem vcos (f : FormRU) : Statement (.vcos f) := by
  intro w h
  cases h
  simp [decodeWord, FormRU.major_enc, FormRU.dec_enc, took, FormRU.member_enc, decVsfu]

theorem shfl (f : FormSh) : Statement (.shfl f) := by
  intro w h
  cases h
  simp [decodeWord, FormSh.major_enc, FormSh.dec_enc, took, FormSh.member_enc, decLane]

theorem bcast (f : FormSh) : Statement (.bcast f) := by
  intro w h
  cases h
  simp [decodeWord, FormSh.major_enc, FormSh.dec_enc, took, FormSh.member_enc, decLane]

theorem vote (f : FormVote) : Statement (.vote f) := by
  intro w h
  cases h
  simp [decodeWord, FormVote.major_enc, FormVote.dec_enc, took, FormVote.member_enc, decLane]

theorem qvote (f : FormDA) : Statement (.qvote f) := by
  intro w h
  cases h
  simp [decodeWord, FormDA.major_enc, FormDA.dec_enc, took, FormDA.member_enc, decLane]

theorem rdadd (f : FormRed) : Statement (.rdadd f) := by
  intro w h
  cases h
  simp [decodeWord, FormRed.major_enc, FormRed.dec_enc, took, FormRed.member_enc, decLane]

theorem rdmin (f : FormRed) : Statement (.rdmin f) := by
  intro w h
  cases h
  simp [decodeWord, FormRed.major_enc, FormRed.dec_enc, took, FormRed.member_enc, decLane]

theorem rdmax (f : FormRed) : Statement (.rdmax f) := by
  intro w h
  cases h
  simp [decodeWord, FormRed.major_enc, FormRed.dec_enc, took, FormRed.member_enc, decLane]

theorem scan (f : FormRed) : Statement (.scan f) := by
  intro w h
  cases h
  simp [decodeWord, FormRed.major_enc, FormRed.dec_enc, took, FormRed.member_enc, decLane]

theorem hist (f : FormHist) : Statement (.hist f) := by
  intro w h
  cases h
  simp [decodeWord, FormHist.major_enc, FormHist.dec_enc, took, FormHist.member_enc, decLane]

theorem hmerge (f : FormR) : Statement (.hmerge f) := by
  intro w h
  cases h
  simp [decodeWord, FormR.major_enc, FormR.dec_enc, took, FormR.member_enc, decLane]

theorem ldb (f : FormL) : Statement (.ldb f) := by
  intro w h
  cases h
  simp [decodeWord, FormL.major_enc, FormL.dec_enc, took, FormL.member_enc, decLd]

theorem ldh (f : FormL) : Statement (.ldh f) := by
  intro w h
  cases h
  simp [decodeWord, FormL.major_enc, FormL.dec_enc, took, FormL.member_enc, decLd]

theorem ldw (f : FormL) : Statement (.ldw f) := by
  intro w h
  cases h
  simp [decodeWord, FormL.major_enc, FormL.dec_enc, took, FormL.member_enc, decLd]

theorem ldd (f : FormL) : Statement (.ldd f) := by
  intro w h
  cases h
  simp [decodeWord, FormL.major_enc, FormL.dec_enc, took, FormL.member_enc, decLd]

theorem ldq (f : FormL) : Statement (.ldq f) := by
  intro w h
  cases h
  simp [decodeWord, FormL.major_enc, FormL.dec_enc, took, FormL.member_enc, decLd]

theorem ldv (f : FormL) : Statement (.ldv f) := by
  intro w h
  cases h
  simp [decodeWord, FormL.major_enc, FormL.dec_enc, took, FormL.member_enc, decLd]

theorem ldvc (f : FormL) : Statement (.ldvc f) := by
  intro w h
  cases h
  simp [decodeWord, FormL.major_enc, FormL.dec_enc, took, FormL.member_enc, decLd]

theorem ldff (f : FormL) : Statement (.ldff f) := by
  intro w h
  cases h
  simp [decodeWord, FormL.major_enc, FormL.dec_enc, took, FormL.member_enc, decLd]

theorem ldfe (f : FormL) : Statement (.ldfe f) := by
  intro w h
  cases h
  simp [decodeWord, FormL.major_enc, FormL.dec_enc, took, FormL.member_enc, decLd]

theorem ldmc (f : FormL) : Statement (.ldmc f) := by
  intro w h
  cases h
  simp [decodeWord, FormL.major_enc, FormL.dec_enc, took, FormL.member_enc, decLd]

theorem ldun (f : FormL) : Statement (.ldun f) := by
  intro w h
  cases h
  simp [decodeWord, FormL.major_enc, FormL.dec_enc, took, FormL.member_enc, decLd]

theorem stb (f : FormL) : Statement (.stb f) := by
  intro w h
  cases h
  simp [decodeWord, FormL.major_enc, FormL.dec_enc, took, FormL.member_enc, decSt]

theorem sth (f : FormL) : Statement (.sth f) := by
  intro w h
  cases h
  simp [decodeWord, FormL.major_enc, FormL.dec_enc, took, FormL.member_enc, decSt]

theorem stw (f : FormL) : Statement (.stw f) := by
  intro w h
  cases h
  simp [decodeWord, FormL.major_enc, FormL.dec_enc, took, FormL.member_enc, decSt]

theorem std (f : FormL) : Statement (.std f) := by
  intro w h
  cases h
  simp [decodeWord, FormL.major_enc, FormL.dec_enc, took, FormL.member_enc, decSt]

theorem stq (f : FormL) : Statement (.stq f) := by
  intro w h
  cases h
  simp [decodeWord, FormL.major_enc, FormL.dec_enc, took, FormL.member_enc, decSt]

theorem stv (f : FormL) : Statement (.stv f) := by
  intro w h
  cases h
  simp [decodeWord, FormL.major_enc, FormL.dec_enc, took, FormL.member_enc, decSt]

theorem stvc (f : FormL) : Statement (.stvc f) := by
  intro w h
  cases h
  simp [decodeWord, FormL.major_enc, FormL.dec_enc, took, FormL.member_enc, decSt]

theorem stfe (f : FormL) : Statement (.stfe f) := by
  intro w h
  cases h
  simp [decodeWord, FormL.major_enc, FormL.dec_enc, took, FormL.member_enc, decSt]

theorem stx (f : FormL) : Statement (.stx f) := by
  intro w h
  cases h
  simp [decodeWord, FormL.major_enc, FormL.dec_enc, took, FormL.member_enc, decSt]

theorem aadd (f : FormAt) : Statement (.aadd f) := by
  intro w h
  cases h
  simp [decodeWord, FormAt.major_enc, FormAt.dec_enc, took, FormAt.member_enc, decAtom]

theorem amin (f : FormAt) : Statement (.amin f) := by
  intro w h
  cases h
  simp [decodeWord, FormAt.major_enc, FormAt.dec_enc, took, FormAt.member_enc, decAtom]

theorem amax (f : FormAt) : Statement (.amax f) := by
  intro w h
  cases h
  simp [decodeWord, FormAt.major_enc, FormAt.dec_enc, took, FormAt.member_enc, decAtom]

theorem aminu (f : FormAt) : Statement (.aminu f) := by
  intro w h
  cases h
  simp [decodeWord, FormAt.major_enc, FormAt.dec_enc, took, FormAt.member_enc, decAtom]

theorem amaxu (f : FormAt) : Statement (.amaxu f) := by
  intro w h
  cases h
  simp [decodeWord, FormAt.major_enc, FormAt.dec_enc, took, FormAt.member_enc, decAtom]

theorem aand (f : FormAt) : Statement (.aand f) := by
  intro w h
  cases h
  simp [decodeWord, FormAt.major_enc, FormAt.dec_enc, took, FormAt.member_enc, decAtom]

theorem aor (f : FormAt) : Statement (.aor f) := by
  intro w h
  cases h
  simp [decodeWord, FormAt.major_enc, FormAt.dec_enc, took, FormAt.member_enc, decAtom]

theorem axor (f : FormAt) : Statement (.axor f) := by
  intro w h
  cases h
  simp [decodeWord, FormAt.major_enc, FormAt.dec_enc, took, FormAt.member_enc, decAtom]

theorem axch (f : FormAt) : Statement (.axch f) := by
  intro w h
  cases h
  simp [decodeWord, FormAt.major_enc, FormAt.dec_enc, took, FormAt.member_enc, decAtom]

theorem acas (f : FormAt) : Statement (.acas f) := by
  intro w h
  cases h
  simp [decodeWord, FormAt.major_enc, FormAt.dec_enc, took, FormAt.member_enc, decAtom]

theorem ainc (f : FormAt) : Statement (.ainc f) := by
  intro w h
  cases h
  simp [decodeWord, FormAt.major_enc, FormAt.dec_enc, took, FormAt.member_enc, decAtom]

theorem avadd (f : FormAt) : Statement (.avadd f) := by
  intro w h
  cases h
  simp [decodeWord, FormAt.major_enc, FormAt.dec_enc, took, FormAt.member_enc, decAtom]

theorem amind (f : FormAt) : Statement (.amind f) := by
  intro w h
  cases h
  simp [decodeWord, FormAt.major_enc, FormAt.dec_enc, took, FormAt.member_enc, decAtom]

theorem cpy (f : FormCpy) : Statement (.cpy f) := by
  intro w h
  cases h
  simp [decodeWord, FormCpy.major_enc, FormCpy.dec_enc, took, FormCpy.member_enc, decAsync]

theorem cpy2d (f : FormCpy) : Statement (.cpy2d f) := by
  intro w h
  cases h
  simp [decodeWord, FormCpy.major_enc, FormCpy.dec_enc, took, FormCpy.member_enc, decAsync]

theorem cpymc (f : FormCpy) : Statement (.cpymc f) := by
  intro w h
  cases h
  simp [decodeWord, FormCpy.major_enc, FormCpy.dec_enc, took, FormCpy.member_enc, decAsync]

theorem gwbind (f : FormDA) : Statement (.gwbind f) := by
  intro w h
  cases h
  simp [decodeWord, FormDA.major_enc, FormDA.dec_enc, took, FormDA.member_enc, decAsync]

theorem gwfree (f : FormD) : Statement (.gwfree f) := by
  intro w h
  cases h
  simp [decodeWord, FormD.major_enc, FormD.dec_enc, took, FormD.member_enc, decAsync]

theorem arrv (f : FormDAB) : Statement (.arrv f) := by
  intro w h
  cases h
  simp [decodeWord, FormDAB.major_enc, FormDAB.dec_enc, took, FormDAB.member_enc, decAsync]

theorem tshapeAcc (f : FormDA) : Statement (.tshapeAcc f) := by
  intro w h
  cases h
  simp [decodeWord, FormDA.major_enc, FormDA.dec_enc, FormDA.member_enc, decTile]

theorem tshapePred (f : FormShapeP) : Statement (.tshapePred f) := by
  intro w h
  cases h
  simp [decodeWord, FormShapeP.major_enc, FormShapeP.dec_enc, took, FormShapeP.member_enc, decTile, FormDA.dec_shapeP]

theorem tzero (f : FormDG) : Statement (.tzero f) := by
  intro w h
  cases h
  simp [decodeWord, FormDG.major_enc, FormDG.dec_enc, took, FormDG.member_enc, decTile]

theorem tload (f : FormT) : Statement (.tload f) := by
  intro w h
  cases h
  simp [decodeWord, FormT.major_enc, FormT.dec_enc, took, FormT.member_enc, decTile]

theorem tmma (f : FormT) : Statement (.tmma f) := by
  intro w h
  cases h
  simp [decodeWord, FormT.major_enc, FormT.dec_enc, took, FormT.member_enc, decTile]

theorem tmmav (f : FormT) : Statement (.tmmav f) := by
  intro w h
  cases h
  simp [decodeWord, FormT.major_enc, FormT.dec_enc, took, FormT.member_enc, decTile]

theorem tjoin (f : FormT) : Statement (.tjoin f) := by
  intro w h
  cases h
  simp [decodeWord, FormT.major_enc, FormT.dec_enc, took, FormT.member_enc, decTile]

theorem tstore (f : FormT) : Statement (.tstore f) := by
  intro w h
  cases h
  simp [decodeWord, FormT.major_enc, FormT.dec_enc, took, FormT.member_enc, decTile]

theorem tksplit (f : FormT) : Statement (.tksplit f) := by
  intro w h
  cases h
  simp [decodeWord, FormT.major_enc, FormT.dec_enc, took, FormT.member_enc, decTile]

theorem tscan (f : FormDG) : Statement (.tscan f) := by
  intro w h
  cases h
  simp [decodeWord, FormDG.major_enc, FormDG.dec_enc, took, FormDG.member_enc, decTile]

theorem tgrp (f : FormT) : Statement (.tgrp f) := by
  intro w h
  cases h
  simp [decodeWord, FormT.major_enc, FormT.dec_enc, took, FormT.member_enc, decTile]

theorem twake (f : FormC) : Statement (.twake f) := by
  intro w h
  cases h
  simp [decodeWord, FormC.major_enc, FormC.dec_enc, took, FormC.member_enc, decTile]

theorem pscore (f : FormT) : Statement (.pscore f) := by
  intro w h
  cases h
  simp [decodeWord, FormT.major_enc, FormT.dec_enc, took, FormT.member_enc, decPred]

theorem psel (f : FormT) : Statement (.psel f) := by
  intro w h
  cases h
  simp [decodeWord, FormT.major_enc, FormT.dec_enc, took, FormT.member_enc, decPred]

theorem pkerf (f : FormT) : Statement (.pkerf f) := by
  intro w h
  cases h
  simp [decodeWord, FormT.major_enc, FormT.dec_enc, took, FormT.member_enc, decPred]

theorem pffn (f : FormT) : Statement (.pffn f) := by
  intro w h
  cases h
  simp [decodeWord, FormT.major_enc, FormT.dec_enc, took, FormT.member_enc, decPred]

theorem pstat (f : FormDS) : Statement (.pstat f) := by
  intro w h
  cases h
  simp [decodeWord, FormDS.major_enc, FormDS.dec_enc, took, FormDS.member_enc, decPred]

theorem bar (f : FormBar) : Statement (.bar f) := by
  intro w h
  cases h
  simp [decodeWord, FormBar.major_enc, FormBar.dec_enc, took, FormBar.member_enc, decSync]

theorem bara (f : FormBarA) : Statement (.bara f) := by
  intro w h
  cases h
  simp [decodeWord, FormBarA.major_enc, FormBarA.dec_enc, took, FormBarA.member_enc, decSync]

theorem barw (f : FormBarW) : Statement (.barw f) := by
  intro w h
  cases h
  simp [decodeWord, FormBarW.major_enc, FormBarW.dec_enc, took, FormBarW.member_enc, decSync]

theorem barx (f : FormBarX) : Statement (.barx f) := by
  intro w h
  cases h
  simp [decodeWord, FormBarX.major_enc, FormBarX.dec_enc, took, FormBarX.member_enc, decSync]

theorem sobind (f : FormAB) : Statement (.sobind f) := by
  intro w h
  cases h
  simp [decodeWord, FormAB.major_enc, FormAB.dec_enc, took, FormAB.member_enc, decSync]

theorem soacq (f : FormDAB) : Statement (.soacq f) := by
  intro w h
  cases h
  simp [decodeWord, FormDAB.major_enc, FormDAB.dec_enc, took, FormDAB.member_enc, decSync]

theorem sorel (f : FormA) : Statement (.sorel f) := by
  intro w h
  cases h
  simp [decodeWord, FormA.major_enc, FormA.dec_enc, took, FormA.member_enc, decSync]

theorem fence (f : FormFence) : Statement (.fence f) := by
  intro w h
  cases h
  simp [decodeWord, FormFence.major_enc, FormFence.dec_enc, took, FormFence.member_enc, decSync]

theorem hwait (f : FormDA) : Statement (.hwait f) := by
  intro w h
  cases h
  simp [decodeWord, FormDA.major_enc, FormDA.dec_enc, took, FormDA.member_enc, decSync]

theorem htest (f : FormDA) : Statement (.htest f) := by
  intro w h
  cases h
  simp [decodeWord, FormDA.major_enc, FormDA.dec_enc, took, FormDA.member_enc, decSync]

theorem hcancel (f : FormA) : Statement (.hcancel f) := by
  intro w h
  cases h
  simp [decodeWord, FormA.major_enc, FormA.dec_enc, took, FormA.member_enc, decSync]

theorem await (f : FormDAB) : Statement (.await f) := by
  intro w h
  cases h
  simp [decodeWord, FormDAB.major_enc, FormDAB.dec_enc, took, FormDAB.member_enc, decSync]

theorem split (f : FormDAB) : Statement (.split f) := by
  intro w h
  cases h
  simp [decodeWord, FormDAB.major_enc, FormDAB.dec_enc, took, FormDAB.member_enc, decPool]

theorem fork (f : FormDS) : Statement (.fork f) := by
  intro w h
  cases h
  simp [decodeWord, FormDS.major_enc, FormDS.dec_enc, took, FormDS.member_enc, decPool]

theorem rsmp (f : FormDAB) : Statement (.rsmp f) := by
  intro w h
  cases h
  simp [decodeWord, FormDAB.major_enc, FormDAB.dec_enc, took, FormDAB.member_enc, decPool]

theorem linid (f : FormLin) : Statement (.linid f) := by
  intro w h
  cases h
  simp [decodeWord, FormLin.major_enc, FormLin.dec_enc, took, FormLin.member_enc, decPool]

theorem poolq (f : FormPool) : Statement (.poolq f) := by
  intro w h
  cases h
  simp [decodeWord, FormPool.major_enc, FormPool.dec_enc, took, FormPool.member_enc, decPool]

theorem racq (f : FormA) : Statement (.racq f) := by
  intro w h
  cases h
  simp [decodeWord, FormA.major_enc, FormA.dec_enc, took, FormA.member_enc, decRes]

theorem rtry (f : FormDA) : Statement (.rtry f) := by
  intro w h
  cases h
  simp [decodeWord, FormDA.major_enc, FormDA.dec_enc, took, FormDA.member_enc, decRes]

theorem rrel (f : FormA) : Statement (.rrel f) := by
  intro w h
  cases h
  simp [decodeWord, FormA.major_enc, FormA.dec_enc, took, FormA.member_enc, decRes]

theorem rqry (f : FormDS) : Statement (.rqry f) := by
  intro w h
  cases h
  simp [decodeWord, FormDS.major_enc, FormDS.dec_enc, took, FormDS.member_enc, decRes]

theorem rngseed (f : FormAB) : Statement (.rngseed f) := by
  intro w h
  cases h
  simp [decodeWord, FormAB.major_enc, FormAB.dec_enc, took, FormAB.member_enc, decRng]

theorem rngn (f : FormD) : Statement (.rngn f) := by
  intro w h
  cases h
  simp [decodeWord, FormD.major_enc, FormD.dec_enc, took, FormD.member_enc, decRng]

theorem rngf (f : FormD) : Statement (.rngf f) := by
  intro w h
  cases h
  simp [decodeWord, FormD.major_enc, FormD.dec_enc, took, FormD.member_enc, decRng]

theorem uadd (f : FormDAB) : Statement (.uadd f) := by
  intro w h
  cases h
  simp [decodeWord, FormDAB.major_enc, FormDAB.dec_enc, took, FormDAB.member_enc, decUni]

theorem usub (f : FormDAB) : Statement (.usub f) := by
  intro w h
  cases h
  simp [decodeWord, FormDAB.major_enc, FormDAB.dec_enc, took, FormDAB.member_enc, decUni]

theorem uand (f : FormDAB) : Statement (.uand f) := by
  intro w h
  cases h
  simp [decodeWord, FormDAB.major_enc, FormDAB.dec_enc, took, FormDAB.member_enc, decUni]

theorem uor (f : FormDAB) : Statement (.uor f) := by
  intro w h
  cases h
  simp [decodeWord, FormDAB.major_enc, FormDAB.dec_enc, took, FormDAB.member_enc, decUni]

theorem uxor (f : FormDAB) : Statement (.uxor f) := by
  intro w h
  cases h
  simp [decodeWord, FormDAB.major_enc, FormDAB.dec_enc, took, FormDAB.member_enc, decUni]

theorem ushl (f : FormDAB) : Statement (.ushl f) := by
  intro w h
  cases h
  simp [decodeWord, FormDAB.major_enc, FormDAB.dec_enc, took, FormDAB.member_enc, decUni]

theorem ushr (f : FormDAB) : Statement (.ushr f) := by
  intro w h
  cases h
  simp [decodeWord, FormDAB.major_enc, FormDAB.dec_enc, took, FormDAB.member_enc, decUni]

theorem umul (f : FormDAB) : Statement (.umul f) := by
  intro w h
  cases h
  simp [decodeWord, FormDAB.major_enc, FormDAB.dec_enc, took, FormDAB.member_enc, decUni]

theorem uslt (f : FormDAB) : Statement (.uslt f) := by
  intro w h
  cases h
  simp [decodeWord, FormDAB.major_enc, FormDAB.dec_enc, took, FormDAB.member_enc, decUni]

theorem umovx (f : FormDA) : Statement (.umovx f) := by
  intro w h
  cases h
  simp [decodeWord, FormDA.major_enc, FormDA.dec_enc, took, FormDA.member_enc, decUni]

theorem umovs (f : FormDA) : Statement (.umovs f) := by
  intro w h
  cases h
  simp [decodeWord, FormDA.major_enc, FormDA.dec_enc, took, FormDA.member_enc, decUni]

theorem uaddi (f : FormDI) : Statement (.uaddi f) := by
  intro w h
  cases h
  simp [decodeWord, FormDI.major_enc, FormDI.dec_enc, took, FormDI.member_enc, decUni]

theorem pfx (f : FormP) : Statement (.pfx f) := by
  intro w h
  cases h
  simp [decodeWord, FormP.major_enc, FormP.dec_enc, took]

theorem nop : Statement .nop := by
  intro w h
  cases h
  simp [decodeWord, FormC.major_enc, FormC.dec_enc, took, FormC.member_enc, decSys]

theorem tret : Statement .tret := by
  intro w h
  cases h
  simp [decodeWord, FormC.major_enc, FormC.dec_enc, took, FormC.member_enc, decSys]

theorem ifence : Statement .ifence := by
  intro w h
  cases h
  simp [decodeWord, FormC.major_enc, FormC.dec_enc, took, FormC.member_enc, decSys]

theorem syncj : Statement .syncj := by
  intro w h
  cases h
  simp [decodeWord, FormC.major_enc, FormC.dec_enc, took, FormC.member_enc, decCtl]

theorem triggerWrite : Statement .triggerWrite := by
  intro w h
  cases h

theorem cmdtail : Statement .cmdtail := by
  intro w h
  cases h

theorem registerWrite : Statement .registerWrite := by
  intro w h
  cases h

theorem load : Statement .load := by
  intro w h
  cases h

theorem unload : Statement .unload := by
  intro w h
  cases h

theorem install : Statement .install := by
  intro w h
  cases h

theorem remove : Statement .remove := by
  intro w h
  cases h

theorem qcreate : Statement .qcreate := by
  intro w h
  cases h

theorem qdestroy : Statement .qdestroy := by
  intro w h
  cases h

theorem qprio : Statement .qprio := by
  intro w h
  cases h

theorem setth : Statement .setth := by
  intro w h
  cases h

theorem copy : Statement .copy := by
  intro w h
  cases h

theorem walkerPass : Statement .walkerPass := by
  intro w h
  cases h

theorem queueService : Statement .queueService := by
  intro w h
  cases h

theorem waitNodeReread : Statement .waitNodeReread := by
  intro w h
  cases h

theorem queuePark : Statement .queuePark := by
  intro w h
  cases h

theorem queueUnpark : Statement .queueUnpark := by
  intro w h
  cases h

theorem lstReport : Statement .lstReport := by
  intro w h
  cases h

theorem kernelNodeComplete : Statement .kernelNodeComplete := by
  intro w h
  cases h

theorem agentPlace : Statement .agentPlace := by
  intro w h
  cases h

theorem gangReserve : Statement .gangReserve := by
  intro w h
  cases h

theorem groupRetire : Statement .groupRetire := by
  intro w h
  cases h

theorem teamRetire : Statement .teamRetire := by
  intro w h
  cases h

theorem waitSwapOut : Statement .waitSwapOut := by
  intro w h
  cases h

theorem swapOutDone : Statement .swapOutDone := by
  intro w h
  cases h

theorem teamReturn : Statement .teamReturn := by
  intro w h
  cases h

theorem teamResume : Statement .teamResume := by
  intro w h
  cases h

theorem teamSwitch : Statement .teamSwitch := by
  intro w h
  cases h

theorem draftGroup : Statement .draftGroup := by
  intro w h
  cases h

theorem stealRequest : Statement .stealRequest := by
  intro w h
  cases h

theorem stealReply : Statement .stealReply := by
  intro w h
  cases h

theorem diePoolReturn : Statement .diePoolReturn := by
  intro w h
  cases h

theorem copyChunk : Statement .copyChunk := by
  intro w h
  cases h

theorem copyComplete : Statement .copyComplete := by
  intro w h
  cases h

theorem dovetailStart : Statement .dovetailStart := by
  intro w h
  cases h

theorem tileRecordStep : Statement .tileRecordStep := by
  intro w h
  cases h

theorem tileRecordComplete : Statement .tileRecordComplete := by
  intro w h
  cases h

theorem predRecordStep : Statement .predRecordStep := by
  intro w h
  cases h

theorem predRecordComplete : Statement .predRecordComplete := by
  intro w h
  cases h

theorem bankAluOp : Statement .bankAluOp := by
  intro w h
  cases h

theorem releasePerform : Statement .releasePerform := by
  intro w h
  cases h

theorem acquirePerform : Statement .acquirePerform := by
  intro w h
  cases h

theorem orderedReleaseTurn : Statement .orderedReleaseTurn := by
  intro w h
  cases h

theorem ldfeServe : Statement .ldfeServe := by
  intro w h
  cases h

theorem faultServiceRequest : Statement .faultServiceRequest := by
  intro w h
  cases h

theorem faultServiceAnswer : Statement .faultServiceAnswer := by
  intro w h
  cases h

theorem prresp : Statement .prresp := by
  intro w h
  cases h

theorem dbell : Statement .dbell := by
  intro w h
  cases h

theorem hostPostedWrite : Statement .hostPostedWrite := by
  intro w h
  cases h

theorem tinvctlGo : Statement .tinvctlGo := by
  intro w h
  cases h

theorem tinvDone : Statement .tinvDone := by
  intro w h
  cases h

theorem multicastEntryClose : Statement .multicastEntryClose := by
  intro w h
  cases h

theorem escapeChannelEntry : Statement .escapeChannelEntry := by
  intro w h
  cases h

theorem subarrayPowerDown : Statement .subarrayPowerDown := by
  intro w h
  cases h

theorem watchdogExpiry : Statement .watchdogExpiry := by
  intro w h
  cases h

theorem memoryError : Statement .memoryError := by
  intro w h
  cases h

theorem peerTimeout : Statement .peerTimeout := by
  intro w h
  cases h

theorem pconf : Statement .pconf := by
  intro w h
  cases h

theorem phalt : Statement .phalt := by
  intro w h
  cases h

theorem partitionHalted : Statement .partitionHalted := by
  intro w h
  cases h

theorem presume : Statement .presume := by
  intro w h
  cases h

theorem pswapout : Statement .pswapout := by
  intro w h
  cases h

theorem pswapin : Statement .pswapin := by
  intro w h
  cases h

theorem partitionSwapDone : Statement .partitionSwapDone := by
  intro w h
  cases h

theorem preset : Statement .preset := by
  intro w h
  cases h

theorem cswitch : Statement .cswitch := by
  intro w h
  cases h

theorem rings : Statement .rings := by
  intro w h
  cases h

theorem logread : Statement .logread := by
  intro w h
  cases h

theorem health : Statement .health := by
  intro w h
  cases h

theorem fwstage : Statement .fwstage := by
  intro w h
  cases h

theorem fwactFe : Statement .fwactFe := by
  intro w h
  cases h

theorem fwactAgent : Statement .fwactAgent := by
  intro w h
  cases h

theorem fwactService : Statement .fwactService := by
  intro w h
  cases h

theorem serviceCoreFallback : Statement .serviceCoreFallback := by
  intro w h
  cases h

theorem attest : Statement .attest := by
  intro w h
  cases h

theorem attestKey : Statement .attestKey := by
  intro w h
  cases h

theorem pcap : Statement .pcap := by
  intro w h
  cases h

theorem clockStep : Statement .clockStep := by
  intro w h
  cases h

theorem criticalTempStop : Statement .criticalTempStop := by
  intro w h
  cases h

theorem powerUp : Statement .powerUp := by
  intro w h
  cases h

theorem unloadDrained : Statement .unloadDrained := by
  intro w h
  cases h

theorem correctedSoftError : Statement .correctedSoftError := by
  intro w h
  cases h

theorem controlStateError : Statement .controlStateError := by
  intro w h
  cases h

theorem peerPartyAccess : Statement .peerPartyAccess := by
  intro w h
  cases h

theorem kazotLinkPortDown : Statement .kazotLinkPortDown := by
  intro w h
  cases h

theorem kazotLinkPortUp : Statement .kazotLinkPortUp := by
  intro w h
  cases h

theorem serviceCoreRestarted : Statement .serviceCoreRestarted := by
  intro w h
  cases h

theorem dieDomainOff : Statement .dieDomainOff := by
  intro w h
  cases h

theorem dieDomainOn : Statement .dieDomainOn := by
  intro w h
  cases h

theorem hostLinkDown : Statement .hostLinkDown := by
  intro w h
  cases h

theorem hostLinkUp : Statement .hostLinkUp := by
  intro w h
  cases h

theorem mctpControlMessage : Statement .mctpControlMessage := by
  intro w h
  cases h

end Laws.RoundTrip

end Sys2Proof
end

