-- ==== Sys2Proof/Tests/Slice0.lean ====
section
/-! SUPPORT. Tests: words written out decode, ill-formed terms are refused, single steps give the spec's own numbers; and
for every statement with hypotheses a witness that meets them, clause by clause. -/

namespace Sys2Proof.Tests
set_option Elab.async false
open Sys2Proof.Machine Sys2Proof.Safety Sys2Proof.Claims

/-! ### Small states -/

/-- A path at the first word of the test image, with all lanes. -/
def path0 : Path := startPath 0 0x180000000#57 0xFFFFFFFF#32
/-- A group of one path with zero registers. -/
def group0 : Group := blankGroup 0 0 0 0 [path0]
/-- The group with the path so. -/
def groupOf (p : Path) : Group := blankGroup 0 0 0 0 [p]
/-- A team that holds every register granule, a granule of scratchpad and one barrier. -/
def team0 : Team := fetchTeam 0
/-- A page of 64 KiB at 0x10000, held by core 0: read and written, at physical 0x20000. -/
def page0 : Xlat := ⟨0, 0x10000, 16, 0x20000, true, true, false, 0, 0, 0, false, false⟩
/-- The word of an instruction in hand at the first word. -/
def cur0 (i : Instr) : Cur := ⟨0, 0, (encode i).getD 0#32, 0x180000000#57, 0x180000000#57, 0x180000001#57⟩
/-- A powered part with one running partition of 1 MiB, one team and one group, and a word in hand. -/
def scene (i : Instr) (g : Group := group0) (t : Team := team0) : State :=
  { State.reset with
    cur := some (cur0 i)
    fresh := 1
    groups := [g]
    teams := [t]
    images := [fetchImage]
    parts := State.reset.parts.set 0 { Partition.reset with st := .running, hbmSize := 0x100000, rbtPA := 0x40000 }
    cores := State.reset.cores.set 0 { Core.reset with tlb := [page0] }
    svc := { State.reset.svc with powered := true } }
def hand (i : Instr) (g : Group := group0) (t : Team := team0) : Ctx := ⟨g, (g.path 0).getD path0, t, cur0 i⟩
/-- The word starts in the scene. -/
abbrev Ready (i : Instr) (g : Group := group0) (t : Team := team0) : Prop := Starts i (scene i g t) (hand i g t)
/-- A word with no condition of its own, all its fields zero but D = 1, A = 2 and B = 3. -/
def r3 : FormR := ⟨false, 1, 2, 3, false, false⟩
def ru : FormRU := ⟨false, 1, 2, false⟩
def da : FormDA := ⟨false, 1, 2⟩
def dab : FormDAB := ⟨false, 1, 2, 3⟩

/-- The starting conditions of a scene, as they compute. -/
def readyB (i : Instr) (g : Group) (t : Team) : Bool :=
  g.gid == 0 && g.team == 0 && t.uid == 0 && (g.path 0).isSome && wordLegal i (hand i g t)
    && (firstOutside t (namedRegs i (hand i g t))).isNone
theorem scene_ctx (i : Instr) (g : Group) (t : Team) (hg : g.gid = 0) (ht : g.team = 0) (hu : t.uid = 0) (hp : (g.path 0).isSome = true) :
    (scene i g t).ctx = some (hand i g t) := by
  obtain ⟨p, hp⟩ := Option.isSome_iff_exists.mp hp
  simp [State.ctx, scene, hand, State.group, State.team, cur0, hg, ht, hu, hp]
theorem ready_of {i : Instr} {g : Group} {t : Team} (h : readyB i g t = true) : Ready i g t := by
  simp [readyB] at h
  exact ⟨scene_ctx i g t h.1.1.1.1.1 h.1.1.1.1.2 h.1.1.1.2 h.1.1.2, h.1.2, h.2⟩
/-- A word starts in any state with the same path in hand. -/
theorem starts_as {i : Instr} {s s' : State} {c : Ctx} (h : Starts i s c) (hc : s'.cur = s.cur) (hg : s'.groups = s.groups)
    (ht : s'.teams = s.teams) : Starts i s' c :=
  ⟨by simpa [State.ctx, State.group, State.team, hc, hg, ht] using h.1, h.2⟩

theorem ok_of {α β : Type} {x : Except α β} (h : x.isOk = true) : ∃ a, x = .ok a := by
  cases x with
  | ok a => exact ⟨a, rfl⟩
  | error e => cases h
theorem error_of {α β : Type} {x : Except α β} (h : x.isOk = false) : ∃ e, x = .error e := by
  cases x with
  | ok a => cases h
  | error e => exact ⟨e, rfl⟩
theorem some_of {α : Type} {x : Option α} (h : x.isSome = true) : ∃ a, x = some a := Option.isSome_iff_exists.mp h

theorem ok_with {α β : Type} {x : Except α β} (P : β → Prop) [DecidablePred P] (h : (match x with
    | .ok a => decide (P a)
    | .error _ => false) = true) : ∃ a, x = .ok a ∧ P a := by
  cases x with
  | ok a => exact ⟨a, rfl, of_decide_eq_true h⟩
  | error e => cases h
theorem some_with {α : Type} {x : Option α} (P : α → Prop) [DecidablePred P] (h : x.any (fun a => decide (P a)) = true) :
    ∃ a, x = some a ∧ P a := by
  cases x with
  | none => cases h
  | some a => exact ⟨a, rfl, of_decide_eq_true h⟩

theorem numbered_of {s : State} (h : decide ((s.teams.map fun u => u.uid).Nodup ∧ (s.groups.map fun g => g.gid).Nodup ∧
    (∀ u ∈ s.teams, u.uid < s.fresh) ∧ ∀ g ∈ s.groups, g.gid < s.fresh ∧ g.team < s.fresh) = true) : Numbered s := by
  unfold Numbered
  exact of_decide_eq_true h

/-! ### Integer, lane and interval words -/

theorem witness_IntegerLaneResults : ∃ d val, intLane (.add r3) = some (d, val) ∧ Ready (.add r3) :=
  ⟨_, _, rfl, ready_of (by decide +kernel)⟩

def ones3 : Group := group0.setX 3#6 0xFFFFFFFF#32 fun _ => 1#32
theorem witness_IntegerDivision :
    (∃ d den val, divLane (.div r3) = some (d, den, val) ∧ Ready (.div r3) ∧ 0 ∈ act (hand (.div r3)) ∧
      den (hand (.div r3)) 0 = 0#32 ∧ ∀ j, j ∈ act (hand (.div r3)) → den (hand (.div r3)) j = 0#32 → 0 ≤ j) ∧
    ∃ d den val, divLane (.rem r3) = some (d, den, val) ∧ Ready (.rem r3) ones3 ∧
      ∀ l, l ∈ act (hand (.rem r3) ones3) → den (hand (.rem r3) ones3) l ≠ 0#32 :=
  ⟨⟨_, _, _, rfl, ready_of (by decide +kernel), by decide +kernel, by decide +kernel, fun _ _ _ => Fin.zero_le _⟩,
    _, _, _, rfl, ready_of (by decide +kernel), by decide +kernel⟩

theorem witness_UniformResults : (∃ d val, uniValue (.uadd dab) = some (d, val) ∧ Ready (.uadd dab)) ∧ Ready (.umovs da) :=
  ⟨⟨_, _, rfl, ready_of (by decide +kernel)⟩, ready_of (by decide +kernel)⟩

/-- No lane of the path is active. -/
def noLanes : Group := groupOf { path0 with em := 0#32 }
def shX : FormSh := ⟨false, 1, 2, false, 3, false⟩
def shV : FormSh := ⟨false, 1, 2, true, 3, false⟩
/-- A prefix with a fourth operand, x4. -/
def fourth : Group := groupOf { path0 with pfx := some ⟨⟨false, 0, 0, 4, true, false, 0⟩, 0x180000000#57⟩ }
def shF : FormSh := ⟨false, 1, 2, false, 0, false⟩
theorem witness_CrossLaneResults :
    (∃ d val, crossX (.shfl shX) = some (d, val) ∧ Ready (.shfl shX) noLanes ∧ crossLegal (.shfl shX) (hand (.shfl shX) noLanes) ∧
      (hand (.shfl shX) noLanes).active = 0#32) ∧
    (∃ d val, crossX (.shfl shF) = some (d, val) ∧ Ready (.shfl shF) fourth ∧ crossLegal (.shfl shF) (hand (.shfl shF) fourth) ∧
      (hand (.shfl shF) fourth).fourth.isSome = true ∧ (hand (.shfl shF) fourth).active ≠ 0#32) ∧
    (∃ d val, crossV (.shfl shV) = some (d, val) ∧ Ready (.shfl shV) noLanes ∧ crossLegal (.shfl shV) (hand (.shfl shV) noLanes) ∧
      (hand (.shfl shV) noLanes).active = 0#32) ∧
    ∃ d val, crossV (.shfl shV) = some (d, val) ∧ Ready (.shfl shV) ∧ crossLegal (.shfl shV) (hand (.shfl shV)) ∧
      (hand (.shfl shV)).active ≠ 0#32 :=
  ⟨⟨_, _, rfl, ready_of (by decide +kernel), fun h => absurd h (by decide +kernel), by decide +kernel⟩,
    ⟨_, _, rfl, ready_of (by decide +kernel), fun _ => rfl, by decide +kernel, by decide +kernel⟩,
    ⟨_, _, rfl, ready_of (by decide +kernel), fun h => absurd h (by decide +kernel), by decide +kernel⟩,
    _, _, rfl, ready_of (by decide +kernel), fun h => absurd h (by decide +kernel), by decide +kernel⟩

theorem witness_VoteResults : Ready (.vote ⟨false, 1, 2, 3, false⟩) noLanes ∧ Ready (.qvote da) :=
  ⟨ready_of (by decide +kernel), ready_of (by decide +kernel)⟩

theorem witness_IntervalResults : (∃ d val, itvLane (.vadd r3) = some (d, val) ∧ Ready (.vadd r3)) ∧
    (∃ d val, boundLane (.vlo ru) = some (d, val) ∧ Ready (.vlo ru)) ∧ Ready (.vbis ru) :=
  ⟨⟨_, _, rfl, ready_of (by decide +kernel)⟩, ⟨_, _, rfl, ready_of (by decide +kernel)⟩, ready_of (by decide +kernel)⟩

theorem witness_PredicateResults : ∃ d val, logicLane (.vclt r3) = some (d, val) ∧ Ready (.vclt r3) :=
  ⟨_, _, rfl, ready_of (by decide +kernel)⟩

theorem witness_ConversionResults : (∃ d val, packX (.dp4i8 r3) = some (d, val) ∧ Ready (.dp4i8 r3)) ∧
    (∃ d val, packV (.cvtiv ru) = some (d, val) ∧ Ready (.cvtiv ru)) ∧
    (∃ d val n, pointX (.cvtvi ru) = some (d, val, n) ∧ Ready (.cvtvi ru)) ∧ Ready (.cvtvd ⟨false, 2, 1, false⟩) :=
  ⟨⟨_, _, rfl, ready_of (by decide +kernel)⟩, ⟨_, _, rfl, ready_of (by decide +kernel)⟩,
    ⟨_, _, _, rfl, ready_of (by decide +kernel)⟩, ready_of (by decide +kernel)⟩

theorem witness_RandomResults : Ready (.rngf ⟨false, 1⟩) ∧ Ready (.rngseed ⟨false, 2, 3⟩) :=
  ⟨ready_of (by decide +kernel), ready_of (by decide +kernel)⟩

/-- The point 0: a nonempty interval, and a point of it that is not negative. -/
theorem witness_points : (pointsOf (.mk (.fin ⟨0, 0⟩) (.fin ⟨0, 0⟩))).Nonempty ∧
    (0 : ℝ) ∈ pointsOf (.mk (.fin ⟨0, 0⟩) (.fin ⟨0, 0⟩)) :=
  have h : (0 : ℝ) ∈ pointsOf (.mk (.fin ⟨0, 0⟩) (.fin ⟨0, 0⟩)) := by simp [pointsOf, bdReal, dyReal]
  ⟨⟨0, h⟩, h⟩
theorem witness_IntervalOperationsAreExact : (pointsOf (.mk .ninf .pinf)).Nonempty ∧ (pointsOf (.mk (.fin ⟨0, 0⟩) (.fin ⟨0, 0⟩))).Nonempty :=
  ⟨⟨0, by simp [pointsOf, bdReal]⟩, witness_points.1⟩
theorem witness_QuotientsAndRootsEnclose : ∃ a b x y, x ∈ pointsOf a ∧ y ∈ pointsOf b ∧ y ≠ 0 ∧ 0 ≤ x :=
  ⟨.mk .ninf .pinf, .mk .ninf .pinf, 0, 1, by simp [pointsOf, bdReal], by simp [pointsOf, bdReal], by norm_num, le_refl _⟩
theorem witness_ComparisonsAnswerForAllPairs : ∃ a b, (pointsOf a).Nonempty ∧ (pointsOf b).Nonempty :=
  ⟨_, _, witness_IntervalOperationsAreExact⟩

/-! ### Masks, branches, calls and traps -/

theorem witness_MaskWords : (∃ d val, maskValue (.msave ⟨false, 1⟩) = some (d, val) ∧ Ready (.msave ⟨false, 1⟩)) ∧
    Ready (.mrest ⟨false, 1⟩) ∧ Ready (.mcnt da) :=
  ⟨⟨_, _, rfl, ready_of (by decide +kernel)⟩, ready_of (by decide +kernel), ready_of (by decide +kernel)⟩

def so : FormSO := ⟨false, 1, 0⟩
/-- q1 is T in lane 0 alone, or in every lane. -/
def oneTrue : Group := group0.setQ 1#6 1#32 fun _ => 1#2
def allTrue : Group := group0.setQ 1#6 0xFFFFFFFF#32 fun _ => 1#2
theorem witness_Branches :
    (∃ off g taken, uniformBranch (.bra ⟨false, 0⟩) = some (off, g, taken) ∧ Ready (.bra ⟨false, 0⟩) ∧ taken (hand (.bra ⟨false, 0⟩)) = true) ∧
    (∃ off g taken, uniformBranch (.bmnz so) = some (off, g, taken) ∧ Ready (.bmnz so) ∧ taken (hand (.bmnz so)) = false) ∧
    (∃ r off on, qBranch (.bqt so) = some (r, off, on) ∧ Ready (.bqt so) allTrue ∧
      (hand (.bqt so) allTrue).p.em &&& ~~~takenLanes (hand (.bqt so) allTrue) r on = 0#32) ∧
    (∃ r off on, qBranch (.bqt so) = some (r, off, on) ∧ Ready (.bqt so) ∧
      (hand (.bqt so)).p.em &&& ~~~takenLanes (hand (.bqt so)) r on ≠ 0#32 ∧ takenLanes (hand (.bqt so)) r on = 0#32) ∧
    (∃ r off on, qBranch (.bqt so) = some (r, off, on) ∧ Ready (.bqt so) oneTrue ∧
      (hand (.bqt so) oneTrue).p.em &&& ~~~takenLanes (hand (.bqt so) oneTrue) r on ≠ 0#32 ∧
      takenLanes (hand (.bqt so) oneTrue) r on ≠ 0#32) ∧ Ready (.bq3 ⟨false, 1, 1, 2⟩) oneTrue :=
  ⟨⟨_, _, _, rfl, ready_of (by decide +kernel), by decide +kernel⟩, ⟨_, _, _, rfl, ready_of (by decide +kernel), by decide +kernel⟩,
    ⟨_, _, _, rfl, ready_of (by decide +kernel), by decide +kernel⟩, ⟨_, _, _, rfl, ready_of (by decide +kernel), by decide +kernel, by decide +kernel⟩,
    ⟨_, _, _, rfl, ready_of (by decide +kernel), by decide +kernel, by decide +kernel⟩, ready_of (by decide +kernel)⟩

def dak : FormDAK := ⟨false, 1, 2, 0⟩
theorem witness_CallsAndTransfers : Ready (.call ⟨false, 1, 4⟩) ∧
    ∃ a k link ks l0, transferOf (.calli dak) = some (a, k, link) ∧ Ready (.calli dak) ∧ team0.info.keeps[k.toNat]? = some ks ∧
      keepOutside team0 ks = none ∧ (act (hand (.calli dak))).head? = some l0 ∧
      (∀ l ∈ act (hand (.calli dak)), group0.getX a l = group0.getX a l0) ∧
      (scene (.calli dak)).namesCode team0.core 0 (codeAt team0.info.base (group0.getX a l0).toNat) = true :=
  ⟨ready_of (by decide +kernel), _, _, _, _, 0, rfl, ready_of (by decide +kernel), rfl, by decide +kernel, by decide +kernel, by decide +kernel,
    by decide +kernel⟩

/-- At trap level 1 or 2, with a return address in the image. -/
def atLevel (n : Fin 3) : Group := { groupOf { path0 with level := n } with tl := n, tepc1 := 0x18000000C#57, tepc2 := 0x18000000C#57 }
/-- The service group. -/
def slot63 : Group := { group0 with slot := 63 }
def dr (n : BitVec 14) : FormDR := ⟨false, 1, n⟩
theorem witness_SystemRegisters :
    (∃ w, Ready (.srd (dr 0x042)) ∧ sysValue (scene (.srd (dr 0x042))) (hand (.srd (dr 0x042))) 0x042 = some w) ∧
    Ready (.srd (dr 0x020)) ∧ Ready (.srd (dr 0x021)) ∧
    (∃ h, Ready (.swr (dr 0x003)) (atLevel 2) ∧ swrLevel 0x003 ≤ (atLevel 2).tl.val ∧ sysWritten (atLevel 2) 0#32 0x003 = some h) ∧
    (Ready (.swr (dr 0x042)) ∧ readOnly 0x042) ∧ (Ready (.swr (dr 0x020)) slot63 ∧ slot63.slot = 63) ∧ Ready (.swr (dr 0x021)) slot63 :=
  ⟨⟨_, ready_of (by decide +kernel), rfl⟩, ready_of (by decide +kernel), ready_of (by decide +kernel),
    ⟨_, ready_of (by decide +kernel), by decide +kernel, rfl⟩, ⟨ready_of (by decide +kernel), by unfold readOnly; decide⟩,
    ⟨ready_of (by decide +kernel), rfl⟩, ready_of (by decide +kernel)⟩

theorem not_inWait {c : Ctx} (h : c.p.wait = none) : ¬ inWait c := fun ⟨_, hw, _⟩ => by simp [h] at hw
/-- A team that holds one register granule. -/
def narrow : Team := { team0 with hold := ⟨1, 1, 0, 1⟩ }
theorem witness_IllegalWordsTrap :
    decodeWord 0x7C000000#32 = .error .dictPair ∧
    (isWord (.cvtvd ru) = true ∧ wordLegal (.cvtvd ru) (hand (.cvtvd ru)) = false) ∧
    (isWord (.add r3) = true ∧ ownChecks (.add r3) = false ∧ wordLegal (.add ⟨false, 8, 2, 3, false, false⟩)
        (hand (.add ⟨false, 8, 2, 3, false, false⟩) group0 narrow) = true ∧ ¬ inWait (hand (.add ⟨false, 8, 2, 3, false, false⟩) group0 narrow) ∧
      firstOutside narrow (namedRegs (.add ⟨false, 8, 2, 3, false, false⟩) (hand (.add ⟨false, 8, 2, 3, false, false⟩) group0 narrow))
        = some (false, 8)) ∧
    (wordLegal (.swr (dr 0x003)) (hand (.swr (dr 0x003))) = true ∧ group0.slot ≠ 63 ∧ group0.tl.val < swrLevel 0x003) ∧
    (wordLegal (.dictld ⟨false, 10, 511, 1⟩) (hand (.dictld ⟨false, 10, 511, 1⟩)) = true ∧
      (scene (.dictld ⟨false, 10, 511, 1⟩)).bankUsed 0 1 = false ∧ (group0.getS 10#6).toNat % 4 = 0) ∧
    (∃ k, wordLegal (.exits ⟨false, 1, 15⟩) (hand (.exits ⟨false, 1, 15⟩)) = true ∧ group0.tl = 0 ∧ team0.info.keeps[15]? = some k) ∧
    (wordLegal (.fsvc ⟨false, 1⟩) (hand (.fsvc ⟨false, 1⟩)) = true ∧ group0.tl ≠ 2) ∧
    (scene (.exit ⟨false⟩) (atLevel 1)).ctx = some (hand (.exit ⟨false⟩) (atLevel 1)) ∧ (atLevel 1).tl ≠ 0 := by
  refine ⟨by decide, ⟨by decide, by decide +kernel⟩, ⟨by decide, rfl, by decide +kernel, not_inWait rfl, by decide +kernel⟩,
    ⟨by decide +kernel, by decide +kernel, by decide +kernel⟩, ⟨by decide +kernel, by decide +kernel, by decide +kernel⟩,
    ⟨_, by decide +kernel, rfl, rfl⟩, ⟨by decide +kernel, by decide⟩, scene_ctx _ _ _ rfl rfl rfl rfl, by decide⟩

theorem witness_TrapWords : Ready .nop ∧ Ready (.trap ⟨false, 0x3FFF⟩) ∧ Ready (.bkpt ⟨false, 0x3FFF⟩) ∧
    (Ready .tret (atLevel 1) ∧ tretIllegal (hand .tret (atLevel 1)) = false ∧ (atLevel 1).tl = 1 ∧
      (scene .tret (atLevel 1)).namesCode 0 0 (atLevel 1).tepc1 = true) ∧
    (Ready .tret (atLevel 2) ∧ tretIllegal (hand .tret (atLevel 2)) = false ∧ (atLevel 2).tl = 2 ∧
      (scene .tret (atLevel 2)).namesCode 0 0 (atLevel 2).tepc2 = true) ∧ Ready .tret ∧ noVector team0 = false :=
  ⟨ready_of (by decide +kernel), ready_of (by decide +kernel), ready_of (by decide +kernel),
    ⟨ready_of (by decide +kernel), by decide +kernel, rfl, by decide +kernel⟩, ⟨ready_of (by decide +kernel), by decide +kernel, rfl, by decide +kernel⟩,
    ready_of (by decide +kernel), by decide +kernel⟩

/-- A group at TL2 with a cause of its own, whether a fault or not, and with a service that has ended. -/
def faultIs (cause : Word) (w : Option Wait) : Group := { groupOf { path0 with level := 2, wait := w } with tl := 2, tca2 := cause }
def dictGroup : Group := slot63.setS 10#6 0x10000#32
/-- The scene at cycle 1, with another path whose word has issued at cycle 0 and waits. -/
def waitingMate : Group := { group0 with
  paths := [{ path0 with members := 1#32, em := 1#32 },
    { startPath 1 0x180000018#57 2#32 with wait := some ⟨.collective, false, 0#32, 0, some ⟨0#32, 0x180000018#57, 0x180000019#57, none⟩⟩ }], nextPid := 2 }
def cycleOne (i : Instr) (g : Group) : State := { scene i g with now := 1 }
theorem witness_AgentAndServiceWords : Ready (.cyc ⟨false, 1⟩) ∧ (Ready .ifence ∧ (hand .ifence).earlierWord 0 = false) ∧
    (Starts .ifence (cycleOne .ifence waitingMate) (hand .ifence waitingMate) ∧ (hand .ifence waitingMate).earlierWord 1 = true) ∧
    (∃ bs, Ready (.dictld ⟨false, 10, 1, 1⟩) dictGroup ∧ dictGroup.slot = 63 ∧
      (scene (.dictld ⟨false, 10, 1, 1⟩) dictGroup).bankUsed 0 1 = false ∧
      (scene (.dictld ⟨false, 10, 1, 1⟩) dictGroup).bytesAt 0 0 none 0x10000 8 = .ok bs) ∧
    (Ready (.fsvc ⟨false, 1⟩) (atLevel 2) ∧ isFaultCause ((atLevel 2).tca2.setWidth 8) = false) ∧
    (∃ d, Ready (.fsvc ⟨false, 1⟩) (faultIs 6 (some ⟨.fsvc 0 .read, true, 0, 0, none⟩)) ∧
      isFaultCause ((faultIs 6 (some ⟨.fsvc 0 .read, true, 0, 0, none⟩)).tca2.setWidth 8) = true ∧
      (hand (.fsvc ⟨false, 1⟩) (faultIs 6 (some ⟨.fsvc 0 .read, true, 0, 0, none⟩))).ended = some d) ∧
    Ready (.fsvc ⟨false, 1⟩) (faultIs 7 none) ∧ isFaultCause ((faultIs 7 none).tca2.setWidth 8) = true ∧
      (hand (.fsvc ⟨false, 1⟩) (faultIs 7 none)).ended = none :=
  ⟨ready_of (by decide +kernel), ⟨ready_of (by decide +kernel), by decide +kernel⟩,
    ⟨starts_as (ready_of (by decide +kernel) : Ready .ifence waitingMate) rfl rfl rfl, by decide +kernel⟩, have ⟨bs, hb⟩ := ok_of (by decide +kernel)
    ⟨bs, ready_of (by decide +kernel), rfl, by decide +kernel, hb⟩,
    ⟨ready_of (by decide +kernel), by decide +kernel⟩, ⟨_, ready_of (by decide +kernel), by decide +kernel, rfl⟩,
    ready_of (by decide +kernel), by decide +kernel, rfl⟩




/-! ### Prefixes and paths -/

def entry0 : Entry := ⟨0, some 0x180000000#57, none, 0⟩
/-- A path in an entry whose reconvergence point is its packet, alone, or with another path that has not arrived. -/
def joining : Group := { groupOf { path0 with entry := some 0 } with entries := [entry0] }
def joiningTwo : Group := { joining with paths := [{ path0 with entry := some 0, members := 1#32, em := 1#32 },
  { startPath 1 0x180000018#57 2#32 with entry := some 0 }], nextPid := 2 }
/-- The other path has arrived, in a frame whose forking lane has not departed; or at trap level 1. -/
def atJoin (n : Fin 3) : Path := { startPath 1 0x180000000#57 2#32 with entry := some 0, level := n, wait := some ⟨.syncj, false, 0#32, 0, none⟩ }
def joinedTwo (n : Fin 3) : Group := { joining with
  tl := n
  paths := [{ path0 with entry := some 0, members := 1#32, em := 1#32, level := n }, atJoin n], nextPid := 2
  frames := [⟨0, 0, 1#32, 0, 0, .none, 1#32, Tab.const 32 0#64⟩] }
theorem others_arrived (n : Fin 3) : ∀ q ∈ (joinedTwo n).others (hand .syncj (joinedTwo n)).p, atSyncj (hand .syncj (joinedTwo n)).p q := by
  intro q hq
  have h : (joinedTwo n).others (hand .syncj (joinedTwo n)).p = [atJoin n] := by
    clear hq
    revert n
    decide +kernel
  rw [h, List.mem_singleton] at hq
  subst hq
  exact ⟨rfl, rfl, rfl, _, rfl, rfl⟩
theorem no_frame_due : noFrameDue (hand .syncj (joinedTwo 0)) entry0 := by
  intro fr hf
  have : fr = ⟨0, 0, 1#32, 0, 0, .none, 1#32, Tab.const 32 0#64⟩ := by simpa [hand, joinedTwo] using hf
  subst this
  refine .inr ⟨.inr (by decide +kernel), fun q hq hne => ?_⟩
  have : q.entry = some 0 := by
    simp [hand, joinedTwo, atJoin] at hq
    rcases hq with rfl | rfl <;> rfl
  exact absurd this hne
/-- A kept-register set that names everything: its items take 33 units of 32 bytes. -/
def keepAll : Keep := ⟨BitVec.allOnes 64, BitVec.allOnes 64, BitVec.allOnes 64, 0xFF#8, 0xFE#8⟩
/-- A core whose region of the pool is full. -/
def fullPool (s : State) (c : Ctx) : State := { s with items := List.replicate 16 (c.item c.g 1 0#57 false 0 keepAll 0 0#64 .none) }
def dk : FormDK := ⟨false, 2, 15⟩
theorem full_ready {i : Instr} {g : Group} {t : Team} {c : Ctx} (h : Ready i g t) : Starts i (fullPool (scene i g t) c) (hand i g t) :=
  starts_as h rfl rfl rfl
theorem witness_PrefixAndPathWords :
    (Ready (.pfx ⟨false, 0, 4, 0, false, false, 0⟩) ∧ path0.pfx = none) ∧ (Ready (.exit ⟨false⟩) ∧ group0.tl = 0) ∧
    Ready (.joinat ⟨false, 4⟩) ∧ (Ready .syncj ∧ ¬ ∃ e, honoured (hand .syncj) e) ∧
    ((scene (.pfx ⟨false, 0, 4, 0, false, false, 0⟩) fourth).ctx = some (hand (.pfx ⟨false, 0, 4, 0, false, false, 0⟩) fourth) ∧
        (hand (.pfx ⟨false, 0, 4, 0, false, false, 0⟩) fourth).p.pfx ≠ none) ∧
    (Ready .syncj joiningTwo ∧ honoured (hand .syncj joiningTwo) entry0 ∧
      ∃ q ∈ joiningTwo.others (hand .syncj joiningTwo).p, ¬ atSyncj (hand .syncj joiningTwo).p q) ∧
    (Ready .syncj (joinedTwo 0) ∧ honoured (hand .syncj (joinedTwo 0)) entry0 ∧
      (∀ q ∈ (joinedTwo 0).others (hand .syncj (joinedTwo 0)).p, atSyncj (hand .syncj (joinedTwo 0)).p q) ∧
      noFrameDue (hand .syncj (joinedTwo 0)) entry0) ∧
    (Ready .syncj (joinedTwo 1) ∧ honoured (hand .syncj (joinedTwo 1)) entry0 ∧
      (∀ q ∈ (joinedTwo 1).others (hand .syncj (joinedTwo 1)).p, atSyncj (hand .syncj (joinedTwo 1)).p q) ∧ (joinedTwo 1).tl ≠ 0) ∧
    (∃ k s', Ready (.exits dk) slot63 ∧ slot63.slot = 63 ∧ team0.info.keeps[15]? = some k ∧
      slot63.paths = [(hand (.exits dk) slot63).p] ∧ slot63.entries = [] ∧ (codeAt team0.info.base 0).toNat % 12 = 0 ∧
      keepOutside team0 k = none ∧ (scene (.exits dk) slot63).placeAll 0 (exitItems (hand (.exits dk) slot63) dk k) = some s') ∧
    ∃ k, Starts (.exits dk) (fullPool (scene (.exits dk) (atLevel 1)) (hand (.exits dk) (atLevel 1))) (hand (.exits dk) (atLevel 1)) ∧
      (atLevel 1).tl ≠ 0 ∧ team0.info.keeps[15]? = some k ∧
      (atLevel 1).paths = [(hand (.exits dk) (atLevel 1)).p] ∧ (atLevel 1).entries = [] ∧ keepOutside team0 k = none ∧
      (fullPool (scene (.exits dk) (atLevel 1)) (hand (.exits dk) (atLevel 1))).placeAll 0
        (exitItems (hand (.exits dk) (atLevel 1)) dk k) = none := by
  obtain ⟨s', hs⟩ := some_of (x := (scene (.exits dk) slot63).placeAll 0 (exitItems (hand (.exits dk) slot63) dk ⟨0, 0, 0, 0, 0⟩))
    (by decide +kernel)
  refine ⟨⟨ready_of (by decide +kernel), rfl⟩, ⟨ready_of (by decide +kernel), rfl⟩, ready_of (by decide +kernel),
    ⟨ready_of (by decide +kernel), ?_⟩, ⟨scene_ctx _ _ _ rfl rfl rfl rfl, by decide +kernel⟩,
    ⟨ready_of (by decide +kernel), ⟨rfl, by decide +kernel⟩, { startPath 1 0x180000018#57 2#32 with entry := some 0 }, by decide +kernel,
      fun h => absurd h.1 (by decide +kernel)⟩,
    ⟨ready_of (by decide +kernel), ⟨rfl, by decide +kernel⟩, others_arrived 0, no_frame_due⟩,
    ⟨ready_of (by decide +kernel), ⟨rfl, by decide +kernel⟩, others_arrived 1, by decide⟩,
    ⟨⟨0, 0, 0, 0, 0⟩, s', ready_of (by decide +kernel), rfl, rfl, rfl, rfl, by decide +kernel, by decide +kernel, hs⟩,
    ⟨⟨0, 0, 0, 0, 0⟩, full_ready (ready_of (by decide +kernel)), by decide +kernel, rfl, rfl, rfl, by decide +kernel, by decide +kernel⟩⟩
  rintro ⟨e, he, -⟩
  cases he

/-! ### Memory words -/

/-- s2 names the test page; x2 names it too, in every lane, with x3 zero above it. -/
def based : Group := (group0.setS 2#6 0x10000#32).setX 2#6 0xFFFFFFFF#32 fun _ => 0x10000#32
/-- A word of global memory at the last offset that the form reaches, by s2; a word of scratchpad, by x2. -/
def fg : FormL := ⟨false, 0, 4, 2, true, 63⟩
def fs : FormL := ⟨false, 1, 4, 5, false, 0⟩
/-- The first line of the scratchpad full. -/
def fullLine : Team := { team0 with full := [0] }
/-- Lanes 0 and 1 reach the page and the end of it: lane 1's address is outside. -/
def apart2 : Group := based.setX 2#6 2#32 fun _ => 0x20000#32
def fx : FormL := ⟨false, 0, 4, 2, false, 0⟩
theorem witness_LoadResults :
    (∃ size n, plainLoad (.ldw fg) = some (fg, size, n) ∧ Ready (.ldw fg) based ∧
      (scene (.ldw fg) based).accessTrap (hand (.ldw fg) based) 0 size .read .plain true ((hand (.ldw fg) based).accs fg size) = none) ∧
    ∃ size conv, itvLoad (.ldv fg) = some (fg, size, conv) ∧ Ready (.ldv fg) based ∧
      (scene (.ldv fg) based).accessTrap (hand (.ldv fg) based) 0 size .read .plain true ((hand (.ldv fg) based).accs fg size) = none :=
  ⟨⟨4, 1, rfl, ready_of (by decide +kernel), by decide +kernel⟩, 8, _, rfl, ready_of (by decide +kernel), by decide +kernel⟩

/-- Another path has waited for the full line since cycle 0, in a scene at cycle 1. -/
def aheadOne : Group := { group0 with
  paths := [{ path0 with members := 1#32, em := 1#32 },
    { startPath 1 0x180000018#57 2#32 with wait := some ⟨.ldfe fs [(1, 0, 0)] 0#32 0x180000019#57, false, 0#32, 0, none⟩ }], nextPid := 2 }
def behind : State := { scene (.ldfe fs) aheadOne fullLine with now := 1 }
theorem witness_SpecialLoadResults :
    (Ready (.ldff fx) apart2 ∧ (∀ x ∈ (hand (.ldff fx) apart2).accs fx 4, alignTrap 4 x = none ∧
        (scene (.ldff fx) apart2).rangeTrap team0 0 4 .plain x = none) ∧
      (scene (.ldff fx) apart2).accessTrap (hand (.ldff fx) apart2) 0 4 .read .plain true
        (((hand (.ldff fx) apart2).accs fx 4).take 1) = none) ∧
    (Ready (.ldfe fs) group0 fullLine ∧
      (scene (.ldfe fs) group0 fullLine).accessTrap (hand (.ldfe fs) group0 fullLine) 1 4 .read .fullEmpty false
        ((hand (.ldfe fs) group0 fullLine).accs fs 4) = none ∧
      (∀ k ∈ feLines (scene (.ldfe fs) group0 fullLine) (hand (.ldfe fs) group0 fullLine) fs, k = (0, 0)) ∧
      IsFull (scene (.ldfe fs) group0 fullLine) (0, 0) ∧
      (scene (.ldfe fs) group0 fullLine).ldfeAhead 0 (feLines (scene (.ldfe fs) group0 fullLine) (hand (.ldfe fs) group0 fullLine) fs).eraseDups
        = false) ∧
    (Ready (.ldfe fs) ∧ (scene (.ldfe fs)).accessTrap (hand (.ldfe fs)) 1 4 .read .fullEmpty false ((hand (.ldfe fs)).accs fs 4) = none ∧
      (0, 0) ∈ feLines (scene (.ldfe fs)) (hand (.ldfe fs)) fs ∧ ¬ IsFull (scene (.ldfe fs)) (0, 0)) ∧
    (Starts (.ldfe fs) behind (hand (.ldfe fs) aheadOne fullLine) ∧
      behind.accessTrap (hand (.ldfe fs) aheadOne fullLine) 1 4 .read .fullEmpty false ((hand (.ldfe fs) aheadOne fullLine).accs fs 4) = none ∧
      behind.ldfeAhead behind.now (feLines behind (hand (.ldfe fs) aheadOne fullLine) fs).eraseDups = true) ∧
    (Ready (.ldmc fg) based ∧ (scene (.ldmc fg) based).accessTrap (hand (.ldmc fg) based) 0 4 .read .plain false
      ((hand (.ldmc fg) based).accs fg 4) = none) ∧
    (Ready (.ldun fg) based ∧ (act (hand (.ldun fg) based)).head? = some 0 ∧
      (scene (.ldun fg) based).accessTrap (hand (.ldun fg) based) 0 4 .read .plain true
        [⟨none, (hand (.ldun fg) based).address fg 4 0⟩] = none) ∧ Ready (.ldun fg) noLanes ∧ act (hand (.ldun fg) noLanes) = [] := by
  refine ⟨⟨ready_of (by decide +kernel), by decide +kernel, by decide +kernel⟩, ⟨ready_of (by decide +kernel), by decide +kernel, by decide +kernel,
    ⟨fullLine, rfl, by decide +kernel⟩, by decide +kernel⟩, ⟨ready_of (by decide +kernel), by decide +kernel, by decide +kernel, ?_⟩,
    ⟨starts_as (ready_of (by decide +kernel) : Ready (.ldfe fs) aheadOne fullLine) rfl rfl rfl, by decide +kernel, by decide +kernel⟩,
    ⟨ready_of (by decide +kernel), by decide +kernel⟩, ⟨ready_of (by decide +kernel), by decide +kernel, by decide +kernel⟩,
    ready_of (by decide +kernel), by decide +kernel⟩
  rintro ⟨u, hu, hm⟩
  cases hu
  exact absurd hm (by decide +kernel)

/-- Stores are left on their way. -/
def lately (i : Instr) (g : Group) : State := { scene i g with late := true }
theorem witness_StoreResults : ∃ size val, plainStore (.stw fg) = some (fg, size, val) ∧
    (Ready (.stw fg) based ∧ (scene (.stw fg) based).accessTrap (hand (.stw fg) based) 0 size .write .plain false
      ((hand (.stw fg) based).accs fg size) = none ∧ (scene (.stw fg) based).late = false) ∧
    Starts (.stw fg) (lately (.stw fg) based) (hand (.stw fg) based) ∧ fg.space = 0#2 ∧ (lately (.stw fg) based).late = true ∧
      (lately (.stw fg) based).accessTrap (hand (.stw fg) based) 0 size .write .plain false ((hand (.stw fg) based).accs fg size) = none :=
  ⟨4, _, rfl, ⟨ready_of (by decide +kernel), by decide +kernel, rfl⟩,
    starts_as (ready_of (by decide +kernel) : Ready (.stw fg) based) rfl rfl rfl, rfl, rfl, by decide +kernel⟩

/-- A gang of one, with a Veneer of one granule. -/
def ganged : Team := { team0 with info := { team0.info with gang := some ⟨0, 1, 4⟩, ven := 1 } }
/-- An address of the Veneer in the cluster space. -/
def fv : FormL := ⟨false, 2, 4, 2, true, 0⟩
def veneer : Group := group0.setS 2#6 0x407FC#32
theorem witness_SpecialStoreResults :
    (Ready (.stfe fs) ∧ (scene (.stfe fs)).accessTrap (hand (.stfe fs)) 1 4 .write .fullEmpty false ((hand (.stfe fs)).accs fs 4) = none) ∧
    Ready (.stx fv) veneer ganged ∧ (scene (.stx fv) veneer ganged).accessTrap (hand (.stx fv) veneer ganged) 2 4 .write .veneerBack false
      ((hand (.stx fv) veneer ganged).accs fv 4) = none :=
  ⟨⟨ready_of (by decide +kernel), by decide +kernel⟩, ready_of (by decide +kernel), by decide +kernel⟩

def fa : FormAt := ⟨false, 4, 2, 6, true, false⟩
theorem reaches_page0 : ∀ l ∈ act (hand (.aadd fa) based),
    (scene (.aadd fa) based).reach 0 0 ((hand (.aadd fa) based).atomAddr fa.a l) .write = .page page0 ∧
      page0.phys ((hand (.aadd fa) based).atomAddr fa.a l) = 0x20000 := by decide +kernel
theorem witness_AtomicResults : ∃ n new, atomicOp (.aadd fa) = some (fa, n, new) ∧ Ready (.aadd fa) based ∧
    BankSees (scene (.aadd fa) based) (hand (.aadd fa) based) fa n ∧
    (scene (.aadd fa) based).accessTrap (hand (.aadd fa) based) 0 n .write .atomic false (atomAccs (hand (.aadd fa) based) fa) = none := by
  refine ⟨4, _, rfl, ready_of (by decide +kernel), ⟨fun w hw => absurd hw (by simp [scene, State.reset]), fun l hl x hx => ?_,
    .inl fun l hl x hx => ?_⟩, by decide +kernel⟩
  · have h := reaches_page0 l hl
    cases hx.symm.trans h.1
    rw [h.2]
    exact ⟨by decide +kernel, by decide +kernel⟩
  · cases hx.symm.trans (reaches_page0 l hl).1
    decide

/-- Lane 1 is misaligned, out of the scratchpad, or in no page, and the lanes before it are not. -/
def odd1 : Group := based.setX 2#6 2#32 fun _ => 0x10001#32
def far1 : Group := group0.setX 5#6 2#32 fun _ => 0x1000#32
def apartTl : Group := { apart2 with tl := 1, paths := [{ path0 with level := 1 }] }
theorem witness_AccessChecksInOrder :
    (∃ size need k, checked (.ldw fx) = some (fx, size, need, k) ∧ Ready (.ldw fx) odd1 ∧ 1 ∈ act (hand (.ldw fx) odd1) ∧
      (hand (.ldw fx) odd1).address fx size 1 % size ≠ 0 ∧
      ∀ j ∈ act (hand (.ldw fx) odd1), (hand (.ldw fx) odd1).address fx size j % size ≠ 0 → 1 ≤ j) ∧
    (∃ size need k, checked (.stw fs) = some (fs, size, need, k) ∧ Ready (.stw fs) far1 ∧
      (∀ j ∈ act (hand (.stw fs) far1), (hand (.stw fs) far1).address fs size j % size = 0) ∧
      (scene (.stw fs) far1).rangeTrap team0 1 size k ⟨some 1, (hand (.stw fs) far1).address fs size 1⟩ ≠ none ∧
      ∀ j ∈ act (hand (.stw fs) far1), (scene (.stw fs) far1).rangeTrap team0 1 size k ⟨some j, (hand (.stw fs) far1).address fs size j⟩
        ≠ none → 1 ≤ j) ∧
    ∃ size need k, checked (.stw fx) = some (fx, size, need, k) ∧ Ready (.stw fx) apart2 ∧
      (∀ j ∈ act (hand (.stw fx) apart2), (hand (.stw fx) apart2).address fx size j % size = 0 ∧
        (scene (.stw fx) apart2).rangeTrap team0 0 size k ⟨some j, (hand (.stw fx) apart2).address fx size j⟩ = none) ∧
      (hand (.stw fx) apart2).address fx size 1 < 2 ^ 57 ∧
      (scene (.stw fx) apart2).reach 0 0 ((hand (.stw fx) apart2).address fx size 1) need = .noMap false ∧
      (∀ j ∈ act (hand (.stw fx) apart2), j < 1 → ∃ x, (hand (.stw fx) apart2).address fx size j < 2 ^ 57 ∧
        (scene (.stw fx) apart2).reach 0 0 ((hand (.stw fx) apart2).address fx size j) need = .page x) ∧ apart2.tl = 0 ∧
      -- the same at trap level 1, the region under service or not
      (Ready (.stw fx) apartTl ∧ (scene (.stw fx) apartTl).reach 0 0 ((hand (.stw fx) apartTl).address fx size 1) need = .noMap false ∧
        (scene (.stw fx) apartTl).serving 0 ((hand (.stw fx) apartTl).address fx size 1) = false) ∧
      { scene (.stw fx) apartTl with faults := [⟨0, 2, true, false, none, true, none⟩] }.serving 0 ((hand (.stw fx) apartTl).address fx size 1) = true := by
  refine ⟨⟨4, .read, .plain, rfl, ready_of (by decide +kernel), by decide +kernel, by decide +kernel, by decide +kernel⟩,
    ⟨4, .write, .plain, rfl, ready_of (by decide +kernel), by decide +kernel, by decide +kernel, by decide +kernel⟩,
    4, .write, .plain, rfl, ready_of (by decide +kernel), by decide +kernel, by decide +kernel, by decide +kernel, ?_, rfl,
    ⟨ready_of (by decide +kernel), by decide +kernel, by decide +kernel⟩, by decide +kernel⟩
  intro j _ hj
  have : j = 0 := Fin.ext (by have := Fin.lt_def.mp hj; simp at this; simpa using this)
  subst this
  exact ⟨page0, by decide +kernel, by decide +kernel⟩


/-! ### Engines -/

/-- The scene with bytes at the physical place of the test page. -/
def withBytes (s : State) (a : Nat) (bs : List Byte) : State := { s with mem := memPut s.mem a bs }
def dwords (l : List Nat) : List Byte := l.flatMap (natBytes 8)
/-- h1 pending under engine 1, 2 or 3; a handle that failed in h2. -/
def pend (eng : Nat) : Group := (based.setH 1#6 (BitVec.ofNat 32 (1 + 256 * eng))).setH 2#6 3#32
def cp : FormCpy := ⟨false, 1, 2, false, true⟩
/-- A copy that releases object 5 of the test table, which is ordered. -/
def orderedCopy (i : Instr) (g : Group) : State :=
  { scene i g with mem := memPut (memPut [] 0x20000 (dwords [0x10000, 0x10040, 64, 0, 0, 0, 0, 0x20005])) 0x400A0 (dwords [2 ^ 58]) }
/-- A block with a reserved bit. -/
def badCopy (i : Instr) (g : Group) : State := withBytes (scene i g) 0x20000 (dwords [0, 0, 64, 1])
theorem witness_CopyWords :
    (∃ kind b, copyForm (.cpy cp) = some (cp, kind) ∧ Starts (.cpy cp) (orderedCopy (.cpy cp) based) (hand (.cpy cp) based) ∧
      ¬ pending based 1#6 ∧ (hand (.cpy cp) based).pairAddr 2 % 64 = 0 ∧
      (orderedCopy (.cpy cp) based).blockAt 0 0 ((hand (.cpy cp) based).pairAddr 2) 8 = .ok b ∧
      (orderedCopy (.cpy cp) based).ccbBad team0 kind b = none ∧ blockBit b 7 17 = true ∧
      ((orderedCopy (.cpy cp) based).rbEntry 0 (blockField b 7 0 12)).kind = 2) ∧
    (Ready (.cpy2d cp) (pend 1) ∧ pending (pend 1) 1#6) ∧
    ∃ kind b info, copyForm (.cpymc cp) = some (cp, kind) ∧ Starts (.cpymc cp) (badCopy (.cpymc cp) based) (hand (.cpymc cp) based) ∧
      ¬ pending based 1#6 ∧ (hand (.cpymc cp) based).pairAddr 2 % 64 = 0 ∧
      (badCopy (.cpymc cp) based).blockAt 0 0 ((hand (.cpymc cp) based).pairAddr 2) 8 = .ok b ∧
      (badCopy (.cpymc cp) based).ccbBad team0 kind b = some info := by
  have h1 : (match (orderedCopy (.cpy cp) based).blockAt 0 0 ((hand (.cpy cp) based).pairAddr 2) 8 with
    | .ok b => decide ((orderedCopy (.cpy cp) based).ccbBad team0 0 b = none ∧ blockBit b 7 17 = true ∧
      ((orderedCopy (.cpy cp) based).rbEntry 0 (blockField b 7 0 12)).kind = 2)
    | .error _ => false) = true := by decide +kernel
  have h2 : (match (badCopy (.cpymc cp) based).blockAt 0 0 ((hand (.cpymc cp) based).pairAddr 2) 8 with
    | .ok b => ((badCopy (.cpymc cp) based).ccbBad team0 2 b).isSome
    | .error _ => false) = true := by decide +kernel
  refine ⟨?_, ⟨ready_of (by decide +kernel), by unfold pending; decide +kernel⟩, ?_⟩
  · split at h1
    · rename_i b hb
      exact ⟨0, b, rfl, starts_as (ready_of (by decide +kernel) : Ready (.cpy cp) based) rfl rfl rfl, by unfold pending; decide +kernel,
        by decide +kernel, hb, of_decide_eq_true h1⟩
    · cases h1
  · split at h2
    · rename_i b hb
      obtain ⟨info, hi⟩ := some_of h2
      exact ⟨2, b, info, rfl, starts_as (ready_of (by decide +kernel) : Ready (.cpymc cp) based) rfl rfl rfl, by unfold pending; decide +kernel,
        by decide +kernel, hb, hi⟩
    · cases h2

/-- A window of one row of 4 bytes at the test page. -/
def oneRow (i : Instr) : State := withBytes (scene i based) 0x20000 (dwords [0x10000, 4, 0x10000, 1])
/-- s3 names the last record of the granule; s2 is 1, to reach the target. -/
def arrival : Group := (group0.setS 2#6 0xFF0#32).setS 3#6 1#32
theorem witness_WindowAndArrivalWords :
    (∃ b, Starts (.gwbind da) (oneRow (.gwbind da)) (hand (.gwbind da) based) ∧ (hand (.gwbind da) based).pairAddr 2 % 8 = 0 ∧
      (oneRow (.gwbind da)).blockAt 0 0 ((hand (.gwbind da) based).pairAddr 2) 4 = .ok b ∧ windowBad b = none) ∧
    Ready (.gwfree ⟨false, 15⟩) ∧
    ∃ u off, Ready (.arrv dab) arrival ∧ (arrival.getS 2#6).toNat % 16 = 0 ∧
      (scene (.arrv dab) arrival).scratch team0 1 (arrival.getS 2#6).toNat = some (u, off) ∧ off + 16 ≤ u.hold.scr * 4096 ∧ u.hold.scr ≤ 64 := by
  have h1 : (match (oneRow (.gwbind da)).blockAt 0 0 ((hand (.gwbind da) based).pairAddr 2) 4 with
    | .ok b => decide (windowBad b = none)
    | .error _ => false) = true := by decide +kernel
  refine ⟨?_, ready_of (by decide +kernel), team0, 0xFF0, ready_of (by decide +kernel), by decide +kernel, rfl, by decide, by decide⟩
  split at h1
  · rename_i b hb
    exact ⟨b, starts_as (ready_of (by decide +kernel) : Ready (.gwbind da) based) rfl rfl rfl, by decide +kernel, hb, of_decide_eq_true h1⟩
  · cases h1

/-- A team that holds an accumulator slot under the name a0. -/
def slotTeam : Team := { team0 with hold := ⟨24, 1, 1, 1⟩, acc := team0.acc.set 0 0x80#8 }
def tl : FormT := ⟨false, 1, 2, 0, false, true⟩
/-- A legal block of zeros for TLOAD. -/
def zeroBlock (i : Instr) (g : Group) : State := scene i g slotTeam
/-- A record without a handle in the queue. -/
def rec0 (c : Ctx) (s : State) : Record := c.newRecord s 1 [0] []
/-- A full queue of the core. -/
def fullQueue (i : Instr) (g : Group) : State :=
  { scene i g slotTeam with records := List.replicate 32 (rec0 (hand i g slotTeam) (scene i g slotTeam)) }
def clearN : Group := { based with n := based.n.set 0 false }
def tz : FormDG := ⟨false, 0, 0⟩
theorem witness_TileAndPredictorWords :
    (∃ fn eng n al need sync b, recordForm (.tload tl) = some (tl, fn, eng, n, al, need, sync) ∧ Ready (.tload tl) based slotTeam ∧
      based.getN 0#6 = true ∧ ¬ pending based 1#6 ∧ (hand (.tload tl) based slotTeam).pairAddr 2 % al = 0 ∧
      (scene (.tload tl) based slotTeam).blockAt 0 0 ((hand (.tload tl) based slotTeam).pairAddr 2) n = .ok b ∧
      (∀ k ∈ namesOf fn b, k < 8 → named slotTeam k = true) ∧ blockLegal (scene (.tload tl) based slotTeam) (hand (.tload tl) based slotTeam) fn b ∧
      queued (scene (.tload tl) based slotTeam) 0 + need ≤ 32) ∧
    (∃ fn eng n al need sync, recordForm (.pscore tl) = some (tl, fn, eng, n, al, need, sync) ∧ Ready (.pscore tl) clearN ∧
      clearN.getN 0#6 = false) ∧
    (∃ fn eng n al need sync, recordForm (.pffn tl) = some (tl, fn, eng, n, al, need, sync) ∧ Ready (.pffn tl) (pend 3) ∧
      (pend 3).getN 0#6 = true ∧ pending (pend 3) 1#6) ∧
    (∃ fn eng n al need sync b, recordForm (.tload tl) = some (tl, fn, eng, n, al, need, sync) ∧
      Starts (.tload tl) (fullQueue (.tload tl) based) (hand (.tload tl) based slotTeam) ∧ based.getN 0#6 = true ∧ ¬ pending based 1#6 ∧
      (hand (.tload tl) based slotTeam).pairAddr 2 % al = 0 ∧
      (fullQueue (.tload tl) based).blockAt 0 0 ((hand (.tload tl) based slotTeam).pairAddr 2) n = .ok b ∧
      (∀ k ∈ namesOf fn b, k < 8 → named slotTeam k = true) ∧ blockLegal (fullQueue (.tload tl) based) (hand (.tload tl) based slotTeam) fn b ∧
      32 < queued (fullQueue (.tload tl) based) 0 + need) ∧
    (∃ fn d on block ok, slotForm (.tzero tz) = some (fn, d, on, block, ok) ∧ Ready (.tzero tz) clearN ∧ on (hand (.tzero tz) clearN) = false) ∧
    (∃ fn d on block ok, slotForm (.tzero tz) = some (fn, d, on, block, ok) ∧ Ready (.tzero tz) group0 slotTeam ∧
      on (hand (.tzero tz) group0 slotTeam) = true ∧ named slotTeam 0 = true ∧ ok (hand (.tzero tz) group0 slotTeam) = true ∧
      queued (scene (.tzero tz) group0 slotTeam) 0 + 1 ≤ 32) ∧
    (∃ fn d on block ok, slotForm (.tzero tz) = some (fn, d, on, block, ok) ∧
      Starts (.tzero tz) (fullQueue (.tzero tz) group0) (hand (.tzero tz) group0 slotTeam) ∧
      on (hand (.tzero tz) group0 slotTeam) = true ∧ named slotTeam 0 = true ∧ ok (hand (.tzero tz) group0 slotTeam) = true ∧
      32 < queued (fullQueue (.tzero tz) group0) 0 + 1) ∧
    Ready (.tshapePred ⟨false, 2, 15⟩) ∧ Ready (.twake ⟨false⟩) ∧ Ready (.pstat ⟨false, 1, 37⟩) := by
  have h1 : (match (scene (.tload tl) based slotTeam).blockAt 0 0 ((hand (.tload tl) based slotTeam).pairAddr 2) 8 with
    | .ok b => decide ((∀ k ∈ namesOf 2 b, k < 8 → named slotTeam k = true) ∧ tcbBad 2 b = none)
    | .error _ => false) = true := by decide +kernel
  have h2 : (match (fullQueue (.tload tl) based).blockAt 0 0 ((hand (.tload tl) based slotTeam).pairAddr 2) 8 with
    | .ok b => decide ((∀ k ∈ namesOf 2 b, k < 8 → named slotTeam k = true) ∧ tcbBad 2 b = none)
    | .error _ => false) = true := by decide +kernel
  refine ⟨?_, ⟨_, _, _, _, _, _, rfl, ready_of (by decide +kernel), by decide +kernel⟩,
    ⟨_, _, _, _, _, _, rfl, ready_of (by decide +kernel), by decide +kernel, by unfold pending; decide +kernel⟩,
    ?_, ⟨_, _, _, _, _, rfl, ready_of (by decide +kernel), by decide +kernel⟩,
    ⟨_, _, _, _, _, rfl, ready_of (by decide +kernel), by decide +kernel, by decide +kernel, rfl, by decide +kernel⟩,
    ⟨_, _, _, _, _, rfl, starts_as (ready_of (by decide +kernel) : Ready (.tzero tz) group0 slotTeam) rfl rfl rfl, by decide +kernel,
      by decide +kernel, rfl, by decide +kernel⟩,
    ready_of (by decide +kernel), ready_of (by decide +kernel), ready_of (by decide +kernel)⟩
  · split at h1
    · rename_i b hb
      have h := of_decide_eq_true h1
      exact ⟨2, _, _, _, _, _, b, rfl, ready_of (by decide +kernel), by decide +kernel, by unfold pending; decide +kernel, by decide +kernel, hb,
        h.1, ⟨h.2, fun h => absurd h (by decide)⟩, by decide +kernel⟩
    · cases h1
  · split at h2
    · rename_i b hb
      have h := of_decide_eq_true h2
      exact ⟨2, _, _, _, _, _, b, rfl, starts_as (ready_of (by decide +kernel) : Ready (.tload tl) based slotTeam) rfl rfl rfl, by decide +kernel,
        by unfold pending; decide +kernel, by decide +kernel, hb, h.1, ⟨h.2, fun h => absurd h (by decide)⟩, by decide +kernel⟩
    · cases h2


/-! ### Barriers, sync objects and futures -/

/-- s4 names barrier 0; s5 expects 0, 32 or 33 members, or is a token. -/
def expects (n : Word) : Group := group0.setS 5#6 n
def br : FormBar := ⟨false, 4, 5, true, true⟩
def ba : FormBarA := ⟨false, 1, 4, 5, false⟩
def bw : FormBarW := ⟨false, 4, 5, true⟩
def bx : FormBarX := ⟨false, true, false⟩
/-- A group with a second path that is not at a barrier. -/
def company : Group := { expects 0#32 with paths := [{ path0 with members := 1#32, em := 1#32 }, startPath 1 0x180000018#57 2#32], nextPid := 2 }
/-- An armed flag set. -/
def armedOne : Group := { expects 1#32 with gsr := 0x101#32 }
/-- A barrier wait that has ended. -/
def endedWait : Wait := ⟨.bar 0 true 0x180000001#57, true, 0#32, 0, none⟩
def ended (gsr : Word) : Group := { groupOf { path0 with wait := some endedWait } with gsr := gsr }
theorem quiet0 : othersQuiet team0 0 := by
  intro n x hn hx
  match n, hn, hx with
  | n + 1, _, hx => simp [team0, fetchTeam] at hx
theorem noArmed_of {i : Instr} {g : Group} {t : Team} {n : Nat} (h : g.gsr = 0#32) : noArmed (scene i g t) n := by
  intro x _ _ y hy k _ hk
  have hm : y ∈ [g] := List.mem_of_find?_eq_some hy
  rw [List.mem_singleton.mp hm, h] at hk
  exact absurd hk.1 (by simp)
theorem witness_BarrierArrivals :
    (Ready (.bar br) company ∧ company.tl = 0 ∧ (hand (.bar br) company).p.wait = none ∧ legalArrival team0 0 0 ∧ othersQuiet team0 0 ∧
      ¬ othersIn (scene (.bar br) company) (hand (.bar br) company) 0) ∧
    (Ready (.bar br) (expects 0#32) ∧ legalArrival team0 0 0 ∧ othersQuiet team0 0 ∧
      othersIn (scene (.bar br) (expects 0#32)) (hand (.bar br) (expects 0#32)) 0 ∧ noArmed (scene (.bar br) (expects 0#32)) 0 ∧
      Numbered (scene (.bar br) (expects 0#32))) ∧
    (Ready (.bar br) (expects 2016#32) ∧ legalArrival team0 0 2016 ∧ othersQuiet team0 0 ∧ arrivals team0 0 path0 < 2016) ∧
    (Ready (.bar br) (expects 32#32) ∧ legalArrival team0 0 32 ∧ othersQuiet team0 0 ∧ 32 ≤ arrivals team0 0 path0 ∧
      noArmed (scene (.bar br) (expects 32#32)) 0 ∧ Numbered (scene (.bar br) (expects 32#32))) ∧
    (Ready (.bara ba) (expects 33#32) ∧ (expects 33#32).tl = 0 ∧ legalArrival team0 0 33 ∧ othersQuiet team0 0 ∧
      arrivals team0 0 path0 < 33) ∧
    (Ready (.bara ba) (expects 1#32) ∧ legalArrival team0 0 1 ∧ othersQuiet team0 0 ∧ 1 ≤ arrivals team0 0 path0 ∧
      noArmed (scene (.bara ba) (expects 1#32)) 0 ∧ Numbered (scene (.bara ba) (expects 1#32))) ∧
    (Ready (.barw bw) (expects 0#32) ∧ (hand (.barw bw) (expects 0#32)).ended = none ∧ 0 < team0.hold.bar ∧
      phaseOf team0 0 = ((expects 0#32).getS 5#6).setWidth 16) ∧
    (Ready (.barw bw) (expects 1#32) ∧ phaseOf team0 0 ≠ ((expects 1#32).getS 5#6).setWidth 16 ∧ (expects 1#32).armed = 0) ∧
    Ready (.barw bw) armedOne ∧ phaseOf team0 0 ≠ (armedOne.getS 5#6).setWidth 16 ∧ armedOne.armed ≠ 0 ∧ noVector team0 = false := by
  have hl : ∀ e, e ≤ 2016 → legalArrival team0 0 e := fun e he => ⟨by decide, by decide, he, by
    intro x hx ho
    have : x = Barrier.idle := by simpa [team0, fetchTeam] using hx.symm
    subst this
    cases ho⟩
  refine ⟨⟨ready_of (by decide +kernel), rfl, rfl, hl _ (by decide), quiet0, ?_⟩,
    ⟨ready_of (by decide +kernel), hl _ (by decide), quiet0, ?_, noArmed_of (by decide +kernel), numbered_of (by decide +kernel)⟩,
    ⟨ready_of (by decide +kernel), hl _ (by decide), quiet0, by decide +kernel⟩,
    ⟨ready_of (by decide +kernel), hl _ (by decide), quiet0, by decide +kernel, noArmed_of (by decide +kernel), numbered_of (by decide +kernel)⟩,
    ⟨ready_of (by decide +kernel), by decide +kernel, hl _ (by decide), quiet0, by decide +kernel⟩,
    ⟨ready_of (by decide +kernel), hl _ (by decide), quiet0, by decide +kernel, noArmed_of (by decide +kernel), numbered_of (by decide +kernel)⟩,
    ⟨ready_of (by decide +kernel), rfl, by decide, by decide +kernel⟩,
    ⟨ready_of (by decide +kernel), by decide +kernel, by decide +kernel⟩,
    ready_of (by decide +kernel), by decide +kernel, by decide +kernel, by decide⟩
  · rintro ⟨-, h⟩
    exact absurd (h (startPath 1 0x180000018#57 2#32) (by simp [hand, company]) (by decide)) (by decide +kernel)
  · refine ⟨?_, ?_⟩
    · intro g hg _ hne
      have : g = expects 0#32 := by simpa [scene] using hg
      subst this
      exact absurd rfl hne
    · intro p hp hne
      have : p = path0 := by simpa [hand, expects, Group.setS, group0, blankGroup] using hp
      subst this
      exact absurd rfl hne

/-- Two paths of a gang of one team, the other in BARX or not. -/
def barxTwo (w : Option Wait) : Group := { group0 with
  paths := [{ path0 with members := 1#32, em := 1#32 }, { startPath 1 0x180000018#57 2#32 with wait := w }], nextPid := 2 }
def inBarxWait : Wait := ⟨.barx false 0x180000019#57, false, 0#32, 0, none⟩
theorem witness_BarrierEnds :
    (∃ acq, barrierWord (.bar br) = some acq ∧ Ready (.bar br) (ended 0#32) ∧ (hand (.bar br) (ended 0#32)).ended ≠ none ∧
      (ended 0#32).gsr &&& ((ended 0#32).gsr >>> 8) &&& 0x3F#32 = 0#32) ∧
    (∃ acq, barrierWord (.bar br) = some acq ∧ Ready (.bar br) (ended 0x2020#32) ∧ (hand (.bar br) (ended 0x2020#32)).ended ≠ none ∧
      (ended 0x2020#32).gsr &&& ((ended 0x2020#32).gsr >>> 8) &&& 0x3F#32 ≠ 0#32) ∧
    (Ready (.barx bx) ∧ (hand (.barx bx)).ended = none ∧ team0.info.gang = none) ∧
    (Ready (.barx bx) (barxTwo none) ganged ∧ ganged.info.gang ≠ none ∧
      ¬ othersInBarx (scene (.barx bx) (barxTwo none) ganged) (hand (.barx bx) (barxTwo none) ganged)) ∧
    Ready (.barx bx) (barxTwo (some inBarxWait)) ganged ∧
      othersInBarx (scene (.barx bx) (barxTwo (some inBarxWait)) ganged) (hand (.barx bx) (barxTwo (some inBarxWait)) ganged) ∧
      (∀ u ∈ gangOf (scene (.barx bx) (barxTwo (some inBarxWait)) ganged) (hand (.barx bx) (barxTwo (some inBarxWait)) ganged),
        noArmed (scene (.barx bx) (barxTwo (some inBarxWait)) ganged) u.uid) ∧ Numbered (scene (.barx bx) (barxTwo (some inBarxWait)) ganged) := by
  refine ⟨⟨true, rfl, ready_of (by decide +kernel), by decide +kernel, by decide +kernel⟩, ⟨true, rfl, ready_of (by decide +kernel),
      by decide +kernel, by decide +kernel⟩, ⟨ready_of (by decide +kernel), rfl, rfl⟩, ⟨ready_of (by decide +kernel), by decide, ?_⟩,
    ready_of (by decide +kernel), ⟨?_, ?_⟩, fun u _ => noArmed_of rfl, numbered_of (by decide +kernel)⟩
  · rintro ⟨-, h⟩
    exact absurd (h _ (List.mem_cons_of_mem _ List.mem_cons_self) (by decide +kernel)) (by decide +kernel)
  · intro u _ g hg _ hne
    have : g = barxTwo (some inBarxWait) := by simpa [scene] using hg
    subst this
    exact absurd rfl hne
  · intro p hp hne
    have : p = { path0 with members := 1#32, em := 1#32 } ∨ p = { startPath 1 0x180000018#57 2#32 with wait := some inBarxWait } := by
      simpa [hand, barxTwo] using hp
    rcases this with rfl | rfl
    · exact absurd rfl hne
    · rfl

/-- s4 is a control word for object 1: free (kind 0), or kind 1 to 3 at level 2; s6 to s9 name a region. -/
def object (w : Word) : Group := (((group0.setS 4#6 w).setS 6#6 0x10000#32).setS 8#6 0x1000#32)
def threeLevels : Team := { team0 with info := { team0.info with levels := [⟨0, 0⟩, ⟨1, 1⟩, ⟨6, 6⟩] } }
/-- The test table's object 1 has a kind, and counts of releases and issues. -/
def objectIs (i : Instr) (g : Group) (kind rels issued : Nat) : State :=
  withBytes (scene i g) 0x40020 (dwords [2 ^ 57 * kind, 0, rels + 2 ^ 32 * issued])
def sb : FormAB := ⟨false, 4, 6⟩
def sq : FormDAB := ⟨false, 1, 4, 5⟩
def sr : FormA := ⟨false, 4⟩
theorem object_ready {i : Instr} {g : Group} {kind rels issued : Nat} (h : readyB i g team0 = true) :
    Starts i (objectIs i g kind rels issued) (hand i g) := starts_as (ready_of h : Ready i g) rfl rfl rfl
/-- An acquire that has ended. -/
def acquired : Group := { groupOf { path0 with wait := some ⟨.soacq 1 0#32, true, 7#32, 0, none⟩ } with s := (object 1#32).s }
theorem witness_SyncObjectWords :
    (Ready (.sobind sb) (object 1#32) ∧ ((scene (.sobind sb) (object 1#32)).part 0).st ≠ .unconfigured ∧
      ((object 1#32).getS 4#6).toNat / 2 ^ 19 = 0 ∧ ((object 1#32).getS 4#6).getLsbD 15 = false ∧ ((object 1#32).getS 4#6).toNat / 2 ^ 12 % 8 = 0 ∧
      (scene (.sobind sb) (object 1#32)).acquireWaits 0 (low12 ((object 1#32).getS 4#6)) = false ∧
      ((scene (.sobind sb) (object 1#32)).rbEntry 0 1).issued = ((scene (.sobind sb) (object 1#32)).rbEntry 0 1).rels) ∧
    (∃ level, Ready (.sobind sb) (object 0x21001#32) threeLevels ∧ ((object 0x21001#32).getS 4#6).toNat / 2 ^ 12 % 8 = 1 ∧
      2 ≤ ((object 0x21001#32).getS 4#6).toNat / 2 ^ 16 % 8 ∧
      threeLevels.info.levels[((object 0x21001#32).getS 4#6).toNat / 2 ^ 16 % 8]? = some level ∧
      ((object 0x21001#32).getS 6#6).toNat + 2 ^ 32 * ((object 0x21001#32).getS 7#6).toNat < 2 ^ 57 ∧
      ((object 0x21001#32).getS 8#6).toNat + 2 ^ 32 * ((object 0x21001#32).getS 9#6).toNat < 2 ^ 40 ∧
      ((scene (.sobind sb) (object 0x21001#32) threeLevels).rbEntry 0 1).kind = 0) ∧
    (Starts (.soacq sq) (objectIs (.soacq sq) (object 0x20001#32) 1 0xFFFFFFFF 0) (hand (.soacq sq) (object 0x20001#32)) ∧
      ((object 0x20001#32).getS 4#6).toNat / 2 ^ 18 = 0 ∧ ((object 0x20001#32).getS 4#6).getLsbD 17 = true ∧
      ((objectIs (.soacq sq) (object 0x20001#32) 1 0xFFFFFFFF 0).rbEntry 0 1).kind ≠ 0 ∧
      2 ^ 31 ≤ (((objectIs (.soacq sq) (object 0x20001#32) 1 0xFFFFFFFF 0).rbEntry 0 1).rels - (object 0x20001#32).getS 5#6).toNat) ∧
    (Starts (.soacq sq) (objectIs (.soacq sq) (object 0x20001#32) 3 0x7FFFFFFF 0) (hand (.soacq sq) (object 0x20001#32)) ∧
      ((objectIs (.soacq sq) (object 0x20001#32) 3 0x7FFFFFFF 0).rbEntry 0 1).kind ≠ 0 ∧
      (((objectIs (.soacq sq) (object 0x20001#32) 3 0x7FFFFFFF 0).rbEntry 0 1).rels - (object 0x20001#32).getS 5#6).toNat < 2 ^ 31) ∧
    (∃ w, Ready (.soacq sq) acquired ∧ (hand (.soacq sq) acquired).ended = some w) ∧
    (Starts (.sorel sr) (objectIs (.sorel sr) (object 1#32) 3 0 0) (hand (.sorel sr) (object 1#32)) ∧ ((object 1#32).getS 4#6).toNat / 2 ^ 17 = 0 ∧
      ((objectIs (.sorel sr) (object 1#32) 3 0 0).rbEntry 0 1).kind = 3) ∧
    (Starts (.sorel sr) (objectIs (.sorel sr) (object 1#32) 1 0 0) (hand (.sorel sr) (object 1#32)) ∧
      ((objectIs (.sorel sr) (object 1#32) 1 0 0).rbEntry 0 1).kind = 1) ∧
    (Starts (.sorel sr) (objectIs (.sorel sr) (object 1#32) 2 5 5) (hand (.sorel sr) (object 1#32)) ∧
      ((objectIs (.sorel sr) (object 1#32) 2 5 5).rbEntry 0 1).kind = 2 ∧
      ((objectIs (.sorel sr) (object 1#32) 2 5 5).rbEntry 0 1).issued = ((objectIs (.sorel sr) (object 1#32) 2 5 5).rbEntry 0 1).rels) ∧
    (Starts (.sorel sr) (objectIs (.sorel sr) (object 1#32) 2 5 6) (hand (.sorel sr) (object 1#32)) ∧
      ((objectIs (.sorel sr) (object 1#32) 2 5 6).rbEntry 0 1).issued ≠ ((objectIs (.sorel sr) (object 1#32) 2 5 6).rbEntry 0 1).rels) ∧
    Ready (.fence ⟨false, 31, 7, true, true⟩) :=
  ⟨⟨ready_of (by decide +kernel), by decide +kernel, by decide +kernel, by decide +kernel, by decide +kernel, by decide +kernel, by decide +kernel⟩,
    ⟨⟨6, 6⟩, ready_of (by decide +kernel), by decide +kernel, by decide +kernel, by decide +kernel, by decide +kernel, by decide +kernel, by decide +kernel⟩,
    ⟨object_ready (by decide +kernel), by decide +kernel, by decide +kernel, by decide +kernel, by decide +kernel⟩,
    ⟨object_ready (by decide +kernel), by decide +kernel, by decide +kernel⟩, ⟨7#32, ready_of (by decide +kernel), by decide +kernel⟩,
    ⟨object_ready (by decide +kernel), by decide +kernel, by decide +kernel⟩, ⟨object_ready (by decide +kernel), by decide +kernel⟩,
    ⟨object_ready (by decide +kernel), by decide +kernel, by decide +kernel⟩, ⟨object_ready (by decide +kernel), by decide +kernel⟩,
    ready_of (by decide +kernel)⟩

def dah : FormDA := ⟨false, 9, 1⟩
/-- s4 names the last record of the granule. -/
def lastRecord : Group := group0.setS 4#6 0xFF0#32
/-- A record whose generation is 2^23 - 1, just not behind the token 0. -/
def genTeam : Team := { team0 with scr := memPut [] 0xFF0 (natBytes 8 ((2 ^ 23 - 1) * 2 ^ 40)) }
theorem witness_FutureWords :
    (Ready (.hwait dah) (pend 1) ∧ pending (pend 1) 1#6) ∧ (Ready (.hwait dah) ∧ ¬ pending group0 1#6) ∧ Ready (.htest dah) ∧
    (Ready (.hcancel ⟨false, 1⟩) ∧ (group0.getH 1#6).toNat % 4 = 0) ∧
    (Ready (.hcancel ⟨false, 2⟩) (pend 1) ∧ ((pend 1).getH 2#6).toNat % 4 = 3) ∧
    (Ready (.hcancel ⟨false, 1⟩) (pend 1) ∧ pending (pend 1) 1#6 ∧ ((pend 1).getH 1#6).toNat / 256 % 16 = 1) ∧
    (Ready (.hcancel ⟨false, 1⟩) (pend 3) ∧ pending (pend 3) 1#6 ∧ ((pend 3).getH 1#6).toNat / 256 % 16 = 3) ∧
    (Ready (.await sq) lastRecord genTeam ∧ (lastRecord.getS 4#6).toNat % 16 = 0 ∧ (lastRecord.getS 4#6).toNat + 16 ≤ genTeam.hold.scr * 4096 ∧
      (genTeam.arrival 0xFF0).gen ≠ 0 ∧ ((genTeam.arrival 0xFF0).gen + 2 ^ 24 - 0) % 2 ^ 24 < 2 ^ 23) ∧
    Ready (.await sq) lastRecord ∧ (team0.arrival 0xFF0).gen = 0 := by
  unfold pending
  exact ⟨⟨ready_of (by decide +kernel), by decide +kernel⟩, ⟨ready_of (by decide +kernel), by decide +kernel⟩, ready_of (by decide +kernel),
    ⟨ready_of (by decide +kernel), by decide +kernel⟩, ⟨ready_of (by decide +kernel), by decide +kernel⟩,
    ⟨ready_of (by decide +kernel), by decide +kernel, by decide +kernel⟩, ⟨ready_of (by decide +kernel), by decide +kernel, by decide +kernel⟩,
    ⟨ready_of (by decide +kernel), by decide +kernel, by decide +kernel, by decide +kernel, by decide +kernel⟩,
    ready_of (by decide +kernel), by decide +kernel⟩


/-! ### Claims, forks and populations -/

/-- s4 is a claim vector. -/
def wants (w : Word) : Group := group0.setS 4#6 w
def rq : FormA := ⟨false, 4⟩
def rt : FormDA := ⟨false, 1, 4⟩
/-- 63 granules of scratchpad, 8 accumulator slots and 255 barriers: the whole headroom of the test team. -/
def most : Word := 0x00FF87E0#32
/-- A request that waits, and one that has been granted. -/
def asker : Team := { team0 with reqs := [⟨0, 1, ⟨0, 1, 0, 0⟩, 0⟩] }
def grantedWait : Group := { groupOf { path0 with wait := some ⟨.racq ⟨0, 1, 0, 0⟩, true, 0#32, 0, none⟩ } with s := (wants 0x20#32).s }
/-- Another team of the core that holds what a request wants. -/
def crowded (i : Instr) (g : Group) : State :=
  { scene i g with teams := [team0, { team0 with uid := 1, hold := ⟨0, 63, 0, 0⟩ }] }
def hold2 : Team := { slotTeam with hold := ⟨24, 2, 1, 1⟩ }
theorem fits_of {w : Word} {q : Claim} (h : decide (w.toNat / 2 ^ 25 = 0 ∧ (vectorOf w).reg ≤ q.reg ∧ (vectorOf w).scr ≤ q.scr ∧
    (vectorOf w).acc ≤ q.acc ∧ (vectorOf w).bar ≤ q.bar) = true) : fitsIn w q := by
  unfold fitsIn
  exact of_decide_eq_true h
/-- The records of the core name the team's slot. -/
def naming (i : Instr) (g : Group) : State := { scene i g hold2 with records := [rec0 (hand i g hold2) (scene i g hold2)] }
theorem witness_ClaimWords :
    (Ready (.racq rq) ∧ (hand (.racq rq)).ended ≠ some 0#32 ∧ fitsIn (group0.getS 4#6) (headroomOf team0) ∧ group0.getS 4#6 = 0#32) ∧
    (Ready (.racq rq) (wants most) ∧ fitsIn most (headroomOf team0) ∧ most ≠ 0#32 ∧ team0.reqs = [] ∧
      granted (scene (.racq rq) (wants most)) (hand (.racq rq) (wants most)) (vectorOf most) = true) ∧
    (Ready (.racq rq) (wants 0x20#32) asker ∧ fitsIn 0x20#32 (headroomOf asker) ∧ asker.reqs ≠ []) ∧
    (Starts (.racq rq) (crowded (.racq rq) (wants 0x20#32)) (hand (.racq rq) (wants 0x20#32)) ∧
      granted (crowded (.racq rq) (wants 0x20#32)) (hand (.racq rq) (wants 0x20#32)) (vectorOf 0x20#32) = false) ∧
    (Ready (.racq rq) grantedWait ∧ (hand (.racq rq) grantedWait).ended = some 0#32) ∧
    (Ready (.rtry rt) ∧ fitsIn (group0.getS 4#6) (headroomOf team0) ∧ group0.getS 4#6 = 0#32) ∧
    (Ready (.rtry rt) (wants most) ∧ fitsIn most (headroomOf team0) ∧
      granted (scene (.rtry rt) (wants most)) (hand (.rtry rt) (wants most)) (vectorOf most) = true) ∧
    (Starts (.rtry rt) (crowded (.rtry rt) (wants 0x20#32)) (hand (.rtry rt) (wants 0x20#32)) ∧ fitsIn 0x20#32 (headroomOf team0) ∧
      granted (crowded (.rtry rt) (wants 0x20#32)) (hand (.rtry rt) (wants 0x20#32)) (vectorOf 0x20#32) = false) ∧
    (Ready (.rrel rq) ∧ fitsIn (group0.getS 4#6) team0.hold ∧ group0.getS 4#6 = 0#32) ∧
    (Starts (.rrel rq) (naming (.rrel rq) (wants 0x1000#32)) (hand (.rrel rq) (wants 0x1000#32) hold2) ∧ fitsIn 0x1000#32 hold2.hold ∧
      (naming (.rrel rq) (wants 0x1000#32)).slotsNamed 0 ((hold2.lastNames (vectorOf 0x1000#32).acc).map (slotNamed hold2)) = true) ∧
    (Ready (.rrel rq) (wants 0x11058#32) hold2 ∧ fitsIn 0x11058#32 hold2.hold ∧
      (∀ i, i < (vectorOf 0x11058#32).bar → (scene (.rrel rq) (wants 0x11058#32) hold2).barBusy hold2 (hold2.hold.bar - (vectorOf 0x11058#32).bar + i) = false) ∧
      (scene (.rrel rq) (wants 0x11058#32) hold2).slotsNamed 0 ((hold2.lastNames (vectorOf 0x11058#32).acc).map (slotNamed hold2)) = false) ∧
    ∃ w, Ready (.rqry ⟨false, 1, 4⟩) ∧ claimAnswer (scene (.rqry ⟨false, 1, 4⟩)) (hand (.rqry ⟨false, 1, 4⟩)) 4 = some w := by
  refine ⟨⟨ready_of (by decide +kernel), by decide +kernel, fits_of (by decide +kernel), by decide +kernel⟩,
    ⟨ready_of (by decide +kernel), fits_of (by decide +kernel), by decide, rfl, by decide +kernel⟩,
    ⟨ready_of (by decide +kernel), fits_of (by decide +kernel), by decide⟩, ⟨⟨rfl, by decide +kernel, by decide +kernel⟩, by decide +kernel⟩,
    ⟨ready_of (by decide +kernel), by decide +kernel⟩,
    ⟨ready_of (by decide +kernel), fits_of (by decide +kernel), by decide +kernel⟩,
    ⟨ready_of (by decide +kernel), fits_of (by decide +kernel), by decide +kernel⟩,
    ⟨⟨rfl, by decide +kernel, by decide +kernel⟩, fits_of (by decide +kernel), by decide +kernel⟩,
    ⟨ready_of (by decide +kernel), fits_of (by decide +kernel), by decide +kernel⟩,
    ⟨starts_as (ready_of (by decide +kernel) : Ready (.rrel rq) (wants 0x1000#32) hold2) rfl rfl rfl, fits_of (by decide +kernel), by decide +kernel⟩,
    ⟨ready_of (by decide +kernel), fits_of (by decide +kernel), ?_, by decide +kernel⟩, _, ready_of (by decide +kernel), rfl⟩
  intro i hi
  have h1 : (vectorOf 0x11058#32).bar = 1 := by decide +kernel
  have : i = 0 := by omega
  subst this
  decide +kernel

def sp : FormDAB := ⟨false, 4, 5, 20⟩
def fk : FormDS := ⟨false, 1, 20⟩
/-- A fork site at the test image's code with set 15. -/
def forking (g : Group) : Group := g.setS 21#6 15#32
/-- v5 is [0, 1] in every lane. -/
def unitIntervals : Group := group0.setV 5#6 0xFFFFFFFF#32 fun _ => 0x3F80000000000000#64
/-- v5 is empty in every lane. -/
def emptyIntervals : Group := group0.setV 5#6 0xFFFFFFFF#32 fun _ => 0xFF8000007F800000#64
/-- A group whose inline depth is at its limit; one with a stack pointer at the end of its scratchpad. -/
def atLimit : Group := { group0 with limit := 0#8 }
def stacked : Group := (forking unitIntervals).setS 61#6 0x1000#32
theorem witness_ForkWords :
    (∃ b site k, forkOf (.split sp) = some (b, site) ∧ Ready (.split sp) (forking emptyIntervals) ∧
      forkSite (hand (.split sp) (forking emptyIntervals)) b k ∧ (site (hand (.split sp) (forking emptyIntervals)) k).lanes = 0#32) ∧
    (∃ b site k s', forkOf (.split sp) = some (b, site) ∧ Ready (.split sp) (forking unitIntervals) ∧
      forkSite (hand (.split sp) (forking unitIntervals)) b k ∧ (site (hand (.split sp) (forking unitIntervals)) k).lanes ≠ 0#32 ∧
      (scene (.split sp) (forking unitIntervals)).placeAll 0
        ((lanesOf (site (hand (.split sp) (forking unitIntervals)) k).lanes).map
          (childItem (hand (.split sp) (forking unitIntervals)) (site (hand (.split sp) (forking unitIntervals)) k))) = some s') ∧
    (∃ b site k, forkOf (.fork fk) = some (b, site) ∧
      Starts (.fork fk) (fullPool (scene (.fork fk) (forking atLimit)) (hand (.fork fk))) (hand (.fork fk) (forking atLimit)) ∧
      forkSite (hand (.fork fk) (forking atLimit)) b k ∧ (site (hand (.fork fk) (forking atLimit)) k).lanes ≠ 0#32 ∧
      (fullPool (scene (.fork fk) (forking atLimit)) (hand (.fork fk))).placeAll 0
        ((lanesOf (site (hand (.fork fk) (forking atLimit)) k).lanes).map
          (childItem (hand (.fork fk) (forking atLimit)) (site (hand (.fork fk) (forking atLimit)) k))) = none ∧
      (forking atLimit).depth = (forking atLimit).limit) ∧
    ∃ b site k z off, forkOf (.split sp) = some (b, site) ∧
      Starts (.split sp) (fullPool (scene (.split sp) stacked) (hand (.split sp))) (hand (.split sp) stacked) ∧
      forkSite (hand (.split sp) stacked) b k ∧ (site (hand (.split sp) stacked) k).lanes ≠ 0#32 ∧
      (fullPool (scene (.split sp) stacked) (hand (.split sp))).placeAll 0
        ((lanesOf (site (hand (.split sp) stacked) k).lanes).map
          (childItem (hand (.split sp) stacked) (site (hand (.split sp) stacked) k))) = none ∧
      stacked.depth ≠ stacked.limit ∧ z = site (hand (.split sp) stacked) k ∧
      off = (stacked.getS 61#6 - BitVec.ofNat 32 (frameBytesOf z)).toNat ∧ team0.inHeld off (frameBytesOf z) = true := by
  obtain ⟨s', hs⟩ := some_of (x := (scene (.split sp) (forking unitIntervals)).placeAll 0
    ((lanesOf (splitSite (hand (.split sp) (forking unitIntervals)) sp ⟨0, 0, 0, 0, 0⟩).lanes).map
      (childItem (hand (.split sp) (forking unitIntervals)) (splitSite (hand (.split sp) (forking unitIntervals)) sp ⟨0, 0, 0, 0, 0⟩))))
    (by decide +kernel)
  exact ⟨⟨_, _, ⟨0, 0, 0, 0, 0⟩, rfl, ready_of (by decide +kernel), ⟨by decide +kernel, by decide +kernel, by decide +kernel, by decide +kernel, by decide +kernel⟩, by decide +kernel⟩,
    ⟨_, _, ⟨0, 0, 0, 0, 0⟩, s', rfl, ready_of (by decide +kernel), ⟨by decide +kernel, by decide +kernel, by decide +kernel, by decide +kernel, by decide +kernel⟩, by decide +kernel, hs⟩,
    ⟨_, _, ⟨0, 0, 0, 0, 0⟩, rfl, full_ready (ready_of (by decide +kernel)), ⟨by decide +kernel, by decide +kernel, by decide +kernel, by decide +kernel, by decide +kernel⟩,
      by decide +kernel, by decide +kernel, by decide +kernel⟩,
    ⟨_, _, ⟨0, 0, 0, 0, 0⟩, _, _, rfl, full_ready (ready_of (by decide +kernel)), ⟨by decide +kernel, by decide +kernel, by decide +kernel, by decide +kernel, by decide +kernel⟩,
      by decide +kernel, by decide +kernel, by decide +kernel, rfl, rfl, by decide +kernel⟩⟩

theorem witness_PoolQueries : Ready (.linid ⟨false, 2, 4, true⟩) ∧ Ready (.poolq ⟨false, 1, 4, 2⟩) :=
  ⟨ready_of (by decide +kernel), ready_of (by decide +kernel)⟩

/-- Lane 0 alone is active; x1 is its slot, 0, and s2 names the object. -/
def oneLane (w : Option Wait) : Group := { groupOf { path0 with em := 1#32, wait := w } with s := based.s }
/-- A population object with M members and N places, its slots at 0x10100 of the test page. -/
def popOf (i : Instr) (w : Option Wait) (m n arrived wtot : Nat) : State :=
  withBytes (scene i (oneLane w)) 0x20000 (dwords [m + 2 ^ 32 * n, 0, 2 ^ 32 * 15, 0, 0x10100, arrived, wtot, 0])
def rs : FormDAB := ⟨false, 1, 4, 2⟩
/-- The bytes of that object, as the group reads them. -/
def popBytes (s : State) (l : Option Lane) : List Byte :=
  match s.bytesAt 0 0 l 0x10000 64 with
  | .ok bs => bs
  | .error _ => []
theorem popBytes_of {s : State} {l : Option Lane} (h : (match s.bytesAt 0 0 l 0x10000 64 with
    | .ok _ => true
    | .error _ => false) = true) : s.bytesAt 0 0 l 0x10000 64 = .ok (popBytes s l) := by
  unfold popBytes
  split at h
  · rename_i bs hb
    rw [hb]
  · cases h
def popWait : Wait := ⟨.rsmp 0x10000 [(0, 0)], true, 0#32, 0, none⟩
theorem witness_ResamplingWord :
    (∃ va x o k, Starts (.rsmp rs) (popOf (.rsmp rs) none (2 ^ 24) (2 ^ 24) 0 0) (hand (.rsmp rs) (oneLane none)) ∧ (oneLane none).tl = 0 ∧
      (hand (.rsmp rs) (oneLane none)).p.restart = none ∧ (hand (.rsmp rs) (oneLane none)).p.wait = none ∧
      va = ((oneLane none).getS 2#6).toNat + 2 ^ 32 * ((oneLane none).getS 3#6).toNat ∧ va % 64 = 0 ∧
      (∃ bs, (popOf (.rsmp rs) none (2 ^ 24) (2 ^ 24) 0 0).bytesAt 0 0 (act (hand (.rsmp rs) (oneLane none))).head? va 64 = .ok bs ∧
        o = popObj bs) ∧
      physOf (popOf (.rsmp rs) none (2 ^ 24) (2 ^ 24) 0 0) (hand (.rsmp rs) (oneLane none)) va .write = some x ∧
      (∀ i, i < 64 → (popOf (.rsmp rs) none (2 ^ 24) (2 ^ 24) 0 0).inTable (x + i) = false) ∧ 1 ≤ o.m ∧ o.m ≤ 2 ^ 24 ∧ 1 ≤ o.n ∧ o.n ≤ 2 ^ 24 ∧
      team0.info.keeps[o.ks]? = some k ∧ o.entry % 12 = 0 ∧ keepOutside team0 k = none ∧
      (∀ y ∈ rsmpMembers (hand (.rsmp rs) (oneLane none)) 1, (popOf (.rsmp rs) none (2 ^ 24) (2 ^ 24) 0 0).memberTrap
        (hand (.rsmp rs) (oneLane none)) o (rsmpMembers (hand (.rsmp rs) (oneLane none)) 1) y = none) ∧
      (popOf (.rsmp rs) none (2 ^ 24) (2 ^ 24) 0 0).canWrite 0 0 va 64 = none ∧ act (hand (.rsmp rs) (oneLane none)) ≠ [] ∧
      o.arrived + (act (hand (.rsmp rs) (oneLane none))).length + rsmpAway (hand (.rsmp rs) (oneLane none)) < o.m) ∧
    ∃ w x bs k counts s1, Starts (.rsmp rs) (popOf (.rsmp rs) (some popWait) 1 2 1 1) (hand (.rsmp rs) (oneLane (some popWait))) ∧
      (hand (.rsmp rs) (oneLane (some popWait))).p.wait = some w ∧ w.kind = .rsmp 0x10000 [(0, 0)] ∧ w.ended = true ∧
      (hand (.rsmp rs) (oneLane (some popWait))).p.restart = none ∧ (popOf (.rsmp rs) (some popWait) 1 2 1 1).bytesAt 0 0 none 0x10000 64 = .ok bs ∧
      (popOf (.rsmp rs) (some popWait) 1 2 1 1).canWrite 0 0 0x10000 64 = none ∧
      physOf (popOf (.rsmp rs) (some popWait) 1 2 1 1) (hand (.rsmp rs) (oneLane (some popWait))) 0x10000 .write = some x ∧
      (∀ i, i < 64 → (popOf (.rsmp rs) (some popWait) 1 2 1 1).inTable (x + i) = false) ∧ team0.info.keeps[(popObj bs).ks]? = some k ∧
      (popOf (.rsmp rs) (some popWait) 1 2 1 1).memberCounts (hand (.rsmp rs) (oneLane (some popWait)))
        (popObj bs) [(0, 0)] = .ok counts ∧
      (popOf (.rsmp rs) (some popWait) 1 2 1 1).placeAll 0 (rsmpCopies (hand (.rsmp rs) (oneLane (some popWait)))
        ((oneLane (some popWait)).setX 1 (rsmpOn counts) fun l => BitVec.ofNat 32 (((counts.find? fun y => y.1 == l).map fun y => y.2.1).getD 0)) 1
        (popObj bs) k counts) = some s1 := by
  refine ⟨?_, ?_⟩
  · refine ⟨0x10000, 0x20000, popObj (popBytes (popOf (.rsmp rs) none (2 ^ 24) (2 ^ 24) 0 0) (some 0)), ⟨0, 0, 0, 0, 0⟩,
      starts_as (ready_of (by decide +kernel) : Ready (.rsmp rs) (oneLane none)) rfl rfl rfl, rfl, rfl, rfl,
      by decide +kernel, by decide, ⟨_, popBytes_of (by decide +kernel), rfl⟩, by decide +kernel, by decide +kernel, by decide +kernel, by decide +kernel, by decide +kernel,
      by decide +kernel, by decide +kernel, by decide +kernel, by decide +kernel, by decide +kernel, by decide +kernel, by decide +kernel,
      by decide +kernel⟩
  · have h1 : (match (popOf (.rsmp rs) (some popWait) 1 2 1 1).memberCounts (hand (.rsmp rs) (oneLane (some popWait)))
        (popObj (popBytes (popOf (.rsmp rs) (some popWait) 1 2 1 1) none)) [(0, 0)] with
      | .ok counts => ((popOf (.rsmp rs) (some popWait) 1 2 1 1).placeAll 0 (rsmpCopies (hand (.rsmp rs) (oneLane (some popWait)))
          ((oneLane (some popWait)).setX 1 (rsmpOn counts) fun l => BitVec.ofNat 32 (((counts.find? fun y => y.1 == l).map fun y => y.2.1).getD 0)) 1
          (popObj (popBytes (popOf (.rsmp rs) (some popWait) 1 2 1 1) none)) ⟨0, 0, 0, 0, 0⟩ counts)).isSome
      | .error _ => false) = true := by decide +kernel
    split at h1
    · rename_i counts hc
      obtain ⟨s1, hs⟩ := some_of h1
      exact ⟨popWait, 0x20000, _, ⟨0, 0, 0, 0, 0⟩, counts, s1, starts_as (ready_of (by decide +kernel) : Ready (.rsmp rs) (oneLane (some popWait))) rfl rfl rfl,
        rfl, rfl, rfl, rfl, popBytes_of (by decide +kernel), by decide +kernel, by decide +kernel, by decide +kernel, by decide +kernel, hc, hs⟩
    · cases h1


/-! ### The host and the command ring -/

/-- The part after power-up, with what a step is about. -/
def up (a : StepArg := StepArg.none) : State := { State.reset with arg := a, svc := { State.reset.svc with powered := true } }
theorem up_dies (a : StepArg) : DiesUp (up a) := ⟨rfl, rfl, rfl⟩
theorem up_host (a : StepArg) : HostUp (up a) := ⟨rfl, rfl, rfl⟩
def argAt (a size : Nat) (data : List DWord) : StepArg := { StepArg.none with addr := a, size := size, data := data }
/-- Registers of the front end that name the test tables: commands at 0x1000, queues at 0x2000, lists at 0x3000. -/
def regs0 : HostRegs := ⟨0x1000#57, 4#4, 0#32, 1#32, 0x2000#57, 0x3000#57, 0#32⟩
/-- A front end with the test tables and queue 0, whose QSB is at 0x4000, with a ring of 1 entry at 0x5000. -/
def queueMem (n : Nat) : Memory := memPut (memPut [] 0x2000 (dwords [0x4000])) 0x4000 (dwords [0, 0x100, 0x5000, n])
def queued0 (tail : Nat) (a : StepArg) : State :=
  { up a with fe := { FrontEnd.reset with regs := regs0 }, mem := queueMem (2 ^ 32 * tail) }
/-- No byte of some ranges lies in a table, checked byte by byte. -/
theorem off_of {s : State} {l : List (Nat × Nat)} (h : (l.all fun r => (List.range r.2).all fun i => !s.inTable (r.1 + i)) = true) :
    OffTables s l := by
  intro r hr a h1 h2
  have := List.all_eq_true.mp (List.all_eq_true.mp h r hr) (a - r.1) (List.mem_range.mpr (by omega))
  rw [show r.1 + (a - r.1) = a by omega] at this
  simpa using this
theorem apart_of {l : List (Nat × Nat)} (h : decide (l.Pairwise fun x y => x.1 + x.2 ≤ y.1 ∨ y.1 + y.2 ≤ x.1) = true) : Apart l := by
  unfold Apart
  exact of_decide_eq_true h
def trig : StepArg := argAt 0x40000 64 (List.replicate 8 7#64)
/-- An object of kind 3 of partition 0, and a region whose service has an identifier. -/
def hosted : State := { withBytes (scene .nop) 0x40000 (dwords [2 ^ 57 * 3]) with arg := StepArg.none }
/-- A posted write on the way to the doorbell of that object. -/
def rung : State := { hosted with arg := { argAt 0x40018 8 [1#64] with flag := true } }
def asked : State := { up { StepArg.none with data := [5#64] } with faults := [⟨0, 1, false, false, some 5#32, false, none⟩] }
def bigLog : State := { up (argAt 8 8 [12#64]) with fe := FrontEnd.reset }
theorem witness_HostWrites :
    (HostUp (up trig) ∧ DiesUp (up trig) ∧ (up trig).qsb ((trig.addr - 0x40000) / 64) = none) ∧
    (∃ b, (queued0 1 trig).qsb ((trig.addr - 0x40000) / 64) = some b ∧ b.addr + 128 ≤ hbmTop ∧ b.stored = 2 ^ b.log2) ∧
    (∃ b, (queued0 0 trig).qsb ((trig.addr - 0x40000) / 64) = some b ∧ b.addr + 128 ≤ hbmTop ∧ b.stored < 2 ^ b.log2 ∧
      Apart (triggerRanges (queued0 0 trig) 0 b) ∧ OffTables (queued0 0 trig) ((triggerRanges (queued0 0 trig) 0 b).take 3) ∧
      (queued0 0 trig).flights = [] ∧ b.ring + 64 * (b.tail % 2 ^ b.log2) + 64 ≤ hbmTop) ∧
    (HostUp (queued0 0 (argAt 0x28 8 [1#64])) ∧ { (queued0 0 (argAt 0x28 8 [1#64])).fe with queues := [0] }.queues ≠ []) ∧
    (bigLog.fe.queues = [] ∧ bigLog.arg.addr = 8 ∧ 4 ≤ (12#64).toNat % 16 ∧ (12#64).toNat % 16 ≤ 12) ∧
    ((up (argAt 0x28 8 [0x5FFFFFFF00#64])).fe.queues = [] ∧ (0x5FFFFFFF00#64).setWidth 57 ≠ 0#57 ∧
      ((0x5FFFFFFF00#64).setWidth 57).toNat + 256 ≤ hbmTop) ∧
    ((up (argAt 0x200038 8 [1#64])).arg.addr = 0x200000 + 8 * 7 ∧ (up (argAt 0x200040 8 [1#64])).svc.host.job = none) ∧
    ({ (up (argAt 0x200040 8 [1#64])).svc with host := { Mailbox.reset with job := some [] } }.host.job ≠ none) ∧
    ((argAt 0x5FFFFFFFF8 8 [1#64]).addr + (argAt 0x5FFFFFFFF8 8 [1#64]).size ≤ hbmTop ∧
      (up (argAt 0x5FFFFFFFF8 8 [1#64])).dbellsAt 0x5FFFFFFFF8 8 = [] ∧ (argAt 0x5FFFFFFFF8 8 [1#64]).flag = false) ∧
    ((rung.dbellsAt rung.arg.addr rung.arg.size) = [(0, 0)] ∧ rung.arg.flag = true ∧ rung.arg.addr + rung.arg.size ≤ hbmTop) ∧
    (HostUp hosted ∧ DiesUp hosted ∧ (hosted.rbEntry 0 0).kind = 3) ∧ ((up).rbEntry 7 4095).kind ≠ 3 ∧
    ((up { StepArg.none with flag := true }).arg.flag = true ∧ (up).arg.flag = false) ∧
    ∃ q, HostUp asked ∧ DiesUp asked ∧ asked.svc.prhsoid < 4096 ∧ (asked.faults.find? fun x => x.id == some ((theWord asked).setWidth 32)) = some q ∧
      (theWord asked).toNat / 2 ^ 32 % 4 ≠ 3 :=
  ⟨⟨up_host _, up_dies _, by decide +kernel⟩,
    some_with (fun b : Qsb => b.addr + 128 ≤ hbmTop ∧ b.stored = 2 ^ b.log2) (by decide +kernel),
    have ⟨b, hb, h⟩ := some_with (x := (queued0 0 trig).qsb ((trig.addr - 0x40000) / 64)) (fun b : Qsb => b.addr + 128 ≤ hbmTop ∧ b.stored < 2 ^ b.log2 ∧
      b.ring + 64 * (b.tail % 2 ^ b.log2) + 64 ≤ hbmTop ∧ (((triggerRanges (queued0 0 trig) 0 b).take 3).all fun r =>
        (List.range r.2).all fun i => !(queued0 0 trig).inTable (r.1 + i)) = true ∧
      decide ((triggerRanges (queued0 0 trig) 0 b).Pairwise fun x y => x.1 + x.2 ≤ y.1 ∨ y.1 + y.2 ≤ x.1) = true) (by decide +kernel)
    ⟨b, hb, h.1, h.2.1, apart_of h.2.2.2.2, off_of h.2.2.2.1, rfl, h.2.2.1⟩,
    ⟨⟨rfl, rfl, rfl⟩, by decide⟩, ⟨rfl, rfl, by decide, by decide⟩, ⟨rfl, by decide, by decide⟩, ⟨rfl, rfl⟩, by decide, ⟨by decide, by decide +kernel, rfl⟩,
    ⟨by decide +kernel, rfl, by decide⟩,
    ⟨⟨rfl, rfl, rfl⟩, ⟨rfl, rfl, rfl⟩, by decide +kernel⟩, by decide +kernel, ⟨rfl, rfl⟩,
    _, ⟨rfl, rfl, rfl⟩, ⟨rfl, rfl, rfl⟩, by decide, by rfl, by decide +kernel⟩

/-- A command in the ring, of eight doublewords, with other bytes and parts of the front end. -/
def command (l : List Nat) (a : Nat) (bs : List Byte) (f : FrontEnd → FrontEnd) : State :=
  { up with fe := f { FrontEnd.reset with regs := regs0 }, mem := memPut (memPut [] 0x1000 (dwords l)) a bs }
theorem command_of {s : State} {op : Nat} (h : decide (s.svc.powered = true ∧ s.svc.diesOn = true ∧ s.svc.stopped = false ∧
    s.fe.regs.cmdHead ≠ s.fe.regs.cmdTail ∧ s.fe.wait = none ∧ s.cmdBad = false ∧ s.cmdDw 0 % 256 = op) = true) : CommandIs s op := by
  have := of_decide_eq_true h
  exact ⟨⟨this.1, this.2.1, this.2.2.1⟩, this.2.2.2⟩
/-- A file of three empty sections. -/
def ncoFile : List Byte :=
  dwords [0x0003_0001_004F_434E, 64, 192, 0, 0, 0, 0, 0] ++ [1, 2, 5].flatMap fun k => dwords [k, 0, 0, 0]
def run0 (nodes : List RunNode) : Run := ⟨0, 3, 0#32, 0, 0, [], nodes, 0, 0, false, none, 0⟩
def loadCmd : State := command [1, 0x8000, 160, 0x10000, 0, 0, 0, 0x6000] 0x8000 ncoFile id
def testImage : Image := ⟨0x180000000, 192, 0x10000, [(1, 0, 192)]⟩
/-- A graph of one barrier node at 0x9000. -/
def graphCmd : State :=
  { command [3, 0x8000, 0, 0, 0, 0, 0, 0x6000] 0x8000 (dwords [3 + 2 ^ 16, 0x9000, 0, 0]) id with
    mem := memPut (command [3, 0x8000, 0, 0, 0, 0, 0, 0x6000] 0x8000 (dwords [3 + 2 ^ 16, 0x9000, 0, 0]) id).mem 0x9000 (dwords [3]) }
def badGraph : State := command [3, 0x8000, 0, 0, 0, 0, 0, 0x6000] 0x8000 (dwords [3, 0x9000, 0, 0]) id
/-- A command on queue 0, whose table entry names the QSB at 0x4000. -/
def queueCmd (l : List Nat) (f : FrontEnd → FrontEnd) : State :=
  { command l 0x2000 (dwords [0x4000]) f with mem := memPut (command l 0x2000 (dwords [0x4000]) f).mem 0x4000 (dwords [0, 0x100, 0x5000, 0]) }
theorem witness_RingCommands :
    (∃ op, commandOp .setth = some op ∧ DiesUp (command [0x108] 0 [] id) ∧
      (command [0x108] 0 [] id).fe.regs.cmdHead ≠ (command [0x108] 0 [] id).fe.regs.cmdTail ∧ (command [0x108] 0 [] id).cmdBad = true) ∧
    (∃ n base, CommandIs loadCmd 1 ∧ loadCmd.readNco (loadCmd.cmdDw 1) (loadCmd.cmdDw 2) = .ok n ∧ loadCmd.imageBase n.image = some base ∧
      ((n.sect 8).map fun q => q.size / 24).getD 0 = 0) ∧
    (∃ e, CommandIs (command [1, 0, 63, 0x10000] 0 [] id) 1 ∧ (command [1, 0, 63, 0x10000] 0 [] id).readNco 0 63 = .error e) ∧
    (∃ img, CommandIs { command [2, 0x180000000] 0 [] id with images := [testImage] } 2 ∧
      ({ command [2, 0x180000000] 0 [] id with images := [testImage] }.images.find? fun i : Image => i.base == 0x180000000) = some img ∧
      { command [2, 0x180000000] 0 [] id with images := [testImage] }.fe.graphs.find?
        ({ command [2, 0x180000000] 0 [] id with images := [testImage] }.graphNames 0x180000000) = none) ∧
    (DiesUp (command [2, 0x180000000] 0 [] fun f => { f with wait := some (.unload 0x180000000 192) }) ∧
      (command [2, 0x180000000] 0 [] fun f => { f with wait := some (.unload 0x180000000 192) }).flights = []) ∧
    (CommandIs graphCmd 3 ∧ graphCmd.graphHeader (graphCmd.cmdDw 1) = ⟨3, 1, 0, 0x9000, 0, 0⟩ ∧
      graphCmd.graphBad (graphCmd.graphHeader (graphCmd.cmdDw 1)) = none) ∧
    (∃ e, CommandIs badGraph 3 ∧ badGraph.graphBad (badGraph.graphHeader (badGraph.cmdDw 1)) = some e) ∧
    (CommandIs (command [4, 3] 0 [] id) 4 ∧ ((command [4, 3] 0 [] id).fe.runs.any fun r => r.gid == 3) = false) ∧
    (CommandIs (command [4, 3] 0 [] fun f => { f with runs := [run0 []] }) 4 ∧
      ((command [4, 3] 0 [] fun f => { f with runs := [run0 []] }).fe.runs.any fun r => r.gid == 3) = true) ∧
    (CommandIs (command [5, 0xFFF, 0x4000] 0x4008 (dwords [0x100, 0x5000]) id) 5 ∧
      (command [5, 0xFFF, 0x4000] 0x4008 (dwords [0x100, 0x5000]) id).qtabEntry 0xFFF = 0 ∧
      (command [5, 0xFFF, 0x4000] 0x4008 (dwords [0x100, 0x5000]) id).qsbBad 0x4000 = false ∧
      (command [5, 0xFFF, 0x4000] 0x4008 (dwords [0x100, 0x5000]) id).mayLink 0x4000 = true) ∧
    (∃ b, CommandIs (queueCmd [6] fun f => { f with runs := [run0 []] }) 6 ∧ (queueCmd [6] fun f => { f with runs := [run0 []] }).qsb 0 = some b ∧
      ((queueCmd [6] fun f => { f with runs := [run0 []] }).fe.runs.any fun r => r.qidx == 0) = true) ∧
    (CommandIs (queueCmd [6] id) 6 ∧ ((queueCmd [6] id).fe.runs.any fun r => r.qidx == 0) = false) ∧
    (∃ b, CommandIs (queueCmd [7, 0, 7] id) 7 ∧ (queueCmd [7, 0, 7] id).qsb ((queueCmd [7, 0, 7] id).cmdDw 1) = some b) ∧
    (∃ b, DiesUp (queueCmd [7, 0, 7] fun f => { f with wait := some (.relink 0 7) }) ∧
      (queueCmd [7, 0, 7] fun f => { f with wait := some (.relink 0 7) }).fe.regs.cmdHead ≠
        (queueCmd [7, 0, 7] fun f => { f with wait := some (.relink 0 7) }).fe.regs.cmdTail ∧
      (queueCmd [7, 0, 7] fun f => { f with wait := some (.relink 0 7) }).cmdDw 0 % 256 = 7 ∧
      (queueCmd [7, 0, 7] fun f => { f with wait := some (.relink 0 7) }).qsb 0 = some b ∧
      (queueCmd [7, 0, 7] fun f => { f with wait := some (.relink 0 7) }).mayLink b.addr = true) ∧
    (CommandIs (command [8, 7, 0xFFFFFFFF, 0, 0, 0, 0, 0x6000] 0 [] id) 8 ∧
      (command [8, 7, 0xFFFFFFFF, 0, 0, 0, 0, 0x6000] 0 [] id).prioAt 7 + 0x14 ≤ hbmTop ∧
      Apart [((command [8, 7, 0xFFFFFFFF, 0, 0, 0, 0, 0x6000] 0 [] id).prioAt 7 + 0x10, 4), (0x1000, 64)] ∧
      (command [8, 7, 0xFFFFFFFF, 0, 0, 0, 0, 0x6000] 0 [] id).prioAt 7 + 0x14 ≤ 0x6000 ∧
      OffTables (command [8, 7, 0xFFFFFFFF, 0, 0, 0, 0, 0x6000] 0 [] id) [((command [8, 7, 0xFFFFFFFF, 0, 0, 0, 0, 0x6000] 0 [] id).prioAt 7 + 0x10, 4)] ∧
      OffTables (command [8, 7, 0xFFFFFFFF, 0, 0, 0, 0, 0x6000] 0 [] id) [(0x6000, 8)]) ∧
    (CommandIs (command [9, 0, 0, 64, 0, 7] 0 [] id) 9 ∧ ((command [9, 0, 0, 64, 0, 7] 0 [] id).part 7).st = .unconfigured) ∧
    CommandIs { command [9, 0, 0, 64, 0, 0] 0 [] id with parts := (scene .nop).parts } 9 ∧
      ({ command [9, 0, 0, 64, 0, 0] 0 [] id with parts := (scene .nop).parts }.part 0).st ≠ .unconfigured := by
  have h1 : (match loadCmd.readNco (loadCmd.cmdDw 1) (loadCmd.cmdDw 2) with
    | .ok n => (loadCmd.imageBase n.image).isSome && (((n.sect 8).map fun q => q.size / 24).getD 0 == 0)
    | .error _ => false) = true := by decide +kernel
  obtain ⟨e1, he1⟩ := error_of (x := (command [1, 0, 63, 0x10000] 0 [] id).readNco 0 63) (by decide +kernel)
  obtain ⟨e2, he2⟩ := some_of (x := badGraph.graphBad (badGraph.graphHeader (badGraph.cmdDw 1))) (by decide +kernel)
  obtain ⟨b1, hb1⟩ := some_of (x := (queueCmd [6] fun f => { f with runs := [run0 []] }).qsb 0) (by decide +kernel)
  obtain ⟨b2, hb2⟩ := some_of (x := (queueCmd [7, 0, 7] id).qsb ((queueCmd [7, 0, 7] id).cmdDw 1)) (by decide +kernel)
  obtain ⟨b3, hb3, hl3⟩ := some_with (x := (queueCmd [7, 0, 7] fun f => { f with wait := some (.relink 0 7) }).qsb 0)
    (fun b => (queueCmd [7, 0, 7] fun f => { f with wait := some (.relink 0 7) }).mayLink b.addr = true) (by decide +kernel)
  refine ⟨⟨8, rfl, ⟨rfl, rfl, rfl⟩, by decide, by decide +kernel⟩, ?_, ⟨e1, command_of (by decide +kernel), he1⟩,
    ⟨testImage, command_of (by decide +kernel), rfl, rfl⟩, ⟨⟨rfl, rfl, rfl⟩, rfl⟩, ⟨command_of (by decide +kernel), by decide +kernel, by decide +kernel⟩,
    ⟨e2, command_of (by decide +kernel), he2⟩, ⟨command_of (by decide +kernel), rfl⟩, ⟨command_of (by decide +kernel), rfl⟩,
    ⟨command_of (by decide +kernel), by decide +kernel, by decide +kernel, by decide +kernel⟩,
    ⟨b1, command_of (by decide +kernel), hb1, rfl⟩, ⟨command_of (by decide +kernel), rfl⟩, ⟨b2, command_of (by decide +kernel), hb2⟩,
    ⟨b3, ⟨rfl, rfl, rfl⟩, by decide, by decide +kernel, hb3, hl3⟩,
    ⟨command_of (by decide +kernel), by decide +kernel, apart_of (by decide +kernel), by decide +kernel, off_of (by decide +kernel), off_of (by decide +kernel)⟩,
    ⟨command_of (by decide +kernel), by decide +kernel⟩, command_of (by decide +kernel), by decide +kernel⟩
  split at h1
  · rename_i n hn
    simp only [Bool.and_eq_true, beq_iff_eq] at h1
    obtain ⟨base, hb⟩ := some_of h1.1
    exact ⟨n, base, command_of (by decide +kernel), hn, hb, h1.2⟩
  · cases h1


/-! ### Queues and placement -/

/-- A node of a run, with a wait's word at 0x180000000, an address of the test image, and COND 0. -/
def node0 (kind : Nat) (st : NodeState) (val : Nat) : RunNode := ⟨kind, [0x180000000#64, BitVec.ofNat 64 val, 0#64], [], 0, st, 0#32, 0, 0, 0⟩
/-- A scene with queue 0, whose run has two nodes; what the step is about is node 0 of queue 0. -/
def running (n : RunNode) : State :=
  { scene .nop with fe := { FrontEnd.reset with regs := regs0, runs := [run0 [n, node0 1 .running 0]] }, mem := queueMem 0 }
/-- The oldest trigger of queue 0 names graph 3, of one copy node without a predecessor at 0x9000. -/
def starting : State :=
  { up with fe := { FrontEnd.reset with regs := regs0, handed := [0x4000], graphs := [⟨3, 1, 0, 0x9000, 0, 0⟩] }
            mem := memPut (memPut (queueMem (2 ^ 32)) 0x5000 (dwords [3])) 0x9000 (dwords [1]) }
/-- A queue without a stored trigger. -/
def idle : State := { starting with mem := queueMem 0 }
/-- A node that waits for a word of `val`, at an address, with a watch of a word of `old` since cycle 0, or without one. -/
def watchNode (val : Nat) (old : Option Nat) : RunNode := node0 2 (.watching 0 old) val
/-- A kernel node that has a release, and names COMPLVA at an address; the same scene with an ordered object 0 whose turn is past. -/
def kernelNode (rel va : Nat) : RunNode :=
  { node0 0 .running 0 with body := [0#64, 0#64, 0#64, 0#64, 0#64, 0#64, BitVec.ofNat 64 (2 ^ 42 * rel), BitVec.ofNat 64 va] }
def ordered0 : State := { running (kernelNode 1 0) with mem := memPut (queueMem 0) 0x40000 (dwords [2 ^ 58, 0, 2 ^ 32]) }
/-- The entry at index 0 of die 0's Launch Slot Table. -/
def reporting (e : LstEntry) : State :=
  { running (node0 0 .running 0) with fe := { (running (node0 0 .running 0)).fe with lst := Tab.const 256 e } }
/-- A drained entry of the run's node 0. -/
def drained : LstEntry := { LstEntry.free with st := 2, done := 1, tend := 1 }
/-- Queue 0 is parked, and its answer is so. -/
def parkedNode (a : Nat) : RunNode := node0 2 (.noPage 0 true (some a)) 0
/-- Its QSB was removed from list 0 when WALKGEN was 0. -/
def removedNow (s : State) : State := { s with fe := { s.fe with removed := [(0x4000, 0, 0#32)] } }
theorem witness_QueueSteps :
    -- WALKER_PASS
    (DiesUp starting ∧ lists starting ∧ OffTables starting [(starting.prioAt 0, 256)] ∧
      ∀ p, p < 8 → ∀ a ∈ starting.listOf p, ∀ k, k < 8 → a + 16 ≤ starting.prioAt k + 0x18 ∨ starting.prioAt k + 0x1C ≤ a) ∧
    -- QUEUE_SERVICE
    ({ starting with fe := { starting.fe with handed := [0x7000] } }.queueOf 0x7000 = none) ∧
    (∃ q, idle.queueOf 0x4000 = some q ∧ (∀ r ∈ idle.fe.runs, r.qidx ≠ q) ∧ (idle.qsbAt 0x4000).stored = 0) ∧
    (∃ q g ps, DiesUp starting ∧ starting.fe.handed = [0x4000] ∧ starting.fe.ranges = [] ∧ starting.queueOf 0x4000 = some q ∧ starting.fe.wait = none ∧
      (∀ r ∈ starting.fe.runs, r.qidx ≠ q) ∧ (starting.qsbAt 0x4000).stored ≠ 0 ∧
      (starting.fe.graphs.find? fun h => h.gid == 3) = some g ∧ (∀ r ∈ starting.fe.runs, r.gid ≠ 3) ∧
      starting.earlierTrigger q (starting.qsbAt 0x4000).head 3 = false ∧
      (List.range 8).map (fun i => BitVec.ofNat 64 (starting.feNat ((starting.qsbAt 0x4000).slot (starting.qsbAt 0x4000).head + 8 * i) 8))
        = 3#64 :: List.replicate 7 0#64 ∧
      starting.triggerParams g (3#64 :: List.replicate 7 0#64) = .ok ps ∧ starting.captureEntry (starting.qsbAt 0x4000).home q = none ∧
      ∀ n ∈ starting.runNodes g ps.1, n.kind = 1) ∧
    -- WAIT_NODE_REREAD: the word is what the watch saw; too early without a watch; due without one; changed; no page
    (∃ r n pa, DiesUp (running (watchNode 1 (some 0))) ∧ (running (watchNode 1 (some 0))).runNode 0 0 = some (r, n) ∧ n.kind = 2 ∧
      n.st = .watching 0 (some 0) ∧ (running (watchNode 1 (some 0))).fePage r.home (signalAddr n) .read = .ok pa ∧
      memNat (running (watchNode 1 (some 0))).mem pa 8 = 0) ∧
    (∃ r n, { running (watchNode 1 none) with now := 2249 }.runNode 0 0 = some (r, n) ∧ n.kind = 2 ∧ n.st = .watching 0 none ∧
      { running (watchNode 1 none) with now := 2249 }.now < 0 + 2250) ∧
    (∃ r n pa, { running (watchNode 1 none) with now := 2250 }.runNode 0 0 = some (r, n) ∧ n.kind = 2 ∧ n.st = .watching 0 none ∧
      0 + 2250 ≤ { running (watchNode 1 none) with now := 2250 }.now ∧
      { running (watchNode 1 none) with now := 2250 }.fePage r.home (signalAddr n) .read = .ok pa ∧
      ¬ condHolds n (memNat { running (watchNode 1 none) with now := 2250 }.mem pa 8)) ∧
    (∃ r n pa, (running (watchNode 0 (some 5))).runNode 0 0 = some (r, n) ∧ n.st = .watching 0 (some 5) ∧
      (running (watchNode 0 (some 5))).fePage r.home (signalAddr n) .read = .ok pa ∧ memNat (running (watchNode 0 (some 5))).mem pa 8 ≠ 5 ∧
      condHolds n (memNat (running (watchNode 0 (some 5))).mem pa 8) ∧ 0 ∉ n.succs ∧
      ∃ (j : Nat) (m : RunNode), r.nodes[j]? = some m ∧ m.st = .running ∧ j ≠ 0) ∧
    (∃ r n e, (running { watchNode 0 (some 5) with body := [0x4000000#64] }).runNode 0 0 = some (r, n) ∧ n.st = .watching 0 (some 5) ∧
      (running { watchNode 0 (some 5) with body := [0x4000000#64] }).fePage r.home (signalAddr n) .read = .error e) ∧
    -- QUEUE_PARK
    (∃ r n b, (running (node0 2 (.noPage 0 false none) 0)).qsb 0 = some b ∧
      (running (node0 2 (.noPage 0 false none) 0)).runNode 0 0 = some (r, n) ∧ n.st = .noPage 0 false none ∧
      0 + (running (node0 2 (.noPage 0 false none) 0)).swapTh b.prio ≤ (running (node0 2 (.noPage 0 false none) 0)).now) ∧
    (∃ r n b, (running (node0 2 (.noPage 1 false none) 0)).qsb 0 = some b ∧
      (running (node0 2 (.noPage 1 false none) 0)).runNode 0 0 = some (r, n) ∧ n.st = .noPage 1 false none ∧
      (running (node0 2 (.noPage 1 false none) 0)).now < 1 + (running (node0 2 (.noPage 1 false none) 0)).swapTh b.prio) ∧
    -- QUEUE_UNPARK, the page there or refused, the QSB to be linked or not yet
    (∀ a ∈ [0, 1], ∃ r n b, (running (parkedNode a)).qsb 0 = some b ∧
      (running (parkedNode a)).runNode 0 0 = some (r, n) ∧ n.st = .noPage 0 true (some a) ∧ n.kind = 2 ∧
      (∀ x ∈ (running (parkedNode a)).fe.runs, x.qidx = 0 → x.runid = r.runid) ∧ (running (parkedNode a)).fe.wait = none ∧
      (∀ j m, r.nodes[j]? = some m → m.parked = true → j = 0) ∧ (running (parkedNode a)).mayLink b.addr = true ∧
      (removedNow (running (parkedNode a))).mayLink b.addr = false) ∧
    -- LST_REPORT
    (∃ r n, (reporting drained).entry 0 0 = drained ∧ drained.st = 2 ∧ drained.done = drained.tend - drained.tfirst ∧
      (reporting drained).run drained.qidx drained.runid = some r ∧ r.nodes[drained.node]? = some n) ∧
    ((reporting { drained with st := 3 }).entry 0 0).st = 3 ∧ (reporting { drained with st := 3 }).fe.ranges = [] ∧
    ((reporting { drained with st := 1 }).entry 0 0).st = 1 ∧
    -- KERNEL_NODE_COMPLETE
    (∃ r n, ordered0.runNode 0 0 = some (r, n) ∧ n.kind = 0 ∧ n.st = .running ∧ n.reported = n.total ∧ ordered0.fe.accesses = [] ∧
      ¬ inTurn ordered0 r n) ∧
    (∃ r n, (running (kernelNode 0 0)).runNode 0 0 = some (r, n) ∧ n.kind = 0 ∧ n.st = .running ∧ n.reported = n.total ∧
      (running (kernelNode 0 0)).fe.accesses = [] ∧ inTurn (running (kernelNode 0 0)) r n ∧ blockField n.body 7 0 57 = 0 ∧
      0 ∉ n.succs ∧ ∃ (j : Nat) (m : RunNode), r.nodes[j]? = some m ∧ m.st = .running ∧ j ≠ 0) ∧
    ∃ r n e, (running (kernelNode 0 0x4000000)).runNode 0 0 = some (r, n) ∧ n.kind = 0 ∧ n.st = .running ∧ n.reported = n.total ∧
      inTurn (running (kernelNode 0 0x4000000)) r n ∧ blockField n.body 7 0 57 ≠ 0 ∧
      (running (kernelNode 0 0x4000000)).fePage r.home (blockField n.body 7 0 57) .write = .error e := by
  obtain ⟨ps, hps⟩ := ok_with (x := starting.triggerParams ⟨3, 1, 0, 0x9000, 0, 0⟩ (3#64 :: List.replicate 7 0#64))
    (fun ps => ∀ n ∈ starting.runNodes ⟨3, 1, 0, 0x9000, 0, 0⟩ ps.1, n.kind = 1) (by decide +kernel)
  obtain ⟨pa1, h1⟩ := ok_with (x := (running (watchNode 1 (some 0))).fePage 0 0x180000000 .read)
    (fun pa => memNat (queueMem 0) pa 8 = 0) (by decide +kernel)
  obtain ⟨pa2, h2⟩ := ok_with (x := { running (watchNode 1 none) with now := 2250 }.fePage 0 0x180000000 .read)
    (fun pa => memNat (queueMem 0) pa 8 = 0) (by decide +kernel)
  obtain ⟨pa0, h0⟩ := ok_with (x := (running (watchNode 0 (some 5))).fePage 0 0x180000000 .read)
    (fun pa => memNat (queueMem 0) pa 8 = 0) (by decide +kernel)
  obtain ⟨e1, he1⟩ := error_of (x := (running { watchNode 0 (some 5) with body := [0x4000000#64] }).fePage 0 0x4000000 .read) (by decide +kernel)
  obtain ⟨e2, he2⟩ := error_of (x := (running (kernelNode 0 0x4000000)).fePage 0 0x4000000 .write) (by decide +kernel)
  obtain ⟨b1, hb1⟩ := some_with (x := (running (node0 2 (.noPage 0 false none) 0)).qsb 0)
    (fun b : Qsb => 0 + (running (node0 2 (.noPage 0 false none) 0)).swapTh b.prio ≤ (running (node0 2 (.noPage 0 false none) 0)).now) (by decide +kernel)
  obtain ⟨b0, hb0⟩ := some_with (x := (running (node0 2 (.noPage 1 false none) 0)).qsb 0)
    (fun b : Qsb => (running (node0 2 (.noPage 1 false none) 0)).now < 1 + (running (node0 2 (.noPage 1 false none) 0)).swapTh b.prio) (by decide +kernel)
  refine ⟨⟨⟨rfl, rfl, rfl⟩, ⟨by decide, by decide⟩, off_of (by decide +kernel), by decide +kernel⟩, by decide +kernel,
    ⟨0, by decide +kernel, by decide, by decide +kernel⟩,
    ⟨0, _, ps, ⟨rfl, rfl, rfl⟩, rfl, rfl, by decide +kernel, rfl, by decide, by decide +kernel, rfl, by decide, by decide +kernel, by decide +kernel,
      hps.1, by decide +kernel, hps.2⟩,
    ⟨_, _, pa1, ⟨rfl, rfl, rfl⟩, rfl, rfl, rfl, h1.1, h1.2⟩, ⟨_, _, rfl, rfl, rfl, by decide⟩,
    ⟨_, _, pa2, rfl, rfl, rfl, by decide, h2.1, ?_⟩, ⟨_, _, pa0, rfl, rfl, h0.1, ?_, ?_, by decide, 1, _, rfl, rfl, by decide⟩,
    ⟨_, _, e1, rfl, rfl, he1⟩, ⟨_, _, b1, hb1.1, rfl, rfl, hb1.2⟩, ⟨_, _, b0, hb0.1, rfl, rfl, hb0.2⟩, ?_,
    ⟨_, _, rfl, rfl, rfl, rfl, rfl⟩, rfl, rfl, rfl, ⟨_, _, rfl, rfl, rfl, rfl, rfl, by unfold inTurn; decide +kernel⟩,
    ⟨_, _, rfl, rfl, rfl, rfl, rfl, by unfold inTurn; decide +kernel, by decide +kernel, by decide, 1, _, rfl, rfl, by decide⟩,
    ⟨_, _, e2, rfl, rfl, rfl, rfl, by unfold inTurn; decide +kernel, by decide +kernel, he2⟩⟩
  · show ¬ condHolds _ (memNat (queueMem 0) pa2 8)
    rw [h2.2]
    unfold condHolds
    decide +kernel
  · show memNat (queueMem 0) pa0 8 ≠ 5
    rw [h0.2]
    decide
  · show condHolds _ (memNat (queueMem 0) pa0 8)
    rw [h0.2]
    unfold condHolds
    decide +kernel
  · intro a _
    obtain ⟨b2, hb2⟩ := some_with (x := (running (parkedNode 0)).qsb 0) (fun b : Qsb => (running (parkedNode 0)).mayLink b.addr = true ∧
      (removedNow (running (parkedNode 0))).mayLink b.addr = false) (by decide +kernel)
    refine ⟨_, _, b2, hb2.1, rfl, rfl, rfl, by intro x hx _; exact congrArg Run.runid (List.mem_singleton.mp hx), rfl, ?_, hb2.2.1, hb2.2.2⟩
    intro j m hj hp
    match j with
    | 0 => rfl
    | 1 => cases hj; cases hp
    | j + 2 => cases hj

/-- An image with a kernel at 0x10200, and a launch record of it with so many groups, levels and teams. -/
def kernelImage : Image := ⟨0x180000000, 65536, 0x10000, [(1, 0, 192), (5, 0x200, 16)]⟩
def record (gpt init : Nat) (levels : List Nat) (x : Nat) : List DWord :=
  [0x180000000#64, BitVec.ofNat 64 (2 ^ 16 * gpt + 2 ^ 22 * (levels.length - 1)), BitVec.ofNat 64 (x + 2 ^ 32 + 2 ^ 48),
    BitVec.ofNat 64 ((levels.zipIdx).foldl (fun n l => n + l.1 * 2 ^ (8 * l.2)) 0), 0#64, BitVec.ofNat 64 init, 0#64, 0#64]
def bound (r : List DWord) (tend : Nat) : LstEntry := { LstEntry.free with st := 1, clmask := 1, record := r, tend := tend }
/-- A running partition with a save pool, whose agents work, and the record bound at index 0 of die 0. -/
def launching (r : List DWord) (tend : Nat) (gangs : List GangPlan) : State :=
  { up with
    images := [kernelImage]
    parts := State.reset.parts.set 0 { Partition.reset with st := .running, savePA := 0x100000, saveSize := 0x100000 }
    cores := Tab.const 768 { Core.reset with agentOn := true }
    fe := { FrontEnd.reset with lst := FrontEnd.reset.lst.set 0 (bound r tend), gangs := gangs } }
def plan0 : GangPlan := ⟨0, 0, 0#32, 0, 4, 3, Claim.zero, Claim.zero, 1, 0, none, 8192, [], [], false, 0⟩
def three : List Nat := [0x20, 0x21, 0x22]
def four : List Nat := [0x20, 0x21, 0x22, 0x63]
/-- A team with no group left, one with a group that has ended, and one that can take a drafted group. -/
def emptyGroup : Group := { group0 with paths := [] }
def taker : Team := { team0 with info := { team0.info with gpt := 2, claim := ⟨48, 64, 8, 256⟩ }, hold := ⟨1, 1, 0, 1⟩ }
def item0 (free : Bool) (core : Nat) : Item := { (hand .nop).item group0 1 0x180000000#57 free 0 ⟨0, 0, 0, 0, 0⟩ 0 5#64 .none with home := .core core }
/-- Core 0 works on an item of its own team; or core 0's team could steal a FREE item of die 3. -/
def drafting : State :=
  { scene .nop group0 taker with
    items := [item0 false 0]
    cores := State.reset.cores.set 0 { Core.reset with drafterOn := true, queues := [⟨0, 0x180000000#57, 0, some 0, 0⟩] } }
def stealing : State :=
  { scene .nop group0 taker with
    items := [item0 true 576]
    parts := State.reset.parts.set 0 { Partition.reset with st := .running, dpoolU := 64 }
    cores := State.reset.cores.set 576 { Core.reset with queues := [⟨0, 0x180000000#57, 0, none, 0⟩] } }
theorem mayServe_of {s : State} {core : Nat} (h : decide (s.agentRuns core = true ∧ s.svc.reload = none ∧ s.returnWaits core = false ∧
    (s.core core).drafterOn = false) = true) : MayServe s core := by
  have := of_decide_eq_true h
  exact ⟨this.1, fun b hb => by simp [this.2.1] at hb, this.2.2.1, fun hd => absurd (this.2.2.2.symm.trans hd) Bool.noConfusion⟩
theorem serves_of {s : State} {core i : Nat} {e : LstEntry} {img : Image} {k : Kernel}
    (hm : decide (s.agentRuns core = true ∧ s.svc.reload = none ∧ s.returnWaits core = false ∧ (s.core core).drafterOn = false) = true)
    (h : decide (s.firstEntry core = some (i, e) ∧ s.heldBack core i e = false ∧ s.imageBy (e.record.getD 0 0#64).toNat = some img ∧
      s.kernel img (fieldAt e.record 1 0 16) = some k) = true) : Serves s core i e img k :=
  ⟨mayServe_of hm, of_decide_eq_true h⟩
/-- One team's launch, of `tend` teams; the same on a core that has noted it. -/
def single (gpt init tend : Nat) : State := launching (record gpt init three 1) tend []
def noted : State := { single 63 24 1 with cores := Tab.const 768 { Core.reset with agentOn := true, unfit := some (0#32, 0) } }
/-- A gang of four teams on a quad; with its plan, whose cores have not answered, or have all said yes. -/
def gang4 (gangs : List GangPlan) : State := launching (record 1 0 four 4) 4 gangs
def planYes : GangPlan :=
  { plan0 with answers := [(0, true), (1, true), (2, true), (3, true)]
               areas := [(0, 0x100000, 8192), (1, 0x102000, 8192), (2, 0x104000, 8192), (3, 0x106000, 8192)] }
/-- A plan that a core cannot answer yes to; the core takes a new image. -/
def planBig : GangPlan := { plan0 with gpt := 63, init := ⟨0, 0, 0, 0⟩, save := 2 ^ 40 }
def reloadingGang : State := { gang4 [plan0] with svc := { (gang4 [plan0]).svc with reload := some (0, false) } }
/-- A die pool without room. -/
def noPool : State := { stealing with parts := State.reset.parts.set 0 { Partition.reset with st := .running } }
/-- Core 0 has an item in its region, and its agent runs, or not. -/
def pooling (on : Bool) : State :=
  { scene .nop group0 taker with
    items := [item0 true 0]
    parts := State.reset.parts.set 0 { Partition.reset with st := .running, dpoolU := 64 }
    cores := State.reset.cores.set 0 { Core.reset with agentOn := on, queues := [⟨0, 0x180000000#57, 0, none, 0⟩] } }
/-- A reply that carries one item. -/
def replying : State := { stealing with items := [], steals := [⟨0, 0, 0, 0, [item0 true 576]⟩] }
theorem witness_PlacementSteps :
    -- AGENT_PLACE: fits; the last ticket taken; fits not, noted or not
    (∃ a, Serves (single 1 0 1) 0 0 (bound (record 1 0 three 1) 1) kernelImage ⟨0, 0, Claim.zero, 0, false⟩ ∧ lrGang (record 1 0 three 1) = none ∧
      Numbered (single 1 0 1) ∧ (single 1 0 1).coreFits 0 (needOfRecord (record 1 0 three 1) ⟨0, 0, Claim.zero, 0, false⟩) 1 = true ∧
      ((single 1 0 1).part 0).findArea (needOfRecord (record 1 0 three 1) ⟨0, 0, Claim.zero, 0, false⟩).save = some a ∧
      (bound (record 1 0 three 1) 1).ticket < (bound (record 1 0 three 1) 1).tend) ∧
    (Serves (single 1 0 0) 0 0 (bound (record 1 0 three 1) 0) kernelImage ⟨0, 0, Claim.zero, 0, false⟩ ∧
      (single 1 0 0).coreFits 0 (needOfRecord (record 1 0 three 1) ⟨0, 0, Claim.zero, 0, false⟩) 1 = true ∧
      ((single 1 0 0).part 0).findArea (needOfRecord (record 1 0 three 1) ⟨0, 0, Claim.zero, 0, false⟩).save ≠ none ∧
      (bound (record 1 0 three 1) 0).tend ≤ (bound (record 1 0 three 1) 0).ticket) ∧
    (Serves (single 63 24 1) 0 0 (bound (record 63 24 three 1) 1) kernelImage ⟨0, 0, Claim.zero, 0, false⟩ ∧
      lrGang (record 63 24 three 1) = none ∧ ((single 63 24 1).core 0).unfit = none ∧
      (single 63 24 1).coreFits 0 (needOfRecord (record 63 24 three 1) ⟨0, 0, Claim.zero, 0, false⟩) 1 = false) ∧
    (Serves noted 0 0 (bound (record 63 24 three 1) 1) kernelImage ⟨0, 0, Claim.zero, 0, false⟩ ∧
      (noted.core 0).unfit = some ((bound (record 63 24 three 1) 1).seq, 0) ∧
      noted.coreFits 0 (needOfRecord (record 63 24 three 1) ⟨0, 0, Claim.zero, 0, false⟩) 1 = false) ∧
    (Serves (gang4 []) 0 0 (bound (record 1 0 four 4) 4) kernelImage ⟨0, 0, Claim.zero, 0, false⟩ ∧
      lrGang (record 1 0 four 4) = some (3, 4) ∧ (gang4 []).fe.gangs = []) ∧
    (Serves (gang4 [planYes]) 0 0 (bound (record 1 0 four 4) 4) kernelImage ⟨0, 0, Claim.zero, 0, false⟩ ∧ Numbered (gang4 [planYes]) ∧
      (bound (record 1 0 four 4) 4).ticket < (bound (record 1 0 four 4) 4).tend ∧
      ((gang4 [planYes]).fe.gangs.find? fun p => p.leader == 0 && p.die == 0 && p.lst == 0 && p.seq == 0#32) = some planYes ∧
      planYes.size = 4 ∧ planYes.dom = 3 ∧ (∀ j, j < gangCores 3 → planYes.share (0 + j) ≠ 0 →
        (gang4 [planYes]).agentRuns (0 + j) = true ∧ (0 + j, true) ∈ planYes.answers) ∧
      ∀ c, (planYes.areas.filter fun a => a.1 == c).length = planYes.share c) ∧
    -- GANG_RESERVE
    (∃ areas s1, MayServe (gang4 [plan0]) 0 ∧
      ((gang4 [plan0]).fe.gangs.find? fun p => p.leader == 0 && p.covers 0 && p.share 0 != 0
        && p.answers.all (fun a => a.1 != 0)) = some plan0 ∧
      ((gang4 [plan0]).entry 0 0).st = 1 ∧ ((gang4 [plan0]).entry 0 0).seq = plan0.seq ∧ (gang4 [plan0]).heldBack 0 0 ((gang4 [plan0]).entry 0 0) = false ∧
      (gang4 [plan0]).coreFits 0 ⟨plan0.init, plan0.max, 1, 0, none, 8192⟩ (plan0.share 0) = true ∧
      (gang4 [plan0]).takeAreas 0 8192 (plan0.share 0) = some (areas, s1)) ∧
    (MayServe (gang4 [planBig]) 0 ∧
      ((gang4 [planBig]).fe.gangs.find? fun p => p.leader == 0 && p.covers 0 && p.share 0 != 0
        && p.answers.all (fun a => a.1 != 0)) = some planBig ∧ (gang4 [planBig]).heldBack 0 0 ((gang4 [planBig]).entry 0 0) = false ∧
      (gang4 [planBig]).takeAreas 0 planBig.save (planBig.share 0) = none) ∧
    (reloadingGang.agentRuns 0 = true ∧ reloadingGang.svc.reload = some (0, false)) ∧
    -- GROUP_RETIRE, TEAM_RETIRE
    ((scene .nop emptyGroup).group 0 = some emptyGroup ∧ (scene .nop emptyGroup).team 0 = some team0 ∧ emptyGroup.paths = []) ∧
    group0.paths ≠ [] ∧
    ({ scene .nop with groups := [] }.team 0 = some team0 ∧ { scene .nop with groups := [] }.teamOver team0 = true ∧
      { scene .nop with groups := [] }.teamRuns team0 = true ∧ { scene .nop with groups := [] }.svc.reload = none) ∧
    -- DRAFT_GROUP
    (∃ p slot, DiesUp drafting ∧ (drafting.part 0).st = .running ∧ (drafting.core 0).drafterOn = true ∧ drafting.returnWaits 0 = false ∧
      drafting.draftPick 0 = some p ∧ (drafting.slotsFree 0).head? = some slot ∧
      (∀ h ∈ drafting.groups, h.team = p.team.uid → h.idx ≠ 1) ∧ ∀ n, n < 1 → ∃ h ∈ drafting.groups, h.team = p.team.uid ∧ h.idx = n) ∧
    -- STEAL_REQUEST and STEAL_REPLY
    (∀ s ∈ [stealing, noPool], s.team 0 = some taker ∧ taker.core = 0 ∧ s.takesGroup taker = true ∧ s.slotRoom 0 ≠ 0 ∧
      s.freeItems 0 taker.info.seq = [] ∧ s.steals = [] ∧
      ([1, 3, 2].find? fun d => !(s.freeItems d taker.info.seq).isEmpty) = some 3) ∧ DiesUp stealing ∧ DiesUp noPool ∧
    (fitItems ((stealing.part 0).dpoolU - stealing.poolUsed 0)
        ((stealing.oldestFree 3 taker.info.seq).take (min 32 (((stealing.freeItems 3 taker.info.seq).length + 1) / 2))) ≠ []) ∧
    (fitItems ((noPool.part 0).dpoolU - noPool.poolUsed 0)
        ((noPool.oldestFree 3 taker.info.seq).take (min 32 (((noPool.freeItems 3 taker.info.seq).length + 1) / 2))) = []) ∧
    (∃ r, replying.svc.diesOn = true ∧ replying.svc.stopped = false ∧ (replying.steals.find? fun x => x.die == 0) = some r ∧ r.items ≠ [] ∧
      ∀ i ∈ r.items, i.units ≤ (replying.part r.part).dpoolU ∧ i.image.length = 32 * i.units) ∧
    -- DIE_POOL_RETURN
    (∀ b, DiesUp (pooling b) ∧ (pooling b).directoryHere 0 = true ∧ ((pooling b).items.map anywhere).Nodup ∧
      (∀ i ∈ (pooling b).items, i.image.length = 32 * i.units) ∧ ∀ i ∈ (pooling b).items, (pooling b).mustLeave i = !b) ∧
    (pooling false).poolUsed 0 + unitSum ((pooling false).items.filter fun i => i.home == .core 0 && (pooling false).mustLeave i)
      ≤ ((pooling false).part 0).dpoolU ∧
    unitSum ((pooling true).items.filter fun i => i.coreOf == 0) ≤ 512 ∧
    ∀ i ∈ (pooling true).items, i.coreOf = 0 → ∃ q ∈ ((pooling true).core 0).queues, q.holds i = true := by
  obtain ⟨a, ha⟩ := some_of (x := ((single 1 0 1).part 0).findArea (needOfRecord (record 1 0 three 1) ⟨0, 0, Claim.zero, 0, false⟩).save)
    (by decide +kernel)
  obtain ⟨⟨l2, s2⟩, hl2⟩ := some_of (x := (gang4 [plan0]).takeAreas 0 8192 (plan0.share 0)) (by decide +kernel)
  obtain ⟨p, hp, hpu⟩ := some_with (x := drafting.draftPick 0) (fun p => p.team.uid = 0) (by decide +kernel)
  obtain ⟨slot, hslot⟩ := some_of (x := (drafting.slotsFree 0).head?) (by decide +kernel)
  refine ⟨⟨a, serves_of (by decide +kernel) (by decide +kernel), by decide +kernel, numbered_of (by decide +kernel), by decide +kernel, ha, by decide⟩,
    ⟨serves_of (by decide +kernel) (by decide +kernel), by decide +kernel, by decide +kernel, by decide⟩,
    ⟨serves_of (by decide +kernel) (by decide +kernel), by decide +kernel, by decide +kernel, by decide +kernel⟩,
    ⟨serves_of (by decide +kernel) (by decide +kernel), by decide +kernel, by decide +kernel⟩,
    ⟨serves_of (by decide +kernel) (by decide +kernel), by decide +kernel, rfl⟩,
    ⟨serves_of (by decide +kernel) (by decide +kernel), numbered_of (by decide +kernel), by decide, by decide +kernel, rfl, rfl, by decide +kernel, ?_⟩,
    ⟨l2, s2, mayServe_of (by decide +kernel), by decide +kernel, by decide +kernel, by decide +kernel, by decide +kernel, by decide +kernel, hl2⟩,
    ⟨mayServe_of (by decide +kernel), by decide +kernel, by decide +kernel, by decide +kernel⟩, ⟨by decide +kernel, rfl⟩,
    ⟨rfl, rfl, rfl⟩, by decide, ⟨rfl, by decide +kernel, by decide +kernel, rfl⟩,
    ⟨p, slot, ⟨rfl, rfl, rfl⟩, by decide +kernel, by decide +kernel, by decide +kernel, hp, hslot, ?_, ?_⟩,
    by decide +kernel, ⟨rfl, rfl, rfl⟩, ⟨rfl, rfl, rfl⟩, by decide +kernel, by decide +kernel, ⟨_, rfl, rfl, rfl, by decide, by decide +kernel⟩,
    fun b => by cases b <;> exact ⟨⟨rfl, rfl, rfl⟩, by decide +kernel, by decide +kernel, by decide +kernel, by decide +kernel⟩,
    by decide +kernel, by decide +kernel, by decide +kernel⟩
  · intro c
    by_cases h : c < 4
    · interval_cases c <;> decide +kernel
    · have h0 : planYes.areas.filter (fun a => a.1 == c) = [] := List.filter_eq_nil_iff.mpr fun a ha => by
        fin_cases ha <;> simp <;> omega
      rw [h0]
      show 0 = if 0 ≤ c ∧ c < 0 + 4 then _ else 0
      rw [if_neg (by omega)]
  · rw [hpu]
    decide +kernel
  · rw [hpu]
    intro n hn
    exact ⟨group0, by decide +kernel, by decide +kernel, by decide +revert +kernel⟩

/-! ### Swapping and partitions -/

/-- The command `c` waits in the host's mailbox. -/
def mailed (s : State) (c : List DWord) : State := { s with svc := { s.svc with host := { Mailbox.reset with job := some c } } }
theorem turned_of {s : State} {c : List DWord} (h : decide (s.svc.powered = true ∧ s.svc.restarting = none ∧ s.svc.reload = none ∧
    s.arg.flag = false ∧ s.svc.host.job = some c ∧ s.svc.host.begun = false ∧ s.svc.stopped = false) = true) : Turned s false c := by
  have := of_decide_eq_true h
  exact ⟨this.1, this.2.1, this.2.2.1, this.2.2.2.1, by simpa using this.2.2.2.2⟩
theorem serving_of {i : Instr} {s : State} {c : List DWord} {op : Nat} {ok : List DWord → Prop} (hm : managementOp i = some (op, ok))
    (hok : ok c) (h : decide (s.svc.powered = true ∧ s.svc.restarting = none ∧ s.svc.reload = none ∧ s.arg.flag = false ∧
      s.svc.host.job = some c ∧ s.svc.host.begun = false ∧ s.svc.stopped = false) = true) (hc : decide (mgmtBad c = false ∧ mgmtOp c = op) = true)
    (hd : s.svc.diesOn = true) : Serving i s false c := by
  have ht := of_decide_eq_true h
  have hb := of_decide_eq_true hc
  exact ⟨turned_of h, ⟨hb.1, fun _ => ⟨ht.1, hd, ht.2.2.2.2.2.2⟩⟩, op, ok, hm, hb.2, hok⟩
/-- A team so, with one group that waits for resources, on a core whose agent works. -/
def racqPath : Path := { path0 with wait := some ⟨.racq Claim.zero, false, 0#32, 0, none⟩ }
def agents (s : State) : State := { s with cores := Tab.const 768 { Core.reset with agentOn := true } }
def waitingTeam : State := agents (scene .nop (groupOf racqPath) { team0 with st := .waiting, waitSince := some 0, swapth := 0 })
/-- A team that is out, for which something has changed. -/
def outTeam : Team := { team0 with st := .swapped, stirred := true }
def swappedTeam : State := agents (scene .nop group0 outTeam)
/-- A team of priority 5 stands before an entry of priority 0 that has not fitted since cycle 0. -/
def preempting : State :=
  { launching (record 63 24 three 1) 1 [] with
    now := 1
    teams := [{ team0 with prio := 5 }]
    parts := State.reset.parts.set 0 { Partition.reset with st := .running, preemptTh := 1 }
    cores := State.reset.cores.set 0 { Core.reset with agentOn := true, unfit := some (0#32, 0) } }
/-- A team that leaves with an item in its core's region. -/
def leavingTeam : State := { scene .nop group0 { team0 with st := .swappingOut } with items := [item0 false 0] }
/-- A team that comes back, on a core whose agent works. -/
def comingBack : State := agents (scene .nop group0 { team0 with st := .returning })
theorem witness_SwapSteps :
    (waitingTeam.team 0 = some { team0 with st := .waiting, waitSince := some 0, swapth := 0 } ∧ waitingTeam.agentRuns 0 = true ∧
      (waitingTeam.together { team0 with st := .waiting, waitSince := some 0, swapth := 0 }).all waitingTeam.timedOut = true ∧
      (waitingTeam.together { team0 with st := .waiting, waitSince := some 0, swapth := 0 }).any waitingTeam.swapReason = true) ∧
    ((agents (scene .nop)).team 0 = some team0 ∧ (agents (scene .nop)).agentRuns 0 = true ∧
      ((agents (scene .nop)).together team0).all (agents (scene .nop)).timedOut = false) ∧
    (leavingTeam.team 0 = some { team0 with st := .swappingOut } ∧ (leavingTeam.part 0).st = .running ∧ DiesUp leavingTeam ∧
      (leavingTeam.items.map anywhere).Nodup ∧ (∀ i ∈ leavingTeam.items, i.owner = 0 → i.free = false → i.coreOf = 0) ∧
      ∀ i ∈ leavingTeam.items, i.image.length = 32 * i.units) ∧
    ((scene .nop group0 { team0 with st := .swappingOut }).poolUsed 0 + unitSum ((scene .nop group0 { team0 with st := .swappingOut }).items.filter
      fun i => i.home == .core 0 && i.owner == 0 && !i.free) ≤ ((scene .nop).part 0).dpoolU) ∧
    (∃ s1, Numbered swappedTeam ∧ swappedTeam.team 0 = some outTeam ∧ swappedTeam.eligible outTeam = true ∧
      (∀ v ∈ swappedTeam.together outTeam, v.reqs = []) ∧
      ((swappedTeam.returners 0).find? fun v => (swappedTeam.tryReturn v 0).isSome) = some outTeam ∧
      swappedTeam.tryReturn outTeam 0 = some s1) ∧
    ((agents (scene .nop)).team 0 = some team0 ∧ (agents (scene .nop)).eligible team0 = false) ∧
    (comingBack.team 0 = some { team0 with st := .returning } ∧ comingBack.agentRuns 0 = true) ∧
    ((scene .nop group0 { team0 with st := .returning }).team 0 = some { team0 with st := .returning } ∧
      (scene .nop group0 { team0 with st := .returning }).agentRuns 0 = false) ∧
    (∃ i e v, preempting.agentRuns 0 = true ∧ (preempting.part 0).preemptTh ≠ 0 ∧ (preempting.core 0).unfit = some (e.seq, 0) ∧
      preempting.firstEntry 0 = some (i, e) ∧ 0 + (preempting.part 0).preemptTh ≤ preempting.now ∧
      (∀ u ∈ preempting.teams, ¬ (u.core = 0 ∧ u.st = .swappingOut ∧ u.switchedOut = true)) ∧ preempting.entryFits 0 e = false ∧
      preempting.victim 0 e.prio = some v) ∧
    ((agents (scene .nop)).agentRuns 0 = true ∧ ((agents (scene .nop)).part 0).preemptTh = 0) ∧
    (Serving .cswitch (mailed (scene .nop) [7#64, 767#64]) false [7#64, 767#64] ∧
      ((mailed (scene .nop) [7#64, 767#64]).part (partOf 767)).st ≠ .running) ∧
    Serving .cswitch (mailed (scene .nop) [7#64]) false [7#64] ∧ ((mailed (scene .nop) [7#64]).part (partOf 0)).st = .running := by
  obtain ⟨s1, hs1⟩ := some_of (x := swappedTeam.tryReturn outTeam 0) (by decide +kernel)
  exact ⟨⟨by decide +kernel, by decide +kernel, by decide +kernel, by decide +kernel⟩, ⟨by decide +kernel, by decide +kernel, by decide +kernel⟩,
    ⟨by decide +kernel, by decide +kernel, ⟨rfl, rfl, rfl⟩, by decide +kernel, by decide +kernel, by decide +kernel⟩, by decide +kernel,
    ⟨s1, numbered_of (by decide +kernel), by decide +kernel, by decide +kernel, by decide +kernel, by decide +kernel, hs1⟩,
    ⟨by decide +kernel, by decide +kernel⟩, ⟨by decide +kernel, by decide +kernel⟩, ⟨by decide +kernel, by decide +kernel⟩,
    ⟨0, bound (record 63 24 three 1) 1, { team0 with prio := 5 }, by decide +kernel, by decide +kernel, by decide +kernel, by decide +kernel,
      by decide +kernel, by decide +kernel, by decide +kernel, by decide +kernel⟩, ⟨by decide +kernel, by decide +kernel⟩,
    ⟨serving_of rfl trivial (by decide +kernel) (by decide +kernel) rfl, by decide +kernel⟩,
    serving_of rfl trivial (by decide +kernel) (by decide +kernel) rfl, by decide +kernel⟩

/-- Partition 1 so, on a part that works, and its command of OP `op`. -/
def withPart (p : Partition) : State := { up with parts := State.reset.parts.set 1 p }
def onePart (op : Nat) (p : Partition) : State := mailed (withPart p) [BitVec.ofNat 64 (op + 256)]
def inState (st : PartState) : Partition := { Partition.reset with st := st }
/-- A descriptor at 0x8000 with a bit that it may not have. -/
def badDesc : State := { mailed (withPart Partition.reset) [257#64, 0x8000#64] with mem := memPut [] 0x8000 (dwords [1]) }
def shadowed (p : Partition) : State := { onePart 4 p with parts := State.reset.parts.set 1 { p with shadow := true } }
def partStep (p : Partition) : State := { withPart p with arg := { StepArg.none with part := 1 } }
theorem shadowFree_of {s : State} {p : Nat} (h : (decide ((s.part (p / 2 * 2)).shadow = true ∨ (s.part (p / 2 * 2 + 1)).shadow = true) &&
    [p / 2 * 2, p / 2 * 2 + 1].all fun q => decide ((s.part q).st ≠ .swappingOut ∧ (s.part q).st ≠ .swapped ∧ (s.part q).st ≠ .swappingIn)) = true) :
    shadowFree s p := by
  rw [Bool.and_eq_true, List.all_eq_true] at h
  exact ⟨of_decide_eq_true h.1, fun q hq => of_decide_eq_true (h.2 q (by simpa using hq))⟩
theorem witness_PartitionSteps :
    Turned (mailed up [0#64]) false [0#64] ∧ mgmtBad [0#64] = true ∧
    (Turned { mailed up [2#64] with svc := { (mailed up [2#64]).svc with diesOn := false } } false [2#64] ∧ mgmtBad [2#64] = false ∧
      mgmtOp [2#64] = 2 ∧ mgmtNeedsDies 2 = true) ∧
    (Serving .phalt (onePart 2 { Partition.reset with busy := some (2, true) }) false [258#64] ∧
      ((onePart 2 { Partition.reset with busy := some (2, true) }).part (mgmtPart [258#64])).busy ≠ none) ∧
    (Serving .pconf badDesc false [257#64, 0x8000#64] ∧ (badDesc.part 1).st = .unconfigured ∧ (badDesc.part 1).busy = none ∧
      descBad (descriptorAt badDesc 0x8000) = some 0) ∧
    (Serving .pconf (onePart 1 (inState .halted)) false [257#64] ∧ ((onePart 1 (inState .halted)).part 1).st = .halted ∧
      (onePart 1 (inState .halted)).teams = [] ∧ descBad (descriptorAt (onePart 1 (inState .halted)) 0) = none ∧
      ((onePart 1 (inState .halted)).part (otherPart 1)).st = .unconfigured) ∧
    (Serving .phalt (onePart 2 (inState .running)) false [258#64] ∧ ((onePart 2 (inState .running)).part 1).st = .running) ∧
    (Serving .phalt (onePart 2 (inState .halted)) false [258#64] ∧ ((onePart 2 (inState .halted)).part 1).st ≠ .running) ∧
    (DiesUp (partStep (inState .halting)) ∧ ((partStep (inState .halting)).part 1).st = .halting) ∧
    (Serving .presume (onePart 3 (inState .halted)) false [259#64] ∧ ((onePart 3 (inState .halted)).part 1).st = .halted) ∧
    (Serving .pswapout (shadowed (inState .halted)) false [260#64] ∧ ((shadowed (inState .halted)).part 1).st = .halted ∧
      shadowFree (shadowed (inState .halted)) 1) ∧
    (Serving .pswapout (onePart 4 (inState .running)) false [260#64] ∧ ((onePart 4 (inState .running)).part 1).st ≠ .halted) ∧
    (Serving .pswapin (onePart 5 (inState .swapped)) false [261#64] ∧ ((onePart 5 (inState .swapped)).part 1).st = .swapped) ∧
    (DiesUp (partStep (inState .swappingOut)) ∧ ((partStep (inState .swappingOut)).part 1).owed = none ∧
      ((partStep (inState .swappingOut)).part 1).st = .swappingOut) ∧
    (DiesUp (partStep (inState .swappingIn)) ∧ ((partStep (inState .swappingIn)).part 1).owed = none ∧
      ((partStep (inState .swappingIn)).part 1).st = .swappingIn) ∧
    Serving .preset (onePart 6 (inState .halted)) false [262#64] ∧ ((onePart 6 (inState .halted)).part 1).st = .halted :=
  ⟨turned_of (by decide +kernel), by decide +kernel, ⟨turned_of (by decide +kernel), by decide +kernel, by decide +kernel, by decide +kernel⟩,
    ⟨serving_of rfl trivial (by decide +kernel) (by decide +kernel) rfl, by decide +kernel⟩,
    ⟨serving_of rfl trivial (by decide +kernel) (by decide +kernel) rfl, by decide +kernel, by decide +kernel, by decide +kernel⟩,
    ⟨serving_of rfl trivial (by decide +kernel) (by decide +kernel) rfl, by decide +kernel, rfl, by decide +kernel, by decide +kernel⟩,
    ⟨serving_of rfl trivial (by decide +kernel) (by decide +kernel) rfl, by decide +kernel⟩,
    ⟨serving_of rfl trivial (by decide +kernel) (by decide +kernel) rfl, by decide +kernel⟩, ⟨⟨rfl, rfl, rfl⟩, by decide +kernel⟩,
    ⟨serving_of rfl trivial (by decide +kernel) (by decide +kernel) rfl, by decide +kernel⟩,
    ⟨serving_of rfl trivial (by decide +kernel) (by decide +kernel) rfl, by decide +kernel, shadowFree_of (by decide +kernel)⟩,
    ⟨serving_of rfl trivial (by decide +kernel) (by decide +kernel) rfl, by decide +kernel⟩,
    ⟨serving_of rfl trivial (by decide +kernel) (by decide +kernel) rfl, by decide +kernel⟩,
    ⟨⟨rfl, rfl, rfl⟩, by decide +kernel, by decide +kernel⟩, ⟨⟨rfl, rfl, rfl⟩, by decide +kernel, by decide +kernel⟩,
    serving_of rfl trivial (by decide +kernel) (by decide +kernel) rfl, by decide +kernel⟩

/-! ### Engines -/

/-- A copy of 64 bytes of the test page to its next 64, whose handle is h1; `f` changes what it needs. -/
def copy0 (f : Copy → Copy) : Copy :=
  f { cid := 0, owner := .handle 0 0 1 0#16, gang := none, core := 0, part := 0, kind := 0
      ccb := [0x10000#64, 0x10040#64, 64#64, 0#64, 0#64, 0#64, 0#64, 0x20005#64], acq := false, rel := false, relSeq := none, acquired := false
      done := [], failed := false, cancelled := false, stopped := false, lowest := false, released := false, fault := none }
/-- A group with h1 pending for an engine, and a copy; object 5 of the table is an event. -/
def copying (f : Copy → Copy) (a : StepArg := StepArg.none) : State :=
  { withBytes (scene .nop (pend 1)) 0x400A0 (dwords [2 ^ 58]) with copies := [copy0 f], arg := a }
/-- The copy whose source, or destination, is in no page; that counts in an arrival word of its team; stopped; done; or done with a
release in its turn. -/
def fromNowhere (x : Copy) : Copy := { x with ccb := [2 ^ 40, 0, 64] }
def toNowhere (x : Copy) : Copy := { x with ccb := [0x10000#64, 0x50000#64, 64#64], lowest := true }
def counting (x : Copy) : Copy := { x with ccb := [0x10000#64, 0x10040#64, 64#64, 0#64, 0#64, 0#64, 0x100000100#64, 0#64] }
def halted (x : Copy) : Copy := { x with stopped := true }
def copied (x : Copy) : Copy := { x with done := [(0, 0)] }
def copiedRel (x : Copy) : Copy := { x with done := [(0, 0)], rel := true, relSeq := some 0#32 }
def scrTeam : Team := { team0 with hold := { team0.hold with scr := 1 } }
def counter : State := { copying counting with teams := [scrTeam] }
/-- A record of the test group, changed so. -/
def recordOf (f : Record → Record) : Record := f (rec0 (hand .nop) (scene .nop))
def engines (f : Record → Record) (a : StepArg := StepArg.none) (eng : Nat := 2) : State :=
  { scene .nop (pend eng) with records := [recordOf f], arg := a }
/-- Slot 0 of the record's core holds no result of worth. -/
def badSlot (f : Record → Record) : State :=
  { engines f with cores := State.reset.cores.set 0 { Core.reset with acc := Core.reset.acc.set 0 { AccSlot.reset with bad := true } } }
/-- A record that has not started; that works on an engine; and that has ended and owes its handle h1. -/
def waits (fn : Nat) (r : Record) : Record := { r with rid := 0, fn := fn }
def works (fn : Nat) (r : Record) : Record := { r with rid := 0, fn := fn, started := true, eng := some 0, entryRead := true }
def closes (fn : Nat) (r : Record) : Record := { r with rid := 0, fn := fn, started := true, finished := true, hasH := true, h := 1 }
/-- A TKSPLIT whose ticket is at an address; one that has been stopped; a record that has failed; a finished TLOAD that owes a status. -/
def split (va : Nat) (r : Record) : Record := { waits 7 r with block := [0#64, BitVec.ofNat 64 va] }
def failing (r : Record) : Record := { waits 3 r with badDep := true }
def owes (va : Nat) (r : Record) : Record :=
  { works 2 r with finished := true, block := [0#64, 0#64, 0#64, 0#64, 0#64, 0#64, 0#64, BitVec.ofNat 64 va] }
/-- A product of 64 terms. -/
def ranked (r : Record) : Record := { works 3 r with block := [0#64, 0#64, 0#64, 0#64, 0#64, 64#64] }
/-- An uncorrected error lies under the test page. -/
def refused (f : Record → Record) : State := { engines f with bad := [⟨0x20000, false, 1, BitVec.allOnes 256⟩] }
/-- Four parts of a joint, one for each core of quad 0. -/
def part5 (k : Nat) : Record := recordOf fun r => { r with rid := k, core := k, fn := 5 }
def jointly : State := { engines id with records := [part5 0, part5 1, part5 2, part5 3] }
theorem onlyHandle_of {r : Record} (h : decide (r.started = true ∧ r.fault = none ∧ r.stopped = false ∧
    (r.finished = true ∨ r.failed = true ∨ r.cancelled = true) ∧ r.joint = none ∧ (r.fn = 7 → r.ticketDone = true) ∧
    (r.stva = 0 ∨ r.stvaDone = true ∨ r.failed = true ∨ r.cancelled = true)) = true) : OnlyHandle r := by
  unfold OnlyHandle
  exact of_decide_eq_true h
theorem inTurn_of {s : State} {r : Record} (h : r.rel = false) : recordInTurn s r := fun _ hr => absurd (h.symm.trans hr) Bool.noConfusion
/-- The scheduler asks for no page where the one record's ticket can be read, or fails. -/
theorem asks_none {s : State} {q : Nat} {r : Record} (hr : s.records = [r]) (h : ∀ f, s.ticket r ≠ .error (.fault f)) : s.askTickets q = s := by
  unfold State.askTickets
  rw [hr]
  simp only [List.foldl]
  repeat' split
  all_goals rfl
/-- The record is the one that the scheduler of quad 0 takes; its handles have not failed, or have. -/
def taken (s : State) (r : Record) (d : Bool) : Prop :=
  s.askTickets 0 = s ∧ (s.records.find? fun r => r.core / 4 == 0 && s.canStart r) = some r ∧ s.doomed r = d
def idleArrays : State :=
  { scene .nop with now := 2048, cores := State.reset.cores.set 0 { Core.reset with arraysOn := true } }
theorem witness_EngineSteps :
    -- COPY_CHUNK
    (∃ bs s1 s2, (copying id).copyRuns (copy0 id) = true ∧ (0, 0) ∈ (copy0 id).remaining ∧ (copy0 id).lowest = false ∧
      (copying id).copyBytes (copy0 id) 0 64 = .ok (bs, s1) ∧ s1.copyPutAll (copy0 id) 0 0 bs = .ok s2 ∧ (copy0 id).q.avsp = 0) ∧
    (∃ bs s1 s2 u off, (0, 0) ∈ (copy0 counting).remaining ∧ counter.copyRuns (copy0 counting) = true ∧
      counter.copyBytes (copy0 counting) 0 64 = .ok (bs, s1) ∧ s1.copyPutAll (copy0 counting) 0 0 bs = .ok s2 ∧ (copy0 counting).q.avsp ≠ 0 ∧
      s2.copyPlace (copy0 counting) 0 (copy0 counting).q.avsp (copy0 counting).q.av = some (u, off) ∧ off + 16 ≤ u.hold.scr * 4096 ∧
      u.hold.scr ≤ 64 ∧ s2.team u.uid = some u) ∧
    (∃ e, (copying fromNowhere).copyBytes (copy0 fromNowhere) 0 64 = .error e ∧ (0, 0) ∈ (copy0 fromNowhere).remaining) ∧
    (∃ bs s1 e, (0, 0) ∈ (copy0 toNowhere).remaining ∧ (copy0 toNowhere).lowest = true ∧ (∀ c ∈ (copy0 toNowhere).remaining, 0 ≤ c.2) ∧
      (copying toNowhere).copyBytes (copy0 toNowhere) 0 64 = .ok (bs, s1) ∧ s1.copyPutAll (copy0 toNowhere) 0 0 bs = .error e) ∧
    -- COPY_COMPLETE
    (DiesUp (copying halted) ∧ (copying halted).copy 0 = some (copy0 halted) ∧ (copy0 halted).stopped = true) ∧
    ((copy0 copied).finished = true ∧ (copy0 copied).stopped = false ∧ (copying copied).group 0 = some (pend 1) ∧
      (pend 1).getH 1#6 = 0#16 ++ BitVec.ofNat 16 (1 + 256 * 1)) ∧
    ((copy0 copiedRel).q.sov = true ∧ ((copying copiedRel).rbEntry 0 (copy0 copiedRel).q.soid).rels = 0#32) ∧
    -- DOVETAIL_START
    ({ engines id with records := [] }.askTickets 0 = { engines id with records := [] }) ∧ taken (engines failing) (recordOf failing) true ∧
    taken (engines (waits 1)) (recordOf (waits 1)) false ∧ taken (engines (waits 11)) (recordOf (waits 11)) false ∧
    taken (engines (waits 3)) (recordOf (waits 3)) false ∧
    (taken (engines (split 0x10000)) (recordOf (split 0x10000)) false ∧ ∃ n, (engines (split 0x10000)).ticket (recordOf (split 0x10000)) = .ok n) ∧
    (taken (refused (split 0x10000)) (recordOf (split 0x10000)) false ∧ (refused (split 0x10000)).ticket (recordOf (split 0x10000)) = .error .fails) ∧
    taken jointly (part5 0) false ∧
    -- TILE_RECORD_STEP
    (∀ n ∈ [16, 1, 8, 2, 6, 7, 3], (engines (works n)).record 0 = some (recordOf (works n)) ∧ (engines (works n)).mayStep (recordOf (works n)) = true ∧
      (engines (works n)).slotsBad (recordOf (works n)) = false) ∧
    ((badSlot (works 3)).mayStep (recordOf (works 3)) = true ∧ (badSlot (works 3)).slotsBad (recordOf (works 3)) = true) ∧
    (recordOf (works 3)).tcb.klen ≤ 64 * (recordOf (works 3)).next ∧
    64 * (recordOf ranked).next < (recordOf ranked).tcb.klen ∧
    -- TILE_RECORD_COMPLETE
    ((engines (waits 3)).record 0 = some (recordOf (waits 3)) ∧ (recordOf (waits 3)).started = false) ∧
    ((engines (closes 3)).record 0 = some (recordOf (closes 3)) ∧ OnlyHandle (recordOf (closes 3)) ∧
      recordInTurn (engines (closes 3)) (recordOf (closes 3)) ∧ (pend 2).getH 1#6 = (recordOf (closes 3)).tag ++ BitVec.ofNat 16 (1 + 256 * 2)) ∧
    (∃ s1, (recordOf (owes 0x10000)).started = true ∧ (recordOf (owes 0x10000)).finished = true ∧ (recordOf (owes 0x10000)).stva ≠ 0 ∧
      (engines (owes 0x10000)).engineWrite 0 0 (recordOf (owes 0x10000)).stva (natBytes 4
        ((engines (owes 0x10000)).slot 0 (recordOf (owes 0x10000)).slot).status.toNat) = .ok s1) ∧
    (∃ e, (engines (owes 0x50000)).engineWrite 0 0 (recordOf (owes 0x50000)).stva (natBytes 4
        ((engines (owes 0x50000)).slot 0 (recordOf (owes 0x50000)).slot).status.toNat) = .error e) ∧
    -- PRED_RECORD_STEP and PRED_RECORD_COMPLETE
    (∀ n ∈ [11, 12, 13, 14], (engines (works n)).record 0 = some (recordOf (works n)) ∧ (engines (works n)).mayStep (recordOf (works n)) = true ∧
      (engines (works n)).slotsBad (recordOf (works n)) = false) ∧
    (badSlot (works 14)).slotsBad (recordOf (works 14)) = true ∧
    ((recordOf (works 14)).entryRead = true ∧ (recordOf (works 14)).nlist ≤ 64 * (recordOf (works 14)).next) ∧
    ((engines (waits 12)).record 0 = some (recordOf (waits 12)) ∧ (recordOf (waits 12)).started = false) ∧
    ((engines (closes 12) StepArg.none 3).record 0 = some (recordOf (closes 12)) ∧ OnlyHandle (recordOf (closes 12)) ∧
      recordInTurn (engines (closes 12) StepArg.none 3) (recordOf (closes 12)) ∧
      (pend 3).getH 1#6 = (recordOf (closes 12)).tag ++ BitVec.ofNat 16 (1 + 256 * 3)) ∧
    -- SUBARRAY_POWER_DOWN
    (idleArrays.core 0).arraysOn = true ∧ idleArrays.engineBusy 0 = false ∧
      (idleArrays.core 0).arraysIdle + (if (idleArrays.part 0).idlet = 0 then 2048 else (idleArrays.part 0).idlet) ≤ idleArrays.now := by
  obtain ⟨⟨bs, s1⟩, h1, h2⟩ := ok_with (x := (copying id).copyBytes (copy0 id) 0 64)
    (fun y => (y.2.copyPutAll (copy0 id) 0 0 y.1).isOk = true) (by decide +kernel)
  obtain ⟨s2, h2⟩ := ok_of h2
  obtain ⟨⟨bs', s1'⟩, h3, h4⟩ := ok_with (x := counter.copyBytes (copy0 counting) 0 64)
    (fun y => (match y.2.copyPutAll (copy0 counting) 0 0 y.1 with
      | .ok s2 => decide (s2.copyPlace (copy0 counting) 0 (copy0 counting).q.avsp (copy0 counting).q.av = some (scrTeam, 0x100) ∧
          s2.team 0 = some scrTeam)
      | .error _ => false) = true) (by decide +kernel)
  have h4 : (match s1'.copyPutAll (copy0 counting) 0 0 bs' with
      | .ok s2 => decide (s2.copyPlace (copy0 counting) 0 (copy0 counting).q.avsp (copy0 counting).q.av = some (scrTeam, 0x100) ∧
          s2.team 0 = some scrTeam)
      | .error _ => false) = true := h4
  obtain ⟨s2', h5, h6⟩ := ok_with (x := s1'.copyPutAll (copy0 counting) 0 0 bs') (fun s2 =>
    s2.copyPlace (copy0 counting) 0 (copy0 counting).q.avsp (copy0 counting).q.av = some (scrTeam, 0x100) ∧ s2.team 0 = some scrTeam)
    (by split at h4 <;> simp_all)
  obtain ⟨e, he⟩ := error_of (x := (copying fromNowhere).copyBytes (copy0 fromNowhere) 0 64) (by decide +kernel)
  obtain ⟨⟨bs3, s3⟩, h7, h8⟩ := ok_with (x := (copying toNowhere).copyBytes (copy0 toNowhere) 0 64)
    (fun y => (y.2.copyPutAll (copy0 toNowhere) 0 0 y.1).isOk = false) (by decide +kernel)
  obtain ⟨e3, h8⟩ := error_of h8
  obtain ⟨n, hn⟩ := ok_of (x := (engines (split 0x10000)).ticket (recordOf (split 0x10000))) (by decide +kernel)
  obtain ⟨s4, h9⟩ := ok_of (x := (engines (owes 0x10000)).engineWrite 0 0 (recordOf (owes 0x10000)).stva (natBytes 4
        ((engines (owes 0x10000)).slot 0 (recordOf (owes 0x10000)).slot).status.toNat)) (by decide +kernel)
  obtain ⟨e5, h10⟩ := error_of (x := (engines (owes 0x50000)).engineWrite 0 0 (recordOf (owes 0x50000)).stva (natBytes 4
        ((engines (owes 0x50000)).slot 0 (recordOf (owes 0x50000)).slot).status.toNat)) (by decide +kernel)
  have hf : (refused (split 0x10000)).ticket (recordOf (split 0x10000)) = .error .fails := by decide +kernel
  have ha : (engines (split 0x10000)).askTickets 0 = engines (split 0x10000) :=
    asks_none (r := recordOf (split 0x10000)) rfl fun f h => by rw [hn] at h; cases h
  have hb : (refused (split 0x10000)).askTickets 0 = refused (split 0x10000) :=
    asks_none (r := recordOf (split 0x10000)) rfl fun f h => by rw [hf] at h; cases h
  exact ⟨⟨bs, s1, s2, by decide +kernel, by decide +kernel, rfl, h1, h2, by decide⟩,
    ⟨bs', s1', s2', scrTeam, 0x100, by decide +kernel, by decide +kernel, h3, h5, by decide, h6.1, by decide, by decide, h6.2⟩,
    ⟨e, he, by decide +kernel⟩, ⟨bs3, s3, e3, by decide +kernel, rfl, fun _ _ => Nat.zero_le _, h7, h8⟩,
    ⟨⟨rfl, rfl, rfl⟩, rfl, rfl⟩, ⟨by decide +kernel, rfl, by decide +kernel, by decide +kernel⟩, ⟨by decide, by decide +kernel⟩, rfl,
    ⟨rfl, by decide +kernel, by decide +kernel⟩, ⟨rfl, by decide +kernel, by decide +kernel⟩, ⟨rfl, by decide +kernel, by decide +kernel⟩,
    ⟨rfl, by decide +kernel, by decide +kernel⟩, ⟨⟨ha, by decide +kernel, by decide +kernel⟩, n, hn⟩,
    ⟨⟨hb, by decide +kernel, by decide +kernel⟩, hf⟩, ⟨rfl, by decide +kernel, by decide +kernel⟩,
    by decide +kernel, ⟨by decide +kernel, by decide +kernel⟩, by decide +kernel, by decide +kernel, ⟨rfl, rfl⟩,
    ⟨rfl, onlyHandle_of (by decide +kernel), inTurn_of rfl, by decide +kernel⟩, ⟨s4, rfl, rfl, by decide +kernel, h9⟩, ⟨e5, h10⟩,
    by decide +kernel, by decide +kernel, ⟨rfl, by decide +kernel⟩, ⟨rfl, rfl⟩,
    ⟨rfl, onlyHandle_of (by decide +kernel), inTurn_of rfl, by decide +kernel⟩, by decide +kernel, by decide +kernel, by decide +kernel⟩

/-! ### The memory system, the fault service and errors -/

/-- A team whose line 0 is full, and a group that waits to empty it. -/
def fullTeam : Team := { team0 with full := [0] }
def ldfePath : Path := { path0 with wait := some ⟨.ldfe ⟨false, 1, 2, 0, false, 0⟩ [(0, 0, 0)] 0#32 0x180000001#57, false, 0#32, 0, none⟩ }
def soacqPath : Path := { path0 with wait := some ⟨.soacq 5 0#32, false, 0#32, 0, none⟩ }
def tinvs (busy : Bool) : State :=
  { up { StepArg.none with data := [0#64] } with tinv := Tab.const 4 { TinvRegs.reset with busy := busy } }
/-- A peer's access: a release of object 5, which is of a kind, and has so many numbers out. -/
def peering (op kind issued : Nat) : State :=
  { scene .nop with arg := { StepArg.none with item := op, addr := 0x1000, size := 8, team := 5, data := [1#64] }
                    mem := memPut [] 0x400A0 (dwords [2 ^ 57 * kind, 0, 2 ^ 32 * issued]) }
/-- A copy and a record so, and a group that waits for a release. -/
def doneRel (x : Copy) : Copy := { x with rel := true, done := [(0, 0)] }
def acquiring (x : Copy) : Copy := { x with acq := true }
def recRel (r : Record) : Record := { closes 3 r with rel := true }
def recAcq (r : Record) : Record := { works 3 r with acq := true }
def waitingRel : State := scene .nop (groupOf soacqPath)
/-- Object 5's turn has come to a release that waits. -/
def turning : State := { copying id with arg := { StepArg.none with item := 5 }, rels := [⟨0, 5, 0#32, some 0⟩] }
theorem witness_MemorySystemSteps :
    (∃ size new, DiesUp (up (argAt 0x1000 0 [7#64])) ∧ aluOp 11 7 0 (memNat (up (argAt 0x1000 0 [7#64])).mem 0x1000 8) = some (size, new) ∧
      0x1000 % size = 0 ∧ inModule 0x1000 size ∧ inModule (2 ^ 52) size) ∧
    -- RELEASE_PERFORM
    (DiesUp (copying doneRel) ∧ (copying doneRel).copy 0 = some (copy0 doneRel) ∧ (copy0 doneRel).finished = true ∧ (copy0 doneRel).relSeq = none ∧
      (copy0 doneRel).q.sov = true ∧ ((copying doneRel).rbEntry 0 (copy0 doneRel).q.soid).kind ≠ 0) ∧
    (DiesUp (engines recRel) ∧ (engines recRel).copy 0 = none ∧ (engines recRel).record 0 = some (recordOf recRel) ∧ (recordOf recRel).released = false ∧
      (recordOf recRel).finished = true ∧ (recordOf recRel).stva = 0 ∧ (recordOf recRel).relSeq = none) ∧
    -- ACQUIRE_PERFORM
    (DiesUp (copying acquiring) ∧ (copying acquiring).copy 0 = some (copy0 acquiring) ∧ (copy0 acquiring).stopped = false) ∧
    (DiesUp (engines recAcq) ∧ (engines recAcq).copy 0 = none ∧ (engines recAcq).record 0 = some (recordOf recAcq) ∧ (recordOf recAcq).started = true ∧
      (recordOf recAcq).stopped = false) ∧
    (DiesUp waitingRel ∧ waitingRel.copy 0 = none ∧ waitingRel.record 0 = none ∧ waitingRel.group 0 = some (groupOf soacqPath) ∧
      waitingRel.team 0 = some team0 ∧ (groupOf soacqPath).path 0 = some soacqPath ∧ ((waitingRel.rbEntry 0 5).rels - 0#32).toNat < 2 ^ 31) ∧
    -- ORDERED_RELEASE_TURN
    (DiesUp turning ∧ (turning.rels.find? fun r => r.part == 0 && r.soid == 5 && r.seq == (turning.rbEntry 0 5).rels) = some ⟨0, 5, 0#32, some 0⟩ ∧
      (turning.rbEntry 0 5).kind ≠ 0) ∧
    -- LDFE_SERVE
    ((scene .nop (groupOf ldfePath) fullTeam).group 0 = some (groupOf ldfePath) ∧ (scene .nop (groupOf ldfePath) fullTeam).teamRuns fullTeam = true ∧
      (linesOf [(0, 0, 0)]).all (scene .nop (groupOf ldfePath) fullTeam).lineFull = true ∧
      (scene .nop (groupOf ldfePath) fullTeam).ldfeAhead 0 (linesOf [(0, 0, 0)]) = false) ∧
    -- TINVCTL and TINV_DONE
    (HostUp (tinvs true) ∧ DiesUp (tinvs true) ∧ ((tinvs true).tinv.get 0).busy = true ∧ ((tinvs false).tinv.get 0).busy = false) ∧
    -- PEER_PARTY_ACCESS
    (DiesUp (peering 0 0 0) ∧ (peering 0 0 0).svc.ports ≠ 0#48 ∧ inModule 0x1000 8 ∧ (peering 1 0 0).arg.size ≤ 8 * (peering 1 0 0).arg.data.length) ∧
    (∃ size new, aluOp (peering 2 0 0).arg.core (carried (peering 2 0 0) 0) (carried (peering 2 0 0) 1)
      (memNat (peering 2 0 0).mem 0x1000 4) = some (size, new) ∧ size = 4 ∧ 0x1000 % size = 0) ∧
    ((peering 3 3 0).rbEntry 0 5).kind = 3 ∧ (((peering 3 2 0).rbEntry 0 5).kind = 2 ∧ ((peering 3 2 0).rbEntry 0 5).rels = ((peering 3 2 0).rbEntry 0 5).issued) ∧
    ((peering 3 2 1).rbEntry 0 5).kind = 2 ∧ ((peering 3 2 1).rbEntry 0 5).rels ≠ ((peering 3 2 1).rbEntry 0 5).issued := by
  obtain ⟨x, hx, h⟩ := some_with (x := aluOp 11 7 0 (memNat (up (argAt 0x1000 0 [7#64])).mem 0x1000 8)) (fun x => x.1 = 8) (by decide +kernel)
  obtain ⟨y, hy, hy4⟩ := some_with (x := aluOp (peering 2 0 0).arg.core (carried (peering 2 0 0) 0) (carried (peering 2 0 0) 1)
    (memNat (peering 2 0 0).mem 0x1000 4)) (fun x => x.1 = 4) (by decide +kernel)
  have hm (n : Nat) (hn : n ≤ 8) : inModule 0x1000 n ∧ inModule (2 ^ 52) n := by
    unfold inModule hbmTop
    omega
  exact ⟨⟨x.1, x.2, ⟨rfl, rfl, rfl⟩, hx, by rw [h], hm _ (by omega)⟩,
    ⟨⟨rfl, rfl, rfl⟩, rfl, by decide +kernel, rfl, by decide +kernel, by decide +kernel⟩, ⟨⟨rfl, rfl, rfl⟩, rfl, rfl, rfl, rfl, by decide +kernel, rfl⟩,
    ⟨⟨rfl, rfl, rfl⟩, rfl, rfl⟩, ⟨⟨rfl, rfl, rfl⟩, rfl, rfl, rfl, rfl⟩,
    ⟨⟨rfl, rfl, rfl⟩, rfl, rfl, rfl, rfl, by decide +kernel, by decide +kernel⟩, ⟨⟨rfl, rfl, rfl⟩, by decide +kernel, by decide +kernel⟩,
    ⟨rfl, by decide +kernel, by decide +kernel, by decide +kernel⟩, ⟨⟨rfl, rfl, rfl⟩, ⟨rfl, rfl, rfl⟩, rfl, rfl⟩,
    ⟨⟨rfl, rfl, rfl⟩, by decide +kernel, (hm 8 (by omega)).1, by decide⟩, ⟨y.1, y.2, hy, hy4, by rw [hy4]⟩, by decide +kernel,
    ⟨by decide +kernel, by decide +kernel⟩, by decide +kernel, by decide +kernel⟩

/-- A copy that waits for a page at an address, the page ring so, and TAIL of that ring. -/
def faulting (va : Nat) (ring : Option Ring) (tail : Nat) : State :=
  { withBytes (copying fun x => { x with fault := some ⟨0, va, .read⟩ }) 0x6000 (natBytes 4 tail) with
    arg := { StepArg.none with addr := va }, svc := { (copying id).svc with pageRing := ring } }
/-- A path, and a copy, that wait for region 0x18000 of the test image, and its answered request. -/
def faultPath : Path := { path0 with wait := some ⟨.fault ⟨1#8, none, 2#16, 0x180000000#64⟩, false, 0#32, 0, none⟩ }
def req0 : FaultReq := ⟨0, 0x18000, false, false, none, false, some 0⟩
def answering : State :=
  { scene .nop (groupOf faultPath) with
    faults := [req0], copies := [copy0 fun x => { x with fault := some ⟨0, 0x180000000, .read⟩ }]
    arg := { StepArg.none with addr := 0x180000000 } }
/-- A page of a loaded image that no section overlaps. -/
def noSection : State := { faulting 0x180010000 (some ⟨0x6000, 4⟩) 0 with images := [⟨0x180000000, 131072, 0x10000, [(1, 0, 192)]⟩] }
theorem witness_FaultServiceSteps :
    (DiesUp (faulting 0x180000000 none 0) ∧ (∃ f ∈ (faulting 0x180000000 none 0).missing, f.part = 0 ∧ f.va / 65536 = 0x18000) ∧
      (faulting 0x180000000 none 0).faults = [] ∧ ((faulting 0x180000000 none 0).part 0).st ≠ .unconfigured ∧
      ∃ x, (faulting 0x180000000 none 0).walk 0 (0x18000 * 65536) = .ok x) ∧
    ((∃ f ∈ (faulting 0x50000 none 0).missing, f.part = 0 ∧ f.va / 65536 = 5) ∧ ∀ x, (faulting 0x50000 none 0).walk 0 (5 * 65536) ≠ .ok x) ∧
    ((∃ f ∈ noSection.missing, f.part = 0 ∧ f.va / 65536 = 0x18001) ∧ (∀ x, noSection.walk 0 (0x18001 * 65536) ≠ .ok x) ∧
      noSection.svc.pageRing ≠ none ∧ noSection.imageAt (0x18001 * 65536) ≠ none) ∧
    ((∀ x, (faulting 0x50000 (some ⟨0x6000, 4⟩) 16).walk 0 (5 * 65536) ≠ .ok x) ∧ (faulting 0x50000 (some ⟨0x6000, 4⟩) 16).imageAt (5 * 65536) = none ∧
      (faulting 0x50000 (some ⟨0x6000, 4⟩) 16).ringFull ⟨0x6000, 4⟩ = true) ∧
    ((∀ x, (faulting 0x50000 (some ⟨0x6000, 4⟩) 3).walk 0 (5 * 65536) ≠ .ok x) ∧ (faulting 0x50000 (some ⟨0x6000, 4⟩) 3).imageAt (5 * 65536) = none ∧
      (faulting 0x50000 (some ⟨0x6000, 4⟩) 3).ringFull ⟨0x6000, 4⟩ = false) ∧
    DiesUp answering ∧ (answering.faults.find? fun q => q.part == 0 && q.region == 0x180000000 / 65536) = some req0 ∧
      answering.regionMapped 0 0x18000 = true ∧ answering.fe.accesses = [] ∧ answering.fe.runs = [] ∧
      answering.group 0 = some (groupOf faultPath) ∧ (groupOf faultPath).path 0 = some faultPath ∧ faultPath.level = (groupOf faultPath).tl ∧
      answering.copy 0 = some (copy0 fun x => { x with fault := some ⟨0, 0x180000000, .read⟩ }) := by
  have hno : (faulting 0x50000 none 0).walk 0 (5 * 65536) = .fault false := by decide +kernel
  have hsect : noSection.walk 0 (0x18001 * 65536) = .fault false := by decide +kernel
  have hfull : (faulting 0x50000 (some ⟨0x6000, 4⟩) 16).walk 0 (5 * 65536) = .fault false := by decide +kernel
  have hroom : (faulting 0x50000 (some ⟨0x6000, 4⟩) 3).walk 0 (5 * 65536) = .fault false := by decide +kernel
  refine ⟨⟨⟨rfl, rfl, rfl⟩, ⟨⟨0, 0x180000000, .read⟩, by decide +kernel, rfl, rfl⟩, rfl, by decide +kernel, _, by rfl⟩,
    ⟨⟨⟨0, 0x50000, .read⟩, by decide +kernel, rfl, rfl⟩, fun x h => ?_⟩,
    ⟨⟨⟨0, 0x180010000, .read⟩, by decide +kernel, rfl, rfl⟩, fun x h => ?_, by decide +kernel, by decide +kernel⟩,
    ⟨fun x h => ?_, by decide +kernel, by decide +kernel⟩, ⟨fun x h => ?_, by decide +kernel, by decide +kernel⟩,
    ⟨rfl, rfl, rfl⟩, by decide +kernel, by decide +kernel, rfl, rfl, rfl, by decide +kernel, by decide +kernel, rfl⟩
  · rw [hno] at h; cases h
  · rw [hsect] at h; cases h
  · rw [hfull] at h; cases h
  · rw [hroom] at h; cases h

/-- A word has stood ready for 2²⁰ cycles. -/
def stalled : State := { scene .nop (groupOf { path0 with readySince := some 0 }) with now := 2 ^ 20 }
/-- An error of an item, at an address, of so many bytes; the line there is dirty in its slice; and 16 others of the slice are retained. -/
def failed (item addr size : Nat) : State := { scene .nop with arg := { argAt addr size [] with item := item } }
def dirtied (size : Nat) : State := { failed 0 0 size with l2 := [⟨0, 0, false, 1#4, []⟩] }
def limited : State := { dirtied 0 with bad := (List.range 16).map fun k => ⟨1024 * (257 * (k + 1)), true, 1, BitVec.allOnes 256⟩ }
theorem witness_ErrorSteps :
    (DiesUp (up (argAt 0x1000 1 [])) ∧ (up (argAt 0x1000 1 [])).arg.item < 8 ∧ (up (argAt 0x1000 1 [])).arg.flag = false) ∧
    (DiesUp (up { argAt 0x1000 1 [] with flag := true }) ∧ (up { argAt 0x1000 1 [] with flag := true }).arg.flag = true) ∧
    -- MEMORY_ERROR
    (∀ i, i < 4 → DiesUp (failed i 0x1000 1) ∧ dirtyLine (failed i 0x1000 1) 0x1000 = false ∧ (failed i 0x1000 1).svc.restarting = none) ∧
    (DiesUp (dirtied 1) ∧ dirtyLine (dirtied 1) 0 = true ∧ ((dirtied 1).retainedLines (homeDie 0) (homeSlice 0)).length < 16) ∧
    (DiesUp limited ∧ dirtyLine limited 0 = true ∧ limited.arg.size = 0 ∧ 16 ≤ (limited.retainedLines (homeDie 0) (homeSlice 0)).length ∧
      0 / 1024 ∉ limited.retainedLines (homeDie 0) (homeSlice 0) ∧ limited.logs = []) ∧
    ((failed 4 0 1).arg.item = 4 ∧ (failed 4 0 1).team 0 = some team0) ∧ (failed 5 0 1).arg.item = 5 ∧ (failed 7 0 1).arg.item = 7 ∧
    ((failed 6 0 1).group 0 = some group0 ∧ group0.path 0 = some path0 ∧ (failed 6 0 1).team 0 = some team0 ∧
      (failed 6 0 1).ready group0 team0 path0 = true ∧ group0.tl = 0 ∧ noVector team0 = false) ∧
    -- containment, and the resets of a partition and of the part
    (DiesUp stalled ∧ stalled.watchdogDue 0 = true ∧ stalled.arg.size = 0 ∧ stalled.contextAway 0 = false) ∧
    (DiesUp { scene .nop with arg := argAt 0 2 [] } ∧ ((scene .nop).part 0).st = .running) ∧ (scene .nop).svc.restarting = none :=
  ⟨⟨⟨rfl, rfl, rfl⟩, by decide, rfl⟩, ⟨⟨rfl, rfl, rfl⟩, rfl⟩, fun _ _ => ⟨⟨rfl, rfl, rfl⟩, rfl, rfl⟩,
    ⟨⟨rfl, rfl, rfl⟩, by decide +kernel, by decide +kernel⟩,
    ⟨⟨rfl, rfl, rfl⟩, by decide +kernel, rfl, by decide +kernel, by decide +kernel, rfl⟩, ⟨rfl, rfl⟩, rfl, rfl,
    ⟨rfl, by decide +kernel, rfl, by decide +kernel, by decide, by decide +kernel⟩,
    ⟨⟨rfl, rfl, rfl⟩, by decide +kernel, rfl, by decide +kernel⟩, ⟨⟨rfl, rfl, rfl⟩, by decide +kernel⟩, rfl⟩

/-! ### The service core -/

/-- The staging slot holds the agent's image, or the service core's. -/
def firmware (d : Option (Bool × BitVec 512)) (c : List DWord) : State := mailed { up with svc := { (up).svc with staged := d } } c
def respAt (op : Nat) : List DWord := [BitVec.ofNat 64 op, 0#64, 0#64, 0#64, 0#64, 0#64, 0#64, 0x6000#64]
/-- No partition is configured, so there is no table. -/
theorem up_off {s : State} (h : s.parts = State.reset.parts) (l : List (Nat × Nat)) : OffTables s l := by
  intro r _ a _ _
  refine List.any_eq_false.mpr fun p hp => ?_
  have hst : (s.part p).st = .unconfigured := by
    unfold State.part
    rw [h]
    exact (by decide +kernel : ∀ i : Fin 8, (State.reset.parts.get i).st = .unconfigured) _
  simp [hst]
theorem respAt_at (s : State) (op n : Nat) (h : DiesUp s) (hp : s.parts = State.reset.parts) (hn : n ≤ 0x10000) : RespAt s (respAt op) n 0x6000 := by
  refine ⟨h, rfl, by decide, ?_, up_off hp _⟩
  simp only [hbmTop]
  omega
theorem witness_ServiceCommands :
    (Serving .rings (mailed up [8#64]) false [8#64] ∧ ∀ p, p < 8 → ((mailed up [8#64]).part p).st ≠ .running ∧ ((mailed up [8#64]).part p).st ≠ .halting) ∧
    (Serving .rings (mailed (scene .nop) [8#64]) false [8#64] ∧ ((mailed (scene .nop) [8#64]).part 0).st = .running) ∧
    (Serving .logread (mailed up (respAt 9)) false (respAt 9) ∧ RespAt (mailed up (respAt 9)) (respAt 9) 512 0x6000) ∧
    (Serving .health (mailed up (respAt 10)) false (respAt 10) ∧ RespAt (mailed up (respAt 10)) (respAt 10) 64 0x6000) ∧
    Serving .pcap (mailed up [14#64, 1000#64]) false [14#64, 1000#64] ∧
    (Serving .attest (mailed up (respAt 13)) false (respAt 13) ∧ RespAt (mailed up (respAt 13)) (respAt 13) 5195 0x6000) ∧
    Serving .attestKey (mailed up [13#64, 0#64, 0#64, 0#64, 0#64, 1#64]) false [13#64, 0#64, 0#64, 0#64, 0#64, 1#64] :=
  ⟨⟨serving_of rfl trivial (by decide +kernel) (by decide +kernel) rfl, by decide +kernel⟩,
    ⟨serving_of rfl trivial (by decide +kernel) (by decide +kernel) rfl, by decide +kernel⟩,
    ⟨serving_of rfl trivial (by decide +kernel) (by decide +kernel) rfl, respAt_at _ _ _ ⟨rfl, rfl, rfl⟩ rfl (by decide)⟩,
    ⟨serving_of rfl trivial (by decide +kernel) (by decide +kernel) rfl, respAt_at _ _ _ ⟨rfl, rfl, rfl⟩ rfl (by decide)⟩,
    serving_of rfl trivial (by decide +kernel) (by decide +kernel) rfl,
    ⟨serving_of rfl rfl (by decide +kernel) (by decide +kernel) rfl, respAt_at _ _ _ ⟨rfl, rfl, rfl⟩ rfl (by decide)⟩,
    serving_of rfl rfl (by decide +kernel) (by decide +kernel) rfl⟩

/-- The service core restarts since cycle 0; whether an image verifies is open, so both answers are stated. -/
def restartingAt (now : Nat) : State := { up with now := now, svc := { (up).svc with restarting := some 0, held := [3, 4] } }
/-- The agent of a core takes the new image, on a part whose partition 0 runs, or none does. -/
def reloading (k : Nat) (run : Bool) : State :=
  { up with
    svc := { (up).svc with reload := some (k, false) }
    parts := if run = true then State.reset.parts.set 0 (inState .running) else State.reset.parts }
theorem noCore_of {s : State} {k : Nat} (h : ∀ p, p < 8 → (s.part p).st ≠ .running) : NoCore s k := fun j _ hj => h _ (by omega)
theorem witness_FirmwareSteps :
    Serving .fwstage (firmware none [11#64, 1#64, 0x8000#64, 64#64]) false [11#64, 1#64, 0x8000#64, 64#64] ∧
    Serving .fwactFe (firmware none [12#64]) false [12#64] ∧
    (∀ d ∈ [none, some (true, 7#512)], Serving .fwactAgent (firmware d [12#64, 1#64]) false [12#64, 1#64] ∧
      ∀ e, (firmware d [12#64, 1#64]).svc.staged ≠ some (false, e)) ∧
    (Serving .fwactAgent (firmware (some (false, 7#512)) [12#64, 1#64]) false [12#64, 1#64] ∧
      (firmware (some (false, 7#512)) [12#64, 1#64]).svc.staged = some (false, 7#512) ∧ NoCore (firmware (some (false, 7#512)) [12#64, 1#64]) 0) ∧
    -- the reload, at its last core and before
    (DiesUp (reloading 95 true) ∧ (reloading 95 true).svc.reload = some (95, false) ∧ NoCore (reloading 95 true) 96) ∧
    NextCore (reloading 94 true) 95 95 ∧ NextCore (reloading 0 true) 0 0 ∧
    (∀ d ∈ [none, some (false, 7#512)], Serving .fwactService (firmware d [12#64, 2#64]) false [12#64, 2#64] ∧
      ∀ e, (firmware d [12#64, 2#64]).svc.staged ≠ some (true, e)) ∧
    (Serving .fwactService (firmware (some (true, 7#512)) [12#64, 2#64]) false [12#64, 2#64] ∧
      (firmware (some (true, 7#512)) [12#64, 2#64]).svc.staged = some (true, 7#512) ∧
      (firmware (some (true, 7#512)) [12#64, 2#64]).svc.side.begun = false) ∧
    ((restartingAt 100).svc.restarting = some 0 ∧ (restartingAt 100).now ≤ 0 + 450000000) ∧
    (restartingAt 450000001).svc.restarting = some 0 ∧ 0 + 450000000 ≤ (restartingAt 450000001).now := by
  refine ⟨serving_of rfl trivial (by decide +kernel) (by decide +kernel) rfl, serving_of rfl rfl (by decide +kernel) (by decide +kernel) rfl,
    ?_, ⟨serving_of rfl rfl (by decide +kernel) (by decide +kernel) rfl, rfl, noCore_of (by decide +kernel)⟩,
    ⟨⟨rfl, rfl, rfl⟩, rfl, fun j h1 h2 => ?_⟩, ⟨by decide, by decide, by decide +kernel, fun j h1 h2 => absurd h2 (by omega)⟩,
    ⟨by decide, by decide, by decide +kernel, fun j h1 h2 => absurd h2 (by omega)⟩, ?_,
    ⟨serving_of rfl rfl (by decide +kernel) (by decide +kernel) rfl, rfl, rfl⟩, ⟨rfl, by decide⟩, rfl, by decide⟩
  · intro d hd
    refine ⟨serving_of rfl rfl ?_ (by decide +kernel) rfl, ?_⟩ <;> fin_cases hd
    · decide +kernel
    · decide +kernel
    · intro e he; cases he
    · intro e he; cases he
  · exact (by decide +kernel : ∀ p, p < 8 → p ≠ 0 → ((reloading 95 true).part p).st ≠ .running) _ (by omega) (by omega)
  · intro d hd
    refine ⟨serving_of rfl rfl ?_ (by decide +kernel) rfl, ?_⟩ <;> fin_cases hd
    · decide +kernel
    · decide +kernel
    · intro e he; cases he
    · intro e he; cases he

theorem witness_PowerAndLinkSteps :
    State.reset.svc.powered = false ∧ ((up).svc.powered = true ∧ (up).svc.diesOn = true) ∧
    ((reloading 0 true).svc.powered = true ∧ (reloading 0 true).svc.diesOn = true ∧ (reloading 0 true).svc.reload = some (0, false) ∧
      ∀ p, ((reloading 0 true).part p).busy = none) ∧
    ({ (up).svc with diesOn := false }.powered = true ∧ { (up).svc with diesOn := false }.diesOn = false) ∧
    (DiesUp (up { StepArg.none with item := 1 }) ∧ (up { StepArg.none with item := 1 }).svc.restarting = none ∧
      (up { StepArg.none with item := 1 }).arg.item < 4 ∧ (up { StepArg.none with item := 1 }).arg.item ≠ (up { StepArg.none with item := 1 }).svc.clock) ∧
    (up { StepArg.none with item := 47 }).arg.item < 48 :=
  ⟨rfl, ⟨rfl, rfl⟩, ⟨rfl, rfl, rfl, fun _ => (by decide +kernel : ∀ i : Fin 8, ((reloading 0 true).parts.get i).busy = none) _⟩, ⟨rfl, rfl⟩,
    ⟨⟨rfl, rfl, rfl⟩, rfl, by decide, by decide⟩, by decide⟩

/-! ### One step, and the machine as a whole -/

/-- The machine after reset with an ADDI placed for its next step. -/
def placed : State := State.reset.withFetchWord 32 0x100A3FFC
def placedGroup : Group := blankGroup 0 0 0 0 [startPath 0 0x180000000#57 0xFFFFFFFF#32]
def placedPath : Path := startPath 0 0x180000000#57 0xFFFFFFFF#32
/-- A page of code, as the image maps it. -/
def codePage : Xlat := ⟨8, 0x180000000, 16, 0x180000000, true, false, true, 0, 0, 0, false, true⟩
theorem witness_StepRunsTheDecodedWord :
    (∃ s1 i c, placed.agenda = .issue 0 0 :: [] ∧ placed.group 0 = some placedGroup ∧ placedGroup.path 0 = some placedPath ∧
      placed.team 0 = some (fetchTeam 0) ∧ placed.ready placedGroup (fetchTeam 0) placedPath = true ∧ placedPath.wait = none ∧
      (turnOf { placed with agenda := [] } placedGroup (fetchTeam 0)).fetch placedGroup (fetchTeam 0).issues placedPath.pc =
        .ok (.word 0x100A3FFC#32 0x180000001#57, s1) ∧ decodeWord 0x100A3FFC#32 = .ok i ∧
      (inHand s1 placedGroup placedPath 0x100A3FFC#32 0x180000001#57).ctx = some c ∧ mustWait c.g c.p i = false) ∧
    { placed with agenda := [] }.nextIssue = some (placedGroup, fetchTeam 0, placedPath) ∧ isWord .powerUp = false ∧
    landsFirst .ifence = true ∧ landsFirst .nop = false ∧
    (placed.images.all (fun i => i.base % 65536 == 0) = true ∧ placed.bad = [] ∧ slotOf 0x180000000#57 < 3 ∧ (placed.core 0).icache = [] ∧
      (∀ b ∈ (placed.core 0).loops.get 0, b.holds 0 0x180000000#57 = false) ∧ placed.fetchTrap 0 0 (packetOf 0x180000000#57) = none ∧
      (∀ b, b < 192 → placed.reach 0 0 (0x180000000 + b) .exec = .page codePage) ∧
      (BitVec.ofNat 32 (bytesNat (placed.homeBytes codePage (codePage.phys 0x180000000) 4))).extractLsb' 26 5 ≠ 0x1F#5) := by
  obtain ⟨⟨f, s1⟩, h, hf, hc⟩ := ok_with (x := (turnOf { placed with agenda := [] } placedGroup (fetchTeam 0)).fetch placedGroup
    (fetchTeam 0).issues placedPath.pc) (fun r => r.1 = .word 0x100A3FFC#32 0x180000001#57 ∧
      (inHand r.2 placedGroup placedPath 0x100A3FFC#32 0x180000001#57).ctx.isSome = true) (by decide +kernel)
  obtain ⟨c, hc⟩ := some_of hc
  subst hf
  exact ⟨⟨s1, .addi ⟨false, 5, 7, BitVec.ofInt 11 (-4)⟩, c, rfl, by decide +kernel, by decide +kernel, by decide +kernel, by decide +kernel, rfl, h,
    by decide +kernel, hc, rfl⟩, by decide +kernel, by decide +kernel, by decide +kernel, by decide +kernel, by decide +kernel, by decide +kernel,
    by decide +kernel, by decide +kernel, by decide +kernel, by decide +kernel, by decide +kernel, by decide +kernel⟩

theorem witness_DecodeAndEncodeAgree : encode (.addi ⟨false, 5, 7, BitVec.ofInt 11 (-4)⟩) = some 0x100A3FFC#32 ∧
    decodeWord 0x100A3FFC#32 = .ok (.addi ⟨false, 5, 7, BitVec.ofInt 11 (-4)⟩) := ⟨by decide +kernel, by decide +kernel⟩

theorem witness_FixedRegisters : ((hand .nop (groupOf { path0 with pfx := some ⟨⟨false, 0, 0, 0, false, false, 0⟩, 0#57⟩ })).p.pfx =
      some ⟨⟨false, 0, 0, 0, false, false, 0⟩, 0#57⟩) ∧
    ∃ val, maskValue (.msave ⟨false, 0⟩) = some (0#6, val) ∧ (scene (.msave ⟨false, 0⟩)).ctx = some (hand (.msave ⟨false, 0⟩)) :=
  ⟨rfl, _, rfl, scene_ctx _ _ _ rfl rfl rfl rfl⟩

theorem witness_EveryStepGoesOn : (scene .nop).ctx = some (hand .nop) ∧ isWord .powerUp = false ∧ isWord .nop = true ∧ State.reset.ctx = none :=
  ⟨scene_ctx _ _ _ rfl rfl rfl rfl, by decide +kernel, by decide +kernel, rfl⟩

/-- A memory that lists bytes in its canonical form, and numbers in use, with a step that goes on. -/
theorem witness_MemoryStaysCanonical : MemOk placed ∧ placed.mem ≠ [] ∧ ∃ t, step placed = .next t := by
  refine ⟨by unfold MemOk; decide +kernel, by decide +kernel, ?_⟩
  have h : (match step placed with
    | .next _ => true
    | _ => false) = true := by decide +kernel
  split at h
  · rename_i t ht
    exact ⟨t, ht⟩
  · cases h
theorem witness_NumbersStayApart : Numbered placed ∧ placed.teams ≠ [] ∧ placed.groups ≠ [] :=
  ⟨numbered_of (by decide +kernel), by decide +kernel, by decide +kernel⟩

/-! ### Words written out field by field, one for each major (R93, R102), and what is no instruction (R103) -/

abbrev dec (w : BitVec 32) : Option Instr := decodeTableWord 32 w.toNat

theorem test_decode_sys : dec (0#1 ++ 0x00#5 ++ 1#6 ++ 0#6 ++ 77#14) = some (.trap ⟨false, 77⟩) := by decide +kernel
theorem test_decode_br : dec (0#1 ++ 0x01#5 ++ 6#4 ++ 3#3 ++ 0x1FE#9 ++ 5#9 ++ 0#1) = some (.bq3 ⟨false, 3, 0x1FE, 5⟩) := by
  decide +kernel
theorem test_decode_ctl : dec (1#1 ++ 0x02#5 ++ 14#6 ++ 1#6 ++ 2#6 ++ 4#6 ++ 0#2) = some (.mfromq ⟨true, 1, 2, 4⟩) := by
  decide +kernel
theorem test_decode_ialu : dec (0#1 ++ 0x03#5 ++ 1#6 ++ 5#6 ++ 7#6 ++ 8#6 ++ 1#1 ++ 0#1) = some (.sub ⟨false, 5, 7, 8, true, false⟩) := by
  decide +kernel
theorem test_decode_ialui : dec (0#1 ++ 0x04#5 ++ 4#3 ++ 5#6 ++ 7#6 ++ 0x7FC#11) = some (.slti ⟨false, 5, 7, 0x7FC⟩) := by
  decide +kernel
theorem test_decode_imm : dec (0#1 ++ 0x05#5 ++ 1#1 ++ 6#6 ++ 0x1234#19) = some (.movhi ⟨false, 6, 0x1234⟩) := by decide +kernel
theorem test_decode_shf : dec (0#1 ++ 0x06#5 ++ 4#6 ++ 5#6 ++ 7#6 ++ 8#6 ++ 0#1 ++ 1#1) = some (.bfx ⟨false, 5, 7, 8, false, true⟩) := by
  decide +kernel
theorem test_decode_imul : dec (0#1 ++ 0x07#5 ++ 6#6 ++ 5#6 ++ 7#6 ++ 8#6 ++ 0#2) = some (.rem ⟨false, 5, 7, 8, false, false⟩) := by
  decide +kernel
theorem test_decode_pack : dec (0#1 ++ 0x08#5 ++ 0#6 ++ 5#6 ++ 7#6 ++ 8#6 ++ 0#2) = some (.dp4i8 ⟨false, 5, 7, 8, false, false⟩) := by
  decide +kernel
theorem test_decode_cvt : dec (0#1 ++ 0x09#5 ++ 2#6 ++ 1#6 ++ 4#6 ++ 0#6 ++ 1#1 ++ 0#1) = some (.cvtvi ⟨false, 1, 4, true⟩) := by
  decide +kernel
theorem test_decode_vadd : dec (0#1 ++ 0x0A#5 ++ 4#6 ++ 3#6 ++ 1#6 ++ 2#6 ++ 0#2) = some (.vmin ⟨false, 3, 1, 2, false, false⟩) := by
  decide +kernel
theorem test_decode_vmul : dec (0#1 ++ 0x0B#5 ++ 2#6 ++ 3#6 ++ 1#6 ++ 2#6 ++ 0#2) = some (.vfma ⟨false, 3, 1, 2, false, false⟩) := by
  decide +kernel
theorem test_decode_vset : dec (0#1 ++ 0x0C#5 ++ 8#6 ++ 6#6 ++ 2#6 ++ 0#8) = some (.vbis ⟨false, 6, 2, false⟩) := by decide +kernel
theorem test_decode_vcmp : dec (0#1 ++ 0x0D#5 ++ 9#6 ++ 1#6 ++ 2#6 ++ 3#6 ++ 0#2) = some (.qor ⟨false, 1, 2, 3⟩) := by decide +kernel
theorem test_decode_vsfu : dec (0#1 ++ 0x0E#5 ++ 7#6 ++ 3#6 ++ 1#6 ++ 0#8) = some (.vcos ⟨false, 3, 1, false⟩) := by decide +kernel
theorem test_decode_lane : dec (0#1 ++ 0x0F#5 ++ 9#6 ++ 3#6 ++ 1#6 ++ 2#6 ++ 0#2) = some (.hmerge ⟨false, 3, 1, 2, false, false⟩) := by
  decide +kernel
theorem test_decode_ld : dec (0#1 ++ 0x10#5 ++ 2#2 ++ 3#4 ++ 4#6 ++ 9#6 ++ 1#1 ++ 0x7F#7) = some (.ldd ⟨false, 2, 4, 9, true, 0x7F⟩) := by
  decide +kernel
theorem test_decode_st : dec (0#1 ++ 0x11#5 ++ 0#2 ++ 2#4 ++ 4#6 ++ 9#6 ++ 0#1 ++ 3#7) = some (.stw ⟨false, 0, 4, 9, false, 3⟩) := by
  decide +kernel
theorem test_decode_atom : dec (0#1 ++ 0x12#5 ++ 10#6 ++ 10#6 ++ 2#6 ++ 6#6 ++ 0#1 ++ 1#1) = some (.ainc ⟨false, 10, 2, 6, false, true⟩) := by
  decide +kernel
theorem test_decode_async : dec (0#1 ++ 0x13#5 ++ 1#6 ++ 2#6 ++ 10#6 ++ 0#6 ++ 1#1 ++ 0#1) = some (.cpy2d ⟨false, 2, 10, true, false⟩) := by
  decide +kernel
theorem test_decode_tile : dec (0#1 ++ 0x14#5 ++ 7#6 ++ 3#6 ++ 10#6 ++ 8#6 ++ 0#1 ++ 1#1) = some (.tksplit ⟨false, 3, 10, 2, false, true⟩) := by
  decide +kernel
theorem test_decode_pred : dec (0#1 ++ 0x15#5 ++ 1#6 ++ 3#6 ++ 10#6 ++ 8#6 ++ 1#1 ++ 0#1) = some (.psel ⟨false, 3, 10, 2, true, false⟩) := by
  decide +kernel
theorem test_decode_sync : dec (0#1 ++ 0x16#5 ++ 11#6 ++ 3#6 ++ 4#6 ++ 5#6 ++ 0#2) = some (.await ⟨false, 3, 4, 5⟩) := by decide +kernel
theorem test_decode_pool : dec (0#1 ++ 0x17#5 ++ 3#6 ++ 8#6 ++ 4#6 ++ 0#8) = some (.linid ⟨false, 8, 4, false⟩) := by decide +kernel
theorem test_decode_res : dec 0x6011C500#32 = some (.rtry ⟨false, 7, 5⟩) := by decide +kernel
theorem test_decode_rng : dec 0x64114000#32 = some (.rngn ⟨false, 5⟩) := by decide +kernel
theorem test_decode_uni : dec (0#1 ++ 0x1A#5 ++ 5#6 ++ 1#6 ++ 2#6 ++ 3#6 ++ 0#2) = some (.ushl ⟨false, 1, 2, 3⟩) := by decide +kernel
theorem test_decode_pfx :
    dec (0#1 ++ 0x1E#5 ++ 7#3 ++ 4#3 ++ 9#6 ++ 1#1 ++ 1#1 ++ 5#4 ++ 0#8) = some (.pfx ⟨false, 7, 4, 9, true, true, 5⟩) := by
  decide +kernel
theorem test_zero_word_is_nop : dec 0#32 = some .nop := by decide +kernel
/-- Reserved majors and members, and a reserved bit of UNI and of BQ3. -/
theorem test_reserved_words : [0x6C000000#32, 0x70000000#32, 0x74000000#32, 0x00A00000#32, 0x0D000000#32, 0x06800000#32,
    0x6801461D#32, 0x05800001#32].all (fun w => (dec w).isNone) = true := by decide +kernel

/-! ### Ill-formed terms, one for each check of well-formedness (R96, R97, R98, R103) -/

def ld (sp : BitVec 2) (d b : Reg) : FormL := ⟨false, sp, d, b, false, 0⟩
def at3 (d a b : Reg) : FormAt := ⟨false, d, a, b, false, false⟩
theorem test_ill_formed_registers : [Instr.qand ⟨false, 8, 1, 2⟩, .vclt ⟨false, 8, 1, 2, false, false⟩, .mand ⟨false, 0, 1, 2⟩,
    .mand ⟨false, 8, 1, 2⟩, .mcnt ⟨false, 1, 8⟩, .cvtdv ⟨false, 1, 3⟩, .cvtvd ⟨false, 3, 1, false⟩, .hwait ⟨false, 1, 16⟩,
    .cpy ⟨false, 16, 2, false, false⟩, .tzero ⟨false, 8, 0⟩].all (fun i => !i.wf) = true := by decide +kernel
theorem test_ill_formed_fields : [Instr.srd ⟨false, 1, 0x0C⟩, .swr ⟨false, 1, 0x43⟩, .cyc ⟨false, 0⟩, .cyc ⟨false, 63⟩,
    .dictld ⟨false, 0, 1, 1⟩, .dictld ⟨false, 63, 1, 1⟩, .mfromq ⟨false, 1, 2, 5⟩, .pksel ⟨false, 1, 2, 3, false⟩, .pksel ⟨false, 1, 2, 7, false⟩,
    .pknarrow ⟨false, 1, 63, 0, false⟩, .pknarrow ⟨false, 1, 2, 8, false⟩, .pknarrow ⟨false, 1, 2, 0, true⟩, .cvtnv ⟨false, 1, 2, 9, false⟩,
    .cvtvn ⟨false, 1, 2, 8, false⟩, .vbis ⟨false, 63, 1, false⟩, .rdadd ⟨false, 1, 2, 3, false⟩].all (fun i => !i.wf) = true := by
  decide +kernel
theorem test_ill_formed_accesses : [Instr.ldd (ld 1 3 4), .ldq (ld 1 2 4), .ldw (ld 0 1 63), .ldff (ld 1 1 4), .ldff (ld 2 1 4),
    .ldfe (ld 0 1 4), .ldfe (ld 3 1 4), .ldmc (ld 1 1 4), .ldun (ld 2 1 4), .stw (ld 3 1 4), .stfe (ld 0 1 4), .stx (ld 1 1 4),
    .aadd (at3 1 63 2), .ainc (at3 3 4 2), .amind (at3 2 4 3), .amind (at3 3 4 2)].all (fun i => !i.wf) = true := by decide +kernel
theorem test_ill_formed_commands : [Instr.cpy ⟨false, 1, 63, false, false⟩, .cpy2d ⟨false, 1, 63, false, false⟩,
    .cpymc ⟨false, 1, 63, false, false⟩, .gwbind ⟨false, 16, 2⟩, .gwbind ⟨false, 1, 63⟩, .gwfree ⟨false, 16⟩, .arrv ⟨false, 0, 1, 2⟩,
    .arrv ⟨false, 3, 1, 2⟩, .tload ⟨false, 1, 63, 0, false, false⟩, .pffn ⟨false, 1, 63, 0, false, false⟩, .pstat ⟨false, 1, 6⟩,
    .pstat ⟨false, 1, 38⟩].all (fun i => !i.wf) = true := by decide +kernel
theorem test_ill_formed_sync_and_pool : [Instr.sobind ⟨false, 1, 61⟩, .fence ⟨false, 0, 2, false, false⟩, .fence ⟨false, 0, 1, true, true⟩,
    .fence ⟨false, 0, 8, true, true⟩, .fence ⟨false, 1, 2, true, false⟩, .split ⟨false, 4, 4, 63⟩, .fork ⟨false, 0, 2⟩, .fork ⟨false, 1, 63⟩,
    .rsmp ⟨false, 1, 2, 63⟩, .linid ⟨false, 0, 1, false⟩, .linid ⟨false, 63, 1, false⟩, .poolq ⟨false, 1, 2, 3⟩, .rqry ⟨false, 1, 5⟩].all
    (fun i => !i.wf) = true := by decide +kernel
/-- Neighbours of the ill-formed terms that the checks let pass. -/
theorem test_well_formed : [Instr.qand ⟨false, 7, 1, 2⟩, .mand ⟨false, 1, 0, 2⟩, .cvtdv ⟨false, 1, 2⟩, .hwait ⟨false, 1, 15⟩,
    .srd ⟨false, 1, 0x0B⟩, .swr ⟨false, 1, 0x42⟩, .cyc ⟨false, 62⟩, .mfromq ⟨false, 1, 2, 4⟩, .pksel ⟨false, 1, 2, 2, false⟩,
    .cvtnv ⟨false, 1, 2, 8, false⟩, .vbis ⟨false, 62, 1, false⟩, .ldq (ld 1 4 4), .ldw (ld 1 1 63), .ldfe (ld 2 1 4), .stx (ld 2 1 4),
    .amind (at3 2 4 6), .arrv ⟨false, 2, 1, 2⟩, .pstat ⟨false, 1, 37⟩, .sobind ⟨false, 1, 60⟩, .fence ⟨false, 1, 7, false, true⟩,
    .poolq ⟨false, 1, 2, 2⟩, .rqry ⟨false, 1, 4⟩].all Instr.wf = true := by decide +kernel
def pf (m : BitVec 3) (rnd : BitVec 3) (fo : Reg) (f z : Bool) (sel : BitVec 4) : FormP := ⟨false, m, rnd, fo, f, z, sel⟩
theorem test_ill_prefixes : [Instr.prefixOk (pf 1 0 0 false false 0) .nop, Instr.prefixOk (pf 1 0 0 false true 0) (.stw (ld 1 1 4)),
    Instr.prefixOk (pf 1 4 0 false false 0) (.add r3), Instr.prefixOk (pf 1 5 0 false false 0) (.cvtvi ru),
    Instr.prefixOk (pf 1 0 0 false false 1) (.add r3), Instr.prefixOk (pf 1 0 5 true false 0) (.add r3), Instr.prefixOk (pf 1 0 5 false false 0) (.mad r3),
    Instr.prefixOk (pf 1 0 8 true false 0) (.selm r3)].all (fun b => !b) = true := by decide +kernel
theorem test_good_prefixes : [Instr.prefixOk (pf 1 0 0 false false 0) (.stw (ld 1 1 4)), Instr.prefixOk (pf 1 4 0 false true 0) (.cvtvi ru),
    Instr.prefixOk (pf 0 0 5 true false 0) (.mad r3), Instr.prefixOk (pf 0 0 7 true false 0) (.selm r3)].all id = true := by decide +kernel

/-! ### Single words on a small state, with the numbers of the spec's own examples -/

/-- The group after a word. -/
def after (i : Instr) (g : Group := group0) : Option Group :=
  match exec i (scene i g) with
  | .next s => s.group 0
  | _ => none
def x2 (a b : Word) : Group := (group0.setX 2#6 0xFFFFFFFF#32 fun _ => a).setX 3#6 0xFFFFFFFF#32 fun _ => b
def v2 (a b : DWord) : Group := (group0.setV 2#6 0xFFFFFFFF#32 fun _ => a).setV 3#6 0xFFFFFFFF#32 fun _ => b
/-- Lane 5 of x1, of v1, and the group's flags after a word. -/
def x1After (i : Instr) (g : Group) : Option Word := (after i g).map fun h => h.getX 1#6 5
def v1After (i : Instr) (g : Group) : Option DWord := (after i g).map fun h => h.getV 1#6 5

/-- R185: modulo 2^32. -/
theorem test_add_wraps : x1After (.add r3) (x2 0xFFFFFFFF 2) = some 1#32 := by decide +kernel
/-- R193: −7 by 2 gives −3, remainder −1. -/
theorem test_div : x1After (.div r3) (x2 (BitVec.ofInt 32 (-7)) 2) = some (BitVec.ofInt 32 (-3)) := by decide +kernel
theorem test_rem : x1After (.rem r3) (x2 (BitVec.ofInt 32 (-7)) 2) = some (BitVec.ofInt 32 (-1)) := by decide +kernel
/-- R191: bytes 3, 2, 1, 0 of 0x4433_2211. -/
theorem test_bperm : x1After (.bperm r3) (x2 0x44332211 0x123) = some 0x11223344#32 := by decide +kernel
/-- R226: the spec's sum without its addend 10. -/
theorem test_dp4i8 : x1After (.dp4i8 r3) (x2 0x010203FF 0x04040404) = some 20#32 := by decide +kernel
/-- R192: the high word of a signed product. -/
theorem test_mulh : x1After (.mulh r3) (x2 0xFFFFFFFF 2) = some 0xFFFFFFFF#32 := by decide +kernel
/-- R209: [1, 2] + [2, 3] is [3, 5]. -/
theorem test_vadd : v1After (.vadd r3) (v2 0x400000003F800000 0x4040000040000000) = some 0x40A0000040400000#64 := by decide +kernel
/-- R209, R68: a sum that no FP32 value holds is rounded outward: [1, 1] + [2^-30, 2^-30]. -/
theorem test_vadd_outward : v1After (.vadd r3) (v2 0x3F8000003F800000 0x3080000030800000) = some 0x3F8000013F800000#64 := by decide +kernel
/-- R210: [-1, 2] × [2, 3] is [-3, 6]. -/
theorem test_vmul : v1After (.vmul r3) (v2 0x40000000BF800000 0x4040000040000000) = some 0x40C00000C0400000#64 := by decide +kernel
/-- R215: [1, 2] gives [1, 1.5] and [1.5, 2]. -/
theorem test_vbis : ((after (.vbis ru) (v2 0x400000003F800000 0)).map fun h => (h.getV 1#6 5, h.getV 2#6 5)) =
    some (0x3FC000003F800000#64, 0x400000003FC00000#64) := by decide +kernel
/-- R217: [1, 2] and [2, 3] leave VCLT undecided; [1, 2] and [3, 4] make it true. -/
theorem test_vclt : ((after (.vclt r3) (v2 0x400000003F800000 0x4040000040000000)).map fun h => h.getQ 1#6 5) = some 2#2 ∧
    ((after (.vclt r3) (v2 0x400000003F800000 0x4080000040400000)).map fun h => h.getQ 1#6 5) = some 1#2 := by decide +kernel
/-- R74: the empty set and an infinite bound. -/
theorem test_mrc_specials : mrcEncode .empty = 0x7F8000FE ∧ mrcEncode (.mk (.fin ⟨0, 0⟩) .pinf) = 0x7F8000FF := by decide +kernel
/-- R61: CAPLOC of core 517. -/
theorem test_caploc : caploc 517 = 0x00560605#32 := by decide +kernel
/-- R260: the home of PA 0x12_3456_7C00 is slice 0 of die 3. -/
theorem test_home : homeDie 0x1234567C00 = 3 ∧ homeSlice 0x1234567C00 = 0 := by decide +kernel
/-- R173, R381: TRAP 77 enters TL1 with its number as INFO and the next word as its return address. -/
theorem test_trap : ((after (.trap ⟨false, 77⟩)).map fun h => (h.tl.val, h.tca1.extractLsb' 16 16, h.tepc1)) = some (1, 77#16, 0x180000001#57) := by
  decide +kernel
/-- R103: a word with a bad register field is ILLOP, at its own address. -/
theorem test_illop : ((after (.qand ⟨false, 8, 1, 2⟩)).map fun h => (h.tl.val, h.tca1, h.tepc1)) = some (1, 1#32, 0x180000000#57) := by
  decide +kernel
/-- R194: uniform words write s-registers, and s0 stays 0 (R42). -/
theorem test_uadd : ((after (.uadd ⟨false, 1, 2, 2⟩) (group0.setS 2#6 21#32)).map fun h => h.getS 1#6) = some 42#32 := by decide +kernel
theorem test_s0_fixed : ((after (.uadd ⟨false, 0, 2, 2⟩) (group0.setS 2#6 21#32)).map fun h => h.getS 0#6) = some 0#32 := by decide +kernel
/-- A word placed where a step fetches runs as the first one: MOVI x6, 5. -/
theorem test_step_runs_placed_word : (match step (State.reset.withFetchWord 32 0x14300005) with
    | .next s => s.groups.map fun g => g.getX 6#6 3
    | _ => []) = [5#32] := by decide +kernel

end Sys2Proof.Tests
end

section
/-! PROOFS. Describing work (02_describing_work.md): the queue steps and the fault service. Both statements fail, each in one clause,
in a state that the clause does not shut out. -/

namespace Sys2Proof.DescribingWork

open Sys2Proof.Machine Sys2Proof.Safety Sys2Proof.Claims

/-! ### Partition 0 runs -/

/-- A part that works: partition 0 runs, and its region binding table stands at 0x40000. -/
def working : State :=
  { State.reset with
    parts := State.reset.parts.set 0 { Partition.reset with st := .running, rbtPA := 0x40000 }
    svc := { Service.reset with powered := true } }

/-! ### The fault service: a page request ring within a region binding table

A page request is written as any other bytes are, so the read-only bytes of a region binding table keep their values (R345):
TAIL of a ring that lies in one does not advance. -/

/-- DONEVA of a run waits for its page at 0x50000, which no table maps; the page request ring is empty, and lies in the region
binding table. -/
def ringInTable : State :=
  { working with
    arg := { StepArg.none with addr := 0x50000 }
    fe := { FrontEnd.reset with accesses := [⟨0, 0, 0#32, .donePost, 0, 0x50000, 0#64, 0⟩] }
    svc := { working.svc with pageRing := some ⟨0x40000, 4⟩ } }

/-- TAIL of the ring in that table after a step. -/
def tailAfter : Out → Option Nat
  | .next t => some (memNat t.mem 0x40000 4)
  | _ => none

/-- The request is posted, and TAIL is as it was. -/
theorem ringInTable_tail_stays : tailAfter (exec .faultServiceRequest ringInTable) = some (memNat ringInTable.mem 0x40000 4) := by
  decide +kernel

theorem ringInTable_walk_faults : ringInTable.walk 0 (0x50000 / 65536 * 65536) = .fault false := by decide +kernel

/-- Refutes O48: TAIL of a page request ring that lies in a region binding table does not advance when a request is posted, as
the bytes of a table keep their values (R345); the statement does not keep the ring apart from the tables. -/
theorem not_faultServiceSteps : ¬ Obligations.FaultServiceSteps := by
  rintro ⟨request, -⟩
  obtain ⟨-, -, posts⟩ := request ringInTable ⟨rfl, rfl, rfl⟩ (by decide) (by decide)
    ⟨⟨0, 0x50000, .write⟩, by decide +kernel, rfl, rfl⟩ (fun q hq => by cases hq) (by decide +kernel)
  obtain ⟨-, room⟩ := posts ⟨0x40000, 4⟩ (fun x hx => by cases ringInTable_walk_faults.symm.trans hx) (by decide +kernel) rfl
  obtain ⟨t, q, step, -, -, -, -, -, -, -, -, tail, -⟩ := room (by decide +kernel)
  have stays := ringInTable_tail_stays
  rw [step] at stays
  have before : memNat ringInTable.mem 0x40000 4 = 0 := by decide +kernel
  rw [tailAfter, Option.some.injEq, tail, before] at stays
  exact absurd stays (by decide)

/-! ### QUEUE_UNPARK: two runs of one queue under one RUNID

The statement asks that the runs of the queue share a RUNID, not that there is one of them. A step replaces every run of its
queue and RUNID, so the watches that a second one held are gone when the wait node asks for a watch (R123), while the statement
counts them as they were. -/

/-- An image of one page, which may be read. -/
def oneImage : Image := ⟨0x180000000, 192, 0x10000, [(1, 0, 192)]⟩
/-- A wait node for the first word of the image, by COND 4, which never holds. -/
def waitNode (st : NodeState) : RunNode := ⟨2, [0x180000000#64, 0#64, 4#64], [], 0, st, 0#32, 0, 0, 0⟩
def runOf (nodes : List RunNode) : Run := ⟨0, 3, 0#32, 0, 0, [], nodes, 0, 0, false, none, 0⟩
/-- Its wait node is parked, and has the answer that its page is there. -/
def parkedRun : Run := runOf [waitNode (.noPage 0 true (some 0))]
/-- Of its 65 wait nodes, which all watch their word, 64 hold a watch beside node 0. -/
def watchingRun : Run := runOf (List.replicate 65 (waitNode (.watching 0 (some 0))))
/-- Queue 0, of the QSB at 0x4000, has both runs. -/
def twoRuns : State :=
  { working with
    images := [oneImage]
    mem := memPutNat [] 0x2000 8 0x4000
    fe := { FrontEnd.reset with
      regs := { FrontEnd.reset.regs with qtabBase := 0x2000#57, prioBase := 0x3000#57 }, runs := [parkedRun, watchingRun] } }

/-- The state of node 0 of the oldest run. -/
def firstNode (s : State) : Option NodeState := s.fe.runs.head?.bind fun r => r.nodes.head?.map fun n => n.st
def firstNodeAfter : Out → Option NodeState
  | .next t => firstNode t
  | _ => none

/-- The node of the step gets a watch. -/
theorem twoRuns_unpark_watches : firstNodeAfter (exec .queueUnpark twoRuns) = some (.watching 0 (some 0)) := by decide +kernel

/-- A translation of an image page is within what is assigned to any partition (R440). -/
theorem imageXlat_assigned {i : Image} {va : Nat} {x : Xlat} (h : imageXlat i va = some x) (p : Partition) :
    p.assigned x = true := by
  have fromImage : x.fromImage = true := by
    simp only [imageXlat, Option.ite_none_left_eq_some, Option.some.injEq] at h
    rw [← h.2]
  simp [Partition.assigned, fromImage]

/-- The front end reaches an image page whatever the tables and memory hold (R440). -/
theorem fePage_of_image {s : State} {part va : Nat} {need : Need} {i : Image} {x : Xlat} (hva : va < 2 ^ 57)
    (hp : (s.part part).st ≠ .unconfigured) (hi : s.imageAt va = some i) (hx : imageXlat i va = some x) (hn : x.allows need = true) :
    s.fePage part va need = .ok (x.phys va) := by
  have reached : ¬ (2 ^ 57 ≤ va ∨ (s.part part).st = .unconfigured) := not_or.2 ⟨Nat.not_le.2 hva, hp⟩
  simp only [State.fePage, if_neg reached, State.walk, hi, hx, hn, imageXlat_assigned hx, Bool.and_self, if_true]

/-- A queue's STATE lies in memory: a refresh leaves the front end's own records. -/
theorem refreshed_fe {s t : State} {q : Nat} (h : Refreshed s q t) : t.fe = s.fe := by
  unfold Refreshed at h
  split at h
  · rw [h]
  · rw [h.1]

theorem oneImage_readable : (imageXlat oneImage 0x180000000).any (fun x => x.allows .read) = true := by decide +kernel

/-- COND 4 holds of no word. -/
theorem waitNode_never_holds (st : NodeState) (w : Nat) : ¬ condHolds (waitNode st) w := by simp [condHolds, waitNode]

/-- Of a state that still has both runs, with the image: a wait node that reads its word gets no watch. -/
theorem waitRead_no_watch {s1 t : State} (hfe : s1.fe.runs = twoRuns.fe.runs) (hi : s1.images = twoRuns.images)
    (hp : s1.parts = twoRuns.parts) (h : WaitRead s1 parkedRun 0 (waitNode (.noPage 0 true (some 0))) t) :
    firstNode t = some (.watching s1.now none) := by
  obtain ⟨x, hx, readable⟩ := (Option.any_eq_true _ _).1 oneImage_readable
  have page : s1.fePage parkedRun.home 0x180000000 .read = .ok (x.phys 0x180000000) := by
    refine fePage_of_image (i := oneImage) (by decide) ?_ ?_ hx readable
    · rw [State.part, hp]; decide +kernel
    · rw [State.imageAt, hi]; decide +kernel
  have held : watchesHeld s1 parkedRun.qidx 0 = 64 := by rw [watchesHeld, hfe]; decide +kernel
  have refreshed := (h.2 _ page).1 (waitNode_never_holds _ _)
  rw [held] at refreshed
  rw [firstNode, refreshed_fe refreshed, withRun, hfe]
  rfl

/-- Refutes O42, in its clause on QUEUE_UNPARK: of two runs of a queue under one RUNID, the second holds all 64 watches; the step
gives the wait node of the first a watch, where the statement leaves it without one. -/
theorem not_queueSteps : ¬ Obligations.QueueSteps := by
  rintro ⟨-, -, -, -, unpark, -⟩
  have qsb : twoRuns.qsb twoRuns.arg.item = some (twoRuns.qsbAt 0x4000) := by decide +kernel
  obtain ⟨-, back⟩ := unpark twoRuns parkedRun (waitNode (.noPage 0 true (some 0))) (twoRuns.qsbAt 0x4000) 0 0 ⟨rfl, rfl, rfl⟩ qsb rfl rfl rfl
    (fun x hx _ => by
      rcases List.mem_pair.1 hx with rfl | rfl <;> rfl)
    (fun p hp => by cases hp)
  obtain ⟨s1, t, step, ⟨linked, -⟩, reads, -⟩ := back (by decide +kernel) fun j m hm _ => by
    match j, hm with
    | 0, _ => rfl
  have none_left : firstNode t = some (.watching s1.now none) :=
    waitRead_no_watch (by rw [linked]) (by rw [linked]) (by rw [linked]) (reads rfl)
  have watches := twoRuns_unpark_watches
  rw [step, firstNodeAfter, none_left] at watches
  simp at watches

end Sys2Proof.DescribingWork
end

section
/-! PROOFS. Program state (03_program_state.md): the fixed registers, and the words on futures. Both statements hold. -/

namespace Sys2Proof.ProgramState

open Sys2Proof.Machine Sys2Proof.Safety Sys2Proof.Claims Sys2Proof.Laws

/-! ### Fixed registers (R42) -/

@[simp] theorem getX_x0 (g : Group) (l : Lane) : g.getX 0#6 l = 0#32 := if_pos rfl
@[simp] theorem getS_s0 (g : Group) : g.getS 0#6 = 0#32 := if_pos rfl
@[simp] theorem getM_m0 (g : Group) : g.getM 0#6 = 0xFFFFFFFF#32 := if_pos rfl
@[simp] theorem setX_x0 (g : Group) (on : Mask) (f : Lane → Word) : g.setX 0#6 on f = g := if_pos rfl
@[simp] theorem setS_s0 (g : Group) (w : Word) : g.setS 0#6 w = g := if_pos rfl
@[simp] theorem setM_m0 (g : Group) (w : Mask) : g.setM 0#6 w = g := if_pos rfl

/-- m0 in the mask field of a latched form masks no lane (R98). -/
theorem active_of_m0_prefix {c : Ctx} {l : Latched} (hp : c.p.pfx = some l) (hm : l.form.m = 0#3) : c.active = c.p.em := by
  have all : c.pmask = c.g.getM 0#6 := by
    simp only [Ctx.pmask, hp, hm]
    rfl
  rw [Ctx.active, all, getM_m0]
  exact BitVec.and_allOnes

/-- A mask word names its destination as one, and starts as a word with no ILLOP condition but those of its encoding. -/
theorem maskWord_form {i : Instr} {d : Reg} {val : Ctx → Lane → Bool} (h : maskValue i = some (d, val)) :
    rmd d ∈ i.sig.ops ∧ ∀ s, ∃ k, exec i s = word i s k := by
  unfold maskValue at h
  split at h
  case h_7 => cases h
  all_goals
    obtain ⟨rfl, -⟩ := Prod.mk.inj (Option.some.inj h)
    exact ⟨List.mem_cons_self, fun s => ⟨_, rfl⟩⟩

/-- m0 is no mask destination, so a word that names it as one is illegal (R96). -/
theorem not_legal_of_m0_dest {i : Instr} (h : rmd 0#6 ∈ i.sig.ops) (c : Ctx) : wordLegal i c = false := by
  have bad : i.sig.ops.all Opnd.exists = false := List.all_eq_false.2 ⟨_, h, by decide⟩
  simp only [wordLegal, Instr.wf, bad, Bool.and_false, Bool.false_and]

/-- Settles O56, register file by register file; a mask word into m0 is illegal before anything else of it is looked at. -/
theorem fixedRegisters : Obligations.FixedRegisters := by
  refine ⟨getX_x0, getS_s0, getM_m0, setX_x0, setS_s0, setM_m0, fun c l => active_of_m0_prefix, ?_⟩
  intro i val s c hi hc
  obtain ⟨dest, starts⟩ := maskWord_form hi
  obtain ⟨k, exec_eq⟩ := starts s
  rw [exec_eq]
  exact startWord_illegal hc (.inl (not_legal_of_m0_dest dest c)) _ k

/-! ### Handles (R46) -/

theorem handleState_eq (w : Word) : handleState w = w.toNat % 4 := by
  simp [handleState, BitVec.extractLsb'_toNat]

theorem handleEng_eq (w : Word) : handleEng w = w.toNat / 256 % 16 := by
  simp [handleEng, BitVec.extractLsb'_toNat, Nat.shiftRight_eq_div_pow]

theorem pending_iff (g : Group) (r : Reg) : pending g r ↔ handleState (g.getH r) = 1 := by
  rw [pending, handleState_eq]

theorem getH_setH (g : Group) (d r : Reg) (hr : r.toNat < 16) (hd : d.toNat < 16) (w : Word) :
    (g.setH d w).getH r = if r = d then w else g.getH r := by
  simp only [Group.getH, Group.setH, Tab.get_set, hIx_inj hr hd]

/-- A legal word names a handle register that exists (R96). -/
theorem handle_lt_of_legal {i : Instr} {c : Ctx} {r : Reg} (h : wordLegal i c = true) (hr : rh r ∈ i.sig.ops) : r.toNat < 16 := by
  simp only [wordLegal, Instr.wf, Bool.and_eq_true, List.all_eq_true] at h
  obtain ⟨⟨-, ops⟩, -⟩ := h
  exact of_decide_eq_true (p := r.toNat < 16) (ops _ hr)

/-! ### The core's L1 (R348, R350) -/

theorem coreIx_eq_iff (k n : Nat) : coreIx k = coreIx n ↔ k % 768 = n % 768 := Fin.ext_iff

theorem clearL1_emptied (s : State) (core : Nat) : Emptied s core (s.clearL1 core) := by
  refine ⟨rfl, fun k => ?_⟩
  rw [State.clearL1, State.core, State.putCore, Tab.get_set]
  by_cases h : k % 768 = core % 768
  · have same : coreIx k = coreIx core := (coreIx_eq_iff k core).2 h
    rw [if_pos same, if_pos h, State.core, State.core, same, Core.l1Clear]
  · rw [if_neg fun e => h ((coreIx_eq_iff k core).1 e), if_neg h, State.core]

@[simp] theorem clearL1_groups (s : State) (core : Nat) : (s.clearL1 core).groups = s.groups := State.putCore_groups ..

theorem sawHandle_emptied (s : State) (c : Ctx) (r : Reg) : MaybeEmptied s c.t.core (complete c.g r) (s.sawHandle c r) := by
  unfold MaybeEmptied State.sawHandle complete
  rw [handleState_eq]
  by_cases h : (c.g.getH r).toNat % 4 = 2
  · simpa [h] using clearL1_emptied s c.t.core
  · simp [h]

@[simp] theorem sawHandle_groups (s : State) (c : Ctx) (r : Reg) : (s.sawHandle c r).groups = s.groups := by
  unfold State.sawHandle; split <;> simp

/-- A word that writes s[D] completes, over a state with the groups it started from. -/
theorem finish_setS {s s' : State} {c : Ctx} (h : s.ctx = some c) (hs : s'.groups = s.groups) (d : Reg) (w : Word) :
    Done s' c (c.g.setS d w) (finish s' c (c.g.setS d w)) :=
  finish_done h hs (Group.setS_gid ..) (Group.setS_paths ..)

/-! ### HWAIT and HTEST (R373, R374) -/

theorem exec_hwait {f : FormDA} {s : State} {c : Ctx} (h : Starts (.hwait f) s c) : exec (.hwait f) s =
    if handleState (c.g.getH f.a) = 1 then waitAt s c c.g (.handle f.a.toNat)
    else finish (s.sawHandle c f.a) c (c.g.setS f.d (BitVec.ofNat 32 (handleState (c.g.getH f.a)))) :=
  word_starts h _

theorem hwait_waits {f : FormDA} {s : State} {c : Ctx} (h : Starts (.hwait f) s c) (hp : pending c.g f.a) :
    Waits s c c.g (.handle f.a.toNat) (exec (.hwait f) s) := by
  rw [exec_hwait h, if_pos ((pending_iff ..).1 hp)]
  exact waitAt_waits h.1 rfl rfl rfl _

theorem hwait_completes {f : FormDA} {s : State} {c : Ctx} (h : Starts (.hwait f) s c) (hp : ¬ pending c.g f.a) :
    ∃ s' g, MaybeEmptied s c.t.core (complete c.g f.a) s' ∧ Done s' c g (exec (.hwait f) s) ∧
      UniS c f.d (BitVec.ofNat 32 ((c.g.getH f.a).toNat % 4)) g := by
  rw [exec_hwait h, if_neg (mt (pending_iff ..).2 hp), handleState_eq]
  exact ⟨_, _, sawHandle_emptied s c f.a, finish_setS h.1 (sawHandle_groups ..) .., setS_uni ..⟩

theorem exec_htest {f : FormDA} {s : State} {c : Ctx} (h : Starts (.htest f) s c) :
    exec (.htest f) s = finish (s.sawHandle c f.a) c (c.g.setS f.d (c.g.getH f.a)) :=
  word_starts h _

theorem htest_completes {f : FormDA} {s : State} {c : Ctx} (h : Starts (.htest f) s c) :
    ∃ s' g, MaybeEmptied s c.t.core (complete c.g f.a) s' ∧ Done s' c g (exec (.htest f) s) ∧ UniS c f.d (c.g.getH f.a) g := by
  rw [exec_htest h]
  exact ⟨_, _, sawHandle_emptied s c f.a, finish_setS h.1 (sawHandle_groups ..) .., setS_uni ..⟩

/-! ### What a cancellation marks (R317, R375) -/

theorem copy_isFor_iff (x : Copy) (gid h : Nat) (tag : BitVec 16) :
    x.isFor gid h tag = true ↔ ∃ uid, x.owner = .handle uid gid h tag := by
  cases ho : x.owner <;> simp [Copy.isFor, ho, and_assoc]

theorem record_isFor_iff (r : Record) (gid h : Nat) (tag : BitVec 16) :
    r.isFor gid h tag = true ↔ r.hasH = true ∧ r.gid = gid ∧ r.h = h ∧ r.tag = tag := by
  simp [Record.isFor, and_assoc]

/-- The cancellation of a handle's command reaches a copy: it is that command, and has work left. -/
def CopyReached (gid h : Nat) (tag : BitVec 16) (x : Copy) : Prop :=
  x.finished = false ∧ ∃ uid, x.owner = .handle uid gid h tag

/-- It reaches a record: that command, or a part of the joint of it, formed or started. -/
def RecordReached (s : State) (gid h : Nat) (tag : BitVec 16) (x : Record) : Prop :=
  ∃ z ∈ s.records, (z.hasH = true ∧ z.gid = gid ∧ z.h = h ∧ z.tag = tag) ∧ z.finished = false ∧
    (z.rid = x.rid ∨ (z.joint ≠ none ∨ s.formed z = true) ∧ ∃ p ∈ s.joinPartners z, p.rid = x.rid)

theorem cancelCopy_copies (s : State) (gid h : Nat) (tag : BitVec 16) :
    ∃ hits : Copy → Bool, (s.cancelCopy gid h tag).copies = s.copies.map (fun x => if hits x then { x with cancelled := true } else x) ∧
      ∀ x, hits x = true ↔ CopyReached gid h tag x :=
  ⟨_, rfl, fun x => by
    rw [Bool.and_eq_true, Bool.not_eq_true', copy_isFor_iff, CopyReached, and_comm]⟩

theorem cancelRecord_records (s : State) (gid h : Nat) (tag : BitVec 16) :
    ∃ hits : Record → Bool,
      (s.cancelRecord gid h tag).records = s.records.map (fun x => if hits x then { x with cancelled := true } else x) ∧
        ∀ x, hits x = true ↔ RecordReached s gid h tag x := by
  refine ⟨_, rfl, fun x => ?_⟩
  simp only [RecordReached, ← record_isFor_iff, Bool.or_eq_true, List.any_eq_true, List.contains_iff_mem, List.mem_flatMap,
    List.mem_filter, Bool.and_eq_true, Bool.not_eq_true', beq_iff_eq, List.mem_ite_nil_right, List.mem_map, Option.isSome_iff_ne_none]
  constructor
  · rintro (⟨z, ⟨hz, mine, work⟩, same⟩ | ⟨z, ⟨hz, mine, work⟩, part⟩)
    · exact ⟨z, hz, mine, work, .inl same⟩
    · exact ⟨z, hz, mine, work, .inr part⟩
  · rintro ⟨z, hz, mine, work, same | part⟩
    · exact .inl ⟨z, ⟨hz, mine, work⟩, same⟩
    · exact .inr ⟨z, ⟨hz, mine, work⟩, part⟩

/-- A copy after the cancellation of a handle's command. -/
theorem cancelCopy_marks (s : State) (gid h : Nat) (tag : BitVec 16) {n : Nat} {x : Copy} (hx : s.copies[n]? = some x) :
    ∃ y, (s.cancelCopy gid h tag).copies[n]? = some y ∧ y = { x with cancelled := y.cancelled } ∧
      (y.cancelled = true ↔ x.cancelled = true ∨ CopyReached gid h tag x) := by
  obtain ⟨hits, copies, reached⟩ := cancelCopy_copies s gid h tag
  refine ⟨_, by rw [copies, List.getElem?_map, hx, Option.map_some], ?_⟩
  rw [← reached]
  cases hits x <;> simp

/-- A record after the cancellation of a handle's command. -/
theorem cancelRecord_marks (s : State) (gid h : Nat) (tag : BitVec 16) {n : Nat} {x : Record} (hx : s.records[n]? = some x) :
    ∃ y, (s.cancelRecord gid h tag).records[n]? = some y ∧ y = { x with cancelled := y.cancelled } ∧
      (y.cancelled = true ↔ x.cancelled = true ∨ RecordReached s gid h tag x) := by
  obtain ⟨hits, records, reached⟩ := cancelRecord_records s gid h tag
  refine ⟨_, by rw [records, List.getElem?_map, hx, Option.map_some], ?_⟩
  rw [← reached]
  cases hits x <;> simp

/-! ### HCANCEL (R375) -/

theorem exec_hcancel {f : FormA} {s : State} {c : Ctx} (h : Starts (.hcancel f) s c) : exec (.hcancel f) s =
    if handleState (c.g.getH f.a) = 0 then finish s c c.g
    else if handleState (c.g.getH f.a) ≠ 1 then finish s c (c.g.setH f.a 0#32)
    else if handleEng (c.g.getH f.a) = 1 then finish (s.cancelCopy c.g.gid f.a.toNat (handleTag (c.g.getH f.a))) c c.g
    else if handleEng (c.g.getH f.a) = 2 ∨ handleEng (c.g.getH f.a) = 3 then
      finish (s.cancelRecord c.g.gid f.a.toNat (handleTag (c.g.getH f.a))) c c.g
    else finish s c c.g :=
  word_starts h _

theorem hcancel_idle {f : FormA} {s : State} {c : Ctx} (h : Starts (.hcancel f) s c) (idle : (c.g.getH f.a).toNat % 4 = 0) :
    Done s c c.g (exec (.hcancel f) s) := by
  rw [exec_hcancel h, handleState_eq, if_pos idle]
  exact finish_done h.1 rfl rfl rfl

theorem hcancel_ended {f : FormA} {s : State} {c : Ctx} (h : Starts (.hcancel f) s c)
    (ended : (c.g.getH f.a).toNat % 4 = 2 ∨ (c.g.getH f.a).toNat % 4 = 3) :
    ∃ g, Done s c g (exec (.hcancel f) s) ∧ g = { c.g with h := g.h } ∧
      ∀ r, r.toNat < 16 → g.getH r = if r = f.a then 0#32 else c.g.getH r := by
  have ha : f.a.toNat < 16 := handle_lt_of_legal h.2.1 List.mem_cons_self
  rw [exec_hcancel h, handleState_eq, if_neg (by omega), if_pos (by omega)]
  exact ⟨_, finish_done h.1 rfl rfl rfl, rfl, fun r hr => getH_setH c.g f.a r hr ha 0#32⟩

/-- HCANCEL of a pending handle goes by its engine. -/
theorem exec_hcancel_pending {f : FormA} {s : State} {c : Ctx} (h : Starts (.hcancel f) s c) (hp : pending c.g f.a) :
    exec (.hcancel f) s =
      if handleEng (c.g.getH f.a) = 1 then finish (s.cancelCopy c.g.gid f.a.toNat (handleTag (c.g.getH f.a))) c c.g
      else if handleEng (c.g.getH f.a) = 2 ∨ handleEng (c.g.getH f.a) = 3 then
        finish (s.cancelRecord c.g.gid f.a.toNat (handleTag (c.g.getH f.a))) c c.g
      else finish s c c.g := by
  rw [exec_hcancel h, (pending_iff ..).1 hp, if_neg (by decide), if_neg (by decide)]

theorem hcancel_copy {f : FormA} {s : State} {c : Ctx} (h : Starts (.hcancel f) s c) (hp : pending c.g f.a)
    (copies : (c.g.getH f.a).toNat / 256 % 16 = 1) :
    exec (.hcancel f) s = finish (s.cancelCopy c.g.gid f.a.toNat (handleTag (c.g.getH f.a))) c c.g := by
  rw [exec_hcancel_pending h hp, handleEng_eq, if_pos copies]

theorem hcancel_record {f : FormA} {s : State} {c : Ctx} (h : Starts (.hcancel f) s c) (hp : pending c.g f.a)
    (records : (c.g.getH f.a).toNat / 256 % 16 = 2 ∨ (c.g.getH f.a).toNat / 256 % 16 = 3) :
    exec (.hcancel f) s = finish (s.cancelRecord c.g.gid f.a.toNat (handleTag (c.g.getH f.a))) c c.g := by
  rw [exec_hcancel_pending h hp, handleEng_eq, if_neg (by omega), if_pos records]

/-! ### AWAIT (R258, R376) -/

theorem exec_await {f : FormDAB} {s : State} {c : Ctx} (h : Starts (.await f) s c) (aligned : (c.g.getS f.a).toNat % 16 = 0)
    (inside : (c.g.getS f.a).toNat + 16 ≤ c.t.hold.scr * 4096) :
    exec (.await f) s =
      if genPast (c.t.arrival (c.g.getS f.a).toNat).gen ((c.g.getS f.b).toNat % 2 ^ 24) = true then
        finish (s.clearL1 c.t.core) c (c.g.setS f.d (BitVec.ofNat 32 ((c.t.arrival (c.g.getS f.a).toNat).gen +
          (if (c.t.arrival (c.g.getS f.a).toNat).fail then 2 ^ 24 else 0) +
          (if (c.t.arrival (c.g.getS f.a).toNat).exceeded then 2 ^ 25 else 0))))
      else waitAt s c c.g (.await (c.g.getS f.a).toNat ((c.g.getS f.b).toNat % 2 ^ 24)) := by
  have tok : ((c.g.getS f.b).extractLsb' 0 24).toNat = (c.g.getS f.b).toNat % 2 ^ 24 := BitVec.extractLsb'_toNat ..
  have within : c.t.inGranules (c.g.getS f.a).toNat 16 = true := decide_eq_true inside
  rw [show exec (.await f) s = _ from word_starts h _]
  simp only [tok, within, aligned, ne_eq, not_true_eq_false, if_false, Bool.not_true, Bool.false_eq_true]

theorem genPast_iff (gen tok : Nat) : genPast gen tok = true ↔ gen ≠ tok ∧ (gen + 2 ^ 24 - tok) % 2 ^ 24 < 2 ^ 23 := by
  rw [genPast, Bool.and_eq_true, bne_iff_ne, decide_eq_true_iff]

/-- Settles O34, word by word: each runs to the branch that its handle or its arrival word chooses. -/
theorem futureWords : Obligations.FutureWords := by
  refine ⟨fun f s c h => ⟨hwait_waits h, hwait_completes h⟩, fun _ _ _ => htest_completes,
    fun f s c h => ⟨hcancel_idle h, hcancel_ended h, fun hp engine => ?_, fun hp engine => ?_⟩, fun f s c h aligned inside => ?_⟩
  · rw [hcancel_copy h hp engine]
    exact ⟨_, rfl, finish_done h.1 rfl rfl rfl, List.length_map .., fun _ _ => cancelCopy_marks s _ _ _⟩
  · rw [hcancel_record h hp engine]
    exact ⟨_, rfl, finish_done h.1 rfl rfl rfl, List.length_map .., fun _ _ => cancelRecord_marks s _ _ _⟩
  · rw [exec_await h aligned inside]
    refine ⟨fun past => ?_, fun notPast => ?_⟩
    · rw [if_pos ((genPast_iff ..).2 past)]
      exact ⟨_, _, clearL1_emptied s c.t.core, finish_setS h.1 (clearL1_groups ..) .., setS_uni ..⟩
    · rw [if_neg (mt (genPast_iff ..).1 notPast)]
      exact waitAt_waits h.1 rfl rfl rfl _

end Sys2Proof.ProgramState
end

section
/-! PROOFS. Number formats (04_number_formats.md): outward rounding (R68). The statement holds, and so do its lemmas for every
format whose codes, that of the infinity included, lie below the sign bit. A format's codes are in the order of the numbers that
they stand for; rounding toward zero finds the last code at most a magnitude, and rounding away from zero the first code at
least it. -/

namespace Sys2Proof.NumberFormats

open Sys2Proof.Machine Sys2Proof.Claims

/-! ### Powers of two -/

theorem two_pow_toNat {k : Int} (h : 0 ≤ k) : (2 : ℝ) ^ k.toNat = 2 ^ k := by
  rw [← zpow_natCast, Int.toNat_of_nonneg h]

/-- The fraction `n / d` divided by `2^u`, as the model writes it: one of its parts takes the power. -/
def scaledNum (u : Int) (n : Nat) : Nat := if u < 0 then n * 2 ^ (-u).toNat else n
def scaledDen (u : Int) (d : Nat) : Nat := if u < 0 then d else d * 2 ^ u.toNat

theorem scaledDen_pos (u : Int) {d : Nat} (hd : 0 < d) : 0 < scaledDen u d := by
  unfold scaledDen
  split <;> positivity

theorem scaled_eq (u : Int) (n d : Nat) : (scaledNum u n : ℝ) / scaledDen u d = n / d / 2 ^ u := by
  unfold scaledNum scaledDen
  split
  · rw [Nat.cast_mul, Nat.cast_pow, Nat.cast_two, two_pow_toNat (by omega), zpow_neg, div_right_comm, div_eq_mul_inv (n : ℝ)]
  · rw [Nat.cast_mul, Nat.cast_pow, Nat.cast_two, two_pow_toNat (by omega), div_div]

theorem scaledNum_div_brackets (u : Int) (n : Nat) {d : Nat} (hd : 0 < d) :
    ((scaledNum u n / scaledDen u d : ℕ) : ℝ) ≤ n / d / 2 ^ u ∧
    (n : ℝ) / d / 2 ^ u < (scaledNum u n / scaledDen u d : ℕ) + 1 ∧
    (scaledNum u n % scaledDen u d ≠ 0 ↔ ((scaledNum u n / scaledDen u d : ℕ) : ℝ) < n / d / 2 ^ u) := by
  have split := Nat.div_add_mod' (scaledNum u n) (scaledDen u d)
  rw [← scaled_eq, lt_div_iff₀ (Nat.cast_pos.2 (scaledDen_pos u hd)), ← Nat.cast_mul, Nat.cast_lt]
  refine ⟨Nat.cast_div_le, ?_, by omega⟩
  rw [← Nat.floor_div_eq_div (K := ℝ)]
  exact Nat.lt_floor_add_one _

/-! ### The binary logarithm of a fraction -/

theorem two_pow_log2_le {n : Nat} (hn : 0 < n) : (2 : ℝ) ^ (n.log2 : Int) ≤ n := by
  rw [zpow_natCast]
  exact_mod_cast Nat.log2_self_le hn.ne'

theorem lt_two_pow_log2_succ (n : Nat) : (n : ℝ) < 2 ^ ((n.log2 : Int) + 1) := by
  rw [← Nat.cast_succ, zpow_natCast]
  exact_mod_cast Nat.lt_log2_self

theorem floorLog2_eq (n d : Nat) : floorLog2 n d = if scaledDen (n.log2 - d.log2) d ≤ scaledNum (n.log2 - d.log2) n
    then (n.log2 - d.log2 : Int) else n.log2 - d.log2 - 1 := by
  unfold floorLog2 scaledNum scaledDen
  dsimp only
  split <;> simp only [decide_eq_true_eq]

theorem scaledDen_le_scaledNum_iff (u : Int) (n : Nat) {d : Nat} (hd : 0 < d) :
    scaledDen u d ≤ scaledNum u n ↔ (2 : ℝ) ^ u ≤ n / d := by
  have pos : (0 : ℝ) < scaledDen u d := Nat.cast_pos.2 (scaledDen_pos u hd)
  rw [← Nat.cast_le (α := ℝ), ← one_le_div pos, scaled_eq, one_le_div (by positivity)]

theorem floorLog2_bounds {n d : Nat} (hn : 0 < n) (hd : 0 < d) :
    (2 : ℝ) ^ floorLog2 n d ≤ n / d ∧ (n : ℝ) / d < 2 ^ (floorLog2 n d + 1) := by
  have posD : (0 : ℝ) < d := Nat.cast_pos.2 hd
  rw [floorLog2_eq]
  split_ifs with ge
  · refine ⟨(scaledDen_le_scaledNum_iff _ n hd).1 ge, (div_lt_iff₀ posD).2 ?_⟩
    calc (n : ℝ) < 2 ^ ((n.log2 : Int) + 1) := lt_two_pow_log2_succ n
      _ = 2 ^ ((n.log2 : Int) - d.log2 + 1) * 2 ^ (d.log2 : Int) := by rw [← zpow_add₀ two_ne_zero]; ring_nf
      _ ≤ 2 ^ ((n.log2 : Int) - d.log2 + 1) * d := by gcongr; exact two_pow_log2_le hd
  · refine ⟨(le_div_iff₀ posD).2 ?_, by rwa [sub_add_cancel, ← not_le, ← scaledDen_le_scaledNum_iff _ n hd]⟩
    calc (2 : ℝ) ^ ((n.log2 : Int) - d.log2 - 1) * d
        ≤ 2 ^ ((n.log2 : Int) - d.log2 - 1) * 2 ^ ((d.log2 : Int) + 1) := by gcongr; exact (lt_two_pow_log2_succ d).le
      _ = 2 ^ (n.log2 : Int) := by rw [← zpow_add₀ two_ne_zero]; ring_nf
      _ ≤ n := two_pow_log2_le hn

/-! ### The codes of a format, in order -/

/-- The number that a code without its sign bit stands for. -/
noncomputable def mag (f : Fmt) (code : Nat) : ℝ := dyReal (fmtMag f code)

theorem mag_subnormal (f : Fmt) {r : Nat} (hr : r < 2 ^ f.mbits) : mag f r = r * 2 ^ f.umin := by
  simp [mag, fmtMag, dyReal, Nat.div_eq_of_lt hr, Nat.mod_eq_of_lt hr]

theorem mag_normal (f : Fmt) (k : Nat) {r : Nat} (hr : r < 2 ^ f.mbits) :
    mag f ((k + 1) * 2 ^ f.mbits + r) = (2 ^ f.mbits + r) * 2 ^ (f.umin + k) := by
  have ex : ((k + 1) * 2 ^ f.mbits + r) / 2 ^ f.mbits = k + 1 := by
    rw [mul_comm, Nat.mul_add_div (by positivity), Nat.div_eq_of_lt hr, add_zero]
  have fr : ((k + 1) * 2 ^ f.mbits + r) % 2 ^ f.mbits = r := by rw [Nat.mul_add_mod', Nat.mod_eq_of_lt hr]
  simp [mag, fmtMag, dyReal, ex, fr, ← add_assoc]

/-- A code is `k` steps of the exponent and a significand `q`, which is that of a normal number or goes with no step. -/
structure Parts (f : Fmt) (code k q : Nat) : Prop where
  eq : code = k * 2 ^ f.mbits + q
  normal : k = 0 ∨ 2 ^ f.mbits ≤ q
  lt : q < 2 ^ (f.mbits + 1)

theorem exists_parts (f : Fmt) (code : Nat) : ∃ k q, Parts f code k q := by
  have lt : code % 2 ^ f.mbits < 2 ^ f.mbits := Nat.mod_lt _ (by positivity)
  have eq := Nat.div_add_mod' code (2 ^ f.mbits)
  rcases ex : code / 2 ^ f.mbits with - | k <;> rw [ex] at eq
  · exact ⟨0, code, by omega, .inl rfl, by omega⟩
  · exact ⟨k, 2 ^ f.mbits + code % 2 ^ f.mbits, by rw [← add_assoc, ← Nat.succ_mul, eq], .inr (by omega), by omega⟩

namespace Parts
variable {f : Fmt} {code k q : Nat}

theorem mag_eq (h : Parts f code k q) : mag f code = q * 2 ^ (f.umin + k) := by
  obtain ⟨rfl, normal, lt⟩ := h
  rcases lt_or_ge q (2 ^ f.mbits) with small | large
  · obtain rfl : k = 0 := normal.resolve_right (by omega)
    simpa using mag_subnormal f small
  · obtain ⟨r, rfl⟩ := Nat.exists_eq_add_of_le large
    rw [← add_assoc, ← Nat.succ_mul, mag_normal f k (by omega)]
    push_cast
    rfl

/-- The next code is one significand on, also where it steps to the next exponent. -/
theorem mag_succ_eq (h : Parts f code k q) : mag f (code + 1) = (q + 1) * 2 ^ (f.umin + k) := by
  obtain ⟨rfl, normal, lt⟩ := h
  rcases Nat.lt_or_eq_of_le (Nat.succ_le_of_lt lt) with same | carry
  · have next : Parts f (k * 2 ^ f.mbits + q + 1) k (q + 1) := ⟨by omega, by omega, same⟩
    rw [next.mag_eq, Nat.cast_succ]
  · have next : Parts f (k * 2 ^ f.mbits + q + 1) (k + 1) (2 ^ f.mbits) :=
      ⟨by rw [add_assoc, ← Nat.succ_eq_add_one q, carry]; ring, .inr le_rfl, by omega⟩
    rw [next.mag_eq, ← Nat.cast_succ, carry]
    push_cast
    rw [← add_assoc, zpow_add_one₀ two_ne_zero, pow_succ]
    ring

end Parts

theorem mag_strictMono (f : Fmt) : StrictMono (mag f) := strictMono_nat_of_lt_succ fun code => by
  obtain ⟨k, q, h⟩ := exists_parts f code
  rw [h.mag_eq, h.mag_succ_eq]
  gcongr
  exact lt_add_one _

theorem mag_zero (f : Fmt) : mag f 0 = 0 := by simpa using mag_subnormal f (Nat.two_pow_pos f.mbits)

/-! ### A fraction on a format's grid -/

/-- The exponent of the grid's step at a positive fraction. -/
def gridExp (f : Fmt) (n d : Nat) : Int := max (floorLog2 n d - f.mbits) f.umin

theorem umin_le_gridExp (f : Fmt) (n d : Nat) : f.umin ≤ gridExp f n d := le_max_right _ _

theorem gridOf_eq (f : Fmt) {n : Nat} (d : Nat) (hn : n ≠ 0) :
    (gridOf f n d).code = (gridExp f n d - f.umin).toNat * 2 ^ f.mbits +
        scaledNum (gridExp f n d) n / scaledDen (gridExp f n d) d ∧
    (gridOf f n d).inexact = decide (scaledNum (gridExp f n d) n % scaledDen (gridExp f n d) d ≠ 0) := by
  rw [gridOf, if_neg hn]
  exact ⟨rfl, rfl⟩

theorem div_two_zpow_gridExp_lt (f : Fmt) {n d : Nat} (hn : 0 < n) (hd : 0 < d) :
    (n : ℝ) / d / 2 ^ gridExp f n d < 2 ^ (f.mbits + 1) := by
  rw [div_lt_iff₀ (by positivity), ← zpow_natCast, ← zpow_add₀ two_ne_zero]
  refine (floorLog2_bounds hn hd).2.trans_le (zpow_le_zpow_right₀ one_le_two ?_)
  unfold gridExp
  omega

theorem le_div_two_zpow_gridExp (f : Fmt) {n d : Nat} (hn : 0 < n) (hd : 0 < d) (h : f.umin < gridExp f n d) :
    (2 : ℝ) ^ f.mbits ≤ (n : ℝ) / d / 2 ^ gridExp f n d := by
  rw [le_div_iff₀ (by positivity), ← zpow_natCast, ← zpow_add₀ two_ne_zero]
  refine (zpow_le_zpow_right₀ one_le_two ?_).trans (floorLog2_bounds hn hd).1
  unfold gridExp at h ⊢
  omega

theorem gridOf_parts (f : Fmt) {n d : Nat} (hn : 0 < n) (hd : 0 < d) : Parts f (gridOf f n d).code
    (gridExp f n d - f.umin).toNat (scaledNum (gridExp f n d) n / scaledDen (gridExp f n d) d) := by
  have pos := scaledDen_pos (gridExp f n d) hd
  have posR : (0 : ℝ) < scaledDen (gridExp f n d) d := Nat.cast_pos.2 pos
  refine ⟨(gridOf_eq f d hn.ne').1, ?_, (Nat.div_lt_iff_lt_mul pos).2 ?_⟩
  · rcases (umin_le_gridExp f n d).eq_or_lt with eq | lt
    · exact .inl (by omega)
    · refine .inr ((Nat.le_div_iff_mul_le pos).2 ?_)
      have le := le_div_two_zpow_gridExp f hn hd lt
      rw [← scaled_eq, le_div_iff₀ posR] at le
      exact_mod_cast le
  · have lt := div_two_zpow_gridExp_lt f hn hd
    rw [← scaled_eq, div_lt_iff₀ posR] at lt
    exact_mod_cast lt

/-- The grid's code is the last one at most the fraction, and its inexact mark says that the fraction lies above it. -/
theorem gridOf_brackets (f : Fmt) (n : Nat) {d : Nat} (hd : 0 < d) :
    mag f (gridOf f n d).code ≤ (n : ℝ) / d ∧ (n : ℝ) / d < mag f ((gridOf f n d).code + 1) ∧
      ((gridOf f n d).inexact = true ↔ mag f (gridOf f n d).code < (n : ℝ) / d) := by
  rcases n.eq_zero_or_pos with rfl | hn
  · simpa [gridOf, mag_zero] using (mag_zero f).symm.trans_lt (mag_strictMono f one_pos)
  have parts := gridOf_parts f hn hd
  have step : f.umin + ((gridExp f n d - f.umin).toNat : Int) = gridExp f n d := by
    rw [Int.toNat_of_nonneg (sub_nonneg.2 (umin_le_gridExp f n d)), add_sub_cancel]
  have pos : (0 : ℝ) < 2 ^ gridExp f n d := by positivity
  rw [parts.mag_eq, parts.mag_succ_eq, (gridOf_eq f d hn.ne').2, step, decide_eq_true_iff, ← le_div_iff₀ pos, ← div_lt_iff₀ pos,
    ← lt_div_iff₀ pos]
  exact scaledNum_div_brackets _ n hd

/-! ### Rounding a magnitude -/

/-- The direction away from zero, and the one toward it, for a sign. -/
def awayDir (neg : Bool) : Dir := if neg then .down else .up
def towardDir (neg : Bool) : Dir := if neg then .up else .down

theorem gridRound_away (f : Fmt) (neg : Bool) (n d : Nat) : gridRound f (awayDir neg) neg n d = gridRound f .up false n d := by
  cases neg <;> rfl

theorem gridRound_toward (f : Fmt) (neg : Bool) (n d : Nat) :
    gridRound f (towardDir neg) neg n d = gridRound f .down false n d := by
  cases neg <;> rfl

theorem gridRound_down_eq (f : Fmt) (n d : Nat) : gridRound f .down false n d = (gridOf f n d).code := by simp [gridRound]

theorem gridRound_up_eq (f : Fmt) (n d : Nat) :
    gridRound f .up false n d = if (gridOf f n d).inexact = true then (gridOf f n d).code + 1 else (gridOf f n d).code := by
  simp [gridRound]

theorem le_gridRound_down_iff (f : Fmt) (n : Nat) {d : Nat} (hd : 0 < d) (code : Nat) :
    code ≤ gridRound f .down false n d ↔ mag f code ≤ (n : ℝ) / d := by
  obtain ⟨le, lt, -⟩ := gridOf_brackets f n hd
  rw [gridRound_down_eq]
  exact ⟨fun h => ((mag_strictMono f).monotone h).trans le,
    fun h => Nat.le_of_lt_succ ((mag_strictMono f).lt_iff_lt.1 (h.trans_lt lt))⟩

theorem gridRound_up_le_iff (f : Fmt) (n : Nat) {d : Nat} (hd : 0 < d) (code : Nat) :
    gridRound f .up false n d ≤ code ↔ (n : ℝ) / d ≤ mag f code := by
  obtain ⟨le, lt, inexact⟩ := gridOf_brackets f n hd
  rw [gridRound_up_eq]
  split_ifs with h
  · exact ⟨fun hc => lt.le.trans ((mag_strictMono f).monotone hc),
      fun hx => Nat.succ_le_of_lt ((mag_strictMono f).lt_iff_lt.1 ((inexact.1 h).trans_le hx))⟩
  · rw [← le.antisymm (not_lt.1 (mt inexact.2 h)), (mag_strictMono f).le_iff_le]

/-! ### The bounds that a format has -/

/-- The bound that a code without its sign bit stands for, a code beyond the largest finite one counting as the infinity. -/
def codeBd (f : Fmt) (code : Nat) : Bd := if code ≤ f.maxCode then .fin (fmtMag f code) else .pinf

/-- A bound with the sign that its bits name. -/
def signed (neg : Bool) (b : Bd) : Bd := if neg then bdNeg b else b

theorem codeBd_fin {f : Fmt} {code : Nat} (h : code ≤ f.maxCode) : codeBd f code = .fin (fmtMag f code) := if_pos h

theorem codeBd_inf {f : Fmt} {code : Nat} (h : f.maxCode < code) : codeBd f code = .pinf := if_neg (not_le.2 h)

theorem codeBd_infCode (f : Fmt) : codeBd f (infCode f) = .pinf := codeBd_inf (Nat.lt_succ_self _)

theorem bdReal_codeBd {f : Fmt} {code : Nat} (h : code ≤ f.maxCode) : bdReal (codeBd f code) = (mag f code : EReal) := by
  rw [codeBd_fin h, bdReal, mag]

theorem bdReal_codeBd_inf {f : Fmt} {code : Nat} (h : f.maxCode < code) : bdReal (codeBd f code) = ⊤ := by
  rw [codeBd_inf h, bdReal]

theorem bdReal_codeBd_mono (f : Fmt) : Monotone fun code => bdReal (codeBd f code) := fun a b hab => by
  dsimp only
  rcases le_or_gt b f.maxCode with hb | hb
  · rw [bdReal_codeBd hb, bdReal_codeBd (hab.trans hb), EReal.coe_le_coe_iff]
    exact (mag_strictMono f).monotone hab
  · rw [bdReal_codeBd_inf hb]
    exact le_top

theorem bdReal_codeBd_zero (f : Fmt) : bdReal (codeBd f 0) = 0 := by
  rw [bdReal_codeBd (Nat.zero_le _), mag_zero, EReal.coe_zero]

theorem bdReal_codeBd_nonneg (f : Fmt) (code : Nat) : 0 ≤ bdReal (codeBd f code) :=
  bdReal_codeBd_zero f ▸ bdReal_codeBd_mono f (Nat.zero_le code)

theorem bdReal_bdNeg (b : Bd) : bdReal (bdNeg b) = -bdReal b := by
  cases b with
  | ninf => exact EReal.neg_bot.symm
  | fin d => simp [bdNeg, bdReal, dyNeg, dyReal]
  | pinf => exact EReal.neg_top.symm

theorem bdNeg_involutive : Function.Involutive bdNeg := fun b => by
  cases b <;> simp [bdNeg, dyNeg]

/-- The extended real numbers that a format's bounds stand for. -/
def formatVals (f : Fmt) : Set EReal := {v | ∃ code, v = bdReal (codeBd f code) ∨ v = -bdReal (codeBd f code)}

theorem neg_mem_formatVals {f : Fmt} {v : EReal} (h : v ∈ formatVals f) : -v ∈ formatVals f := by
  obtain ⟨code, rfl | rfl⟩ := h
  · exact ⟨code, .inr rfl⟩
  · exact ⟨code, .inl (neg_neg _)⟩

theorem bdReal_signed_mem (f : Fmt) (neg : Bool) (code : Nat) : bdReal (signed neg (codeBd f code)) ∈ formatVals f := by
  cases neg with
  | false => exact ⟨code, .inl rfl⟩
  | true => exact ⟨code, .inr (bdReal_bdNeg _)⟩

/-! ### Bits read as bounds -/

theorem bitsBd_eq (f : Fmt) (b : Nat) : bitsBd f b =
    if b % 2 ^ f.sign ≤ infCode f then some (signed (b / 2 ^ f.sign % 2 == 1) (codeBd f (b % 2 ^ f.sign))) else none := by
  unfold bitsBd infCode
  dsimp only
  rcases lt_trichotomy (b % 2 ^ f.sign) (f.maxCode + 1) with finite | inf | nan
  · rw [if_pos (by omega), if_pos finite.le, codeBd_fin (by omega)]
    split <;> simp_all [signed, bdNeg]
  · rw [if_neg (by omega), if_pos inf, if_pos inf.le, codeBd_inf (by omega)]
    split <;> simp_all [signed, bdNeg]
  · rw [if_neg (by omega), if_neg nan.ne', if_neg (by omega)]

theorem bdReal_mem_formatVals {f : Fmt} {b : Nat} {z : Bd} (h : bitsBd f b = some z) : bdReal z ∈ formatVals f := by
  rw [bitsBd_eq] at h
  split at h
  · cases h
    exact bdReal_signed_mem ..
  · cases h

theorem bitsBd_sign {f : Fmt} (neg : Bool) {code : Nat} (fits : infCode f < 2 ^ f.sign) (h : code ≤ infCode f) :
    bitsBd f (if neg then code + 2 ^ f.sign else code) = some (signed neg (codeBd f code)) := by
  have lt : code < 2 ^ f.sign := h.trans_lt fits
  cases neg <;> simp [bitsBd_eq, Nat.mod_eq_of_lt lt, Nat.div_eq_of_lt lt, h, Nat.add_div_right]

theorem bitsBd_signBits {f : Fmt} (neg : Bool) {code : Nat} (fits : infCode f < 2 ^ f.sign) (h : code ≤ f.maxCode) :
    bitsBd f (signBits f neg code) = some (signed neg (codeBd f code)) := by
  rcases Nat.eq_zero_or_pos code with rfl | pos
  · have zero : signed neg (codeBd f 0) = signed false (codeBd f 0) := by
      cases neg <;> simp [signed, codeBd, fmtMag, bdNeg, dyNeg]
    rw [zero, ← bitsBd_sign false fits (Nat.zero_le _)]
    simp [signBits]
  · rw [← bitsBd_sign neg fits (h.trans (Nat.le_succ _))]
    simp [signBits, pos.ne']

/-! ### Rounding a fraction -/

/-- The number that a fraction stands for. -/
noncomputable def frReal (x : Fr) : ℝ := x.n / x.d

theorem roundFr_away_eq (f : Fmt) {x : Fr} {neg : Bool} (sign : decide (x.n < 0) = neg) : roundFr f (awayDir neg) x =
    if f.maxCode < gridRound f .up false x.n.natAbs x.d then (if neg then infCode f + 2 ^ f.sign else infCode f, true)
    else (signBits f neg (gridRound f .up false x.n.natAbs x.d), false) := by
  rw [← gridRound_away f neg]
  cases neg <;> simp only [roundFr, sign] <;> rfl

theorem roundFr_toward_eq (f : Fmt) {x : Fr} {neg : Bool} (sign : decide (x.n < 0) = neg) : roundFr f (towardDir neg) x =
    (signBits f neg (min (gridRound f .down false x.n.natAbs x.d) f.maxCode), false) := by
  have cut : roundFr f (towardDir neg) x = if f.maxCode < gridRound f .down false x.n.natAbs x.d
      then (signBits f neg f.maxCode, false) else (signBits f neg (gridRound f .down false x.n.natAbs x.d), false) := by
    rw [← gridRound_toward f neg]
    cases neg <;> simp only [roundFr, sign] <;> rfl
  rw [cut]
  split_ifs with beyond
  · rw [min_eq_right beyond.le]
  · rw [min_eq_left (not_lt.1 beyond)]

/-- Away from zero: the rounded magnitude, or the infinity with the overflow event where there is none (R68). -/
theorem roundFr_away {f : Fmt} {x : Fr} {neg : Bool} (fits : infCode f < 2 ^ f.sign) (sign : decide (x.n < 0) = neg) :
    bitsBd f (roundFr f (awayDir neg) x).1 = some (signed neg (codeBd f (gridRound f .up false x.n.natAbs x.d))) ∧
      ((roundFr f (awayDir neg) x).2 = true ↔ f.maxCode < gridRound f .up false x.n.natAbs x.d) := by
  rw [roundFr_away_eq f sign]
  by_cases beyond : f.maxCode < gridRound f .up false x.n.natAbs x.d
  · rw [if_pos beyond, codeBd_inf beyond, ← codeBd_infCode f]
    exact ⟨bitsBd_sign neg fits le_rfl, iff_of_true rfl beyond⟩
  · rw [if_neg beyond]
    exact ⟨bitsBd_signBits neg fits (not_lt.1 beyond), iff_of_false Bool.false_ne_true beyond⟩

/-- Toward zero: the rounded magnitude, or the largest finite one. -/
theorem roundFr_toward {f : Fmt} {x : Fr} {neg : Bool} (fits : infCode f < 2 ^ f.sign) (sign : decide (x.n < 0) = neg) :
    bitsBd f (roundFr f (towardDir neg) x).1 =
        some (signed neg (codeBd f (min (gridRound f .down false x.n.natAbs x.d) f.maxCode))) ∧
      (roundFr f (towardDir neg) x).2 = false := by
  rw [roundFr_toward_eq f sign]
  exact ⟨bitsBd_signBits neg fits (min_le_right _ _), rfl⟩

/-! ### The rounded bound is the tightest -/

/-- The least bound of a format at or above a number, and the greatest at or below it. -/
def TightAbove (f : Fmt) (x : ℝ) (v : EReal) : Prop := IsLeast {w | w ∈ formatVals f ∧ (x : EReal) ≤ w} v
def TightBelow (f : Fmt) (x : ℝ) (v : EReal) : Prop := IsGreatest {w | w ∈ formatVals f ∧ w ≤ (x : EReal)} v

theorem TightAbove.neg {f : Fmt} {x : ℝ} {v : EReal} (h : TightAbove f x v) : TightBelow f (-x) (-v) := by
  obtain ⟨⟨mem, le⟩, least⟩ := h
  refine ⟨⟨neg_mem_formatVals mem, ?_⟩, fun w ⟨hw, hwx⟩ => ?_⟩
  · rwa [EReal.coe_neg, EReal.neg_le_neg_iff]
  · rw [EReal.coe_neg] at hwx
    exact EReal.le_neg_of_le_neg (least ⟨neg_mem_formatVals hw, EReal.le_neg_of_le_neg hwx⟩)

theorem TightBelow.neg {f : Fmt} {x : ℝ} {v : EReal} (h : TightBelow f x v) : TightAbove f (-x) (-v) := by
  obtain ⟨⟨mem, le⟩, greatest⟩ := h
  refine ⟨⟨neg_mem_formatVals mem, ?_⟩, fun w ⟨hw, hwx⟩ => ?_⟩
  · rwa [EReal.coe_neg, EReal.neg_le_neg_iff]
  · rw [EReal.coe_neg] at hwx
    exact EReal.neg_le_of_neg_le (greatest ⟨neg_mem_formatVals hw, EReal.neg_le_of_neg_le hwx⟩)

theorem tightAbove_away (f : Fmt) (n : Nat) {d : Nat} (hd : 0 < d) :
    TightAbove f (n / d) (bdReal (codeBd f (gridRound f .up false n d))) := by
  have above (code : Nat) (h : ((n / d : ℝ) : EReal) ≤ bdReal (codeBd f code)) :
      bdReal (codeBd f (gridRound f .up false n d)) ≤ bdReal (codeBd f code) := by
    rcases le_or_gt code f.maxCode with finite | beyond
    · rw [bdReal_codeBd finite, EReal.coe_le_coe_iff] at h
      exact bdReal_codeBd_mono f ((gridRound_up_le_iff f n hd code).2 h)
    · rw [bdReal_codeBd_inf beyond]
      exact le_top
  refine ⟨⟨⟨_, .inl rfl⟩, ?_⟩, ?_⟩
  · rcases le_or_gt (gridRound f .up false n d) f.maxCode with finite | beyond
    · rw [bdReal_codeBd finite, EReal.coe_le_coe_iff]
      exact (gridRound_up_le_iff f n hd _).1 le_rfl
    · rw [bdReal_codeBd_inf beyond]
      exact le_top
  · rintro w ⟨⟨code, rfl | rfl⟩, hw⟩
    · exact above code hw
    · have nonpos : -bdReal (codeBd f code) ≤ 0 := EReal.neg_le_of_neg_le (by simpa using bdReal_codeBd_nonneg f code)
      have nonneg : (0 : EReal) ≤ ((n / d : ℝ) : EReal) := by exact_mod_cast (by positivity : (0 : ℝ) ≤ n / d)
      have zero := above 0 (hw.trans (nonpos.trans (bdReal_codeBd_nonneg f 0)))
      rw [bdReal_codeBd_zero] at zero
      exact zero.trans (nonneg.trans hw)

theorem tightBelow_toward (f : Fmt) (n : Nat) {d : Nat} (hd : 0 < d) :
    TightBelow f (n / d) (bdReal (codeBd f (min (gridRound f .down false n d) f.maxCode))) := by
  refine ⟨⟨⟨_, .inl rfl⟩, ?_⟩, ?_⟩
  · rw [bdReal_codeBd (min_le_right _ _), EReal.coe_le_coe_iff]
    exact (le_gridRound_down_iff f n hd _).1 (min_le_left _ _)
  · rintro w ⟨⟨code, rfl | rfl⟩, hw⟩
    · rcases le_or_gt code f.maxCode with finite | beyond
      · rw [bdReal_codeBd finite, EReal.coe_le_coe_iff] at hw
        exact bdReal_codeBd_mono f (le_min ((le_gridRound_down_iff f n hd code).2 hw) finite)
      · rw [bdReal_codeBd_inf beyond] at hw
        exact absurd hw (EReal.coe_lt_top _).not_ge
    · have nonpos : -bdReal (codeBd f code) ≤ 0 := EReal.neg_le_of_neg_le (by simpa using bdReal_codeBd_nonneg f code)
      exact nonpos.trans (bdReal_codeBd_nonneg f _)

theorem frReal_eq_natAbs {x : Fr} (h : ¬ x.n < 0) : frReal x = (x.n.natAbs : ℝ) / x.d := by
  rw [frReal, Nat.cast_natAbs, abs_of_nonneg (not_lt.1 h)]

theorem frReal_eq_neg_natAbs {x : Fr} (h : x.n < 0) : frReal x = -((x.n.natAbs : ℝ) / x.d) := by
  rw [frReal, Nat.cast_natAbs, abs_of_neg h, Int.cast_neg, neg_div, neg_neg]

theorem codeBd_eq_pinf_iff {f : Fmt} {code : Nat} : codeBd f code = .pinf ↔ f.maxCode < code := by
  unfold codeBd
  split <;> simp <;> omega

theorem codeBd_ne_ninf (f : Fmt) (code : Nat) : codeBd f code ≠ .ninf := by
  unfold codeBd
  split <;> simp

/-- Rounded down, a fraction reads as the greatest bound at most it; the event is that this is an infinity (R68). -/
theorem roundFr_down {f : Fmt} {x : Fr} (fits : infCode f < 2 ^ f.sign) (hd : 0 < x.d) :
    ∃ y, bitsBd f (roundFr f .down x).1 = some y ∧ TightBelow f (frReal x) (bdReal y) ∧
      ((roundFr f .down x).2 = true ↔ y = .ninf) := by
  by_cases neg : x.n < 0
  · obtain ⟨bits, event⟩ := roundFr_away fits (decide_eq_true neg)
    refine ⟨_, bits, ?_, event.trans (codeBd_eq_pinf_iff.symm.trans (bdNeg_involutive.eq_iff (y := .ninf)).symm)⟩
    rw [frReal_eq_neg_natAbs neg, signed, if_pos rfl, bdReal_bdNeg]
    exact (tightAbove_away f _ hd).neg
  · obtain ⟨bits, event⟩ := roundFr_toward fits (decide_eq_false neg)
    refine ⟨_, bits, ?_, iff_of_false (Bool.eq_false_iff.1 event) (codeBd_ne_ninf f _)⟩
    rw [frReal_eq_natAbs neg]
    exact tightBelow_toward f _ hd

/-- Rounded up, symmetrically. -/
theorem roundFr_up {f : Fmt} {x : Fr} (fits : infCode f < 2 ^ f.sign) (hd : 0 < x.d) :
    ∃ y, bitsBd f (roundFr f .up x).1 = some y ∧ TightAbove f (frReal x) (bdReal y) ∧
      ((roundFr f .up x).2 = true ↔ y = .pinf) := by
  by_cases neg : x.n < 0
  · obtain ⟨bits, event⟩ := roundFr_toward fits (decide_eq_true neg)
    refine ⟨_, bits, ?_, iff_of_false (Bool.eq_false_iff.1 event) (mt bdNeg_involutive.eq_iff.1 (codeBd_ne_ninf f _))⟩
    rw [frReal_eq_neg_natAbs neg, signed, if_pos rfl, bdReal_bdNeg]
    exact (tightBelow_toward f _ hd).neg
  · obtain ⟨bits, event⟩ := roundFr_away fits (decide_eq_false neg)
    refine ⟨_, bits, ?_, event.trans codeBd_eq_pinf_iff.symm⟩
    rw [frReal_eq_natAbs neg]
    exact tightAbove_away f _ hd

/-! ### Dyadic numbers -/

theorem frOfDy_d_pos (d : Dy) : 0 < (frOfDy d).d := by
  unfold frOfDy
  split <;> positivity

theorem frReal_frOfDy (d : Dy) : frReal (frOfDy d) = dyReal d := by
  unfold frReal frOfDy dyReal
  split
  · rw [Nat.cast_pow, Nat.cast_two, two_pow_toNat (by omega), zpow_neg, div_inv_eq_mul]
  · rw [Int.cast_mul, Int.cast_pow, Int.cast_two, two_pow_toNat (by omega), Nat.cast_one, div_one]

/-- Settles O10: the bound rounded down is the greatest of the values of FP32 at most the number, and the bound rounded up the
least at least it. -/
theorem outwardRoundingIsTightest : Obligations.OutwardRoundingIsTightest := by
  intro d
  have fits : infCode fmtF32 < 2 ^ fmtF32.sign := by decide
  obtain ⟨y, bitsY, ⟨⟨-, le⟩, greatest⟩, eventY⟩ := roundFr_down fits (frOfDy_d_pos d)
  obtain ⟨z, bitsZ, ⟨⟨-, ge⟩, least⟩, eventZ⟩ := roundFr_up fits (frOfDy_d_pos d)
  rw [frReal_frOfDy] at le greatest ge least
  exact ⟨⟨y, bitsY, le, fun _ _ read below => greatest ⟨bdReal_mem_formatVals read, below⟩, eventY⟩,
    ⟨z, bitsZ, ge, fun _ _ read above => least ⟨bdReal_mem_formatVals read, above⟩, eventZ⟩⟩

end Sys2Proof.NumberFormats
end

section
/-! PROOFS. Instruction words (05_instruction_words.md): decoding and encoding. A word is read field by field and laid out field by
field, so the layout of what a form reads is the word again, and with the round trip of every instruction both directions agree. -/

namespace Sys2Proof
/-! ### The bits of a word -/

/-- The bits `x` are those of the word `w` from bit `lo` up. -/
def SitsAt (w : Word) (lo : Nat) {n : Nat} (x : BitVec n) : Prop := w.extractLsb' lo n = x

theorem sitsAt_zero {w : Word} {lo n : Nat} (h : zeroAt w lo n = true) : SitsAt w lo 0#n := eq_of_beq h

theorem sitsAt_bit (w : Word) (lo : Nat) : SitsAt w lo (BitVec.ofBool (w.getLsbD lo)) := by
  refine BitVec.eq_of_getLsbD_eq fun i hi => ?_
  obtain rfl : i = 0 := by omega
  simp

theorem sitsAt_of_toNat {w : Word} {lo n k : Nat} (h : (w.extractLsb' lo n).toNat = k) : SitsAt w lo (BitVec.ofNat n k) := by
  rw [SitsAt, ← h, BitVec.ofNat_toNat, BitVec.setWidth_eq]

theorem word_of_sitsAt {w x : Word} (h : SitsAt w 0 x) : x = w := by
  rw [← h, BitVec.extractLsb'_eq_self]

namespace SitsAt
variable {w : Word} {lo n m : Nat} {x : BitVec n} {y : BitVec m}

theorem append (hx : SitsAt w (lo + m) x) (hy : SitsAt w lo y) : SitsAt w lo (x ++ y) := by
  rw [SitsAt, ← hx, ← hy, BitVec.extractLsb'_append_extractLsb'_eq_extractLsb' rfl]

theorem field (lo m : Nat) (hx : SitsAt w (lo + m) x) : SitsAt w lo (x ++ w.extractLsb' lo m) := hx.append rfl

theorem bit (lo : Nat) (hx : SitsAt w (lo + 1) x) : SitsAt w lo (x ++ BitVec.ofBool (w.getLsbD lo)) := hx.append (sitsAt_bit w lo)

theorem zeros (hx : SitsAt w (lo + m) x) (hz : zeroAt w lo m = true) : SitsAt w lo (x ++ 0#m) := hx.append (sitsAt_zero hz)

theorem major {maj : BitVec 5} (hm : SitsAt w 26 maj) : SitsAt w 26 (BitVec.ofBool (w.getLsbD 31) ++ maj) :=
  append (lo := 26) (sitsAt_bit w 31) hm

end SitsAt

/-! ### What each form's layout makes of its reading: the word that was read -/

theorem FormC.enc_of_dec {w : Word} {maj : BitVec 5} {fn : BitVec 6} {f : FormC}
    (hm : SitsAt w 26 maj) (hf : SitsAt w 20 fn) (h : FormC.dec w = some f) : f.enc maj fn = w := by
  obtain ⟨fixed, ⟨⟩⟩ := Option.ite_none_right_eq_some.1 h
  exact word_of_sitsAt (SitsAt.major hm |>.append hf |>.zeros fixed)

theorem FormN14.enc_of_dec {w : Word} {maj : BitVec 5} {fn : BitVec 6} {f : FormN14}
    (hm : SitsAt w 26 maj) (hf : SitsAt w 20 fn) (h : FormN14.dec w = some f) : f.enc maj fn = w := by
  obtain ⟨fixed, ⟨⟩⟩ := Option.ite_none_right_eq_some.1 h
  exact word_of_sitsAt (SitsAt.major hm |>.append hf |>.zeros fixed |>.field 0 14)

theorem FormDR.enc_of_dec {w : Word} {maj : BitVec 5} {fn : BitVec 6} {f : FormDR}
    (hm : SitsAt w 26 maj) (hf : SitsAt w 20 fn) (h : FormDR.dec w = some f) : f.enc maj fn = w := by
  cases h
  exact word_of_sitsAt (SitsAt.major hm |>.append hf |>.field 14 6 |>.field 0 14)

theorem FormD.enc_of_dec {w : Word} {maj : BitVec 5} {fn : BitVec 6} {f : FormD}
    (hm : SitsAt w 26 maj) (hf : SitsAt w 20 fn) (h : FormD.dec w = some f) : f.enc maj fn = w := by
  obtain ⟨fixed, ⟨⟩⟩ := Option.ite_none_right_eq_some.1 h
  exact word_of_sitsAt (SitsAt.major hm |>.append hf |>.field 14 6 |>.zeros fixed)

theorem FormDict.enc_of_dec {w : Word} {maj : BitVec 5} {fn : BitVec 6} {f : FormDict}
    (hm : SitsAt w 26 maj) (hf : SitsAt w 20 fn) (h : FormDict.dec w = some f) : f.enc maj fn = w := by
  obtain ⟨fixed, ⟨⟩⟩ := Option.ite_none_right_eq_some.1 h
  exact word_of_sitsAt (SitsAt.major hm |>.append hf |>.field 14 6 |>.zeros fixed |>.field 2 10 |>.field 0 2)

theorem FormO.enc_of_dec {w : Word} {maj : BitVec 5} {fn : BitVec 4} {f : FormO} (hm : SitsAt w 26 maj) (hf : SitsAt w 22 fn)
    (h : FormO.dec w = some f) : f.enc maj fn = w := by
  obtain ⟨fixed, ⟨⟩⟩ := Option.ite_none_right_eq_some.1 h
  exact word_of_sitsAt (SitsAt.major hm |>.append hf |>.zeros fixed |>.field 0 19)

theorem FormSO.enc_of_dec {w : Word} {maj : BitVec 5} {fn : BitVec 4} {f : FormSO} (hm : SitsAt w 26 maj) (hf : SitsAt w 22 fn)
    (h : FormSO.dec w = some f) : f.enc maj fn = w := by
  cases h
  exact word_of_sitsAt (SitsAt.major hm |>.append hf |>.field 19 3 |>.field 0 19)

theorem FormQ3.enc_of_dec {w : Word} {maj : BitVec 5} {fn : BitVec 4} {f : FormQ3} (hm : SitsAt w 26 maj) (hf : SitsAt w 22 fn)
    (h : FormQ3.dec w = some f) : f.enc maj fn = w := by
  obtain ⟨fixed, ⟨⟩⟩ := Option.ite_none_right_eq_some.1 h
  exact word_of_sitsAt (SitsAt.major hm |>.append hf |>.field 19 3 |>.field 10 9 |>.field 1 9 |>.zeros fixed)

theorem FormDI.enc_of_dec {w : Word} {maj : BitVec 5} {fn : BitVec 6} {f : FormDI}
    (hm : SitsAt w 26 maj) (hf : SitsAt w 20 fn) (h : FormDI.dec w = some f) : f.enc maj fn = w := by
  cases h
  exact word_of_sitsAt (SitsAt.major hm |>.append hf |>.field 14 6 |>.field 0 14)

theorem FormDAK.enc_of_dec {w : Word} {maj : BitVec 5} {fn : BitVec 6} {f : FormDAK}
    (hm : SitsAt w 26 maj) (hf : SitsAt w 20 fn) (h : FormDAK.dec w = some f) : f.enc maj fn = w := by
  obtain ⟨fixed, ⟨⟩⟩ := Option.ite_none_right_eq_some.1 h
  exact word_of_sitsAt (SitsAt.major hm |>.append hf |>.field 14 6 |>.field 8 6 |>.zeros fixed |>.field 0 4)

theorem FormAK.enc_of_dec {w : Word} {maj : BitVec 5} {fn : BitVec 6} {f : FormAK}
    (hm : SitsAt w 26 maj) (hf : SitsAt w 20 fn) (h : FormAK.dec w = some f) : f.enc maj fn = w := by
  obtain ⟨fixed, ⟨⟩⟩ := Option.ite_none_right_eq_some.1 h
  obtain ⟨low, high⟩ := Bool.and_eq_true_iff.1 fixed
  exact word_of_sitsAt (SitsAt.major hm |>.append hf |>.zeros high |>.field 8 6 |>.zeros low |>.field 0 4)

theorem FormDK.enc_of_dec {w : Word} {maj : BitVec 5} {fn : BitVec 6} {f : FormDK}
    (hm : SitsAt w 26 maj) (hf : SitsAt w 20 fn) (h : FormDK.dec w = some f) : f.enc maj fn = w := by
  obtain ⟨fixed, ⟨⟩⟩ := Option.ite_none_right_eq_some.1 h
  exact word_of_sitsAt (SitsAt.major hm |>.append hf |>.field 14 6 |>.zeros fixed |>.field 0 4)

theorem FormI.enc_of_dec {w : Word} {maj : BitVec 5} {fn : BitVec 6} {f : FormI}
    (hm : SitsAt w 26 maj) (hf : SitsAt w 20 fn) (h : FormI.dec w = some f) : f.enc maj fn = w := by
  obtain ⟨fixed, ⟨⟩⟩ := Option.ite_none_right_eq_some.1 h
  exact word_of_sitsAt (SitsAt.major hm |>.append hf |>.zeros fixed |>.field 0 14)

theorem FormA.enc_of_dec {w : Word} {maj : BitVec 5} {fn : BitVec 6} {f : FormA}
    (hm : SitsAt w 26 maj) (hf : SitsAt w 20 fn) (h : FormA.dec w = some f) : f.enc maj fn = w := by
  obtain ⟨fixed, ⟨⟩⟩ := Option.ite_none_right_eq_some.1 h
  obtain ⟨low, high⟩ := Bool.and_eq_true_iff.1 fixed
  exact word_of_sitsAt (SitsAt.major hm |>.append hf |>.zeros high |>.field 8 6 |>.zeros low)

theorem FormDAB.enc_of_dec {w : Word} {maj : BitVec 5} {fn : BitVec 6} {f : FormDAB}
    (hm : SitsAt w 26 maj) (hf : SitsAt w 20 fn) (h : FormDAB.dec w = some f) : f.enc maj fn = w := by
  obtain ⟨fixed, ⟨⟩⟩ := Option.ite_none_right_eq_some.1 h
  exact word_of_sitsAt (SitsAt.major hm |>.append hf |>.field 14 6 |>.field 8 6 |>.field 2 6 |>.zeros fixed)

theorem FormDA.enc_of_dec {w : Word} {maj : BitVec 5} {fn : BitVec 6} {f : FormDA}
    (hm : SitsAt w 26 maj) (hf : SitsAt w 20 fn) (h : FormDA.dec w = some f) : f.enc maj fn = w := by
  obtain ⟨fixed, ⟨⟩⟩ := Option.ite_none_right_eq_some.1 h
  exact word_of_sitsAt (SitsAt.major hm |>.append hf |>.field 14 6 |>.field 8 6 |>.zeros fixed)

theorem FormR.enc_of_dec {w : Word} {maj : BitVec 5} {fn : BitVec 6} {f : FormR}
    (hm : SitsAt w 26 maj) (hf : SitsAt w 20 fn) (h : FormR.dec w = some f) : f.enc maj fn = w := by
  cases h
  exact word_of_sitsAt (SitsAt.major hm |>.append hf |>.field 14 6 |>.field 8 6 |>.field 2 6 |>.bit 1 |>.bit 0)

theorem FormRU.enc_of_dec {w : Word} {maj : BitVec 5} {fn : BitVec 6} {f : FormRU}
    (hm : SitsAt w 26 maj) (hf : SitsAt w 20 fn) (h : FormRU.dec w = some f) : f.enc maj fn = w := by
  obtain ⟨fixed, ⟨⟩⟩ := Option.ite_none_right_eq_some.1 h
  obtain ⟨low, high⟩ := Bool.and_eq_true_iff.1 fixed
  exact word_of_sitsAt (SitsAt.major hm |>.append hf |>.field 14 6 |>.field 8 6 |>.zeros high |>.bit 1 |>.zeros low)

theorem FormI11.enc_of_dec {w : Word} {maj : BitVec 5} {fn : BitVec 3} {f : FormI11} (hm : SitsAt w 26 maj) (hf : SitsAt w 23 fn)
    (h : FormI11.dec w = some f) : f.enc maj fn = w := by
  cases h
  exact word_of_sitsAt (SitsAt.major hm |>.append hf |>.field 17 6 |>.field 11 6 |>.field 0 11)

theorem FormI5.enc_of_dec {w : Word} {maj : BitVec 5} {fn : BitVec 3} {f : FormI5} (hm : SitsAt w 26 maj) (hf : SitsAt w 23 fn)
    (h : FormI5.dec w = some f) : f.enc maj fn = w := by
  obtain ⟨fixed, ⟨⟩⟩ := Option.ite_none_right_eq_some.1 h
  exact word_of_sitsAt (SitsAt.major hm |>.append hf |>.field 17 6 |>.field 11 6 |>.zeros fixed |>.field 0 5)

theorem FormM.enc_of_dec {w : Word} {maj : BitVec 5} {fn : BitVec 1} {f : FormM} (hm : SitsAt w 26 maj) (hf : SitsAt w 25 fn)
    (h : FormM.dec w = some f) : f.enc maj fn = w := by
  cases h
  exact word_of_sitsAt (SitsAt.major hm |>.append hf |>.field 19 6 |>.field 0 19)

theorem FormMH.enc_of_dec {w : Word} {maj : BitVec 5} {fn : BitVec 1} {f : FormMH} (hm : SitsAt w 26 maj) (hf : SitsAt w 25 fn)
    (h : FormMH.dec w = some f) : f.enc maj fn = w := by
  obtain ⟨fixed, ⟨⟩⟩ := Option.ite_none_right_eq_some.1 h
  exact word_of_sitsAt (SitsAt.major hm |>.append hf |>.field 19 6 |>.zeros fixed |>.field 0 13)

theorem FormPK.enc_of_dec {w : Word} {maj : BitVec 5} {fn : BitVec 6} {f : FormPK}
    (hm : SitsAt w 26 maj) (hf : SitsAt w 20 fn) (h : FormPK.dec w = some f) : f.enc maj fn = w := by
  obtain ⟨fixed, ⟨⟩⟩ := Option.ite_none_right_eq_some.1 h
  obtain ⟨low, high⟩ := Bool.and_eq_true_iff.1 fixed
  exact word_of_sitsAt (SitsAt.major hm |>.append hf |>.field 14 6 |>.field 8 6 |>.zeros high |>.field 2 3 |>.bit 1 |>.zeros low)

theorem FormRF.enc_of_dec {w : Word} {maj : BitVec 5} {fn : BitVec 6} {f : FormRF}
    (hm : SitsAt w 26 maj) (hf : SitsAt w 20 fn) (h : FormRF.dec w = some f) : f.enc maj fn = w := by
  obtain ⟨fixed, ⟨⟩⟩ := Option.ite_none_right_eq_some.1 h
  exact word_of_sitsAt (SitsAt.major hm |>.append hf |>.field 14 6 |>.field 8 6 |>.field 2 6 |>.bit 1 |>.zeros fixed)

theorem FormSh.enc_of_dec {w : Word} {maj : BitVec 5} {fn : BitVec 6} {f : FormSh}
    (hm : SitsAt w 26 maj) (hf : SitsAt w 20 fn) (h : FormSh.dec w = some f) : f.enc maj fn = w := by
  obtain ⟨fixed, ⟨⟩⟩ := Option.ite_none_right_eq_some.1 h
  exact word_of_sitsAt (SitsAt.major hm |>.append hf |>.field 14 6 |>.field 8 6 |>.bit 7 |>.field 2 5 |>.bit 1 |>.zeros fixed)

theorem FormVote.enc_of_dec {w : Word} {maj : BitVec 5} {fn : BitVec 6} {f : FormVote}
    (hm : SitsAt w 26 maj) (hf : SitsAt w 20 fn) (h : FormVote.dec w = some f) : f.enc maj fn = w := by
  obtain ⟨fixed, ⟨⟩⟩ := Option.ite_none_right_eq_some.1 h
  obtain ⟨low, high⟩ := Bool.and_eq_true_iff.1 fixed
  exact word_of_sitsAt (SitsAt.major hm |>.append hf |>.field 14 6 |>.field 8 6 |>.zeros high |>.field 2 2 |>.bit 1 |>.zeros low)

theorem FormRed.enc_of_dec {w : Word} {maj : BitVec 5} {fn : BitVec 6} {f : FormRed}
    (hm : SitsAt w 26 maj) (hf : SitsAt w 20 fn) (h : FormRed.dec w = some f) : f.enc maj fn = w := by
  obtain ⟨fixed, ⟨⟩⟩ := Option.ite_none_right_eq_some.1 h
  obtain ⟨low, high⟩ := Bool.and_eq_true_iff.1 fixed
  exact word_of_sitsAt (SitsAt.major hm |>.append hf |>.field 14 6 |>.field 8 6 |>.field 6 2 |>.zeros high |>.bit 1 |>.zeros low)

theorem FormHist.enc_of_dec {w : Word} {maj : BitVec 5} {fn : BitVec 6} {f : FormHist}
    (hm : SitsAt w 26 maj) (hf : SitsAt w 20 fn) (h : FormHist.dec w = some f) : f.enc maj fn = w := by
  obtain ⟨fixed, ⟨⟩⟩ := Option.ite_none_right_eq_some.1 h
  obtain ⟨low, high⟩ := Bool.and_eq_true_iff.1 fixed
  exact word_of_sitsAt (SitsAt.major hm |>.append hf |>.field 14 6 |>.field 8 6 |>.zeros high |>.field 2 5 |>.bit 1 |>.zeros low)

theorem FormL.enc_of_dec {w : Word} {maj : BitVec 5} {fn : BitVec 4} {f : FormL}
    (hm : SitsAt w 26 maj) (hf : SitsAt w 20 fn) (h : FormL.dec w = some f) : f.enc maj fn = w := by
  cases h
  exact word_of_sitsAt (SitsAt.major hm |>.field 24 2 |>.append hf |>.field 14 6 |>.field 8 6 |>.bit 7 |>.field 0 7)

theorem FormAt.enc_of_dec {w : Word} {maj : BitVec 5} {fn : BitVec 6} {f : FormAt}
    (hm : SitsAt w 26 maj) (hf : SitsAt w 20 fn) (h : FormAt.dec w = some f) : f.enc maj fn = w := by
  cases h
  exact word_of_sitsAt (SitsAt.major hm |>.append hf |>.field 14 6 |>.field 8 6 |>.field 2 6 |>.bit 1 |>.bit 0)

theorem FormCpy.enc_of_dec {w : Word} {maj : BitVec 5} {fn : BitVec 6} {f : FormCpy}
    (hm : SitsAt w 26 maj) (hf : SitsAt w 20 fn) (h : FormCpy.dec w = some f) : f.enc maj fn = w := by
  obtain ⟨fixed, ⟨⟩⟩ := Option.ite_none_right_eq_some.1 h
  exact word_of_sitsAt (SitsAt.major hm |>.append hf |>.field 14 6 |>.field 8 6 |>.zeros fixed |>.bit 1 |>.bit 0)

theorem FormShapeP.enc_of_dec {w : Word} {maj : BitVec 5} {fn : BitVec 6} {f : FormShapeP}
    (hm : SitsAt w 26 maj) (hf : SitsAt w 20 fn) (h : FormShapeP.dec w = some f) : f.enc maj fn = w := by
  obtain ⟨fixed, ⟨⟩⟩ := Option.ite_none_right_eq_some.1 h
  obtain ⟨low, high⟩ := Bool.and_eq_true_iff.1 fixed
  exact word_of_sitsAt (SitsAt.major hm |>.append hf |>.zeros high |>.field 8 6 |>.field 4 4 |>.append (eq_of_beq low))

theorem FormDG.enc_of_dec {w : Word} {maj : BitVec 5} {fn : BitVec 6} {f : FormDG}
    (hm : SitsAt w 26 maj) (hf : SitsAt w 20 fn) (h : FormDG.dec w = some f) : f.enc maj fn = w := by
  obtain ⟨fixed, ⟨⟩⟩ := Option.ite_none_right_eq_some.1 h
  obtain ⟨low, high⟩ := Bool.and_eq_true_iff.1 fixed
  exact word_of_sitsAt (SitsAt.major hm |>.append hf |>.field 14 6 |>.zeros high |>.field 4 4 |>.zeros low)

theorem FormT.enc_of_dec {w : Word} {maj : BitVec 5} {fn : BitVec 6} {f : FormT}
    (hm : SitsAt w 26 maj) (hf : SitsAt w 20 fn) (h : FormT.dec w = some f) : f.enc maj fn = w := by
  obtain ⟨fixed, ⟨⟩⟩ := Option.ite_none_right_eq_some.1 h
  exact word_of_sitsAt (SitsAt.major hm |>.append hf |>.field 14 6 |>.field 8 6 |>.field 4 4 |>.zeros fixed |>.bit 1 |>.bit 0)

theorem FormDS.enc_of_dec {w : Word} {maj : BitVec 5} {fn : BitVec 6} {f : FormDS}
    (hm : SitsAt w 26 maj) (hf : SitsAt w 20 fn) (h : FormDS.dec w = some f) : f.enc maj fn = w := by
  obtain ⟨fixed, ⟨⟩⟩ := Option.ite_none_right_eq_some.1 h
  obtain ⟨low, high⟩ := Bool.and_eq_true_iff.1 fixed
  exact word_of_sitsAt (SitsAt.major hm |>.append hf |>.field 14 6 |>.zeros high |>.field 2 6 |>.zeros low)

theorem FormBar.enc_of_dec {w : Word} {maj : BitVec 5} {fn : BitVec 6} {f : FormBar}
    (hm : SitsAt w 26 maj) (hf : SitsAt w 20 fn) (h : FormBar.dec w = some f) : f.enc maj fn = w := by
  obtain ⟨fixed, ⟨⟩⟩ := Option.ite_none_right_eq_some.1 h
  exact word_of_sitsAt (SitsAt.major hm |>.append hf |>.zeros fixed |>.field 8 6 |>.field 2 6 |>.bit 1 |>.bit 0)

theorem FormBarA.enc_of_dec {w : Word} {maj : BitVec 5} {fn : BitVec 6} {f : FormBarA}
    (hm : SitsAt w 26 maj) (hf : SitsAt w 20 fn) (h : FormBarA.dec w = some f) : f.enc maj fn = w := by
  obtain ⟨fixed, ⟨⟩⟩ := Option.ite_none_right_eq_some.1 h
  exact word_of_sitsAt (SitsAt.major hm |>.append hf |>.field 14 6 |>.field 8 6 |>.field 2 6 |>.zeros fixed |>.bit 0)

theorem FormBarW.enc_of_dec {w : Word} {maj : BitVec 5} {fn : BitVec 6} {f : FormBarW}
    (hm : SitsAt w 26 maj) (hf : SitsAt w 20 fn) (h : FormBarW.dec w = some f) : f.enc maj fn = w := by
  obtain ⟨fixed, ⟨⟩⟩ := Option.ite_none_right_eq_some.1 h
  obtain ⟨low, high⟩ := Bool.and_eq_true_iff.1 fixed
  exact word_of_sitsAt (SitsAt.major hm |>.append hf |>.zeros high |>.field 8 6 |>.field 2 6 |>.bit 1 |>.zeros low)

theorem FormBarX.enc_of_dec {w : Word} {maj : BitVec 5} {fn : BitVec 6} {f : FormBarX}
    (hm : SitsAt w 26 maj) (hf : SitsAt w 20 fn) (h : FormBarX.dec w = some f) : f.enc maj fn = w := by
  obtain ⟨fixed, ⟨⟩⟩ := Option.ite_none_right_eq_some.1 h
  exact word_of_sitsAt (SitsAt.major hm |>.append hf |>.zeros fixed |>.bit 1 |>.bit 0)

theorem FormAB.enc_of_dec {w : Word} {maj : BitVec 5} {fn : BitVec 6} {f : FormAB}
    (hm : SitsAt w 26 maj) (hf : SitsAt w 20 fn) (h : FormAB.dec w = some f) : f.enc maj fn = w := by
  obtain ⟨fixed, ⟨⟩⟩ := Option.ite_none_right_eq_some.1 h
  obtain ⟨low, high⟩ := Bool.and_eq_true_iff.1 fixed
  exact word_of_sitsAt (SitsAt.major hm |>.append hf |>.zeros high |>.field 8 6 |>.field 2 6 |>.zeros low)

theorem FormFence.enc_of_dec {w : Word} {maj : BitVec 5} {fn : BitVec 6} {f : FormFence}
    (hm : SitsAt w 26 maj) (hf : SitsAt w 20 fn) (h : FormFence.dec w = some f) : f.enc maj fn = w := by
  obtain ⟨fixed, ⟨⟩⟩ := Option.ite_none_right_eq_some.1 h
  obtain ⟨low, high⟩ := Bool.and_eq_true_iff.1 fixed
  exact word_of_sitsAt (SitsAt.major hm |>.append hf |>.zeros high |>.field 14 5 |>.field 8 6 |>.zeros low |>.bit 1 |>.bit 0)

theorem FormLin.enc_of_dec {w : Word} {maj : BitVec 5} {fn : BitVec 6} {f : FormLin}
    (hm : SitsAt w 26 maj) (hf : SitsAt w 20 fn) (h : FormLin.dec w = some f) : f.enc maj fn = w := by
  obtain ⟨fixed, ⟨⟩⟩ := Option.ite_none_right_eq_some.1 h
  obtain ⟨low, high⟩ := Bool.and_eq_true_iff.1 fixed
  exact word_of_sitsAt (SitsAt.major hm |>.append hf |>.field 14 6 |>.field 8 6 |>.zeros high |>.bit 2 |>.zeros low)

theorem FormPool.enc_of_dec {w : Word} {maj : BitVec 5} {fn : BitVec 6} {f : FormPool}
    (hm : SitsAt w 26 maj) (hf : SitsAt w 20 fn) (h : FormPool.dec w = some f) : f.enc maj fn = w := by
  obtain ⟨fixed, ⟨⟩⟩ := Option.ite_none_right_eq_some.1 h
  obtain ⟨low, high⟩ := Bool.and_eq_true_iff.1 fixed
  exact word_of_sitsAt (SitsAt.major hm |>.append hf |>.field 14 6 |>.field 8 6 |>.zeros high |>.field 2 2 |>.zeros low)

theorem FormP.enc_of_dec {w : Word} {maj : BitVec 5} {f : FormP} (hm : SitsAt w 26 maj)
    (h : FormP.dec w = some f) : f.enc maj = w := by
  obtain ⟨fixed, ⟨⟩⟩ := Option.ite_none_right_eq_some.1 h
  exact word_of_sitsAt (SitsAt.major hm |>.field 23 3 |>.field 20 3 |>.field 14 6 |>.bit 13 |>.bit 12 |>.field 8 4 |>.zeros fixed)

/-! ### A word that decodes is its instruction's word, but for the chain bit (R103) -/

/-- The instruction `i` has a word that agrees with `w` in every bit but the chain bit. -/
def WordOf (w : Word) (i : Instr) : Prop := ∃ v, encode i = some v ∧ v.extractLsb' 0 31 = w.extractLsb' 0 31

theorem wordOf_of_took {F : Type} {mk : F → Instr} {o : Option F} {i : Instr} {w : Word} (h : took mk o = .ok i)
    (enc : ∀ f, o = some f → encode (mk f) = some w) : WordOf w i := by
  cases o with
  | none => cases h
  | some f =>
    cases h
    exact ⟨w, enc f rfl, rfl⟩

theorem FormC.low_enc (maj : BitVec 5) (fn : BitVec 6) (f g : FormC) :
    (f.enc maj fn).extractLsb' 0 31 = (g.enc maj fn).extractLsb' 0 31 := by
  have low (f : FormC) : (f.enc maj fn).extractLsb' 0 31 = maj ++ fn ++ 0#20 := by
    ext k hk
    simp only [FormC.enc, BitVec.getElem_extractLsb', BitVec.getLsbD_append]
    grind
  rw [low, low]

/-- NOP, TRET, IFENCE and SYNCJ take no operand, so their instruction does not hold the chain bit. -/
theorem wordOf_of_chainless {i j : Instr} {w : Word} {maj : BitVec 5} {fn : BitVec 6} (hm : SitsAt w 26 maj) (hf : SitsAt w 20 fn)
    (he : encode j = some (FormC.enc maj fn ⟨false⟩)) (h : took (fun _ => j) (FormC.dec w) = .ok i) : WordOf w i := by
  cases hd : FormC.dec w with
  | none => rw [hd] at h; cases h
  | some f =>
    rw [hd] at h
    cases h
    refine ⟨_, he, ?_⟩
    rw [FormC.low_enc maj fn _ f, f.enc_of_dec hm hf hd]

theorem decSys_wordOf {w : Word} {i : Instr} (hm : SitsAt w 26 0#5) (h : decSys w = .ok i) : WordOf w i := by
  unfold decSys at h
  split at h
  on_goal -1 => cases h
  case h_1 | h_3 | h_8 => exact wordOf_of_chainless hm (sitsAt_of_toNat ‹_›) rfl h
  all_goals exact wordOf_of_took h fun f hd => congrArg some (f.enc_of_dec hm (sitsAt_of_toNat ‹_›) hd)

theorem decBr_wordOf {w : Word} {i : Instr} (hm : SitsAt w 26 1#5) (h : decBr w = .ok i) : WordOf w i := by
  unfold decBr at h
  split at h
  on_goal -1 => cases h
  all_goals exact wordOf_of_took h fun f hd => congrArg some (f.enc_of_dec hm (sitsAt_of_toNat ‹_›) hd)

theorem decCtl_wordOf {w : Word} {i : Instr} (hm : SitsAt w 26 2#5) (h : decCtl w = .ok i) : WordOf w i := by
  unfold decCtl at h
  split at h
  on_goal -1 => cases h
  case h_8 => exact wordOf_of_chainless hm (sitsAt_of_toNat ‹_›) rfl h
  all_goals exact wordOf_of_took h fun f hd => congrArg some (f.enc_of_dec hm (sitsAt_of_toNat ‹_›) hd)

theorem decIalu_wordOf {w : Word} {i : Instr} (hm : SitsAt w 26 3#5) (h : decIalu w = .ok i) : WordOf w i := by
  unfold decIalu at h
  split at h
  on_goal -1 => cases h
  all_goals exact wordOf_of_took h fun f hd => congrArg some (f.enc_of_dec hm (sitsAt_of_toNat ‹_›) hd)

theorem decIalui_wordOf {w : Word} {i : Instr} (hm : SitsAt w 26 4#5) (h : decIalui w = .ok i) : WordOf w i := by
  unfold decIalui at h
  split at h
  case h_8 =>
    have last : (w.extractLsb' 23 3).toNat = 7 := by have := (w.extractLsb' 23 3).isLt; grind
    exact wordOf_of_took h fun f hd => congrArg some (f.enc_of_dec hm (sitsAt_of_toNat last) hd)
  all_goals exact wordOf_of_took h fun f hd => congrArg some (f.enc_of_dec hm (sitsAt_of_toNat ‹_›) hd)

theorem decImm_wordOf {w : Word} {i : Instr} (hm : SitsAt w 26 5#5) (h : decImm w = .ok i) : WordOf w i := by
  unfold decImm at h
  split at h
  case h_2 =>
    have last : (w.extractLsb' 25 1).toNat = 1 := by have := (w.extractLsb' 25 1).isLt; grind
    exact wordOf_of_took h fun f hd => congrArg some (f.enc_of_dec hm (sitsAt_of_toNat last) hd)
  all_goals exact wordOf_of_took h fun f hd => congrArg some (f.enc_of_dec hm (sitsAt_of_toNat ‹_›) hd)

theorem decShf_wordOf {w : Word} {i : Instr} (hm : SitsAt w 26 6#5) (h : decShf w = .ok i) : WordOf w i := by
  unfold decShf at h
  split at h
  on_goal -1 => cases h
  all_goals exact wordOf_of_took h fun f hd => congrArg some (f.enc_of_dec hm (sitsAt_of_toNat ‹_›) hd)

theorem decImul_wordOf {w : Word} {i : Instr} (hm : SitsAt w 26 7#5) (h : decImul w = .ok i) : WordOf w i := by
  unfold decImul at h
  split at h
  on_goal -1 => cases h
  all_goals exact wordOf_of_took h fun f hd => congrArg some (f.enc_of_dec hm (sitsAt_of_toNat ‹_›) hd)

theorem decPack_wordOf {w : Word} {i : Instr} (hm : SitsAt w 26 8#5) (h : decPack w = .ok i) : WordOf w i := by
  unfold decPack at h
  split at h
  on_goal -1 => cases h
  all_goals exact wordOf_of_took h fun f hd => congrArg some (f.enc_of_dec hm (sitsAt_of_toNat ‹_›) hd)

theorem decCvt_wordOf {w : Word} {i : Instr} (hm : SitsAt w 26 9#5) (h : decCvt w = .ok i) : WordOf w i := by
  unfold decCvt at h
  split at h
  on_goal -1 => cases h
  all_goals exact wordOf_of_took h fun f hd => congrArg some (f.enc_of_dec hm (sitsAt_of_toNat ‹_›) hd)

theorem decVadd_wordOf {w : Word} {i : Instr} (hm : SitsAt w 26 10#5) (h : decVadd w = .ok i) : WordOf w i := by
  unfold decVadd at h
  split at h
  on_goal -1 => cases h
  all_goals exact wordOf_of_took h fun f hd => congrArg some (f.enc_of_dec hm (sitsAt_of_toNat ‹_›) hd)

theorem decVmul_wordOf {w : Word} {i : Instr} (hm : SitsAt w 26 11#5) (h : decVmul w = .ok i) : WordOf w i := by
  unfold decVmul at h
  split at h
  on_goal -1 => cases h
  all_goals exact wordOf_of_took h fun f hd => congrArg some (f.enc_of_dec hm (sitsAt_of_toNat ‹_›) hd)

theorem decVset_wordOf {w : Word} {i : Instr} (hm : SitsAt w 26 12#5) (h : decVset w = .ok i) : WordOf w i := by
  unfold decVset at h
  split at h
  on_goal -1 => cases h
  all_goals exact wordOf_of_took h fun f hd => congrArg some (f.enc_of_dec hm (sitsAt_of_toNat ‹_›) hd)

theorem decVcmp_wordOf {w : Word} {i : Instr} (hm : SitsAt w 26 13#5) (h : decVcmp w = .ok i) : WordOf w i := by
  unfold decVcmp at h
  split at h
  on_goal -1 => cases h
  all_goals exact wordOf_of_took h fun f hd => congrArg some (f.enc_of_dec hm (sitsAt_of_toNat ‹_›) hd)

theorem decVsfu_wordOf {w : Word} {i : Instr} (hm : SitsAt w 26 14#5) (h : decVsfu w = .ok i) : WordOf w i := by
  unfold decVsfu at h
  split at h
  on_goal -1 => cases h
  all_goals exact wordOf_of_took h fun f hd => congrArg some (f.enc_of_dec hm (sitsAt_of_toNat ‹_›) hd)

theorem decLane_wordOf {w : Word} {i : Instr} (hm : SitsAt w 26 15#5) (h : decLane w = .ok i) : WordOf w i := by
  unfold decLane at h
  split at h
  on_goal -1 => cases h
  all_goals exact wordOf_of_took h fun f hd => congrArg some (f.enc_of_dec hm (sitsAt_of_toNat ‹_›) hd)

theorem decLd_wordOf {w : Word} {i : Instr} (hm : SitsAt w 26 16#5) (h : decLd w = .ok i) : WordOf w i := by
  unfold decLd at h
  split at h
  on_goal -1 => cases h
  all_goals exact wordOf_of_took h fun f hd => congrArg some (f.enc_of_dec hm (sitsAt_of_toNat ‹_›) hd)

theorem decSt_wordOf {w : Word} {i : Instr} (hm : SitsAt w 26 17#5) (h : decSt w = .ok i) : WordOf w i := by
  unfold decSt at h
  split at h
  on_goal -1 => cases h
  all_goals exact wordOf_of_took h fun f hd => congrArg some (f.enc_of_dec hm (sitsAt_of_toNat ‹_›) hd)

theorem decAtom_wordOf {w : Word} {i : Instr} (hm : SitsAt w 26 18#5) (h : decAtom w = .ok i) : WordOf w i := by
  unfold decAtom at h
  split at h
  on_goal -1 => cases h
  all_goals exact wordOf_of_took h fun f hd => congrArg some (f.enc_of_dec hm (sitsAt_of_toNat ‹_›) hd)

theorem decAsync_wordOf {w : Word} {i : Instr} (hm : SitsAt w 26 19#5) (h : decAsync w = .ok i) : WordOf w i := by
  unfold decAsync at h
  split at h
  on_goal -1 => cases h
  all_goals exact wordOf_of_took h fun f hd => congrArg some (f.enc_of_dec hm (sitsAt_of_toNat ‹_›) hd)

theorem decTile_wordOf {w : Word} {i : Instr} (hm : SitsAt w 26 20#5) (h : decTile w = .ok i) : WordOf w i := by
  unfold decTile at h
  split at h
  on_goal -1 => cases h
  case h_1 hf =>
    split at h
    · cases h
      exact ⟨w, congrArg some (FormDA.enc_of_dec hm (sitsAt_of_toNat hf) ‹_›), rfl⟩
    · exact wordOf_of_took h fun f hd => congrArg some (f.enc_of_dec hm (sitsAt_of_toNat hf) hd)
  all_goals exact wordOf_of_took h fun f hd => congrArg some (f.enc_of_dec hm (sitsAt_of_toNat ‹_›) hd)

theorem decPred_wordOf {w : Word} {i : Instr} (hm : SitsAt w 26 21#5) (h : decPred w = .ok i) : WordOf w i := by
  unfold decPred at h
  split at h
  on_goal -1 => cases h
  all_goals exact wordOf_of_took h fun f hd => congrArg some (f.enc_of_dec hm (sitsAt_of_toNat ‹_›) hd)

theorem decSync_wordOf {w : Word} {i : Instr} (hm : SitsAt w 26 22#5) (h : decSync w = .ok i) : WordOf w i := by
  unfold decSync at h
  split at h
  on_goal -1 => cases h
  all_goals exact wordOf_of_took h fun f hd => congrArg some (f.enc_of_dec hm (sitsAt_of_toNat ‹_›) hd)

theorem decPool_wordOf {w : Word} {i : Instr} (hm : SitsAt w 26 23#5) (h : decPool w = .ok i) : WordOf w i := by
  unfold decPool at h
  split at h
  on_goal -1 => cases h
  all_goals exact wordOf_of_took h fun f hd => congrArg some (f.enc_of_dec hm (sitsAt_of_toNat ‹_›) hd)

theorem decRes_wordOf {w : Word} {i : Instr} (hm : SitsAt w 26 24#5) (h : decRes w = .ok i) : WordOf w i := by
  unfold decRes at h
  split at h
  on_goal -1 => cases h
  all_goals exact wordOf_of_took h fun f hd => congrArg some (f.enc_of_dec hm (sitsAt_of_toNat ‹_›) hd)

theorem decRng_wordOf {w : Word} {i : Instr} (hm : SitsAt w 26 25#5) (h : decRng w = .ok i) : WordOf w i := by
  unfold decRng at h
  split at h
  on_goal -1 => cases h
  all_goals exact wordOf_of_took h fun f hd => congrArg some (f.enc_of_dec hm (sitsAt_of_toNat ‹_›) hd)

theorem decUni_wordOf {w : Word} {i : Instr} (hm : SitsAt w 26 26#5) (h : decUni w = .ok i) : WordOf w i := by
  unfold decUni at h
  split at h
  on_goal -1 => cases h
  all_goals exact wordOf_of_took h fun f hd => congrArg some (f.enc_of_dec hm (sitsAt_of_toNat ‹_›) hd)
theorem decodeWord_wordOf {w : Word} {i : Instr} (h : decodeWord w = .ok i) : WordOf w i := by
  have major {k : Nat} (hk : (w.extractLsb' 26 5).toNat = k) : SitsAt w 26 (BitVec.ofNat 5 k) := sitsAt_of_toNat hk
  unfold decodeWord at h
  split at h
  · exact decSys_wordOf (major ‹_›) h
  · exact decBr_wordOf (major ‹_›) h
  · exact decCtl_wordOf (major ‹_›) h
  · exact decIalu_wordOf (major ‹_›) h
  · exact decIalui_wordOf (major ‹_›) h
  · exact decImm_wordOf (major ‹_›) h
  · exact decShf_wordOf (major ‹_›) h
  · exact decImul_wordOf (major ‹_›) h
  · exact decPack_wordOf (major ‹_›) h
  · exact decCvt_wordOf (major ‹_›) h
  · exact decVadd_wordOf (major ‹_›) h
  · exact decVmul_wordOf (major ‹_›) h
  · exact decVset_wordOf (major ‹_›) h
  · exact decVcmp_wordOf (major ‹_›) h
  · exact decVsfu_wordOf (major ‹_›) h
  · exact decLane_wordOf (major ‹_›) h
  · exact decLd_wordOf (major ‹_›) h
  · exact decSt_wordOf (major ‹_›) h
  · exact decAtom_wordOf (major ‹_›) h
  · exact decAsync_wordOf (major ‹_›) h
  · exact decTile_wordOf (major ‹_›) h
  · exact decPred_wordOf (major ‹_›) h
  · exact decSync_wordOf (major ‹_›) h
  · exact decPool_wordOf (major ‹_›) h
  · exact decRes_wordOf (major ‹_›) h
  · exact decRng_wordOf (major ‹_›) h
  · exact decUni_wordOf (major ‹_›) h
  · exact wordOf_of_took h fun f hd => congrArg some (f.enc_of_dec (major ‹_›) hd)
  · cases h
  · cases h

namespace Laws

theorem roundTrip (i : Instr) : RoundTrip.Statement i := by
  cases i with
  | trap f => exact RoundTrip.trap f | srd f => exact RoundTrip.srd f | swr f => exact RoundTrip.swr f
  | bkpt f => exact RoundTrip.bkpt f | cyc f => exact RoundTrip.cyc f | dictld f => exact RoundTrip.dictld f
  | fsvc f => exact RoundTrip.fsvc f | bra f => exact RoundTrip.bra f | bqt f => exact RoundTrip.bqt f
  | bqf f => exact RoundTrip.bqf f | bqu f => exact RoundTrip.bqu f | bqnt f => exact RoundTrip.bqnt f
  | bqnf f => exact RoundTrip.bqnf f | bq3 f => exact RoundTrip.bq3 f | bmz f => exact RoundTrip.bmz f
  | bmnz f => exact RoundTrip.bmnz f | loop f => exact RoundTrip.loop f | call f => exact RoundTrip.call f
  | calli f => exact RoundTrip.calli f | jmpi f => exact RoundTrip.jmpi f | ret f => exact RoundTrip.ret f
  | exit f => exact RoundTrip.exit f | exits f => exact RoundTrip.exits f | joinat f => exact RoundTrip.joinat f
  | msave f => exact RoundTrip.msave f | mrest f => exact RoundTrip.mrest f | mand f => exact RoundTrip.mand f
  | mor f => exact RoundTrip.mor f | mxor f => exact RoundTrip.mxor f | mnot f => exact RoundTrip.mnot f
  | mfromq f => exact RoundTrip.mfromq f | mcnt f => exact RoundTrip.mcnt f | add f => exact RoundTrip.add f
  | sub f => exact RoundTrip.sub f | and f => exact RoundTrip.and f | or f => exact RoundTrip.or f
  | xor f => exact RoundTrip.xor f | andn f => exact RoundTrip.andn f | min f => exact RoundTrip.min f
  | max f => exact RoundTrip.max f | minu f => exact RoundTrip.minu f | maxu f => exact RoundTrip.maxu f
  | slt f => exact RoundTrip.slt f | sltu f => exact RoundTrip.sltu f | seq f => exact RoundTrip.seq f
  | abs f => exact RoundTrip.abs f | lea f => exact RoundTrip.lea f | selm f => exact RoundTrip.selm f
  | addi f => exact RoundTrip.addi f | andi f => exact RoundTrip.andi f | ori f => exact RoundTrip.ori f
  | xori f => exact RoundTrip.xori f | slti f => exact RoundTrip.slti f | sltiu f => exact RoundTrip.sltiu f
  | leai f => exact RoundTrip.leai f | shli f => exact RoundTrip.shli f | movi f => exact RoundTrip.movi f
  | movhi f => exact RoundTrip.movhi f | shl f => exact RoundTrip.shl f | shr f => exact RoundTrip.shr f
  | sar f => exact RoundTrip.sar f | rotl f => exact RoundTrip.rotl f | bfx f => exact RoundTrip.bfx f
  | bfi f => exact RoundTrip.bfi f | popc f => exact RoundTrip.popc f | clz f => exact RoundTrip.clz f
  | ctz f => exact RoundTrip.ctz f | brev f => exact RoundTrip.brev f | bperm f => exact RoundTrip.bperm f
  | mul f => exact RoundTrip.mul f | mulh f => exact RoundTrip.mulh f | mulhu f => exact RoundTrip.mulhu f
  | mad f => exact RoundTrip.mad f | div f => exact RoundTrip.div f | divu f => exact RoundTrip.divu f
  | rem f => exact RoundTrip.rem f | remu f => exact RoundTrip.remu f | dp4i8 f => exact RoundTrip.dp4i8 f
  | dp4n8 f => exact RoundTrip.dp4n8 f | dp8i4 f => exact RoundTrip.dp8i4 f | dp4e4 f => exact RoundTrip.dp4e4 f
  | dp4e5 f => exact RoundTrip.dp4e5 f | dp8f4 f => exact RoundTrip.dp8f4 f | pksel f => exact RoundTrip.pksel f
  | pknarrow f => exact RoundTrip.pknarrow f | cvtiv f => exact RoundTrip.cvtiv f | cvtniv f => exact RoundTrip.cvtniv f
  | cvtvi f => exact RoundTrip.cvtvi f | cvtvni f => exact RoundTrip.cvtvni f | cvtdv f => exact RoundTrip.cvtdv f
  | cvtvd f => exact RoundTrip.cvtvd f | cvtnv f => exact RoundTrip.cvtnv f | cvtvn f => exact RoundTrip.cvtvn f
  | vadd f => exact RoundTrip.vadd f | vsub f => exact RoundTrip.vsub f | vneg f => exact RoundTrip.vneg f
  | vabs f => exact RoundTrip.vabs f | vmin f => exact RoundTrip.vmin f | vmax f => exact RoundTrip.vmax f
  | vmul f => exact RoundTrip.vmul f | vdiv f => exact RoundTrip.vdiv f | vfma f => exact RoundTrip.vfma f
  | vsqr f => exact RoundTrip.vsqr f | vsqrt f => exact RoundTrip.vsqrt f | vrcp f => exact RoundTrip.vrcp f
  | vscale f => exact RoundTrip.vscale f | vmk f => exact RoundTrip.vmk f | vlo f => exact RoundTrip.vlo f
  | vhi f => exact RoundTrip.vhi f | vmid f => exact RoundTrip.vmid f | vrad f => exact RoundTrip.vrad f
  | vwid f => exact RoundTrip.vwid f | vhull f => exact RoundTrip.vhull f | visect f => exact RoundTrip.visect f
  | vbis f => exact RoundTrip.vbis f | vent f => exact RoundTrip.vent f | vemp f => exact RoundTrip.vemp f
  | vmrc f => exact RoundTrip.vmrc f | vfmr f => exact RoundTrip.vfmr f | vclt f => exact RoundTrip.vclt f
  | vcle f => exact RoundTrip.vcle f | vcgt f => exact RoundTrip.vcgt f | vcge f => exact RoundTrip.vcge f
  | vceq f => exact RoundTrip.vceq f | vcsub f => exact RoundTrip.vcsub f | vcdis f => exact RoundTrip.vcdis f
  | vcin f => exact RoundTrip.vcin f | qand f => exact RoundTrip.qand f | qor f => exact RoundTrip.qor f
  | qnot f => exact RoundTrip.qnot f | qsure f => exact RoundTrip.qsure f | qmaybe f => exact RoundTrip.qmaybe f
  | qmov f => exact RoundTrip.qmov f | vexp f => exact RoundTrip.vexp f | vlog f => exact RoundTrip.vlog f
  | vtanh f => exact RoundTrip.vtanh f | vsigm f => exact RoundTrip.vsigm f | vsilu f => exact RoundTrip.vsilu f
  | vgelu f => exact RoundTrip.vgelu f | vsin f => exact RoundTrip.vsin f | vcos f => exact RoundTrip.vcos f
  | shfl f => exact RoundTrip.shfl f | bcast f => exact RoundTrip.bcast f | vote f => exact RoundTrip.vote f
  | qvote f => exact RoundTrip.qvote f | rdadd f => exact RoundTrip.rdadd f | rdmin f => exact RoundTrip.rdmin f
  | rdmax f => exact RoundTrip.rdmax f | scan f => exact RoundTrip.scan f | hist f => exact RoundTrip.hist f
  | hmerge f => exact RoundTrip.hmerge f | ldb f => exact RoundTrip.ldb f | ldh f => exact RoundTrip.ldh f
  | ldw f => exact RoundTrip.ldw f | ldd f => exact RoundTrip.ldd f | ldq f => exact RoundTrip.ldq f
  | ldv f => exact RoundTrip.ldv f | ldvc f => exact RoundTrip.ldvc f | ldff f => exact RoundTrip.ldff f
  | ldfe f => exact RoundTrip.ldfe f | ldmc f => exact RoundTrip.ldmc f | ldun f => exact RoundTrip.ldun f
  | stb f => exact RoundTrip.stb f | sth f => exact RoundTrip.sth f | stw f => exact RoundTrip.stw f
  | std f => exact RoundTrip.std f | stq f => exact RoundTrip.stq f | stv f => exact RoundTrip.stv f
  | stvc f => exact RoundTrip.stvc f | stfe f => exact RoundTrip.stfe f | stx f => exact RoundTrip.stx f
  | aadd f => exact RoundTrip.aadd f | amin f => exact RoundTrip.amin f | amax f => exact RoundTrip.amax f
  | aminu f => exact RoundTrip.aminu f | amaxu f => exact RoundTrip.amaxu f | aand f => exact RoundTrip.aand f
  | aor f => exact RoundTrip.aor f | axor f => exact RoundTrip.axor f | axch f => exact RoundTrip.axch f
  | acas f => exact RoundTrip.acas f | ainc f => exact RoundTrip.ainc f | avadd f => exact RoundTrip.avadd f
  | amind f => exact RoundTrip.amind f | cpy f => exact RoundTrip.cpy f | cpy2d f => exact RoundTrip.cpy2d f
  | cpymc f => exact RoundTrip.cpymc f | gwbind f => exact RoundTrip.gwbind f | gwfree f => exact RoundTrip.gwfree f
  | arrv f => exact RoundTrip.arrv f | tshapeAcc f => exact RoundTrip.tshapeAcc f | tshapePred f => exact RoundTrip.tshapePred f
  | tzero f => exact RoundTrip.tzero f | tload f => exact RoundTrip.tload f | tmma f => exact RoundTrip.tmma f
  | tmmav f => exact RoundTrip.tmmav f | tjoin f => exact RoundTrip.tjoin f | tstore f => exact RoundTrip.tstore f
  | tksplit f => exact RoundTrip.tksplit f | tscan f => exact RoundTrip.tscan f | tgrp f => exact RoundTrip.tgrp f
  | twake f => exact RoundTrip.twake f | pscore f => exact RoundTrip.pscore f | psel f => exact RoundTrip.psel f
  | pkerf f => exact RoundTrip.pkerf f | pffn f => exact RoundTrip.pffn f | pstat f => exact RoundTrip.pstat f
  | bar f => exact RoundTrip.bar f | bara f => exact RoundTrip.bara f | barw f => exact RoundTrip.barw f
  | barx f => exact RoundTrip.barx f | sobind f => exact RoundTrip.sobind f | soacq f => exact RoundTrip.soacq f
  | sorel f => exact RoundTrip.sorel f | fence f => exact RoundTrip.fence f | hwait f => exact RoundTrip.hwait f
  | htest f => exact RoundTrip.htest f | hcancel f => exact RoundTrip.hcancel f | await f => exact RoundTrip.await f
  | split f => exact RoundTrip.split f | fork f => exact RoundTrip.fork f | rsmp f => exact RoundTrip.rsmp f
  | linid f => exact RoundTrip.linid f | poolq f => exact RoundTrip.poolq f | racq f => exact RoundTrip.racq f
  | rtry f => exact RoundTrip.rtry f | rrel f => exact RoundTrip.rrel f | rqry f => exact RoundTrip.rqry f
  | rngseed f => exact RoundTrip.rngseed f | rngn f => exact RoundTrip.rngn f | rngf f => exact RoundTrip.rngf f
  | uadd f => exact RoundTrip.uadd f | usub f => exact RoundTrip.usub f | uand f => exact RoundTrip.uand f
  | uor f => exact RoundTrip.uor f | uxor f => exact RoundTrip.uxor f | ushl f => exact RoundTrip.ushl f
  | ushr f => exact RoundTrip.ushr f | umul f => exact RoundTrip.umul f | uslt f => exact RoundTrip.uslt f
  | umovx f => exact RoundTrip.umovx f | umovs f => exact RoundTrip.umovs f | uaddi f => exact RoundTrip.uaddi f
  | pfx f => exact RoundTrip.pfx f | nop => exact RoundTrip.nop | tret => exact RoundTrip.tret | ifence => exact RoundTrip.ifence
  | syncj => exact RoundTrip.syncj
  | _ => exact fun _ h => nomatch h

end Laws

/-! ### The four clauses -/

theorem bytesWord_wordBytes (w : Word) :
    bytesWord (w.extractLsb' 0 8) (w.extractLsb' 8 8) (w.extractLsb' 16 8) (w.extractLsb' 24 8) = w :=
  word_of_sitsAt (SitsAt.field 16 8 rfl |>.field 8 8 |>.field 0 8)

theorem decode_encode {i : Instr} {w : Word} (h : encode i = some w) (rest : List Byte) :
    decode (wordBytes w ++ rest) = .ok (i, rest) := by
  simp only [wordBytes, List.cons_append, List.nil_append, decode, bytesWord_wordBytes, Laws.roundTrip i w h]

theorem decodeTableWord_encode {i : Instr} {w : Word} (h : encode i = some w) : decodeTableWord 32 w.toNat = some i := by
  have read := decode_encode h []
  rw [List.append_nil] at read
  simp only [decodeTableWord, BitVec.ofNat_toNat, BitVec.setWidth_eq, read]

theorem encode_injective {i j : Instr} {w : Word} (hi : encode i = some w) (hj : encode j = some w) : i = j :=
  Except.ok.inj ((Laws.roundTrip i w hi).symm.trans (Laws.roundTrip j w hj))

end Sys2Proof

namespace Sys2Proof.InstructionWords
open Sys2Proof.Machine Sys2Proof.Claims

/-- Settles O55, by the forms: each form reads back what it lays out, and lays out what it reads. -/
theorem decodeAndEncodeAgree : Obligations.DecodeAndEncodeAgree :=
  ⟨fun _ _ rest h => decode_encode h rest, fun _ _ => decodeTableWord_encode, fun _ _ => decodeWord_wordOf,
    fun _ _ _ => encode_injective⟩

theorem encode_written : ∀ x ∈ writtenWords, x.1 < 2 ^ 32 ∧ encode x.2 = some (BitVec.ofNat 32 x.1) := by decide

/-- Settles O54: each of the words is the word of its instruction, so it decodes to it. -/
theorem writtenWordsDecode : Obligations.WrittenWordsDecode := by
  intro x hx
  obtain ⟨small, word⟩ := encode_written x hx
  have read := decodeTableWord_encode word
  rwa [BitVec.toNat_ofNat, Nat.mod_eq_of_lt small] at read

end Sys2Proof.InstructionWords
end

section
/-! PROOFS. Instruction words (05_instruction_words.md): how every word begins. Each word makes the checks of R103 in one order,
and then runs; so it traps with ILLOP, PRIV or REGX by one rule, and whatever it runs goes on to a next state. RSMP alone takes
its path in hand anew within its step, so what its writes leave of groups and teams is said first. -/

namespace Sys2Proof.InstructionWords
open Sys2Proof.Machine Sys2Proof.Safety Sys2Proof.Claims Sys2Proof.Laws

/-! ### Outcomes that go on -/

@[simp ↓] theorem goesOn_next (s : State) : GoesOn (.next s) := ⟨s, rfl⟩

@[simp ↓] theorem goesOn_ite {p : Prop} [Decidable p] {a b : Out} :
    GoesOn (if p then a else b) ↔ (p → GoesOn a) ∧ (¬ p → GoesOn b) := by
  split <;> simp [*]

@[simp ↓] theorem goesOn_finish (s : State) (c : Ctx) (g : Group) : GoesOn (finish s c g) := ⟨_, rfl⟩
@[simp ↓] theorem goesOn_finishAt (s : State) (c : Ctx) (g : Group) (a : VAddr) : GoesOn (finishAt s c g a) := ⟨_, rfl⟩
@[simp ↓] theorem goesOn_takeTrap (s : State) (c : Ctx) (t : TrapRec) : GoesOn (takeTrap s c t) := ⟨_, rfl⟩
@[simp ↓] theorem goesOn_takeTrapAfter (s : State) (c : Ctx) (g : Group) (t : TrapRec) :
    GoesOn (takeTrapAfter s c g t) := ⟨_, rfl⟩
@[simp ↓] theorem goesOn_takeClaimx (s : State) (c : Ctx) (n : Nat) : GoesOn (takeClaimx s c n) := ⟨_, rfl⟩
@[simp ↓] theorem goesOn_takeSyncx (s : State) (c : Ctx) (n : Nat) : GoesOn (takeSyncx s c n) := ⟨_, rfl⟩
@[simp ↓] theorem goesOn_takeCmdx (s : State) (c : Ctx) (n va : Nat) : GoesOn (takeCmdx s c n va) := ⟨_, rfl⟩
@[simp ↓] theorem goesOn_laneOut (s : State) (c : Ctx) (g : Group) : GoesOn (laneOut s c g) := ⟨_, rfl⟩

@[simp ↓] theorem goesOn_waitAt (s : State) (c : Ctx) (g : Group) (k : WaitKind) : GoesOn (waitAt s c g k) := by
  unfold waitAt
  split <;> exact goesOn_next _

@[simp ↓] theorem goesOn_takeFault (s : State) (c : Ctx) (t : TrapRec) : GoesOn (takeFault s c t) := by
  simp [takeFault]

@[simp ↓] theorem goesOn_accessFails (s : State) (c : Ctx) (n : Nat) (t : TrapRec) : GoesOn (accessFails s c n t) := by
  simp [accessFails]

@[simp ↓] theorem goesOn_divergeTo (s : State) (c : Ctx) (g : Group) (b : Bool) (l : List (VAddr × Mask)) (a : VAddr) :
    GoesOn (divergeTo s c g b l a) := by
  unfold divergeTo
  split
  · exact goesOn_next _
  · split
    · exact goesOn_next _
    · exact goesOn_takeTrap ..

@[simp ↓] theorem goesOn_branchAll (s : State) (c : Ctx) (g : Group) (off : BitVec 19) (b : Bool) :
    GoesOn (branchAll s c g off b) := by
  simp [branchAll]

@[simp ↓] theorem goesOn_resumeBarrier (s : State) (c : Ctx) (acq : Bool) : GoesOn (resumeBarrier s c acq) := by
  simp [resumeBarrier]

@[simp ↓] theorem goesOn_moveLanes (s : State) (c : Ctx) (f : FormSh) (src : Lane → Lane) : GoesOn (moveLanes s c f src) := by
  simp [moveLanes]

@[simp ↓] theorem goesOn_slotWord (s : State) (c : Ctx) (fn n : Nat) (b : List DWord) : GoesOn (slotWord s c fn n b) := by
  simp [slotWord]

theorem goesOn_withBlock {s : State} {c : Ctx} {va al n : Nat} {k : State → List DWord → Out} (h : ∀ s b, GoesOn (k s b)) :
    GoesOn (withBlock s c va al n k) := by
  unfold withBlock
  split
  · exact goesOn_takeTrap ..
  · split
    · exact goesOn_accessFails ..
    · exact h _ _

@[simp ↓] theorem goesOn_forkTo (s : State) (c : Ctx) (g : Group) (a : ForkArgs) : GoesOn (forkTo s c g a) := by
  unfold forkTo
  extract_lets forks gLin items size off
  split
  · exact goesOn_finish ..
  · split
    · exact goesOn_takeTrap ..
    · split
      · exact goesOn_takeTrap ..
      · exact ⟨_, rfl⟩

/-! ### How a word begins -/

/-- The answer of a word: the checks of R103, with what `pre` answers for the word's own conditions among them, and then its
meaning `k`; each of them goes on. -/
structure Begins (i : Instr) (s : State) (pre : Ctx → Option Out) (k : Ctx → Out) : Prop where
  plain : ownChecks i = false → ∀ c, pre c = none
  pre_goesOn : ∀ c o, pre c = some o → GoesOn o
  goesOn : ∀ c, s.ctx = some c → GoesOn (k c)

/-- The outcome `o` is that of a word that begins so. -/
def WordStep (i : Instr) (s : State) (o : Out) : Prop := ∃ pre k, o = startChecked i s pre k ∧ Begins i s pre k

/-- The conditions for ILLOP and PRIV of a word's own, as `startWord` has them. -/
def ownTrap (s : State) (ill al : Ctx → Bool) (c : Ctx) : Option Out :=
  if ill c then some (takeTrap s c (groupTrap causeIllop 0))
  else if !al c then some (takeTrap s c (groupTrap causePriv 0)) else none

theorem startWord_eq_startChecked (i : Instr) (s : State) (ill al : Ctx → Bool) (k : Ctx → Out) :
    startWord i s ill al k = startChecked i s (ownTrap s ill al) k := by
  unfold startWord startChecked ownTrap
  congr 1
  funext c
  cases wordLegal i c <;> cases ill c <;> cases al c <;> simp

theorem ownTrap_goesOn {s : State} {ill al : Ctx → Bool} {c : Ctx} {o : Out} (h : ownTrap s ill al c = some o) : GoesOn o := by
  unfold ownTrap at h
  split at h
  · cases h
    exact goesOn_takeTrap ..
  · split at h
    · cases h
      exact goesOn_takeTrap ..
    · cases h

theorem wordStep_startWord {i : Instr} {s : State} {ill al : Ctx → Bool} {k : Ctx → Out} (own : ownChecks i = true)
    (h : ∀ c, s.ctx = some c → GoesOn (k c)) : WordStep i s (startWord i s ill al k) :=
  ⟨_, k, startWord_eq_startChecked .., fun plain => absurd (own.symm.trans plain) (by decide), fun _ _ => ownTrap_goesOn, h⟩

theorem wordStep_word {i : Instr} {s : State} {k : Ctx → Out} (h : ∀ c, s.ctx = some c → GoesOn (k c)) :
    WordStep i s (word i s k) :=
  ⟨_, k, startWord_eq_startChecked .., fun _ _ => rfl, fun _ _ => ownTrap_goesOn, h⟩

theorem wordStep_finish {i : Instr} {s : State} (t : Ctx → State) (g : Ctx → Group) :
    WordStep i s (word i s fun c => finish (t c) c (g c)) :=
  wordStep_word fun _ _ => goesOn_finish ..

theorem wordStep_loadWord (i : Instr) (f : FormL) (s : State) (n : Nat) (put : Lane → List Byte → Group → Group)
    (zero : Mask → Group → Group) : WordStep i s (loadWord i f s n put zero) :=
  wordStep_word fun c _ => by split <;> simp

theorem wordStep_storeWord (i : Instr) (f : FormL) (s : State) (n : Nat) (val : Ctx → Lane → List Byte × Flags) :
    WordStep i s (storeWord i f s n val) :=
  wordStep_word fun c _ => by split <;> simp

theorem wordStep_atomWord (i : Instr) (f : FormAt) (s : State) (n : Nat) (new : Ctx → Lane → Nat → Nat)
    (put : Ctx → Lane → Nat → Group → Group) (zero : Mask → Group → Group) :
    WordStep i s (atomWord i f s n new put zero) :=
  wordStep_word fun c _ => by
    dsimp only
    split
    · simp
    · split <;> simp

theorem wordStep_branchQ (i : Instr) (f : FormSO) (s : State) (on : BitVec 2 → Bool) : WordStep i s (branchQ i f s on) :=
  wordStep_word fun c _ => by simp

theorem wordStep_divX (i : Instr) (s : State) (f : FormR) (op : Word → Word → Word × Flags) : WordStep i s (divX i s f op) :=
  wordStep_word fun c _ => by split <;> simp

theorem wordStep_reduce (i : Instr) (s : State) (f : FormRed) (ops opu : Word → Word → Word) (zero : Word)
    (opv : Ctx → Itv × Flags) : WordStep i s (reduce i s f ops opu zero opv) :=
  wordStep_word fun c _ => by simp

theorem wordStep_copyWord (i : Instr) (kind : Nat) (f : FormCpy) (s : State) : WordStep i s (copyWord i kind f s) :=
  wordStep_word fun c _ => goesOn_ite.2
    ⟨fun _ => goesOn_waitAt .., fun _ => goesOn_withBlock fun s b => by dsimp only; split <;> simp⟩

theorem wordStep_issueRecord (i : Instr) (f : FormT) (s : State) (fn eng dws align need sync : Nat)
    (names : List DWord → List Nat) (bad : Ctx → List DWord → Option (BitVec 16)) (after : List DWord → Group → Group) :
    WordStep i s (issueRecord i f s fn eng dws align need sync names bad after) := by
  refine wordStep_word fun c _ => ?_
  simp only [goesOn_ite, goesOn_finish, goesOn_waitAt, implies_true, true_and]
  refine fun _ _ => goesOn_withBlock fun s b => ?_
  split
  · simp
  · split <;> simp

theorem wordStep_tileWord (i : Instr) (f : FormT) (s : State) (fn : Nat) (extra : Ctx → Option (BitVec 16))
    (after : List DWord → Group → Group) : WordStep i s (tileWord i f s fn extra after) := by
  unfold tileWord
  exact wordStep_issueRecord ..

theorem wordStep_predWord (i : Instr) (f : FormT) (s : State) (fn : Nat) : WordStep i s (predWord i f s fn) := by
  unfold predWord
  exact wordStep_issueRecord ..

theorem wordStep_forkWord {i : Instr} {s : State} {b : Reg} {run : Ctx → (Nat × Bool × Keep) → Out} (own : ownChecks i = true)
    (h : ∀ c k, GoesOn (run c k)) : WordStep i s (forkWord i s b run) := by
  refine wordStep_startWord own fun c _ => ?_
  dsimp only
  split
  · simp
  · split
    · simp
    · exact h _ _

theorem transferIllop_goesOn {s : State} {c : Ctx} {a : Reg} {k : BitVec 4} {o : Out} (h : transferIllop s c a k = some o) :
    GoesOn o := by
  unfold transferIllop at h
  repeat' split at h
  all_goals cases h
  all_goals simp

theorem wordStep_transfer (i : Instr) (s : State) (a : Reg) (k : BitVec 4) (link : Option Reg) (own : ownChecks i = true) :
    WordStep i s (transfer i s a k link) := by
  refine ⟨_, _, rfl, fun plain => absurd (own.symm.trans plain) (by decide), fun c o h => transferIllop_goesOn h, fun c _ => ?_⟩
  dsimp only
  repeat' split
  all_goals simp

/-! ### The path in hand, and what leaves it in hand -/

/-- Group `gid` is live with path `pid`, and its team with it. -/
def Stands (s : State) (gid pid : Nat) : Prop :=
  ∃ g p t, s.group gid = some g ∧ g.path pid = some p ∧ s.team g.team = some t

/-- The groups, the teams and the path in hand of `t` are those of `s`. -/
def SameRoster (s t : State) : Prop := t.cur = s.cur ∧ t.groups = s.groups ∧ t.teams = s.teams

theorem ctx_of_stands {s : State} {cur : Cur} (hc : s.cur = some cur) (h : Stands s cur.gid cur.pid) : ∃ c, s.ctx = some c := by
  obtain ⟨g, p, t, hg, hp, ht⟩ := h
  exact ⟨⟨g, p, t, cur⟩, by simp [State.ctx, hc, hg, hp, ht]⟩

theorem stands_of_ctx {s : State} {c : Ctx} (h : s.ctx = some c) : Stands s c.cur.gid c.cur.pid := by
  obtain ⟨-, hg, hp, ht⟩ := State.ctx_parts h
  exact ⟨c.g, c.p, c.t, hg, hp, ht⟩

theorem stands_putGroup {s : State} {g h : Group} {p : Path} {t : Team} {pid : Nat} (hg : s.group h.gid = some g)
    (hp : h.path pid = some p) (ht : s.team h.team = some t) : Stands (s.putGroup h) h.gid pid :=
  ⟨h, p, t, State.group_putGroup hg, hp, by simpa [State.team] using ht⟩

namespace SameRoster
variable {s t u : State}

@[simp] theorem refl (s : State) : SameRoster s s := ⟨rfl, rfl, rfl⟩

theorem trans (h : SameRoster s t) (k : SameRoster t u) : SameRoster s u := by
  obtain ⟨hc, hg, ht⟩ := h
  obtain ⟨kc, kg, kt⟩ := k
  exact ⟨kc.trans hc, kg.trans hg, kt.trans ht⟩

theorem ite {p : Prop} [Decidable p] (h : SameRoster s t) (k : SameRoster s u) : SameRoster s (if p then t else u) := by
  split
  · exact h
  · exact k

theorem foldl {α : Type} {f : State → α → State} (h : ∀ s a, SameRoster s (f s a)) (l : List α) (s : State) :
    SameRoster s (l.foldl f s) := by
  induction l generalizing s with
  | nil => exact refl s
  | cons a l ih => exact (h s a).trans (ih _)

theorem group (h : SameRoster s t) (n : Nat) : t.group n = s.group n := by
  simp only [State.group, h.2.1]

theorem team (h : SameRoster s t) (n : Nat) : t.team n = s.team n := by
  simp only [State.team, h.2.2]

theorem ctx (h : SameRoster s t) : t.ctx = s.ctx := by
  simp only [State.ctx, h.1, h.group, h.team]

theorem stands (h : SameRoster s t) {gid pid : Nat} (k : Stands s gid pid) : Stands t gid pid := by
  simpa only [Stands, h.group, h.team] using k

end SameRoster

theorem sameRoster_putCore (s : State) (k : Nat) (c : Core) : SameRoster s (s.putCore k c) := by
  simp only [SameRoster, State.putCore, and_self]
theorem sameRoster_putPart (s : State) (k : Nat) (p : Partition) : SameRoster s (s.putPart k p) := by
  simp only [SameRoster, State.putPart, and_self]
theorem sameRoster_writePhys (s : State) (pa : Nat) (bs : List Byte) : SameRoster s (s.writePhys pa bs) := by
  simp only [SameRoster, State.writePhys, State.writeRaw, State.putHome, and_self]
theorem sameRoster_hold (s : State) (k : Nat) (x : Xlat) : SameRoster s (s.hold k x) := by
  simp only [SameRoster, State.hold, State.putCore, and_self]

theorem sameRoster_l2Reach (s : State) (x : Xlat) (pa : Nat) : SameRoster s (s.l2Reach x pa) := by
  unfold State.l2Reach
  dsimp only
  repeat' split
  all_goals exact ⟨rfl, rfl, rfl⟩

theorem sameRoster_readHome (s : State) (x : Xlat) (pa : Nat) : SameRoster s (s.readHome x pa) :=
  .ite (.refl s) (sameRoster_l2Reach ..)

theorem sameRoster_writeHome (s : State) (x : Xlat) (pa : Nat) (bs : List Byte) : SameRoster s (s.writeHome x pa bs) := by
  have reach : SameRoster s (if x.cl = 2 ∨ x.wp = 2 then s else s.l2Reach x pa) := .ite (.refl s) (sameRoster_l2Reach ..)
  exact .ite (reach.trans (by simp only [SameRoster, State.putHome, and_self])) (reach.trans (sameRoster_writePhys ..))

theorem sameRoster_arrive (s : State) (f : Flight) : SameRoster s (s.arrive f) := by
  unfold State.arrive
  split
  · exact sameRoster_writeHome ..
  · exact sameRoster_writePhys ..

theorem sameRoster_landFor (s : State) (i : Instr) : SameRoster s (s.landFor i) :=
  .ite (.trans ⟨rfl, rfl, rfl⟩ (.foldl sameRoster_arrive _ _)) (.refl s)

theorem sameRoster_passL1 (s : State) (core : Nat) (x : Xlat) (pa : Nat) : SameRoster s (s.passL1 core x pa) :=
  ((sameRoster_hold ..).trans (sameRoster_readHome ..)).trans (sameRoster_putCore ..)

theorem sameRoster_passBytes (s : State) (core part va n : Nat) : SameRoster s (s.passBytes core part va n) := by
  induction n generalizing s va with
  | zero => exact .refl s
  | succ n ih =>
    unfold State.passBytes
    split
    · exact (sameRoster_passL1 ..).trans (ih ..)
    · exact ih ..

theorem sameRoster_putAt (s s0 : State) (core part va : Nat) (bs : List Byte) : SameRoster s (s.putAt s0 core part va bs) := by
  induction bs generalizing s va with
  | nil => exact .refl s
  | cons b bs ih =>
    unfold State.putAt
    split
    · exact (sameRoster_writeHome ..).trans (ih ..)
    · exact .refl s

/-! ### RSMP -/

theorem sameRoster_popPut (s s0 : State) (core part va : Nat) (bs : List Byte) : SameRoster s (s.popPut s0 core part va bs) :=
  (sameRoster_passBytes ..).trans (sameRoster_putAt ..)

theorem sameRoster_setCounts (s s0 : State) (core part va a d : Nat) : SameRoster s (s.setCounts s0 core part va a d) :=
  sameRoster_popPut ..

theorem sameRoster_writePrefixes (s s0 : State) (core part : Nat) (o : PopObj) (i acc : Nat) (ws : List Nat) :
    SameRoster s (s.writePrefixes s0 core part o i acc ws).1 := by
  induction ws generalizing s i acc with
  | nil => exact .refl s
  | cons w ws ih => exact (sameRoster_popPut ..).trans (ih ..)

theorem sameRoster_closeRound (s s0 : State) (core part va : Nat) (o : PopObj) : SameRoster s (s.closeRound s0 core part va o) :=
  ((SameRoster.foldl (fun _ _ => sameRoster_popPut ..) _ _).trans (sameRoster_setCounts ..)).trans (sameRoster_popPut ..)

theorem sameRoster_ringBytes (s : State) (base size o : Nat) (bs : List Byte) : SameRoster s (s.ringBytes base size o bs) := by
  induction bs generalizing s o with
  | nil => exact .refl s
  | cons b bs ih => exact (sameRoster_writePhys ..).trans (ih ..)

theorem sameRoster_capture (s : State) (q : Nat) (run : Word) (kind : Nat) (v1 v2 : DWord) (payload : List Byte) :
    SameRoster s (s.capture q run kind v1 v2 payload) := by
  unfold State.capture
  split
  · exact .refl s
  · split
    · exact .refl s
    · exact .ite (.trans ⟨rfl, rfl, rfl⟩ (sameRoster_writePhys ..))
        (((sameRoster_ringBytes ..).trans (sameRoster_writePhys ..)).trans (sameRoster_putPart ..))

theorem find_map_key {α : Type} {key : α → Nat} {f : α → α} (keeps : ∀ a, key (f a) = key a) {l : List α} {n : Nat}
    {a : α} (h : l.find? (fun b => key b == n) = some a) : (l.map f).find? (fun b => key b == n) = some (f a) := by
  have same : (fun b => key b == n) ∘ f = fun b => key b == n := by
    funext b
    simp only [Function.comp_apply, keeps]
  rw [List.find?_map, same, h, Option.map_some]

/-- The waits that end leave every group, team and path where it is. -/
theorem stands_endRsmp {s : State} {gid pid : Nat} (h : Stands s gid pid) (core part va : Nat) (data : Word) :
    Stands (s.endRsmp core part va data) gid pid := by
  obtain ⟨g, p, t, hg, hp, ht⟩ := h
  unfold State.endRsmp
  extract_lets f
  have keeps (k : Nat) (q : Path) : (f k q).pid = q.pid := by
    simp only [f]
    repeat' split
    all_goals rfl
  refine ⟨_, f t.core p, t, find_map_key (key := Group.gid) (fun h => by split <;> rfl) hg, ?_, ?_⟩
  · simp only [ht]
    exact find_map_key (key := Path.pid) (keeps t.core) hp
  · simp only [ht]
    exact ht

theorem endRsmp_cur (s : State) (core part va : Nat) (data : Word) : (s.endRsmp core part va data).cur = s.cur := rfl

theorem rsmpPrefix_ctx {s : State} {c : Ctx} (h : s.ctx = some c) (s0 : State) (d : Ctx) (va : Nat) :
    ∃ e, (s.rsmpPrefix s0 d va).ctx = some e := by
  unfold State.rsmpPrefix
  extract_lets o w r s1 s2
  split
  · have same : SameRoster s s2 :=
      ((sameRoster_writePrefixes ..).trans (sameRoster_popPut ..)).trans (sameRoster_capture ..)
    obtain ⟨hcur, -⟩ := State.ctx_parts h
    exact ctx_of_stands (same.1.trans hcur) (stands_endRsmp (same.stands (stands_of_ctx h)) ..)
  · exact ⟨c, (((sameRoster_popPut ..).trans (sameRoster_closeRound ..)).ctx).trans h⟩

/-- A word that changes its own group alone leaves its path in hand. -/
theorem leavesAs_ctx {s t : State} {c : Ctx} {g : Group} {p : Path} (h : s.ctx = some c) (hl : LeavesAs s c g p t)
    (team : g.team = c.g.team) : ∃ d, t.ctx = some d := by
  obtain ⟨hcur, -, -, ht⟩ := State.ctx_parts h
  obtain ⟨same, -, k, hk, hkg, hp, -⟩ := hl
  have cur : t.cur = some c.cur := by rw [same]; exact hcur
  have kteam : k.team = c.g.team := by rw [hkg]; exact team
  refine ctx_of_stands cur ⟨k, p, c.t, State.ctx_gid h ▸ hk, hp, ?_⟩
  rw [kteam, same]
  exact ht

theorem goesOn_rsmpPlace (f : FormDAB) (s : State) (c : Ctx) (r : Restart) : GoesOn (rsmpPlace f s c r) := by
  unfold rsmpPlace
  extract_lets c1
  split
  · exact goesOn_accessFails ..
  split
  · exact goesOn_accessFails ..
  split
  · exact goesOn_takeTrap ..
  split
  · exact goesOn_accessFails ..
  extract_lets on gone base g1 items
  split
  · exact goesOn_takeTrap ..
  · exact goesOn_finish ..

theorem goesOn_rsmpArrive {s : State} {c : Ctx} (h : s.ctx = some c) (f : FormDAB) (s0 : State) (va : Nat) (o : PopObj)
    (slots : List (Lane × Nat)) : GoesOn (rsmpArrive f s s0 c va o slots) := by
  unfold rsmpArrive
  extract_lets ws g away s1 arrived s2 last
  have same : SameRoster s s2 := (SameRoster.foldl (fun _ _ => sameRoster_popPut ..) _ _).trans (sameRoster_setCounts ..)
  have h2 : s2.ctx = some c := same.ctx.trans h
  obtain ⟨s3, waits, leaves⟩ := waitAt_waits (g := g) h2 rfl rfl rfl (.rsmp va slots)
  obtain ⟨c3, h3⟩ := leavesAs_ctx h2 leaves rfl
  obtain ⟨e, he⟩ := rsmpPrefix_ctx h3 s0 c va
  simp only [goesOn_ite, goesOn_finish, implies_true, true_and, waits, withCtx_eq he, goesOn_next]
  exact fun _ _ => goesOn_rsmpPlace ..

theorem goesOn_rsmpFresh {s : State} {c : Ctx} (h : s.ctx = some c) (f : FormDAB) : GoesOn (rsmpFresh f s c) := by
  have arrives (va : Nat) (o : PopObj) (slots : List (Lane × Nat)) :
      GoesOn (rsmpArrive f (s.passBytes c.t.core c.part va 64) s c va o slots) :=
    goesOn_rsmpArrive ((sameRoster_passBytes ..).ctx.trans h) ..
  unfold rsmpFresh
  dsimp only
  repeat' split
  all_goals simp [arrives]

/-! ### The beginning of each word -/

theorem exec_wordStep (i : Instr) (s : State) (hw : isWord i = true) : WordStep i s (exec i s) := by
  unfold exec
  cases i with
  | add f | sub f | and f | or f | xor f | andn f | min f | max f | minu f | maxu f | slt f | sltu f | seq f | abs f | lea f
  | selm f | addi f | andi f | ori f | xori f | slti f | sltiu f | leai f | shli f | movi f | movhi f | shl f | shr f | sar f
  | rotl f | bfx f | bfi f | popc f | clz f | ctz f | brev f | bperm f | mul f | mulh f | mulhu f | mad f | dp4i8 f | dp4n8 f
  | dp8i4 f | dp4e4 f | dp4e5 f | dp8f4 f | pksel f | cvtiv f | cvtniv f | cvtvi f | cvtvni f | cvtdv f | cvtnv f | vadd f
  | vsub f | vneg f | vabs f | vmin f | vmax f | vmul f | vdiv f | vfma f | vsqr f | vsqrt f | vrcp f | vscale f | vmk f
  | vlo f | vhi f | vmid f | vrad f | vwid f | vhull f | visect f | vent f | vemp f | vmrc f | vfmr f | vclt f | vcle f
  | vcgt f | vcge f | vceq f | vcsub f | vcdis f | vcin f | qand f | qor f | qnot f | qsure f | qmaybe f | qmov f | vexp f
  | vlog f | vtanh f | vsigm f | vsilu f | vgelu f | vsin f | vcos f | uadd f | usub f | uand f | uor f | uxor f | ushl f
  | ushr f | umul f | uslt f | cyc f | joinat f | msave f | mrest f | mand f | mor f | mxor f | mnot f | mfromq f | mcnt f
  | pknarrow f | cvtvd f | cvtvn f | vbis f | vote f | qvote f | gwfree f | tshapePred f | twake f | pstat f | fence f
  | htest f | linid f | poolq f | rqry f | rngseed f | rngn f | rngf f | umovx f | umovs f | uaddi f | nop =>
    exact wordStep_finish ..
  | ldb f | ldh f | ldw f | ldd f | ldq f | ldv f | ldvc f => exact wordStep_loadWord ..
  | stb f | sth f | stw f | std f | stq f | stv f | stvc f => exact wordStep_storeWord ..
  | aadd f | amin f | amax f | aminu f | amaxu f | aand f | aor f | axor f | axch f | acas f | ainc f | avadd f | amind f =>
    exact wordStep_atomWord ..
  | bqt f | bqf f | bqu f | bqnt f | bqnf f => exact wordStep_branchQ ..
  | div f | divu f | rem f | remu f => exact wordStep_divX ..
  | rdadd f | rdmin f | rdmax f => exact wordStep_reduce ..
  | cpy f | cpy2d f | cpymc f => exact wordStep_copyWord ..
  | pscore f | psel f | pkerf f | pffn f => exact wordStep_predWord ..
  | tload f | tmma f | tmmav f | tjoin f | tstore f | tksplit f | tgrp f => exact wordStep_tileWord ..
  | calli f | jmpi f | ret f => exact wordStep_transfer _ _ _ _ _ rfl
  | bara f => exact wordStep_startWord rfl fun _ _ => by dsimp only; split <;> simp [finish]
  | rsmp f =>
    refine wordStep_startWord rfl fun _ hc => ?_
    repeat' split
    all_goals simp [goesOn_rsmpPlace, goesOn_rsmpFresh hc]
  | split f | fork f => exact wordStep_forkWord rfl fun _ _ => by simp
  | swr f | exit f | shfl f | tshapeAcc f | bar f | barw f | barx f | pfx f | tret =>
    exact wordStep_startWord rfl fun _ _ => by simp
  | dictld f | exits f =>
    refine wordStep_startWord rfl fun _ _ => ?_
    dsimp only
    repeat' split
    all_goals simp
  | trap f | srd f | bkpt f | bra f | bq3 f | bmz f | bmnz f | loop f | call f | bcast f | scan f | hist f | hmerge f | tzero f
  | tscan f | hwait f | hcancel f | rrel f | ifence | sobind f | await f => exact wordStep_word fun _ _ => by simp
  | gwbind f => exact wordStep_word fun _ _ => goesOn_withBlock fun _ _ => by split <;> simp
  | ldff f | ldun f | arrv f | soacq f | sorel f | racq f | rtry f =>
    refine wordStep_word fun _ _ => ?_
    dsimp only
    repeat' split
    all_goals simp
  | fsvc f =>
    refine wordStep_startWord rfl fun _ _ => ?_
    repeat' split
    all_goals simp
  | ldfe f | stfe f | stx f | syncj | ldmc f =>
    refine wordStep_word fun _ _ => ?_
    repeat' split
    all_goals simp
  | _ => cases hw

/-! ### What every word does (R103) -/

theorem exec_illegal {i : Instr} {s : State} {c : Ctx} (hw : isWord i = true) (h : s.ctx = some c) (hl : wordLegal i c = false) :
    exec i s = takeTrap s c (groupTrap causeIllop 0) := by
  obtain ⟨pre, k, he, -⟩ := exec_wordStep i s hw
  rw [he, startChecked, withCtx_eq h, if_pos (by rw [hl]; rfl)]

theorem exec_regx {i : Instr} {s : State} {c : Ctx} {v : Bool} {r : Nat} (hw : isWord i = true) (own : ownChecks i = false)
    (h : s.ctx = some c) (hl : wordLegal i c = true) (hr : regxOf i c = some (v, r)) :
    exec i s = takeTrap s c (groupTrap causeRegx (regxInfo v r)) := by
  obtain ⟨pre, k, he, plain, -⟩ := exec_wordStep i s hw
  rw [he, startChecked, withCtx_eq h, if_neg (by simp [hl]), plain own, hr]

theorem exec_noPath {i : Instr} {s : State} (hw : isWord i = true) (h : s.ctx = none) : exec i s = .fault .noPath := by
  obtain ⟨pre, k, he, -⟩ := exec_wordStep i s hw
  rw [he, startChecked, withCtx, h]

theorem exec_word_goesOn {i : Instr} {s : State} {c : Ctx} (hw : isWord i = true) (h : s.ctx = some c) : GoesOn (exec i s) := by
  obtain ⟨pre, k, he, -, own, goesOn⟩ := exec_wordStep i s hw
  rw [he, startChecked, withCtx_eq h]
  split
  · exact goesOn_takeTrap ..
  · split
    · exact own c _ ‹_›
    · split
      · exact goesOn_takeTrap ..
      · exact goesOn c h

/-- A word that does not stand issued in a wait is held to the window of its team (R50). -/
theorem regxOf_of_not_inWait (i : Instr) {c : Ctx} (h : ¬ inWait c) : regxOf i c = firstOutside c.t (namedRegs i c) := by
  refine if_neg fun waits => h ?_
  obtain ⟨w, hw, issued⟩ := (Option.any_eq_true _ _).1 waits
  obtain ⟨issued, kind⟩ := Bool.and_eq_true_iff.1 issued
  exact ⟨w, hw, issued, bne_iff_ne.1 kind⟩

/-! ### Illegal and privileged words (R52, R103, R174, R380) -/

/-- The words that a trap handler may not use (R174, R361, R234). -/
theorem startWord_inHandler {i : Instr} {s : State} {c : Ctx} (h : s.ctx = some c) (tl : c.g.tl ≠ 0) {ill : Ctx → Bool}
    (hi : (c.g.tl != 0) = true → ill c = true) (al : Ctx → Bool) (k : Ctx → Out) :
    Trapped s c (groupTrap causeIllop 0) (startWord i s ill al k) :=
  startWord_illegal h (.inr (hi (by simpa using tl))) al k

theorem sysLevel_eq (n : Nat) : sysLevel n = if swrLevel n = 3 then none else some (swrLevel n) := by
  simp only [sysLevel, swrLevel, List.mem_cons, List.not_mem_nil, or_false]
  split
  · rfl
  · split
    · rfl
    · split <;> rfl

theorem mayWrite_eq_false {c : Ctx} {n : Nat} (slot : c.g.slot ≠ 63) (tl : c.g.tl.val < swrLevel n) : mayWrite c n = false := by
  rw [mayWrite, beq_eq_false_iff_ne.2 slot, Bool.false_or, sysLevel_eq]
  split
  · rename_i m hm
    obtain ⟨-, ⟨⟩⟩ := Option.ite_none_left_eq_some.1 hm
    exact decide_eq_false (by omega)
  · rfl

/-- Settles O18, by the checks of R103 in their order. -/
theorem illegalWordsTrap : Obligations.IllegalWordsTrap := by
  refine ⟨fun w e s c he h => ?_, fun i s c hw h hl => ?_, fun i s c r v hw own h hl notIn out => ?_,
    fun f s c h hl slot tl => ?_, fun f s c h hl slot free aligned => ?_, fun f s c k h hl slot tl keep => ?_,
    fun f s c h hl tl => ?_, fun i s c member h tl => ?_⟩
  · rw [runFetched, he]
    simp only [runUndecoded, withCtx_eq h]
    exact takeTrap_trapped h _
  · rw [exec_illegal hw h hl]
    exact takeTrap_trapped h _
  · rw [exec_regx hw own h hl ((regxOf_of_not_inWait i notIn).trans out)]
    have info : regxInfo v r = if v = true then r + 64 else r := by cases v <;> rfl
    rw [info]
    exact takeTrap_trapped h _
  · exact startWord_priv h hl rfl (mayWrite_eq_false slot tl) _
  · exact startWord_priv h hl (by simp [free, aligned]) (by simpa using slot) _
  · exact startWord_priv h hl (by simp [Team.keep, keep]) (by simp [slot, tl]) _
  · exact startWord_priv h hl rfl (by simpa using tl) _
  · rcases member with ⟨f, rfl⟩ | ⟨f, rfl⟩ | ⟨f, rfl⟩ | ⟨f, rfl⟩ | ⟨f, rfl⟩ | ⟨f, rfl⟩ | ⟨f, rfl⟩ | ⟨f, rfl⟩
    · exact startWord_inHandler h tl id _ _
    · exact startWord_inHandler h tl id _ _
    · exact startWord_inHandler h tl id _ _
    · exact startWord_inHandler h tl id _ _
    · exact startWord_inHandler h tl id _ _
    · exact startWord_inHandler h tl (fun h => by simp [Ctx.forkIllegal, h]) _ _
    · exact startWord_inHandler h tl (fun h => by simp [Ctx.forkIllegal, h]) _ _
    · exact startWord_inHandler h tl (fun h => by simp [h]) _ _

end Sys2Proof.InstructionWords
end

section
/-! PROOFS. Instruction words (05_instruction_words.md): every step goes on. An event goes on from every state; a word goes on
where its path is in hand; and a step puts the path in hand before it runs the word, since a fetch leaves every group, path and
team where it is. -/

namespace Sys2Proof.InstructionWords
open Sys2Proof.Machine Sys2Proof.Safety Sys2Proof.Claims Sys2Proof.Laws

/-! ### What every event does -/

@[simp ↓] theorem goesOn_cmdDone (s : State) (code index : Nat) : GoesOn (Cmd.done s code index) := ⟨_, rfl⟩

theorem goesOn_feCommand {op : Nat} {s : State} {resume : CmdWait → Out} {run : Out} (hw : ∀ w, GoesOn (resume w)) (h : GoesOn run) :
    GoesOn (feCommand op s resume run) := by
  unfold feCommand
  split
  · exact goesOn_next _
  · split <;> simp [hw, h]

theorem goesOn_feSimple {op : Nat} {s : State} {run : Out} (h : GoesOn run) : GoesOn (feSimple op s run) :=
  goesOn_feCommand (fun _ => goesOn_next _) h

theorem goesOn_mgmtServe {s : State} {side : Bool} {c : List DWord} {run : State → Out} (h : ∀ s, GoesOn (run s)) :
    GoesOn (mgmtServe s side c run) := by
  simp [mgmtServe, h]

theorem goesOn_mgmt {s : State} {fits : List DWord → Bool} {run : Bool → List DWord → State → Out}
    (h : ∀ side c s, GoesOn (run side c s)) : GoesOn (mgmt s fits run) := by
  unfold mgmt
  split
  · exact goesOn_next _
  extract_lets waits c
  split
  · split
    · exact goesOn_next _
    · exact goesOn_mgmtServe (h true c)
  · split
    · split
      · exact goesOn_next _
      · exact goesOn_mgmtServe (h false _)
    · exact goesOn_next _

theorem goesOn_mgmtOnPart {s : State} {op : Nat} {run : Bool → List DWord → Nat → State → Out}
    (h : ∀ side c p s, GoesOn (run side c p s)) : GoesOn (mgmtOnPart s op run) := by
  unfold mgmtOnPart mgmtSimple
  exact goesOn_mgmt fun side c s => goesOn_ite.2 ⟨fun _ => goesOn_next _, fun _ => h ..⟩

theorem goesOn_mgmtEvent (s : State) (op : Nat) (ok : State → Nat → Bool) (run : Bool → Nat → State → State) :
    GoesOn (mgmtEvent s op ok run) :=
  goesOn_mgmtOnPart fun _ _ _ _ => goesOn_ite.2 ⟨fun _ => goesOn_next _, fun _ => goesOn_next _⟩

theorem goesOn_fwact {s : State} {kind : Nat} {run : Bool → State → Out} (h : ∀ side s, GoesOn (run side s)) :
    GoesOn (fwact s kind run) :=
  goesOn_mgmt fun side _ s => h side s

theorem execTriggerWrite_goesOn (s : State) : GoesOn (execTriggerWrite s) := by
  simp only [execTriggerWrite, goesOn_ite, goesOn_next, implies_true, true_and]
  intro _ _
  split <;> simp

theorem execTileRecordStep_goesOn (s : State) : GoesOn (execTileRecordStep s) := by
  unfold execTileRecordStep
  split
  · exact goesOn_next _
  simp only [goesOn_ite, goesOn_next, implies_true, true_and]
  intros
  split <;> simp

theorem execLoad_goesOn (s : State) : GoesOn (execLoad s) := by
  unfold execLoad
  refine goesOn_feSimple ?_
  split
  · exact goesOn_cmdDone ..
  split
  · exact goesOn_cmdDone ..
  extract_lets
  split
  · exact goesOn_cmdDone ..
  · exact goesOn_next _

theorem execFwactAgent_goesOn (s : State) : GoesOn (execFwactAgent s) := by
  unfold execFwactAgent
  split
  · split <;> exact goesOn_next _
  · exact goesOn_fwact fun _ _ => by split <;> exact goesOn_next _

theorem execQdestroy_goesOn (s : State) : GoesOn (execQdestroy s) := by
  unfold execQdestroy
  extract_lets go q
  have hgo (q : Nat) : GoesOn (go q) := by
    simp only [go]
    split
    · exact goesOn_next _
    · exact goesOn_cmdDone ..
  exact goesOn_feCommand (fun w => by split <;> simp [hgo]) (by simp [hgo])

theorem execQprio_goesOn (s : State) : GoesOn (execQprio s) := by
  unfold execQprio
  extract_lets finish q
  have hfinish (s : State) (q p : Nat) : GoesOn (finish s q p) := by
    simp only [finish]
    split <;> simp
  exact goesOn_feCommand (fun w => by split <;> simp [hfinish]) (by split <;> simp)

theorem exec_event_goesOn (i : Instr) (s : State) (hw : isWord i = false) : GoesOn (exec i s) := by
  unfold exec
  cases i with
  | cmdtail | registerWrite | walkerPass | waitNodeReread | groupRetire | teamRetire | swapOutDone | teamReturn | teamResume
  | stealReply | tileRecordComplete | predRecordStep | predRecordComplete | bankAluOp | releasePerform | acquirePerform | dbell
  | hostPostedWrite | multicastEntryClose | escapeChannelEntry | peerTimeout | serviceCoreFallback | clockStep
  | criticalTempStop | powerUp | unloadDrained | correctedSoftError | controlStateError | peerPartyAccess | kazotLinkPortDown
  | kazotLinkPortUp | serviceCoreRestarted | dieDomainOff | dieDomainOn | hostLinkDown | hostLinkUp | mctpControlMessage =>
    dsimp only
    delta execCmdtail execRegisterWrite execWalkerPass execWaitNodeReread execGroupRetire execTeamRetire execSwapOutDone
      execTeamReturn execTeamResume execStealReply execTileRecordComplete execPredRecordStep execPredRecordComplete
      execBankAluOp execReleasePerform execAcquirePerform execDbell execHostPostedWrite execMulticastEntryClose
      execEscapeChannelEntry execPeerTimeout execServiceCoreFallback execClockStep execCriticalTempStop execPowerUp
      execUnloadDrained execCorrectedSoftError execControlStateError execPeerPartyAccess execKazotLinkPortDown
      execKazotLinkPortUp execServiceCoreRestarted execDieDomainOff execDieDomainOn execHostLinkDown execHostLinkUp
      execMctpControlMessage
    repeat' split
    all_goals exact goesOn_next _
  | queuePark | queueUnpark | lstReport | kernelNodeComplete | agentPlace | teamSwitch | draftGroup | diePoolReturn
  | dovetailStart | orderedReleaseTurn | faultServiceRequest | faultServiceAnswer | prresp | tinvctlGo | tinvDone
  | subarrayPowerDown | watchdogExpiry | memoryError | partitionHalted | partitionSwapDone =>
    dsimp only
    delta execQueuePark execQueueUnpark execLstReport execKernelNodeComplete execAgentPlace execTeamSwitch execDraftGroup
      execDiePoolReturn execDovetailStart execOrderedReleaseTurn execFaultServiceRequest execFaultServiceAnswer execPrresp
      execTinvctlGo execTinvDone execSubarrayPowerDown execWatchdogExpiry execMemoryError execPartitionHalted
      execPartitionSwapDone
    extract_lets
    repeat' split
    all_goals exact goesOn_next _
  | queueService | gangReserve | waitSwapOut | stealRequest | copyChunk | copyComplete | ldfeServe =>
    dsimp only
    delta execQueueService execGangReserve execWaitSwapOut execStealRequest execCopyChunk execCopyComplete execLdfeServe
    dsimp only
    repeat' split
    all_goals exact goesOn_next _
  | triggerWrite => exact execTriggerWrite_goesOn s
  | tileRecordStep => exact execTileRecordStep_goesOn s
  | load => exact execLoad_goesOn s
  | qdestroy => exact execQdestroy_goesOn s
  | qprio => exact execQprio_goesOn s
  | setth => exact goesOn_feSimple (goesOn_cmdDone ..)
  | unload | install | remove | qcreate | copy =>
    refine goesOn_feSimple ?_
    dsimp only
    repeat' split
    all_goals simp
  | phalt | presume | pswapout | pswapin | preset => exact goesOn_mgmtEvent ..
  | cswitch | rings | fwstage | fwactFe | fwactService =>
    dsimp only
    delta execCswitch execRings execFwstage execFwactFe execFwactService
    refine goesOn_mgmt fun side c s => ?_
    dsimp only
    repeat' split
    all_goals simp
  | logread | health | attest | attestKey | pcap =>
    dsimp only
    delta execLogread execHealth execAttest execAttestKey execPcap
    exact goesOn_mgmt fun _ _ _ => goesOn_next _
  | pconf =>
    dsimp only
    unfold execPconf
    refine goesOn_mgmtOnPart fun side c p s => ?_
    dsimp only
    repeat' split
    all_goals simp
  | fwactAgent => exact execFwactAgent_goesOn s
  | _ => cases hw

/-! ### Fetching leaves every path where it is -/

theorem fetchSlot_sameRoster {s s1 : State} {core part o : Nat} {base : VAddr} {w : Word}
    (h : s.fetchSlot core part base o = .ok (w, s1)) : SameRoster s s1 := by
  unfold State.fetchSlot at h
  extract_lets va line held s2 fill wordIn read s3 at h
  have hheld (s : State) (a : Nat) : SameRoster s (held s a) := by
    simp only [held]
    split
    · exact sameRoster_hold ..
    · exact .refl s
  have hread (s : State) (a : Nat) : SameRoster s (read s a) := by
    simp only [read]
    split
    · exact sameRoster_readHome ..
    · exact .refl s
  have h2 : SameRoster s s2 := (hheld ..).trans (hheld ..)
  have h3 : SameRoster s s3 := (h2.trans (hread ..)).trans (hread ..)
  split at h
  · cases h
    exact h2.trans (sameRoster_putCore ..)
  · split at h
    · cases h
    · cases h
      exact .ite (h3.trans (sameRoster_putCore ..)) h3

theorem fetchWord_sameRoster {s s1 : State} {g : Group} {core part o : Nat} {dict : Bool} {base : VAddr} {w : Word}
    (h : s.fetchWord g core part dict base o = .ok (w, s1)) : SameRoster s s1 := by
  unfold State.fetchWord at h
  extract_lets i a bodies noted at h
  have hnoted (s : State) (w : Word) : SameRoster s (noted s w) := sameRoster_putCore ..
  split at h
  · cases h
    exact hnoted ..
  · split at h
    · cases h
    · split at h
      · cases h
      · rename_i r hr
        have same : SameRoster s r.2 := fetchSlot_sameRoster hr
        cases h
        exact .ite (same.trans (hnoted ..)) same

theorem fetch_sameRoster {s s1 : State} {g : Group} {t : Team} {pc : VAddr} {f : Fetched}
    (h : s.fetch g t pc = .ok (f, s1)) : SameRoster s s1 := by
  unfold State.fetch at h
  extract_lets o base slot at h
  split at h
  · cases h
    exact .refl s
  · split at h
    · cases h
    · cases h
      exact fetchWord_sameRoster ‹_›

/-! ### A path that issues -/

/-- Group `g` has a record in `s`, the path `pid` one in `g`, and the group's team one in `s`. -/
def Issuable (s : State) (g : Group) (pid : Nat) : Prop :=
  (∃ h, s.group g.gid = some h) ∧ (∃ p, g.path pid = some p) ∧ ∃ t, s.team g.team = some t

theorem Issuable.of_sameRoster {s t : State} {g : Group} {pid : Nat} (h : Issuable s g pid) (same : SameRoster s t) :
    Issuable t g pid := by
  simpa only [Issuable, same.group, same.team] using h

theorem Issuable.putTeam {s : State} {g : Group} {pid : Nat} (h : Issuable s g pid) (u : Team) : Issuable (s.putTeam u) g pid := by
  obtain ⟨hg, hp, t, ht⟩ := h
  refine ⟨by simpa [State.group] using hg, hp, ?_⟩
  rw [State.team, State.putTeam, keyed_find]
  exact ⟨_, by rw [← State.team, ht]; rfl⟩

theorem issuable_of_found {s : State} {gid pid : Nat} {g : Group} {p : Path} {t : Team} (hg : s.group gid = some g)
    (hp : g.path pid = some p) (ht : s.team g.team = some t) : Issuable s g p.pid :=
  ⟨⟨g, State.group_gid hg ▸ hg⟩, ⟨p, Group.path_pid hp ▸ hp⟩, t, ht⟩

theorem atWord_ctx {s : State} {g : Group} {p : Path} (h : Issuable s g p.pid) (w : Word) (addr ret next : VAddr) :
    ∃ c, (s.atWord g p w addr ret next).ctx = some c := by
  obtain ⟨⟨k, hk⟩, ⟨q, hq⟩, t, ht⟩ := h
  have stands : Stands (s.putGroup (g.putPath { p with readySince := none })) g.gid p.pid :=
    stands_putGroup (h := g.putPath { p with readySince := none }) hk (Group.path_putPath (p := { p with readySince := none }) hq) ht
  exact ctx_of_stands rfl stands

theorem goesOn_runUndecoded {s : State} {c : Ctx} (h : s.ctx = some c) : GoesOn (runUndecoded s) := by
  simp [runUndecoded, withCtx_eq h]

theorem isWord_of_decodeWord {w : Word} {i : Instr} (h : decodeWord w = .ok i) : isWord i = true := by
  obtain ⟨v, hv, -⟩ := decodeWord_wordOf h
  simp [isWord, hv]

theorem goesOn_runFetched {s : State} {c : Ctx} (h : s.ctx = some c) (w : Word) : GoesOn (runFetched w s) := by
  unfold runFetched
  split
  · simp only [runWord, withCtx_eq h, goesOn_ite, goesOn_waitAt, implies_true, true_and]
    exact fun _ => exec_word_goesOn (isWord_of_decodeWord ‹_›) ((sameRoster_landFor ..).ctx.trans h)
  · exact goesOn_runUndecoded h

theorem goesOn_issueNew {s : State} {g : Group} {p : Path} (h : Issuable s g p.pid) (t : Team) : GoesOn (issueNew s g t p) := by
  unfold issueNew
  extract_lets ret s1
  split
  · obtain ⟨c, hc⟩ : ∃ c, s1.ctx = some c := atWord_ctx h ..
    simp [withCtx_eq hc]
  · obtain ⟨c, hc⟩ := atWord_ctx (h.of_sameRoster (fetch_sameRoster ‹_›)) 0#32 p.pc ret p.pc
    exact goesOn_runUndecoded hc
  · obtain ⟨c, hc⟩ := atWord_ctx (h.of_sameRoster (fetch_sameRoster ‹_›)) _ p.pc ret _
    exact goesOn_runFetched hc _

theorem goesOn_andPrefixed {o : Out} (h : GoesOn o) (gid pid : Nat) : GoesOn (andPrefixed gid pid o) := by
  obtain ⟨s, rfl⟩ := h
  dsimp only [andPrefixed]
  split
  · exact goesOn_next s
  · split
    · exact goesOn_ite.2 ⟨fun _ => goesOn_issueNew (issuable_of_found ‹_› ‹_› ‹_›) _, fun _ => goesOn_next s⟩
    · exact goesOn_next s

theorem goesOn_issuePath {s : State} {g : Group} {p : Path} (h : Issuable s g p.pid) (t : Team) : GoesOn (issuePath s g t p) := by
  have ht := h.putTeam t.issues
  unfold issuePath
  extract_lets s1 t1
  split
  · exact goesOn_ite.2 ⟨fun _ => goesOn_andPrefixed (goesOn_issueNew (p := { p with wait := none }) ht _) .., fun _ => goesOn_next _⟩
  · rename_i w _ _
    obtain ⟨c, hc⟩ := atWord_ctx (p := { p with pfx := w.pfx }) ht w.word w.addr p.pc w.next
    exact goesOn_runFetched hc _
  · exact goesOn_andPrefixed (goesOn_issueNew ht _) ..

theorem sameRoster_noteIssue (s : State) (g : Group) (t : Team) : SameRoster s (s.noteIssue g t) := by
  simp only [SameRoster, State.noteIssue, State.putCore, and_self]

theorem goesOn_issue {s : State} {g : Group} {p : Path} (h : Issuable s g p.pid) (t : Team) : GoesOn (s.issue g t p) :=
  goesOn_issuePath (h.of_sameRoster (sameRoster_noteIssue ..)) t

/-! ### The path that issues by default -/

theorem leastBy_mem {α : Type} {key : α → Nat} {l : List α} {a : α} (h : leastBy key l = some a) : a ∈ l := by
  induction l generalizing a with
  | nil => cases h
  | cons b l ih =>
    unfold leastBy at h
    split at h
    · split at h
      · cases h
        exact .tail _ (ih ‹_›)
      · cases h
        exact .head _
    · cases h
      exact .head _

theorem partitionChoice_mem {s : State} {last : Nat} {l : List (Group × Team × Path)} {x : Group × Team × Path}
    (h : s.partitionChoice last l = some x) : x ∈ l := by
  unfold State.partitionChoice at h
  extract_lets since old at h
  split at h
  · exact List.mem_of_mem_filter (leastBy_mem h)
  · split at h
    · cases h
    · exact List.mem_of_mem_filter (List.mem_of_mem_filter (leastBy_mem h))

theorem nextIssue_mem {s : State} {x : Group × Team × Path} (h : s.nextIssue = some x) : x ∈ s.readyPaths := by
  unfold State.nextIssue at h
  extract_lets l at h
  split at h
  · cases h
  · exact List.mem_of_mem_filter (partitionChoice_mem h)

theorem find_key_of_mem {α : Type} {key : α → Nat} {l : List α} {a : α} (h : a ∈ l) : ∃ b, l.find? (fun b => key b == key a) = some b :=
  Option.isSome_iff_exists.1 (List.find?_isSome.2 ⟨a, h, beq_self_eq_true _⟩)

theorem issuable_of_nextIssue {s : State} {g : Group} {t : Team} {p : Path} (h : s.nextIssue = some (g, t, p)) :
    Issuable s g p.pid := by
  obtain ⟨k, hk, hx⟩ := List.mem_flatMap.1 (nextIssue_mem h)
  split at hx
  · rename_i u hu
    obtain ⟨q, hq, heq⟩ := List.mem_map.1 hx
    cases heq
    exact ⟨find_key_of_mem hk, find_key_of_mem (List.mem_of_mem_filter hq), t, hu⟩
  · cases hx

/-! ### Every step -/

theorem goesOn_settled {o : Out} (h : GoesOn o) : GoesOn (settled o) := by
  obtain ⟨s, rfl⟩ := h
  exact goesOn_next _

theorem goesOn_runTurn (s : State) (turn : Turn) : GoesOn (runTurn s turn) := by
  cases turn with
  | pass n => exact goesOn_next _
  | late b => exact goesOn_next _
  | land k => exact goesOn_next _
  | event i a =>
    refine goesOn_ite.2 ⟨fun _ => goesOn_next _, fun hw => goesOn_settled (exec_event_goesOn _ _ ?_)⟩
    simpa using hw
  | issue gid pid =>
    dsimp only [runTurn]
    split
    · exact goesOn_next _
    · split
      · exact goesOn_ite.2 ⟨fun _ => goesOn_settled (goesOn_issue (issuable_of_found ‹_› ‹_› ‹_›) _), fun _ => goesOn_next _⟩
      · exact goesOn_next _

theorem goesOn_step (s : State) : GoesOn (step s) := by
  unfold step
  split
  · exact goesOn_runTurn ..
  · split
    · exact goesOn_settled (goesOn_issue (issuable_of_nextIssue ‹_›) _)
    · exact goesOn_next _

/-- Settles O58: a word goes on where a path is in hand, an event always, and a step runs a word only with its path in hand. -/
theorem everyStepGoesOn : Obligations.EveryStepGoesOn := by
  refine ⟨goesOn_step, fun i s c h => ?_, fun i s hw => exec_event_goesOn i s hw, fun i s hw h => exec_noPath hw h⟩
  cases hw : isWord i with
  | false => exact exec_event_goesOn i s hw
  | true => exact exec_word_goesOn hw h

end Sys2Proof.InstructionWords
end

section
/-! PROOFS. Launching (06_launching.md): bytes at the home slices. Numbers as bytes, what a write of the part or of the host leaves of
memory, how the writes on their way reach it, and what a doorbell does (R2, R345, R352, R356). -/

namespace Sys2Proof.Launching

open Sys2Proof.Machine Sys2Proof.Safety Sys2Proof.Claims Sys2Proof.Laws

/-! ### Numbers as bytes (R2) -/

@[simp] theorem natBytes_length (n v : Nat) : (natBytes n v).length = n := by simp [natBytes]

@[simp] theorem memBytes_length (m : Memory) (a n : Nat) : (memBytes m a n).length = n := by simp [memBytes]

theorem natBytes_succ (n v : Nat) : natBytes (n + 1) v = BitVec.ofNat 8 v :: natBytes n (v / 256) := by
  simp [natBytes, List.range_succ_eq_map, pow_succ', Nat.div_div_eq_div_mul, Function.comp_def]

theorem natBytes_take {n k : Nat} (h : k ≤ n) (v : Nat) : (natBytes n v).take k = natBytes k v := by
  rw [natBytes, ← List.map_take, List.take_range, Nat.min_eq_left h, natBytes]

theorem bytesNat_natBytes (n v : Nat) : bytesNat (natBytes n v) = v % 256 ^ n := by
  induction n generalizing v with
  | zero => simp [natBytes, bytesNat, Nat.mod_one]
  | succ n ih => rw [natBytes_succ, bytesNat, ih, BitVec.toNat_ofNat,
      show 256 ^ (n + 1) = 256 * 256 ^ n from pow_succ' .., Nat.mod_mul]

/-- Two memories that hold the same bytes of a range read the same number there. -/
theorem memNat_congr {m m' : Memory} {a n : Nat} (h : ∀ x, a ≤ x → x < a + n → memGet m' x = memGet m x) :
    memNat m' a n = memNat m a n := by
  have same : memBytes m' a n = memBytes m a n :=
    List.map_congr_left fun i hi => h _ (Nat.le_add_right ..) (Nat.add_lt_add_left (List.mem_range.1 hi) a)
  rw [memNat, same, memNat]

/-- A range that holds some bytes reads as their number. -/
theorem memNat_of_bytes {m : Memory} {a : Nat} {bs : List Byte} (h : ∀ i, i < bs.length → memGet m (a + i) = bs.getD i 0#8) :
    memNat m a bs.length = bytesNat bs := by
  have bytes : memBytes m a bs.length = bs := by
    refine List.ext_getElem (by simp) fun i _ hi => ?_
    simpa [memBytes, hi] using h i hi
  rw [memNat, bytes]

/-- A number among bytes that have been written. -/
theorem memNat_put (m : Memory) (a k n : Nat) (bs : List Byte) (h : k + n ≤ bs.length) :
    memNat (memPut m a bs) (a + k) n = bytesNat ((bs.drop k).take n) := by
  have len : ((bs.drop k).take n).length = n := by simp; omega
  conv_lhs => rw [← len]
  refine memNat_of_bytes fun i hi => ?_
  rw [len] at hi
  have sub : a + k + i - a = k + i := by omega
  rw [memGet_put, if_pos ⟨by omega, by omega⟩, sub]
  simp [List.getD_eq_getElem?_getD, hi, emptyByte]

/-! ### States that differ in memory alone -/

/-- What a write at a home slice changes beside memory. -/
theorem memOnly_mk (s : State) (mem : Memory) (mcasts : List McastEntry) (bad : List BadSector) (l2 : List L2Line) (zipped : List Nat) :
    MemOnly s { s with mem := mem, mcasts := mcasts, bad := bad, l2 := l2, zipped := zipped } := rfl

@[simp] theorem memOnly_refl (s : State) : MemOnly s s := rfl

section
variable {s t u : State}

theorem memOnly_trans (h : MemOnly s t) (k : MemOnly t u) : MemOnly s u := by
  unfold MemOnly at h k ⊢
  rw [k, h]

theorem memOnly_symm (h : MemOnly s t) : MemOnly t s := by
  unfold MemOnly at h ⊢
  rw [h]

/-- A change of what is on its way, the same on both sides. -/
theorem memOnly_flights (h : MemOnly s t) (l : List Flight) : MemOnly { s with flights := l } { t with flights := l } := by
  unfold MemOnly at h ⊢
  rw [h]

theorem memOnly_fe_eq (h : MemOnly s t) : t.fe = s.fe := by rw [h]
theorem memOnly_parts_eq (h : MemOnly s t) : t.parts = s.parts := by rw [h]
theorem memOnly_arg_eq (h : MemOnly s t) : t.arg = s.arg := by rw [h]
theorem memOnly_images_eq (h : MemOnly s t) : t.images = s.images := by rw [h]
theorem memOnly_copies_eq (h : MemOnly s t) : t.copies = s.copies := by rw [h]

end

theorem inTable_congr {s t : State} (h : t.parts = s.parts) : t.inTable = s.inTable := by
  cases s
  cases t
  cases h
  rfl

theorem rbAddr_congr {s t : State} (h : t.parts = s.parts) : t.rbAddr = s.rbAddr := by
  funext p q
  simp only [State.rbAddr, State.part, h]

/-! ### A write at the home slices -/

theorem writable_length (s : State) (pa : Nat) (bs : List Byte) : (s.writable pa bs).length = bs.length := List.length_mapIdx

/-- The bytes that a write of any party but the device leaves there (R345). -/
theorem memGet_writable (s : State) (pa : Nat) (bs : List Byte) (a : Nat) :
    memGet (memPut s.mem pa (s.writable pa bs)) a =
      if pa ≤ a ∧ a < pa + bs.length ∧ s.inTable a = false then bs.getD (a - pa) 0#8 else memGet s.mem a := by
  rw [memGet_put, writable_length]
  by_cases inside : pa ≤ a ∧ a < pa + bs.length
  · have hi : a - pa < bs.length := by omega
    have at_ : pa + (a - pa) = a := by omega
    rw [if_pos inside]
    by_cases table : s.inTable a = true <;> simp [State.writable, hi, at_, table, inside, emptyByte]
  · rw [if_neg inside, if_neg fun h => inside ⟨h.1, h.2.1⟩]

/-- A write puts its bytes there, but for those of a region binding table. -/
theorem writePhys_wrote (s : State) (pa : Nat) (bs : List Byte) : Wrote s pa bs (s.writePhys pa bs) :=
  ⟨memOnly_mk .., memGet_writable s pa bs⟩

theorem l2Reach_memOnly (s : State) (x : Xlat) (pa : Nat) : MemOnly s (s.l2Reach x pa) ∧ (s.l2Reach x pa).mem = s.mem := by
  unfold State.l2Reach
  split
  · exact ⟨rfl, rfl⟩
  split
  · exact ⟨rfl, rfl⟩
  extract_lets set put
  repeat' split
  all_goals exact ⟨rfl, rfl⟩

/-- So it does under a page's attributes. -/
theorem writeHome_wrote (s : State) (x : Xlat) (pa : Nat) (bs : List Byte) : Wrote s pa bs (s.writeHome x pa bs) := by
  have reach (s1 : State) (h : MemOnly s s1 ∧ s1.mem = s.mem) (t : State) (ht : Wrote s1 pa bs t) : Wrote s pa bs t := by
    obtain ⟨only, mem⟩ := h
    exact ⟨memOnly_trans only ht.1, by rw [← mem, ← inTable_congr (memOnly_parts_eq only)]; exact ht.2⟩
  unfold State.writeHome
  extract_lets s1
  have h1 : MemOnly s s1 ∧ s1.mem = s.mem := by
    simp only [s1]
    split
    · exact ⟨rfl, rfl⟩
    · exact l2Reach_memOnly ..
  split
  · exact reach s1 h1 _ ⟨memOnly_mk .., memGet_writable s1 pa bs⟩
  · exact reach s1 h1 _ (writePhys_wrote ..)

theorem arrive_wrote (s : State) (f : Flight) : Wrote s f.pa f.bytes (s.arrive f) := by
  unfold State.arrive
  split
  · exact writeHome_wrote ..
  · exact writePhys_wrote ..

/-- Every byte of a range is the same in two states. -/
def SameBytes (s t : State) (a n : Nat) : Prop := ∀ x, a ≤ x → x < a + n → memGet t.mem x = memGet s.mem x

section
variable {s t u : State} {a b n k : Nat}

theorem sameBytes_trans (h : SameBytes s t a n) (h' : SameBytes t u a n) : SameBytes s u a n :=
  fun x lo hi => (h' x lo hi).trans (h x lo hi)

theorem sameBytes_sub (h : SameBytes s t b k) (lo : b ≤ a) (hi : a + n ≤ b + k) : SameBytes s t a n :=
  fun x l r => h x (by omega) (by omega)

theorem memNat_of_sameBytes (h : SameBytes s t a n) : memNat t.mem a n = memNat s.mem a n := memNat_congr h

theorem feNat_of_sameBytes (h : SameBytes s t a n) : t.feNat a n = s.feNat a n := by
  rw [State.feNat, State.feNat, memNat_of_sameBytes h]

/-- A range apart from a write keeps its bytes. -/
theorem wrote_sameBytes {bs : List Byte} (h : Wrote s b bs t) (apart : a + n ≤ b ∨ b + bs.length ≤ a) : SameBytes s t a n :=
  fun x lo hi => by rw [h.2, if_neg fun c => by omega]

/-- A number written outside the tables is read back. -/
theorem wrote_memNat {v : Nat} (h : Wrote s a (natBytes n v) t) (off : OffTables s [(a, n)]) : memNat t.mem a n = v % 256 ^ n := by
  have read : memNat t.mem a (natBytes n v).length = bytesNat (natBytes n v) := memNat_of_bytes fun i hi => by
    have out := off _ List.mem_cons_self (a + i) (Nat.le_add_right ..) (by simpa using hi)
    rw [h.2, if_pos ⟨Nat.le_add_right .., by omega, out⟩, Nat.add_sub_cancel_left]
  rwa [bytesNat_natBytes, natBytes_length] at read

end

theorem feNat_eq {s : State} {a n : Nat} (h : a + n ≤ hbmTop) : s.feNat a n = memNat s.mem a n := if_pos h

/-- The front end writes a number in HBM. -/
theorem fePut_wrote {s : State} {a n : Nat} (h : a + n ≤ hbmTop) (v : Nat) : Wrote s a (natBytes n v) (s.fePut a n v) := by
  rw [State.fePut, if_pos (show a + n ≤ hbmBytes from h)]
  exact writePhys_wrote ..

theorem fePut_memOnly (s : State) (a n v : Nat) : MemOnly s (s.fePut a n v) := by
  unfold State.fePut
  split
  · exact (writePhys_wrote ..).1
  · exact memOnly_refl s

@[simp] theorem fePut_fe (s : State) (a n v : Nat) : (s.fePut a n v).fe = s.fe := memOnly_fe_eq (fePut_memOnly ..)

theorem fePut_sameBytes {s : State} {a n b k : Nat} (v : Nat) (apart : a + n ≤ b ∨ b + k ≤ a) : SameBytes s (s.fePut b k v) a n := by
  unfold State.fePut
  split
  · exact wrote_sameBytes (writePhys_wrote ..) (by simpa using apart)
  · exact fun _ _ _ => rfl

/-! ### Writes on their way reach their homes (R352, R356) -/

/-- A byte with a write laid over it. -/
def laid (f : Flight) (a : Nat) (b : Byte) : Byte :=
  if f.pa ≤ a ∧ a < f.pa + f.bytes.length then f.bytes.getD (a - f.pa) b else b

theorem lay_one (f : Flight) (a : Nat) (b : Byte) : f.lay a [b] = [laid f a b] := by simp [Flight.lay, laid]

theorem foldl_lay_one (l : List Flight) (a : Nat) (b : Byte) :
    l.foldl (fun bs f => f.lay a bs) [b] = [l.foldl (fun b f => laid f a b) b] := by
  induction l generalizing b with
  | nil => rfl
  | cons f l ih => rw [List.foldl_cons, lay_one, ih, List.foldl_cons]

theorem arrive_mem (s : State) (f : Flight) (a : Nat) :
    memGet (s.arrive f).mem a = if s.inTable a = true then memGet s.mem a else laid f a (memGet s.mem a) := by
  rw [(arrive_wrote s f).2, laid]
  by_cases table : s.inTable a = true
  · simp [table]
  · by_cases inside : f.pa ≤ a ∧ a < f.pa + f.bytes.length
    · have hi : a - f.pa < f.bytes.length := by omega
      simp [table, inside, hi]
    · rw [if_neg fun h => inside ⟨h.1, h.2.1⟩, if_neg table, if_neg inside]

/-- Writes that arrive one after another, the oldest first. -/
theorem foldl_arrive (l : List Flight) (s : State) : MemOnly s (l.foldl State.arrive s) ∧
    ∀ a, memGet (l.foldl State.arrive s).mem a =
      if s.inTable a = true then memGet s.mem a else l.foldl (fun b f => laid f a b) (memGet s.mem a) := by
  induction l generalizing s with
  | nil => exact ⟨rfl, fun a => (ite_self _).symm⟩
  | cons f l ih =>
    obtain ⟨only, mem⟩ := ih (s.arrive f)
    have first := (arrive_wrote s f).1
    refine ⟨memOnly_trans first only, fun a => ?_⟩
    rw [List.foldl_cons, mem, inTable_congr (memOnly_parts_eq first), arrive_mem]
    split <;> simp

theorem landThose_mem (s : State) (which : Flight → Bool) (a : Nat) : memGet (s.landThose which).mem a =
    if s.inTable a = true then memGet s.mem a else (s.flights.filter which).foldl (fun b f => laid f a b) (memGet s.mem a) :=
  (foldl_arrive _ _).2 a

theorem landThose_landed (s : State) (which : Flight → Bool) : Landed s which (s.landThose which) :=
  ⟨(foldl_arrive _ _).1, fun a => by simp only [foldl_lay_one, List.headD_cons]; exact landThose_mem s which a⟩

theorem foldl_laid_apart {l : List Flight} {a : Nat} (h : ∀ f ∈ l, a < f.pa ∨ f.pa + f.bytes.length ≤ a) (b : Byte) :
    l.foldl (fun b f => laid f a b) b = b := by
  induction l generalizing b with
  | nil => rfl
  | cons f l ih =>
    have miss : laid f a b = b := if_neg fun c => by have := h f List.mem_cons_self; omega
    rw [List.foldl_cons, miss, ih fun g hg => h g (List.mem_cons_of_mem _ hg)]

/-- A range apart from the writes that land keeps its bytes. -/
theorem landThose_sameBytes {s : State} {which : Flight → Bool} {a n : Nat}
    (apart : ∀ f ∈ s.flights, which f = true → f.pa + f.bytes.length ≤ a ∨ a + n ≤ f.pa) :
    SameBytes s (s.landThose which) a n := by
  intro x lo hi
  rw [landThose_mem, foldl_laid_apart, ite_self]
  intro f hf
  obtain ⟨mem, lands⟩ := List.mem_filter.1 hf
  have := apart f mem lands
  omega

theorem landThose_sameBytes_of_table {s : State} {which : Flight → Bool} {a n : Nat}
    (table : ∀ x, a ≤ x → x < a + n → s.inTable x = true) : SameBytes s (s.landThose which) a n :=
  fun x lo hi => by rw [landThose_mem, if_pos (table x lo hi)]

/-! ### Entries of the region binding table (R345) -/

theorem rbEntry_congr {s t : State} {part soid : Nat} (parts : t.parts = s.parts) (bytes : SameBytes s t (s.rbAddr part soid) 32) :
    t.rbEntry part soid = s.rbEntry part soid := by
  have addr : t.rbAddr part soid = s.rbAddr part soid := by rw [rbAddr_congr parts]
  have at_ (o n : Nat) (h : o + n ≤ 32) : memNat t.mem (s.rbAddr part soid + o) n = memNat s.mem (s.rbAddr part soid + o) n :=
    memNat_of_sameBytes (sameBytes_sub bytes (by omega) (by omega))
  have h0 := at_ 0 8 (by omega)
  rw [Nat.add_zero] at h0
  simp only [State.rbEntry, parts, addr, h0, at_ 8 8 (by omega), at_ 16 4 (by omega), at_ 20 4 (by omega)]

/-- The entries of a configured partition lie in its table, which no party but the device writes. -/
theorem entry_inTable {s : State} {part soid : Nat} (conf : (s.part part).st ≠ .unconfigured) (h : soid < 4096) :
    ∀ x, s.rbAddr part soid ≤ x → x < s.rbAddr part soid + 32 → s.inTable x = true := by
  intro x lo hi
  have same : s.part (part % 8) = s.part part := by
    simp only [State.part]
    congr 1
    exact Fin.ext (Nat.mod_mod ..)
  rw [State.inTable, List.any_eq_true]
  refine ⟨part % 8, List.mem_range.2 (Nat.mod_lt _ (by decide)), ?_⟩
  rw [State.rbAddr] at lo hi
  simp only [same, Bool.and_eq_true, bne_iff_ne, decide_eq_true_eq]
  exact ⟨conf, by omega, by omega⟩

/-- Fields that fit in an entry (R345). -/
def Fits (e : RbEntry) : Prop := e.base < 2 ^ 57 ∧ e.kind < 2 ^ 3 ∧ e.scope < 2 ^ 3 ∧ e.size < 2 ^ 40 ∧ e.inst < 2 ^ 24

theorem bitsOf_lt (v lo n : Nat) : bitsOf v lo n < 2 ^ n := Nat.mod_lt _ (Nat.two_pow_pos n)

theorem rbEntry_fits (s : State) (part soid : Nat) : Fits (s.rbEntry part soid) := by
  unfold State.rbEntry
  split
  · exact ⟨Nat.two_pow_pos _, Nat.two_pow_pos _, Nat.two_pow_pos _, Nat.two_pow_pos _, Nat.two_pow_pos _⟩
  · exact ⟨bitsOf_lt .., bitsOf_lt .., bitsOf_lt .., bitsOf_lt .., bitsOf_lt ..⟩

/-- The bytes of an entry. -/
def entryBytes (e : RbEntry) : List Byte :=
  natBytes 8 (e.base + 2 ^ 57 * e.kind + 2 ^ 60 * e.scope) ++ natBytes 8 (e.size + 2 ^ 40 * e.inst)
    ++ natBytes 4 e.rels.toNat ++ natBytes 4 e.issued.toNat ++ natBytes 8 0

@[simp] theorem entryBytes_length (e : RbEntry) : (entryBytes e).length = 32 := by simp [entryBytes]

theorem putRb_eq (s : State) (part soid : Nat) (e : RbEntry) :
    s.putRb part soid e = s.writeRaw (s.rbAddr part soid) (entryBytes e) := rfl

theorem writeRaw_mem (s : State) (pa : Nat) (bs : List Byte) : (s.writeRaw pa bs).mem = memPut s.mem pa bs := rfl

theorem putRb_mem (s : State) (part soid : Nat) (e : RbEntry) (a : Nat) : memGet (s.putRb part soid e).mem a =
    if s.rbAddr part soid ≤ a ∧ a < s.rbAddr part soid + 32 then (entryBytes e).getD (a - s.rbAddr part soid) 0#8
    else memGet s.mem a := by
  rw [putRb_eq, writeRaw_mem, memGet_put, entryBytes_length, emptyByte]

theorem writeRaw_memOnly (s : State) (pa : Nat) (bs : List Byte) : MemOnly s (s.writeRaw pa bs) := memOnly_mk ..

theorem putRb_memOnly (s : State) (part soid : Nat) (e : RbEntry) : MemOnly s (s.putRb part soid e) := by
  rw [putRb_eq]
  exact writeRaw_memOnly ..

/-- A number of an entry, read where it has been written. -/
theorem memNat_putRb (s : State) (part soid : Nat) (e : RbEntry) {k n v : Nat} (h : ((entryBytes e).drop k).take n = natBytes n v)
    (inside : k + n ≤ 32) (fits : v < 256 ^ n) : memNat (s.putRb part soid e).mem (s.rbAddr part soid + k) n = v := by
  rw [putRb_eq, writeRaw_mem, memNat_put _ _ _ _ _ (by simpa using inside), h, bytesNat_natBytes, Nat.mod_eq_of_lt fits]

/-- An entry written reads as it was written. -/
theorem rbEntry_putRb {s : State} {part soid : Nat} (conf : (s.part part).st ≠ .unconfigured) {e : RbEntry} (fits : Fits e) :
    (s.putRb part soid e).rbEntry part soid = e := by
  obtain ⟨hbase, hkind, hscope, hsize, hinst⟩ := fits
  have h0 : memNat (s.putRb part soid e).mem (s.rbAddr part soid + 0) 8 = e.base + 2 ^ 57 * e.kind + 2 ^ 60 * e.scope :=
    memNat_putRb s part soid e (by simp [entryBytes]) (by omega) (by omega)
  have h8 : memNat (s.putRb part soid e).mem (s.rbAddr part soid + 8) 8 = e.size + 2 ^ 40 * e.inst :=
    memNat_putRb s part soid e (by simp [entryBytes]) (by omega) (by omega)
  have h16 : memNat (s.putRb part soid e).mem (s.rbAddr part soid + 16) 4 = e.rels.toNat :=
    memNat_putRb s part soid e (by simp [entryBytes, List.drop_append, List.drop_of_length_le]) (by omega) e.rels.isLt
  have h20 : memNat (s.putRb part soid e).mem (s.rbAddr part soid + 20) 4 = e.issued.toNat :=
    memNat_putRb s part soid e (by simp [entryBytes, List.drop_append, List.drop_of_length_le]) (by omega) e.issued.isLt
  have parts := memOnly_parts_eq (putRb_memOnly s part soid e)
  have split0 : (e.base + 2 ^ 57 * e.kind + 2 ^ 60 * e.scope) / 2 ^ 0 % 2 ^ 57 = e.base ∧
      (e.base + 2 ^ 57 * e.kind + 2 ^ 60 * e.scope) / 2 ^ 57 % 2 ^ 3 = e.kind ∧
      (e.base + 2 ^ 57 * e.kind + 2 ^ 60 * e.scope) / 2 ^ 60 % 2 ^ 3 = e.scope := by omega
  have split8 : (e.size + 2 ^ 40 * e.inst) / 2 ^ 0 % 2 ^ 40 = e.size ∧
      (e.size + 2 ^ 40 * e.inst) / 2 ^ 40 % 2 ^ 24 = e.inst := by omega
  rw [Nat.add_zero] at h0
  rw [State.rbEntry, if_neg (by rw [parts]; exact conf)]
  simp only [rbAddr_congr parts, h0, h8, h16, h20, bitsOf, BitVec.ofNat_toNat, BitVec.setWidth_eq, split0, split8]

/-! ### Doorbells (R356) -/

theorem configured_of_kind {s : State} {part soid : Nat} (h : (s.rbEntry part soid).kind = 3) : (s.part part).st ≠ .unconfigured := by
  intro free
  rw [State.rbEntry, if_pos (show (s.parts.get (partIx part)).st = .unconfigured from free)] at h
  cases h

/-- An entry with one more release counted. -/
def released (e : RbEntry) : RbEntry := { e with rels := e.rels + 1#32 }

/-- The writes of an ordering stream that land. -/
theorem ringStream_landed (s : State) (stream : Nat) :
    Landed s (fun f => f.who == .host stream false) (s.ringStream stream) := landThose_landed ..

theorem ringStream_parts (s : State) (stream : Nat) : (s.ringStream stream).parts = s.parts :=
  (memOnly_parts_eq (ringStream_landed s stream).1 :)

theorem ringStream_rbEntry {s : State} {part soid : Nat} (conf : (s.part part).st ≠ .unconfigured) (h : soid < 4096) (stream : Nat) :
    (s.ringStream stream).rbEntry part soid = s.rbEntry part soid :=
  rbEntry_congr (ringStream_parts ..) (landThose_sameBytes_of_table (entry_inTable conf h))

theorem doorbell_of_not_stream {s : State} {part soid : Nat} (h : (s.rbEntry part soid).kind ≠ 3) : s.doorbell part soid = s :=
  if_neg fun c => h c.2

theorem doorbell_of_stream {s : State} {part soid : Nat} (kind : (s.rbEntry part soid).kind = 3) (h : soid < 4096) :
    s.doorbell part soid = (s.ringStream s.arg.stream).putRb part soid (released (s.rbEntry part soid)) := by
  have conf := configured_of_kind kind
  rw [State.doorbell, if_pos ⟨conf, kind⟩, State.performRelease]
  simp only [ringStream_rbEntry conf h, kind, released]
  rfl

theorem doorbell_rings {s : State} {part soid : Nat} (h : soid < 4096) : Rings s part soid (s.doorbell part soid) := by
  unfold Rings
  by_cases kind : (s.rbEntry part soid).kind = 3
  · rw [if_pos kind, doorbell_of_stream kind h]
    have parts := ringStream_parts s s.arg.stream
    have conf : ((s.ringStream s.arg.stream).part part).st ≠ .unconfigured := by
      rw [State.part, parts]
      exact configured_of_kind kind
    refine ⟨_, ringStream_landed s s.arg.stream, putRb_memOnly .., rbEntry_putRb conf (rbEntry_fits s part soid), fun a out => ?_⟩
    rw [putRb_mem, if_neg fun c => by omega]
  · rw [if_neg kind, doorbell_of_not_stream kind]

/-- The writes that are still on their way behind a doorbell. -/
def leftOnWay (s : State) (part soid : Nat) : List Flight :=
  if (s.rbEntry part soid).kind = 3 then s.flights.filter fun f => !(f.who == .host s.arg.stream false) else s.flights

/-- A doorbell leaves all but memory and the writes on their way. -/
theorem doorbell_leaves {s : State} {part soid : Nat} (h : soid < 4096) :
    MemOnly { s with flights := leftOnWay s part soid } (s.doorbell part soid) := by
  unfold leftOnWay
  by_cases kind : (s.rbEntry part soid).kind = 3
  · rw [doorbell_of_stream kind h, if_pos kind]
    exact memOnly_trans (ringStream_landed s s.arg.stream).1 (putRb_memOnly ..)
  · rw [doorbell_of_not_stream kind, if_neg kind]
    exact memOnly_refl s

theorem doorbell_fe {s : State} {part soid : Nat} (h : soid < 4096) : (s.doorbell part soid).fe = s.fe := by
  rw [doorbell_leaves h]

/-- A range apart from the stream's posted writes and from the entry keeps its bytes over a doorbell. -/
theorem doorbell_sameBytes {s : State} {part soid a n : Nat} (h : soid < 4096)
    (apart : ∀ f ∈ s.flights, f.who = .host s.arg.stream false → f.pa + f.bytes.length ≤ a ∨ a + n ≤ f.pa)
    (entry : a + n ≤ s.rbAddr part soid ∨ s.rbAddr part soid + 32 ≤ a) : SameBytes s (s.doorbell part soid) a n := by
  by_cases kind : (s.rbEntry part soid).kind = 3
  · rw [doorbell_of_stream kind h]
    have lands : SameBytes s (s.ringStream s.arg.stream) a n := landThose_sameBytes fun f hf mine => apart f hf (eq_of_beq mine)
    refine sameBytes_trans lands fun x lo hi => ?_
    rw [putRb_mem, rbAddr_congr (ringStream_parts ..), if_neg fun c => by omega]
  · rw [doorbell_of_not_stream kind]
    exact fun _ _ _ => rfl

/-- Two states that agree in a byte, in the entry and in what is on its way agree in that byte after a doorbell. -/
theorem doorbell_mem_congr {s t : State} {part soid a : Nat} (h : soid < 4096) (parts : t.parts = s.parts)
    (flights : t.flights = s.flights) (arg : t.arg = s.arg) (entry : t.rbEntry part soid = s.rbEntry part soid)
    (byte : memGet t.mem a = memGet s.mem a) : memGet (t.doorbell part soid).mem a = memGet (s.doorbell part soid).mem a := by
  by_cases kind : (s.rbEntry part soid).kind = 3
  · rw [doorbell_of_stream kind h, doorbell_of_stream (by rw [entry, kind]) h, putRb_mem, putRb_mem, entry,
      rbAddr_congr (ringStream_parts t _), rbAddr_congr (ringStream_parts s _), rbAddr_congr parts]
    simp only [State.ringStream, landThose_mem, flights, arg, byte, inTable_congr parts]
  · rw [doorbell_of_not_stream kind, doorbell_of_not_stream (by rw [entry]; exact kind), byte]

end Sys2Proof.Launching
end

section
/-! PROOFS. Launching (06_launching.md): the state after reset, and the writes of the host: registers, the mailbox, triggers, device
memory, doorbells and page answers (R113, R116, R356, R414, R417). -/

namespace Sys2Proof.Launching

open Sys2Proof.Machine Sys2Proof.Safety Sys2Proof.Claims Sys2Proof.Laws

/-! ### After reset (R113, R270, R414) -/

theorem part_reset (p : Nat) : State.reset.part p = Partition.reset := Tab.get_const ..
theorem core_reset (k : Nat) : State.reset.core k = Core.reset := Tab.get_const ..

/-- Settles O57, value by value; of the two invariants, a part without memory, teams and groups has nothing to show. -/
theorem stateAfterReset : Obligations.StateAfterReset := by
  have apart : Numbered State.reset :=
    ⟨List.nodup_nil, List.nodup_nil, fun _ hu => absurd hu List.not_mem_nil, fun _ hg => absurd hg List.not_mem_nil⟩
  refine ⟨rfl, apart, rfl, fun d => Tab.get_const .., rfl, rfl, fun i => Tab.get_const .., fun p => ?_, fun k => ?_,
    rfl, rfl, rfl, rfl, rfl⟩
  · rw [part_reset]
    exact ⟨rfl, rfl⟩
  · rw [core_reset]
    rfl

/-! ### Who can reach what -/

theorem dieUp_of {s : State} (h : DiesUp s) : s.dieUp = true := by
  obtain ⟨powered, on, running⟩ := h
  simp [State.dieUp, powered, on, running]

theorem hostUp_of {s : State} (h : HostUp s) : s.hostUp = true := by
  obtain ⟨powered, link, running⟩ := h
  simp [State.hostUp, powered, link, running]

/-! ### Registers (R113, R413) -/

/-- A doubleword written whole. -/
theorem mergeBytes_whole {old : Nat} (h : old < 2 ^ 64) (w : DWord) : mergeBytes 8 old 0 8 w.toNat = w.toNat := by
  have := w.isLt
  simp only [mergeBytes, bitsOf, Nat.sub_zero, Nat.min_self, Nat.mul_zero, Nat.reduceMul, pow_zero, Nat.div_one, Nat.mul_one]
  omega

theorem hitReg_whole {old : Nat} (h : old < 2 ^ 64) (a : Nat) (w : DWord) : hitReg a 8 w.toNat a 8 old = some w.toNat := by
  rw [hitReg, if_pos ⟨Nat.le_refl a, Nat.lt_add_of_pos_right (by decide)⟩, Nat.sub_self, mergeBytes_whole h]

theorem hitReg_miss {a n v at_ size old : Nat} (h : a < at_ ∨ at_ + size ≤ a) : hitReg a n v at_ size old = none :=
  if_neg fun c => by omega

theorem toNat_lt_64 {n : Nat} (x : BitVec n) (h : n ≤ 64 := by decide) : x.toNat < 2 ^ 64 :=
  Nat.lt_of_lt_of_le x.isLt (Nat.pow_le_pow_right (by decide) h)

section
variable (r : HostRegs) (w : DWord)

theorem write_cmdTail (queues : Bool) : r.write queues 0x18 8 w.toNat = { r with cmdTail := w.setWidth 32 } := by
  rw [HostRegs.write, hitReg_whole (toNat_lt_64 _)]
  rfl

/-- While a queue exists, no register but CMDTAIL is written. -/
theorem write_locked {a : Nat} (n v : Nat) (h : a < 0x18 ∨ 0x20 ≤ a) : r.write true a n v = r := by
  rw [HostRegs.write, hitReg_miss (by omega)]
  rfl

theorem write_cmdBase : r.write false 0 8 w.toNat = { r with cmdBase := w.setWidth 57 } := by
  rw [HostRegs.write, hitReg_miss (by omega), hitReg_whole (toNat_lt_64 _)]
  rfl

theorem write_cmdLog2 (lo : 4 ≤ w.toNat % 16) (hi : w.toNat % 16 ≤ 12) :
    r.write false 8 8 w.toNat = { r with cmdLog2 := w.setWidth 4 } := by
  rw [HostRegs.write, hitReg_miss (by omega), hitReg_miss (by omega), hitReg_whole (toNat_lt_64 _)]
  exact if_pos (And.intro lo hi)

theorem write_qtabBase : r.write false 0x20 8 w.toNat = { r with qtabBase := w.setWidth 57 } := by
  rw [HostRegs.write, hitReg_miss (by omega), hitReg_miss (by omega), hitReg_miss (by omega), hitReg_whole (toNat_lt_64 _)]
  rfl

theorem write_prioBase : r.write false 0x28 8 w.toNat = { r with prioBase := w.setWidth 57 } := by
  rw [HostRegs.write, hitReg_miss (by omega), hitReg_miss (by omega), hitReg_miss (by omega), hitReg_miss (by omega),
    hitReg_whole (toNat_lt_64 _)]
  rfl

end

theorem placePrio_other {s : State} {a : Nat} (h : a < 0x28 ∨ 0x30 ≤ a ∨ s.fe.queues ≠ []) : s.placePrio a = s := by
  rw [State.placePrio, if_neg]
  rintro ⟨lo, hi, free, -⟩
  rcases h with h | h | h
  · omega
  · omega
  · exact h (List.isEmpty_iff.1 free)

/-- The table that a write of PRIOBASE places is eight entries at their reset values (R120). -/
theorem prioTable_eq : prioTable = freshTable := by decide +kernel

theorem placePrio_wrote {s : State} (free : s.fe.queues = []) (named : s.fe.regs.prioBase ≠ 0#57)
    (fits : s.fe.regs.prioBase.toNat + 256 ≤ hbmTop) : Wrote s s.fe.regs.prioBase.toNat freshTable (s.placePrio 0x28) := by
  have base : s.fe.regs.prioBase.toNat ≠ 0 := fun h => named (BitVec.eq_of_toNat_eq h)
  have empty : s.fe.queues.isEmpty = true := List.isEmpty_iff.2 free
  rw [State.placePrio, if_pos]
  · rw [← prioTable_eq]
    exact writePhys_wrote ..
  · exact ⟨Nat.le_refl _, by decide, empty, base, fits⟩

/-- The state with other registers of the host control region. -/
def withRegs (s : State) (r : HostRegs) : State := { s with fe := { s.fe with regs := r } }

theorem bar0Write_control {s : State} (up : DiesUp s) {a : Nat} (n v : Nat) (h : a < 0x40000) :
    s.bar0Write a n v = (withRegs s (s.fe.regs.write (!s.fe.queues.isEmpty) a n v)).placePrio a := by
  rw [State.bar0Write, if_pos h, if_pos (dieUp_of up), withRegs]

theorem bar0Write_control_free {s : State} (up : DiesUp s) (free : s.fe.queues = []) {a : Nat} (n v : Nat) (h : a < 0x40000) :
    s.bar0Write a n v = (withRegs s (s.fe.regs.write false a n v)).placePrio a := by
  rw [bar0Write_control up n v h, free]
  rfl

/-- While a queue exists, a write beside CMDTAIL changes nothing. -/
theorem bar0Write_locked {s : State} (up : DiesUp s) (queues : s.fe.queues ≠ []) {a : Nat} (n v : Nat) (h : a < 0x18 ∨ 0x20 ≤ a)
    (low : a < 0x100000) : s.bar0Write a n v = s := by
  by_cases control : a < 0x40000
  · have locked : (!s.fe.queues.isEmpty) = true := by simpa using queues
    rw [bar0Write_control up n v control, locked, write_locked _ _ _ h]
    exact placePrio_other (.inr (.inr queues))
  · rw [State.bar0Write, if_neg control, if_neg (by omega), if_neg (by omega)]

theorem bar0Write_mailbox (s : State) {o : Nat} (n v : Nat) (h : o < 0x60) : s.bar0Write (0x200000 + o) n v =
    { s with svc := { s.svc with host := s.svc.host.write o n v } } := by
  rw [State.bar0Write, if_neg (by omega), if_neg (by omega), if_pos (by omega), Nat.add_sub_cancel_left]

theorem bar0Put_aligned {s : State} {a : Nat} (v : Nat) (h : a % 8 = 0) : s.bar0Put a 8 v = s.bar0Write a 8 v := by
  simp [State.bar0Put, h]

theorem bar0Put_locked {s : State} (up : DiesUp s) (queues : s.fe.queues ≠ []) {a : Nat} (v : Nat) (h : a + 8 ≤ 0x18 ∨ 0x20 ≤ a)
    (low : a < 0x40000) : s.bar0Put a 8 v = s := by
  have stays (a : Nat) (n v : Nat) := bar0Write_locked (a := a) up queues n v
  unfold State.bar0Put
  extract_lets k
  split
  · rw [if_neg (by decide), stays _ _ _ (by omega) (by omega)]
  · rw [stays a _ _ (by omega) (by omega), stays _ _ _ (by omega) (by omega)]

/-- A host write of one doubleword to BAR0. -/
theorem exec_registerWrite {s : State} {w : DWord} (host : HostUp s) (size : s.arg.size = 8) (data : s.arg.data = [w]) :
    exec .registerWrite s = .next (s.bar0Put s.arg.addr 8 w.toNat) := by
  rw [show exec .registerWrite s = execRegisterWrite s from rfl, execRegisterWrite, if_pos (hostUp_of host), size, data]
  rfl

theorem exec_registerWrite_at {s : State} {w : DWord} {a : Nat} (host : HostUp s) (size : s.arg.size = 8) (data : s.arg.data = [w])
    (addr : s.arg.addr = a) (aligned : a % 8 = 0) : exec .registerWrite s = .next (s.bar0Write a 8 w.toNat) := by
  rw [exec_registerWrite host size data, addr, bar0Put_aligned _ aligned]

/-! ### The mailbox (R414) -/

theorem mailbox_write_cmd (m : Mailbox) {i : Nat} (h : i < 8) (w : DWord) :
    m.write (8 * i) 8 w.toNat = { m with cmd := m.cmd.set i w } := by
  have old : dwAt m.cmd i < 2 ^ 64 := toNat_lt_64 _
  rw [Mailbox.write, if_pos (by omega)]
  simp only [Nat.mul_mod_right, Nat.mul_div_cancel_left i (show 0 < 8 by decide), mergeBytes_whole old, BitVec.ofNat_toNat,
    BitVec.setWidth_eq]

theorem mailbox_write_door (m : Mailbox) (n v : Nat) :
    m.write 0x40 n v = if m.job = none then { m with job := some m.cmd, begun := false } else m := by
  simp [Mailbox.write]

/-! ### REGISTER_WRITE -/

/-- Writes of one doubleword to a register of the host control region, or to the mailbox. -/
theorem registerWrite_effects {s : State} {w : DWord} (host : HostUp s) (dies : DiesUp s) (size : s.arg.size = 8)
    (data : s.arg.data = [w]) :
    (s.fe.queues ≠ [] → s.arg.addr < 0x40000 → s.arg.addr + 8 ≤ 0x18 ∨ 0x20 ≤ s.arg.addr → exec .registerWrite s = .next s) ∧
    (s.arg.addr = 0x18 → exec .registerWrite s = .next (withRegs s { s.fe.regs with cmdTail := w.setWidth 32 })) ∧
    (s.fe.queues = [] → s.arg.addr = 0 → exec .registerWrite s = .next (withRegs s { s.fe.regs with cmdBase := w.setWidth 57 })) ∧
    (s.fe.queues = [] → s.arg.addr = 8 → 4 ≤ w.toNat % 16 → w.toNat % 16 ≤ 12 →
      exec .registerWrite s = .next (withRegs s { s.fe.regs with cmdLog2 := w.setWidth 4 })) ∧
    (s.fe.queues = [] → s.arg.addr = 0x20 → exec .registerWrite s = .next (withRegs s { s.fe.regs with qtabBase := w.setWidth 57 })) := by
  have free_write (a : Nat) (r : HostRegs) (free : s.fe.queues = []) (addr : s.arg.addr = a) (aligned : a % 8 = 0) (low : a < 0x28)
      (hr : s.fe.regs.write false a 8 w.toNat = r) : exec .registerWrite s = .next (withRegs s r) := by
    rw [exec_registerWrite_at host size data addr aligned, bar0Write_control_free dies free _ _ (by omega), hr,
      placePrio_other (.inl low)]
  refine ⟨fun queues low beside => ?_, fun addr => ?_, fun free addr => ?_, fun free addr lo hi => ?_, fun free addr => ?_⟩
  · rw [exec_registerWrite host size data, bar0Put_locked dies queues _ beside low]
  · rw [exec_registerWrite_at host size data addr (by decide), bar0Write_control dies _ _ (by decide), write_cmdTail,
      placePrio_other (.inl (by decide))]
  · exact free_write _ _ free addr (by decide) (by decide) (write_cmdBase ..)
  · exact free_write _ _ free addr (by decide) (by decide) (write_cmdLog2 _ _ lo hi)
  · exact free_write _ _ free addr (by decide) (by decide) (write_qtabBase ..)

/-- A write of PRIOBASE places a priority table. -/
theorem registerWrite_prioBase {s : State} {w : DWord} (host : HostUp s) (dies : DiesUp s) (size : s.arg.size = 8)
    (data : s.arg.data = [w]) (free : s.fe.queues = []) (addr : s.arg.addr = 0x28) (named : w.setWidth 57 ≠ 0#57)
    (fits : (w.setWidth 57).toNat + 256 ≤ hbmTop) :
    ∃ t, exec .registerWrite s = .next t ∧ Wrote (basedAt s (w.setWidth 57)) (w.setWidth 57).toNat freshTable t := by
  refine ⟨_, exec_registerWrite_at host size data addr (by decide), ?_⟩
  rw [bar0Write_control_free dies free _ _ (by decide), write_prioBase]
  exact placePrio_wrote (s := basedAt s (w.setWidth 57)) free named fits

theorem registerWrite_mailbox {s : State} {w : DWord} {o : Nat} (host : HostUp s) (size : s.arg.size = 8) (data : s.arg.data = [w])
    (addr : s.arg.addr = 0x200000 + o) (aligned : o % 8 = 0) (h : o < 0x60) : exec .registerWrite s =
      .next { s with svc := { s.svc with host := s.svc.host.write o 8 w.toNat } } := by
  rw [exec_registerWrite_at host size data addr (by omega), bar0Write_mailbox s _ _ h]

/-! ### Queue state blocks (R119, R121) -/

theorem qsb_some {s : State} {q : Nat} {b : Qsb} (h : s.qsb q = some b) :
    s.qtabEntry q ≠ 0 ∧ b = s.qsbAt (bitsOf (s.qtabEntry q) 0 57) := by
  unfold State.qsb at h
  extract_lets a at h
  split at h
  · cases h
  · exact ⟨‹_›, (Option.some.inj h).symm⟩

theorem qsb_hsoid_lt {s : State} {q : Nat} {b : Qsb} (h : s.qsb q = some b) : b.hsoid < 4096 := by
  rw [(qsb_some h).2]
  exact bitsOf_lt _ 16 12

/-- A queue whose table entry is as before has its QSB where it was. -/
theorem qsb_addr_of_entry {s t : State} {q : Nat} {b b' : Qsb} (entry : t.qtabEntry q = s.qtabEntry q) (hb : s.qsb q = some b)
    (hb' : t.qsb q = some b') : b'.addr = b.addr := by
  rw [(qsb_some hb).2, (qsb_some hb').2, entry]
  rfl

theorem setQState_memOnly (s : State) (b : Qsb) (st : Nat) : MemOnly s (s.setQState b st) := fePut_memOnly ..

theorem refresh_memOnly (s : State) (q : Nat) : MemOnly s (s.refresh q) := by
  unfold State.refresh
  split
  · exact memOnly_refl s
  · split <;> exact setQState_memOnly ..

/-- A refresh writes no byte but the one that holds STATE. -/
theorem refresh_sameBytes {s : State} {q a n o : Nat} (h : ∀ b, s.qsb q = some b → b.addr = o)
    (apart : a + n ≤ o + 8 ∨ o + 9 ≤ a) : SameBytes s (s.refresh q) a n := by
  unfold State.refresh
  split
  · exact fun _ _ _ => rfl
  · rename_i b hb
    have := h b hb
    split <;> exact fePut_sameBytes _ (by omega)

/-! ### Triggers (R116) -/

/-- One doubleword of a trigger stored in a ring entry at `a`. -/
def putDword (a : Nat) (s : State) (i : Nat) : State := s.fePut (a + 8 * i) 8 (dwAt s.arg.data i)

/-- The first `k` doublewords of a trigger stored. -/
def putDwords (s : State) (a k : Nat) : State := (List.range k).foldl (putDword a) s

theorem putDwords_succ (s : State) (a k : Nat) : putDwords s a (k + 1) = putDword a (putDwords s a k) k := by
  simp [putDwords, List.range_succ]

theorem putDwords_memOnly (s : State) (a k : Nat) : MemOnly s (putDwords s a k) := by
  induction k with
  | zero => exact memOnly_refl s
  | succ k ih => rw [putDwords_succ]; exact memOnly_trans ih (fePut_memOnly ..)

theorem putDwords_sameBytes (s : State) {a k b n : Nat} (apart : b + n ≤ a ∨ a + 8 * k ≤ b) : SameBytes s (putDwords s a k) b n := by
  induction k with
  | zero => exact fun _ _ _ => rfl
  | succ k ih =>
    rw [putDwords_succ]
    exact sameBytes_trans (ih (by omega)) (fePut_sameBytes _ (by omega))

theorem putDwords_memNat {s : State} {a k : Nat} (fits : a + 8 * k ≤ hbmTop) (off : OffTables s [(a, 8 * k)]) {i : Nat} (hi : i < k) :
    memNat (putDwords s a k).mem (a + 8 * i) 8 = dwAt s.arg.data i := by
  induction k with
  | zero => omega
  | succ k ih =>
    have before := putDwords_memOnly s a k
    have out : ∀ x, a ≤ x → x < a + 8 * (k + 1) → s.inTable x = false := off _ List.mem_cons_self
    rw [putDwords_succ]
    by_cases last : i = k
    · subst last
      have value : dwAt (putDwords s a i).arg.data i < 256 ^ 8 := toNat_lt_64 _
      have offNow : OffTables (putDwords s a i) [(a + 8 * i, 8)] := fun r hr x lo hx => by
        rw [List.mem_singleton.1 hr] at lo hx
        rw [inTable_congr (memOnly_parts_eq before)]
        exact out x (by omega) (by omega)
      rw [putDword, wrote_memNat (fePut_wrote (by omega) _) offNow, Nat.mod_eq_of_lt value, memOnly_arg_eq before]
    · have earlier := ih (by omega) (fun r hr x lo hx => by
        rw [List.mem_singleton.1 hr] at lo hx
        exact out x (by omega) (by omega)) (by omega)
      rw [← earlier]
      exact memNat_of_sameBytes (fePut_sameBytes _ (by omega))

/-- The state with one more trigger in the order of triggers. -/
def withTrigger (s : State) (q : Nat) (b : Qsb) : State := { s with fe := { s.fe with trigs := s.fe.trigs ++ [(q, b.tail)] } }

theorem withTrigger_memOnly {s t : State} (h : MemOnly s t) (q : Nat) (b : Qsb) : MemOnly (withTrigger s q b) (withTrigger t q b) := by
  unfold MemOnly at h ⊢
  rw [h]
  rfl

@[simp] theorem withTrigger_mem (s : State) (q : Nat) (b : Qsb) : (withTrigger s q b).mem = s.mem := rfl
@[simp] theorem withTrigger_parts (s : State) (q : Nat) (b : Qsb) : (withTrigger s q b).parts = s.parts := rfl

/-- A trigger stored in a queue with room, before the doorbell of the queue's object: its entry, its place in the order of triggers,
and TAIL. -/
def stored (s : State) (q : Nat) (b : Qsb) : State :=
  (withTrigger (putDwords s (b.slot b.tail) 8) q b).fePut (b.addr + 0x1C) 4 (b.tail + 1)

theorem stored_memOnly (s : State) (q : Nat) (b : Qsb) : MemOnly (withTrigger s q b) (stored s q b) :=
  memOnly_trans (withTrigger_memOnly (putDwords_memOnly s _ 8) q b) (fePut_memOnly ..)

theorem stored_leaves (s : State) (q : Nat) (b : Qsb) :
    (stored s q b).parts = s.parts ∧ (stored s q b).flights = s.flights ∧ (stored s q b).arg = s.arg := by
  rw [stored_memOnly s q b]
  exact ⟨rfl, rfl, rfl⟩

theorem stored_sameBytes (s : State) (q : Nat) {b : Qsb} {a n : Nat} (entry : a + n ≤ b.slot b.tail ∨ b.slot b.tail + 64 ≤ a)
    (tail : a + n ≤ b.addr + 0x1C ∨ b.addr + 0x20 ≤ a) : SameBytes s (stored s q b) a n := by
  have data : SameBytes s (withTrigger (putDwords s (b.slot b.tail) 8) q b) a n := fun x lo hi => by
    rw [withTrigger_mem, putDwords_sameBytes s entry x lo hi]
  exact sameBytes_trans data (fePut_sameBytes _ (by omega))

theorem window_reached {s : State} (host : HostUp s) (dies : DiesUp s) (lo : 0x40000 ≤ s.arg.addr) (hi : s.arg.addr < 0x80000) :
    (!(s.hostUp && s.dieUp) || decide (s.arg.addr < 0x40000 ∨ 0x80000 ≤ s.arg.addr)) = false := by
  simp [hostUp_of host, dieUp_of dies]
  omega

/-- TRIGGER_WRITE of a trigger, to a queue that exists. -/
theorem exec_triggerWrite {s : State} {b : Qsb} (host : HostUp s) (dies : DiesUp s) (lo : 0x40000 ≤ s.arg.addr) (hi : s.arg.addr < 0x80000)
    (size : s.arg.size = 64) (aligned : s.arg.addr % 64 = 0) (hb : s.qsb ((s.arg.addr - 0x40000) / 64) = some b) :
    exec .triggerWrite s = .next (if b.stored = 2 ^ b.log2 then s.feAdd (b.addr + 0x20) 1
      else ((stored s ((s.arg.addr - 0x40000) / 64) b).doorbell b.home b.hsoid).refresh ((s.arg.addr - 0x40000) / 64)) := by
  rw [show exec .triggerWrite s = execTriggerWrite s from rfl, execTriggerWrite, window_reached host dies lo hi,
    if_neg Bool.false_ne_true]
  simp only [size, aligned, ne_eq, not_true_eq_false, or_self, if_false, hb]
  split <;> rfl

/-- TRIGGER_WRITE of what is no trigger: a wrong size or address, or a queue that does not exist. -/
theorem exec_triggerWrite_bad {s : State} (host : HostUp s) (dies : DiesUp s) (lo : 0x40000 ≤ s.arg.addr) (hi : s.arg.addr < 0x80000)
    (bad : s.arg.size ≠ 64 ∨ s.arg.addr % 64 ≠ 0 ∨ s.qsb ((s.arg.addr - 0x40000) / 64) = none) :
    exec .triggerWrite s = .next (withRegs s { s.fe.regs with trigBad := s.fe.regs.trigBad + 1#32 }) := by
  rw [show exec .triggerWrite s = execTriggerWrite s from rfl, execTriggerWrite, window_reached host dies lo hi,
    if_neg Bool.false_ne_true]
  by_cases shape : s.arg.size ≠ 64 ∨ s.arg.addr % 64 ≠ 0
  · exact if_pos shape
  · have unknown : s.qsb ((s.arg.addr - 0x40000) / 64) = none := by tauto
    simp only [if_neg shape, unknown]
    rfl

section
variable {s : State} {q : Nat} {b : Qsb}

/-- The four ranges of a trigger are apart: the queue table entry, the QSB, the ring entry and the entry of the queue's object. -/
theorem triggerRanges_apart (h : Apart (triggerRanges s q b)) :
    let qtab := s.fe.regs.qtabBase.toNat + 8 * q
    let rb := s.rbAddr b.home b.hsoid
    (qtab + 8 ≤ b.addr ∨ b.addr + 128 ≤ qtab) ∧ (qtab + 8 ≤ b.slot b.tail ∨ b.slot b.tail + 64 ≤ qtab) ∧
      (qtab + 8 ≤ rb ∨ rb + 32 ≤ qtab) ∧ (b.addr + 128 ≤ b.slot b.tail ∨ b.slot b.tail + 64 ≤ b.addr) ∧
      (b.addr + 128 ≤ rb ∨ rb + 32 ≤ b.addr) ∧ (b.slot b.tail + 64 ≤ rb ∨ rb + 32 ≤ b.slot b.tail) := by
  simpa [Apart, triggerRanges, Qsb.slot, and_assoc] using h

/-- The posted writes of the trigger's ordering stream are apart from a range. -/
def StreamApart (s : State) (a n : Nat) : Prop :=
  ∀ f ∈ s.flights, f.who = .host s.arg.stream false → f.pa + f.bytes.length ≤ a ∨ a + n ≤ f.pa

/-- The doorbell of a stored trigger's queue leaves a range apart from the stream's posted writes and from the object's entry. -/
theorem doorbell_stored_sameBytes {a n : Nat} (hsoid : b.hsoid < 4096) (stream : StreamApart s a n)
    (entry : a + n ≤ s.rbAddr b.home b.hsoid ∨ s.rbAddr b.home b.hsoid + 32 ≤ a) :
    SameBytes (stored s q b) ((stored s q b).doorbell b.home b.hsoid) a n := by
  obtain ⟨parts, flights, arg⟩ := stored_leaves s q b
  refine doorbell_sameBytes hsoid ?_ ?_
  · rw [flights, arg]
    exact stream
  · rw [rbAddr_congr parts]
    exact entry

/-- The refresh behind it leaves all but the byte of STATE. -/
theorem refresh_stored_sameBytes {a n : Nat} (hb : s.qsb q = some b) (apart : Apart (triggerRanges s q b))
    (posted : StreamApart s (s.fe.regs.qtabBase.toNat + 8 * q) 8) (state : a + n ≤ b.addr + 8 ∨ b.addr + 9 ≤ a) :
    SameBytes ((stored s q b).doorbell b.home b.hsoid) (((stored s q b).doorbell b.home b.hsoid).refresh q) a n := by
  obtain ⟨qtab_qsb, qtab_slot, qtab_rb, -⟩ := triggerRanges_apart apart
  have hsoid := qsb_hsoid_lt hb
  have kept : SameBytes s ((stored s q b).doorbell b.home b.hsoid) (s.fe.regs.qtabBase.toNat + 8 * q) 8 :=
    sameBytes_trans (stored_sameBytes s q qtab_slot (by omega)) (doorbell_stored_sameBytes hsoid posted qtab_rb)
  have regs : ((stored s q b).doorbell b.home b.hsoid).fe.regs = s.fe.regs := by
    rw [doorbell_leaves hsoid, stored_memOnly]
    rfl
  refine refresh_sameBytes (fun b' hb' => qsb_addr_of_entry ?_ hb hb') state
  rw [State.qtabEntry, State.qtabEntry, regs, feNat_of_sameBytes kept]

/-- The fields of the state behind a stored trigger's doorbell. -/
theorem stored_doorbell_memOnly (hsoid : b.hsoid < 4096) (entry : (stored s q b).rbEntry b.home b.hsoid = s.rbEntry b.home b.hsoid) :
    MemOnly (withTrigger (s.doorbell b.home b.hsoid) q b) ((stored s q b).doorbell b.home b.hsoid) := by
  obtain ⟨-, flights, arg⟩ := stored_leaves s q b
  have left : leftOnWay (stored s q b) b.home b.hsoid = leftOnWay s b.home b.hsoid := by
    rw [leftOnWay, leftOnWay, entry, flights, arg]
  have rung := doorbell_leaves (s := stored s q b) (part := b.home) hsoid
  rw [left] at rung
  exact memOnly_trans (memOnly_symm (withTrigger_memOnly (doorbell_leaves hsoid) q b))
    (memOnly_trans (memOnly_flights (stored_memOnly s q b) _) rung)

theorem stored_tail (fits : b.addr + 128 ≤ hbmTop) (off : OffTables s [(b.addr, 128)]) :
    memNat (stored s q b).mem (b.addr + 0x1C) 4 = (b.tail + 1) % 2 ^ 32 := by
  have parts : (withTrigger (putDwords s (b.slot b.tail) 8) q b).parts = s.parts := by
    rw [withTrigger_parts, memOnly_parts_eq (putDwords_memOnly s _ 8)]
  refine wrote_memNat (fePut_wrote (by omega) _) fun r hr x lo hi => ?_
  rw [List.mem_singleton.1 hr] at lo hi
  rw [inTable_congr parts]
  exact off _ List.mem_cons_self x (by omega) (by omega)

theorem stored_data (slot : b.slot b.tail + 64 ≤ hbmTop) (off : OffTables s [(b.slot b.tail, 64)])
    (apart : b.addr + 128 ≤ b.slot b.tail ∨ b.slot b.tail + 64 ≤ b.addr) {i : Nat} (hi : i < 8) :
    memNat (stored s q b).mem (b.slot b.tail + 8 * i) 8 = dwAt s.arg.data i := by
  rw [stored, memNat_of_sameBytes (fePut_sameBytes _ (by omega)), withTrigger_mem, putDwords_memNat slot off hi]

/-- A trigger stored: its entry and TAIL are written, and beside those, the QSB and what the queue's doorbell does, no byte changes. -/
theorem trigger_effects (hb : s.qsb q = some b) (fits : b.addr + 128 ≤ hbmTop) (apart : Apart (triggerRanges s q b))
    (off : OffTables s ((triggerRanges s q b).take 3)) (posted : ∀ r ∈ triggerRanges s q b, StreamApart s r.1 r.2)
    (slot : b.slot b.tail + 64 ≤ hbmTop) (t : State) (ht : t = ((stored s q b).doorbell b.home b.hsoid).refresh q) :
    Rings s b.home b.hsoid (s.doorbell b.home b.hsoid) ∧ MemOnly (withTrigger (s.doorbell b.home b.hsoid) q b) t ∧
      memNat t.mem (b.addr + 0x1C) 4 = (b.tail + 1) % 2 ^ 32 ∧
      (∀ i, i < 8 → memNat t.mem (b.slot b.tail + 8 * i) 8 = dwAt s.arg.data i) ∧
      ∀ a, (∀ r ∈ (triggerRanges s q b).take 3, a < r.1 ∨ r.1 + r.2 ≤ a) →
        memGet t.mem a = memGet (s.doorbell b.home b.hsoid).mem a := by
  obtain ⟨qtab_qsb, qtab_slot, qtab_rb, qsb_slot, qsb_rb, slot_rb⟩ := triggerRanges_apart apart
  obtain ⟨parts, flights, arg⟩ := stored_leaves s q b
  have hsoid := qsb_hsoid_lt hb
  have posted_qtab : StreamApart s (s.fe.regs.qtabBase.toNat + 8 * q) 8 := posted (_, 8) (by simp [triggerRanges])
  have posted_qsb : StreamApart s b.addr 128 := posted (b.addr, 128) (by simp [triggerRanges])
  have posted_slot : StreamApart s (b.slot b.tail) 64 := posted (b.slot b.tail, 64) (by simp [triggerRanges, Qsb.slot])
  have off_qsb : OffTables s [(b.addr, 128)] := fun r hr => off r (by simp_all [triggerRanges])
  have off_slot : OffTables s [(b.slot b.tail, 64)] := fun r hr => off r (by simp_all [triggerRanges, Qsb.slot])
  have entry : (stored s q b).rbEntry b.home b.hsoid = s.rbEntry b.home b.hsoid :=
    rbEntry_congr parts (stored_sameBytes s q (by omega) (by omega))
  have refreshed {a n : Nat} := refresh_stored_sameBytes (a := a) (n := n) hb apart posted_qtab
  have behind {a n : Nat} (stream : StreamApart s a n) (entry : a + n ≤ s.rbAddr b.home b.hsoid ∨ s.rbAddr b.home b.hsoid + 32 ≤ a)
      (state : a + n ≤ b.addr + 8 ∨ b.addr + 9 ≤ a) :=
    sameBytes_trans (doorbell_stored_sameBytes hsoid stream entry) (refreshed state)
  subst ht
  refine ⟨doorbell_rings hsoid, memOnly_trans (stored_doorbell_memOnly hsoid entry) (refresh_memOnly ..), ?_,
    fun i hi => ?_, fun a out => ?_⟩
  · rw [memNat_of_sameBytes (behind (fun f hf mine => by have := posted_qsb f hf mine; omega) (by omega) (by omega)),
      stored_tail fits off_qsb]
  · rw [memNat_of_sameBytes (behind (fun f hf mine => by have := posted_slot f hf mine; omega) (by omega) (by omega)),
      stored_data slot off_slot qsb_slot hi]
  · have out_qsb : a < b.addr ∨ b.addr + 128 ≤ a := out (b.addr, 128) (by simp [triggerRanges])
    have out_slot : a < b.slot b.tail ∨ b.slot b.tail + 64 ≤ a := out (b.slot b.tail, 64) (by simp [triggerRanges, Qsb.slot])
    have byte : memGet (stored s q b).mem a = memGet s.mem a :=
      stored_sameBytes s q (a := a) (n := 1) (by omega) (by omega) a (Nat.le_refl a) (Nat.lt_succ_self a)
    have same := refreshed (a := a) (n := 1) (by omega) a (Nat.le_refl a) (Nat.lt_succ_self a)
    rw [same, doorbell_mem_congr hsoid parts flights arg entry byte]
end

/-- TRIGGER_WRITE (R116). -/
theorem triggerWrite_effects {s : State} (host : HostUp s) (dies : DiesUp s) (lo : 0x40000 ≤ s.arg.addr) (hi : s.arg.addr < 0x80000)
    {q : Nat} {b : Qsb} (hq : (s.arg.addr - 0x40000) / 64 = q) (size : s.arg.size = 64) (aligned : s.arg.addr % 64 = 0)
    (hb : s.qsb q = some b) (fits : b.addr + 128 ≤ hbmTop) :
    (b.stored = 2 ^ b.log2 → ∃ t, exec .triggerWrite s = .next t ∧
      Wrote s (b.addr + 0x20) (natBytes 4 (memNat s.mem (b.addr + 0x20) 4 + 1)) t) ∧
    (b.stored < 2 ^ b.log2 → exec .triggerWrite s = .next (((stored s q b).doorbell b.home b.hsoid).refresh q)) := by
  subst hq
  rw [exec_triggerWrite host dies lo hi size aligned hb]
  refine ⟨fun full => ?_, fun room => ?_⟩
  · rw [if_pos full, State.feAdd, feNat_eq (by omega)]
    exact ⟨_, rfl, fePut_wrote (by omega) _⟩
  · rw [if_neg (Nat.ne_of_lt room)]

/-! ### Device memory and doorbells (R345, R356, R412) -/

/-- The bytes of a write of one doubleword or less that lies in device memory. -/
theorem hostBytes_one {pa n : Nat} (w : DWord) (h : n ≤ 8) (fits : pa + n ≤ hbmTop) : hostBytes pa n [w] = natBytes n w.toNat := by
  have room : n ≤ hbmBytes - pa := Nat.le_sub_of_add_le (by rw [Nat.add_comm]; exact fits)
  rw [hostBytes, List.flatMap_singleton, natBytes_take h, List.take_of_length_le (by rw [natBytes_length]; exact room)]

theorem dbellsAt_lt {s : State} {pa n : Nat} {x : Nat × Nat} (h : x ∈ s.dbellsAt pa n) : x.2 < 4096 := by
  obtain ⟨p, -, hx⟩ := List.mem_flatMap.1 h
  split at hx
  · cases hx
  · obtain ⟨soid, -, hs⟩ := List.mem_filterMap.1 hx
    split at hs
    · cases hs
      exact (‹_ ∧ _› : _).1
    · cases hs

/-- The doorbells that a write of a doubleword touches, rung one after another. -/
def rung (s : State) : State := (s.dbellsAt s.arg.addr s.arg.size).foldl (fun s x => s.doorbell x.1 x.2) s

/-- One doorbell at most: rung as it stands, or none. -/
theorem rung_rings {s : State} (one : (s.dbellsAt s.arg.addr s.arg.size).length ≤ 1) :
    (∀ x ∈ s.dbellsAt s.arg.addr s.arg.size, Rings s x.1 x.2 (rung s)) ∧ (s.dbellsAt s.arg.addr s.arg.size = [] → rung s = s) := by
  unfold rung
  have lt {x : Nat × Nat} := dbellsAt_lt (s := s) (pa := s.arg.addr) (n := s.arg.size) (x := x)
  generalize s.dbellsAt s.arg.addr s.arg.size = l at one lt ⊢
  match l, one with
  | [], _ => exact ⟨fun _ hx => absurd hx List.not_mem_nil, fun _ => rfl⟩
  | [y], _ =>
    refine ⟨fun x hx => ?_, fun none => absurd none (List.cons_ne_nil _ _)⟩
    rw [List.mem_singleton.1 hx]
    exact doorbell_rings (lt List.mem_cons_self)

theorem exec_hostPostedWrite {s : State} {w : DWord} (host : HostUp s) (dies : DiesUp s) (size : s.arg.size ≤ 8) (data : s.arg.data = [w])
    (fits : s.arg.addr + s.arg.size ≤ hbmTop) : exec .hostPostedWrite s = .next (if s.arg.flag = true then { rung s with
        flights := (rung s).flights ++ [⟨.host s.arg.stream s.arg.relaxed, s.arg.addr, natBytes s.arg.size w.toNat, none, []⟩] }
      else (rung s).writePhys s.arg.addr (natBytes s.arg.size w.toNat)) := by
  rw [show exec .hostPostedWrite s = execHostPostedWrite s from rfl, execHostPostedWrite]
  simp only [hostUp_of host, dieUp_of dies, Bool.and_self, Bool.not_true, Bool.false_eq_true, if_false, data,
    hostBytes_one w size fits, natBytes_length]
  split <;> rfl

theorem exec_dbell {s : State} (host : HostUp s) (dies : DiesUp s) (part : s.arg.part < 8) (item : s.arg.item < 4096) :
    exec .dbell s = .next (s.doorbell s.arg.part s.arg.item) := by
  rw [show exec .dbell s = execDbell s from rfl, execDbell]
  simp only [hostUp_of host, dieUp_of dies, Bool.and_self, if_true, Nat.mod_eq_of_lt part, Nat.mod_eq_of_lt item]

/-- CMDTAIL alone. -/
theorem exec_cmdtail {s : State} (host : HostUp s) (dies : DiesUp s) :
    exec .cmdtail s = .next (withRegs s { s.fe.regs with cmdTail := (theWord s).setWidth 32 }) := by
  rw [show exec .cmdtail s = execCmdtail s from rfl, execCmdtail]
  simp only [hostUp_of host, dieUp_of dies, Bool.and_self, if_true]
  rfl

/-! ### Page answers and the side band (R417, R419) -/

/-- The requests with an answer put in for one of them. -/
def withAnswer (s : State) (q : FaultReq) (st : Nat) : State :=
  { s with faults := (s.faults.filter fun x => !(x.part == q.part && x.region == q.region)) ++ [{ q with id := none, answer := some st }] }

/-- PRRESP names its request by its ID. -/
theorem exec_prresp {s : State} {q : FaultReq} (host : HostUp s) (dies : DiesUp s)
    (hq : (s.faults.find? fun x => x.id == some ((theWord s).setWidth 32)) = some q) (st : (theWord s).toNat / 2 ^ 32 % 4 ≠ 3) :
    exec .prresp s = .next (withAnswer (s.doorbell q.part s.svc.prhsoid) q ((theWord s).toNat / 2 ^ 32 % 4)) := by
  have named : (s.faults.find? fun x => x.id == some (BitVec.ofNat 32 (s.arg.data.headD 0#64).toNat)) = some q := hq
  have status : bitsOf (s.arg.data.headD 0#64).toNat 32 2 ≠ 3 := st
  rw [show exec .prresp s = execPrresp s from rfl, execPrresp]
  simp only [hostUp_of host, dieUp_of dies, Bool.and_self, Bool.not_true, Bool.false_eq_true, if_false, named, status]
  rfl

theorem prresp_effects {s : State} {q : FaultReq} (host : HostUp s) (dies : DiesUp s) (object : s.svc.prhsoid < 4096)
    (hq : (s.faults.find? fun x => x.id == some ((theWord s).setWidth 32)) = some q) (st : (theWord s).toNat / 2 ^ 32 % 4 ≠ 3) :
    ∃ s1 t, exec .prresp s = .next t ∧ Rings s q.part s.svc.prhsoid s1 ∧
      t = { s1 with faults := (s.faults.filter fun x => !(x.part == q.part && x.region == q.region)) ++
        [{ q with id := none, answer := some ((theWord s).toNat / 2 ^ 32 % 4) }] } := by
  have faults : (s.doorbell q.part s.svc.prhsoid).faults = s.faults := by rw [doorbell_leaves object]
  refine ⟨_, _, exec_prresp host dies hq st, doorbell_rings object, ?_⟩
  rw [withAnswer, faults]

theorem exec_mctpControlMessage (s : State) : exec .mctpControlMessage s =
    .next (if s.arg.flag = true ∧ s.svc.powered = true then { s with svc := { s.svc with dynAddr := some (BitVec.ofNat 7 s.arg.item) } }
      else s) := by
  rw [show exec .mctpControlMessage s = execMctpControlMessage s from rfl, execMctpControlMessage]
  simp only [Bool.and_eq_true]
  split <;> rfl

/-- Settles O40, write by write: each runs to the state that the lemmas above describe. -/
theorem hostWrites : Obligations.HostWrites := by
  refine ⟨fun s host dies lo hi => ⟨exec_triggerWrite_bad host dies lo hi, fun b size aligned hb fits => ?_⟩,
    fun _ => exec_cmdtail, fun s w host dies size data => ?_, fun s w host dies _ size data fits one => ?_,
    fun s host dies part item => ⟨_, exec_dbell host dies part item, doorbell_rings item⟩,
    fun _ _ host dies object hq st => prresp_effects host dies object hq st, fun s => ⟨fun flag powered => ?_, fun off => ?_⟩⟩
  · obtain ⟨full, room⟩ := triggerWrite_effects host dies lo hi rfl size aligned hb fits
    refine ⟨full, fun free apart off posted slot => ?_⟩
    obtain ⟨rings, only, tail, data, rest⟩ :=
      trigger_effects hb fits apart off (fun r hr f hf mine => posted f hf mine r hr) slot _ rfl
    rw [withTrigger, doorbell_fe (qsb_hsoid_lt hb)] at only
    refine ⟨_, _, room free, rings, only, tail, fun i hi => ?_, rest⟩
    rw [List.getD_eq_getElem?_getD]
    exact data i hi
  · obtain ⟨locked, cmdTail, cmdBase, cmdLog2, qtabBase⟩ := registerWrite_effects host dies size data
    refine ⟨locked, cmdTail, cmdBase, cmdLog2, qtabBase, fun free addr => registerWrite_prioBase host dies size data free addr,
      fun i hi addr => ?_, fun addr idle => ?_, fun addr busy => ?_⟩
    · rw [registerWrite_mailbox host size data addr (by omega) (by omega), mailbox_write_cmd _ hi]
    · rw [registerWrite_mailbox (o := 0x40) host size data addr (by decide) (by decide), mailbox_write_door, if_pos idle]
    · rw [registerWrite_mailbox (o := 0x40) host size data addr (by decide) (by decide), mailbox_write_door, if_neg busy]
  · obtain ⟨rings, none⟩ := rung_rings one
    rw [exec_hostPostedWrite host dies size data fits]
    refine ⟨rung s, rings, none, fun now => ?_, fun posted => ?_⟩
    · rw [if_neg (by rw [now]; exact Bool.false_ne_true)]
      exact ⟨_, rfl, writePhys_wrote ..⟩
    · rw [if_pos posted]
  · rw [exec_mctpControlMessage, if_pos ⟨flag, powered⟩]
  · rw [exec_mctpControlMessage, if_neg (by rcases off with h | h <;> simp [h])]

end Sys2Proof.Launching
end

section
/-! PROOFS. Launching (06_launching.md): the commands of the ring. How a command begins and how it is answered, then the loader, graphs,
queues, priorities and copies, each through what it leaves of the front end's records (R39, R114, R115, R440). -/

namespace Sys2Proof.Launching

open Sys2Proof.Machine Sys2Proof.Safety Sys2Proof.Claims Sys2Proof.Laws

/-! ### How a command begins (R114) -/

section
variable {s : State} {op : Nat} {resume : CmdWait → Out} {run : Out}

theorem feCommand_bad (dies : DiesUp s) (some_left : s.fe.regs.cmdHead ≠ s.fe.regs.cmdTail) (idle : s.fe.wait = none)
    (bad : s.cmdBad = true) : feCommand op s resume run = Cmd.done s 0x40 0 := by
  simp [feCommand, dieUp_of dies, some_left, idle, bad]

theorem feCommand_run (h : CommandIs s op) : feCommand op s resume run = run := by
  obtain ⟨dies, some_left, idle, legal, hop⟩ := h
  simp [feCommand, dieUp_of dies, some_left, idle, legal, hop]

theorem feCommand_resume {w : CmdWait} (dies : DiesUp s) (some_left : s.fe.regs.cmdHead ≠ s.fe.regs.cmdTail) (waits : s.fe.wait = some w)
    (hop : s.cmdDw 0 % 256 = op) : feCommand op s resume run = resume w := by
  simp [feCommand, dieUp_of dies, some_left, waits, hop]

end

/-- Every step of a command of the ring begins as one. -/
theorem exec_feCommand {i : Instr} {op : Nat} (h : commandOp i = some op) (s : State) :
    ∃ resume run, exec i s = feCommand op s resume run := by
  unfold commandOp at h
  split at h <;> cases h
  all_goals exact ⟨_, _, rfl⟩

/-! ### How a command is answered (R39, R114) -/

/-- The state with the command at CMDHEAD answered, but for its RESULT and status. -/
def headPast (s : State) : State :=
  { s with fe := { s.fe with wait := none, regs := { s.fe.regs with cmdHead := s.fe.regs.cmdHead + 1#32 } } }

theorem headPast_memOnly {s t : State} (h : MemOnly s t) : MemOnly (headPast s) (headPast t) := by
  unfold MemOnly at h ⊢
  rw [h]
  rfl

@[simp] theorem headPast_mem (s : State) : (headPast s).mem = s.mem := rfl

theorem endCommand_none (s : State) (code index : Nat) :
    s.endCommand code index none = headPast (s.fePut (s.cmdDw 7) 8 (code + 2 ^ 32 * index)) := rfl

theorem endCommand_memOnly (s : State) (code index : Nat) (result : Option Nat) : MemOnly (headPast s) (s.endCommand code index result) := by
  cases result with
  | none => exact headPast_memOnly (fePut_memOnly ..)
  | some r => exact headPast_memOnly (memOnly_trans (fePut_memOnly ..) (fePut_memOnly ..))

/-- The end of a command answers it, whatever it has done to memory and the other records. -/
theorem endCommand_answered {s u : State} (regs : u.fe.regs = s.fe.regs) (code index : Nat) (result : Option Nat) :
    Answered s (u.endCommand code index result) := by
  rw [Answered, memOnly_fe_eq (endCommand_memOnly ..), ← regs]
  exact ⟨rfl, rfl⟩

theorem endCommand_images (s : State) (code index : Nat) (result : Option Nat) : (s.endCommand code index result).images = s.images := by
  rw [endCommand_memOnly]
  rfl

theorem endCommand_copies (s : State) (code index : Nat) (result : Option Nat) : (s.endCommand code index result).copies = s.copies := by
  rw [endCommand_memOnly]
  rfl

/-- The end of a command leaves the other records of the front end. -/
theorem endCommand_fe (s : State) (code index : Nat) (result : Option Nat) : (s.endCommand code index result).fe = (headPast s).fe :=
  memOnly_fe_eq (endCommand_memOnly ..)

theorem endCommand_sameBytes {s : State} {a n : Nat} (code index : Nat) (apart : a + n ≤ s.cmdDw 7 ∨ s.cmdDw 7 + 8 ≤ a) :
    SameBytes s (s.endCommand code index none) a n := fun x lo hi => by
  rw [endCommand_none, headPast_mem, fePut_sameBytes _ apart x lo hi]

/-- A command whose operands are as they were writes its status where the command said. -/
theorem endCommand_status {s u : State} {code index : Nat} (parts : u.parts = s.parts) (at_ : u.cmdDw 7 = s.cmdDw 7) :
    StatusIs s (u.endCommand code index none) code index := by
  intro fits off small
  have written : Wrote u (s.cmdDw 7) (natBytes 8 (code + 2 ^ 32 * index)) (u.fePut (s.cmdDw 7) 8 (code + 2 ^ 32 * index)) :=
    fePut_wrote fits _
  have offNow : OffTables u [(s.cmdDw 7, 8)] := by rwa [OffTables, inTable_congr parts]
  rw [endCommand_none, at_, headPast_mem, wrote_memNat written offNow]
  exact Nat.mod_eq_of_lt small

/-- A command that has changed nothing of memory and the control region is answered with its status. -/
theorem cmdDone_answers {s : State} (code index : Nat) {o : Out} (h : o = Cmd.done s code index) :
    ∃ t, o = .next t ∧ Answered s t ∧ StatusIs s t code index :=
  ⟨_, h, endCommand_answered rfl .., endCommand_status rfl rfl⟩

theorem cmdDw_congr {s t : State} {i : Nat} (regs : t.fe.regs = s.fe.regs) (bytes : SameBytes s t s.cmdAddr 64) (h : i < 8) :
    t.cmdDw i = s.cmdDw i := by
  have addr : t.cmdAddr = s.cmdAddr := by rw [State.cmdAddr, State.cmdAddr, regs]
  rw [State.cmdDw, State.cmdDw, addr, feNat_of_sameBytes (sameBytes_sub bytes (by omega) (by omega))]

/-! ### LOAD and UNLOAD (R37, R38, R440) -/

theorem feZero_memOnly (s : State) (a n : Nat) : MemOnly s (s.feZero a n) := by
  unfold State.feZero
  split
  · exact (writePhys_wrote ..).1
  · exact memOnly_refl s

theorem feCopy_memOnly (s : State) (src dst n : Nat) : MemOnly s (s.feCopy src dst n) := by
  unfold State.feCopy
  split
  · exact (writePhys_wrote ..).1
  · exact memOnly_refl s

theorem foldl_memOnly {α : Type} {f : State → α → State} (h : ∀ s a, MemOnly s (f s a)) (l : List α) (s : State) :
    MemOnly s (l.foldl f s) := by
  induction l generalizing s with
  | nil => exact memOnly_refl s
  | cons a l ih => exact memOnly_trans (h s a) (ih _)

/-- The pages of an image zeroed, and its sections copied. -/
def placed (s : State) (n : Nco) (pa : Nat) : State :=
  (n.sects.filter fun q => loadedKind q.kind).foldl (fun s q => s.feCopy (n.file + q.off) (pa + q.load) q.size)
    (s.feZero pa (pagesOf n.image))

theorem placed_memOnly (s : State) (n : Nco) (pa : Nat) : MemOnly s (placed s n pa) :=
  memOnly_trans (feZero_memOnly ..) (foldl_memOnly (fun _ _ => feCopy_memOnly ..) _ _)

/-- The image that LOAD enters. -/
def imageOf (n : Nco) (base pa : Nat) : Image :=
  ⟨base, n.image, pa, (n.sects.filter fun q => loadedKind q.kind).map fun q => (q.kind, q.load, q.size)⟩

/-- A state whose image map has one image more, of which no core keeps code from before. -/
def withImage (s : State) (img : Image) : State :=
  ({ s with images := s.images ++ [img] } : State).mapCores fun c => c.dropCode img.base (pagesOf img.size)

theorem withImage_fe (s : State) (img : Image) : (withImage s img).fe = s.fe := by simp only [withImage, State.mapCores]
theorem withImage_images (s : State) (img : Image) : (withImage s img).images = s.images ++ [img] := by
  simp only [withImage, State.mapCores]

/-- LOAD of a sound file without a relocation. -/
theorem exec_load {s : State} {n : Nco} {base : Nat} (h : CommandIs s 1) (file : s.readNco (s.cmdDw 1) (s.cmdDw 2) = .ok n)
    (room : s.imageBase n.image = some base) (plain : ((n.sect 8).map fun q => q.size / 24).getD 0 = 0) :
    exec .load s = .next ((withImage (placed s n (s.cmdDw 3)) (imageOf n base (s.cmdDw 3))).endCommand 0 0 (some base)) := by
  have none_left : (((n.sect 8).map fun q => (n.file + q.off, q.size / 24)).getD (0, 0)).2 = 0 := by
    cases hs : n.sect 8 with
    | none => rfl
    | some q => rwa [hs] at plain
  -- the base that is free comes in as a function of its own, so that nothing unfolds the search for it
  obtain ⟨baseFor, free⟩ : ∃ f, s.imageBase = f := ⟨_, rfl⟩
  rw [free] at room
  rw [show exec .load s = execLoad s from rfl, execLoad, feSimple, feCommand_run h]
  simp -zeta only [free]
  simp only [file, room, none_left, State.relocateAll, withImage, placed, imageOf]

theorem exec_load_bad {s : State} {e : Nat × Nat} (h : CommandIs s 1) (file : s.readNco (s.cmdDw 1) (s.cmdDw 2) = .error e) :
    exec .load s = Cmd.done s e.1 e.2 := by
  rw [show exec .load s = execLoad s from rfl, execLoad, feSimple, feCommand_run h]
  simp only [file]

/-- A translation through a page of an image at a base. -/
def throughImage (base size : Nat) (x : Xlat) : Bool := x.fromImage && decide (base ≤ x.vbase ∧ x.vbase < base + pagesOf size)

@[simp] theorem mapCores_mem (s : State) (f : Core → Core) : (s.mapCores f).mem = s.mem := by simp only [State.mapCores]

@[simp] theorem dropXlats_mem (s : State) (p : Xlat → Bool) : (s.dropXlats p).mem = s.mem := by
  simp only [State.dropXlats, mapCores_mem]

theorem dropXlats_core (s : State) (p : Xlat → Bool) (k : Nat) :
    (s.dropXlats p).core k = { s.core k with tlb := (s.core k).tlb.filter fun x => !p x } := by
  simp only [State.dropXlats, State.mapCores, State.core, Tab.get_ofFn]

/-- The state without the image at a base. -/
def withoutImage (s : State) (base : Nat) : State := { s with images := s.images.filter fun i => i.base != base }

/-- UNLOAD of an image that no installed graph names: it waits for its drain. -/
def unloading (s : State) (base size : Nat) : State :=
  { ((withoutImage s base).dropXlats (throughImage base size)).mapCores (fun c => c.dropCode base (pagesOf size)) with
    fe := { s.fe with wait := some (.unload base size) } }

theorem unloading_fields (s : State) (base size : Nat) : (unloading s base size).images = s.images.filter (fun i => i.base != base) ∧
    (unloading s base size).fe = { s.fe with wait := some (.unload base size) } ∧ (unloading s base size).mem = s.mem := by
  refine ⟨?_, rfl, ?_⟩
  · simp only [unloading, withoutImage, State.dropXlats, State.mapCores]
  · simp only [unloading, withoutImage, mapCores_mem, dropXlats_mem]

theorem exec_unload {s : State} {img : Image} (h : CommandIs s 2) (loaded : (s.images.find? fun i => i.base == s.cmdDw 1) = some img)
    (unnamed : s.fe.graphs.find? (s.graphNames (s.cmdDw 1)) = none) : exec .unload s = .next (unloading s (s.cmdDw 1) img.size) := by
  rw [show exec .unload s = execUnload s from rfl, execUnload, feSimple, feCommand_run h]
  simp only [loaded, unnamed, unloading, withoutImage]
  rfl

/-- Every core's TLB keeps the translations that are not through the image. -/
theorem unloading_tlb (s : State) (base size k : Nat) :
    ((unloading s base size).core k).tlb = (s.core k).tlb.filter fun x => !throughImage base size x := by
  have cores : (unloading s base size).core k = (((withoutImage s base).dropXlats (throughImage base size)).core k).dropCode base
    (pagesOf size) := by simp only [unloading, State.mapCores, State.core, Tab.get_ofFn]
  rw [cores, dropXlats_core]
  rfl

theorem throughImage_eq_false {base size : Nat} {x : Xlat} (h : throughImage base size x = false) :
    ¬ (x.fromImage = true ∧ base ≤ x.vbase ∧ x.vbase < base + pagesOf size) := by
  rintro ⟨fromImage, inside⟩
  simp [throughImage, fromImage, inside] at h

/-- The writes under way that go through an image. -/
def throughPages (base size : Nat) (f : Flight) : Bool := f.attr.any (throughImage base size)

theorem exec_unloadDrained {s : State} {base size : Nat} (dies : DiesUp s) (waits : s.fe.wait = some (.unload base size)) :
    exec .unloadDrained s = Cmd.done (s.landThose (throughPages base size)) 0 0 := by
  rw [show exec .unloadDrained s = execUnloadDrained s from rfl, execUnloadDrained]
  simp only [waits, dieUp_of dies, if_true]
  rfl

/-- The status of UNLOAD, where no write under way lies on the command. -/
theorem unloadDrained_answers {s : State} {base size : Nat} (dies : DiesUp s) (waits : s.fe.wait = some (.unload base size))
    (apart : ∀ f ∈ s.flights, f.pa + f.bytes.length ≤ s.cmdAddr ∨ s.cmdAddr + 64 ≤ f.pa) :
    ∃ t, exec .unloadDrained s = .next t ∧ Answered s t ∧ StatusIs s t 0 0 := by
  obtain ⟨only, -⟩ := landThose_landed s (throughPages base size)
  have fe : (s.landThose (throughPages base size)).fe = s.fe := (memOnly_fe_eq only :)
  have command : SameBytes s (s.landThose (throughPages base size)) s.cmdAddr 64 := landThose_sameBytes fun f hf _ => apart f hf
  exact ⟨_, exec_unloadDrained dies waits, endCommand_answered (by rw [fe]) ..,
    endCommand_status (memOnly_parts_eq only :) (cmdDw_congr (by rw [fe]) command (by decide))⟩

/-! ### INSTALL and REMOVE (R31) -/

/-- The state with other installed graphs. -/
def withGraphs (s : State) (l : List Graph) : State := { s with fe := { s.fe with graphs := l } }

/-- A command that changes the installed graphs alone. -/
theorem withGraphs_answers {s : State} {l : List Graph} {code index : Nat} {o : Out} (h : o = Cmd.done (withGraphs s l) code index) :
    ∃ t, o = .next t ∧ Answered s t ∧ StatusIs s t code index ∧ t.fe.graphs = l :=
  ⟨_, h, endCommand_answered rfl .., endCommand_status rfl rfl, by rw [endCommand_fe]; rfl⟩

theorem install_answers {s : State} (h : CommandIs s 3) : let g := s.graphHeader (s.cmdDw 1)
    (s.graphBad g = none → ∃ t, exec .install s = .next t ∧ Answered s t ∧ StatusIs s t 0 0 ∧
      t.fe.graphs = (s.fe.graphs.filter fun h => h.gid != g.gid) ++ [g]) ∧
    ∀ e, s.graphBad g = some e → ∃ t, exec .install s = .next t ∧ Answered s t ∧ StatusIs s t e.1 e.2 ∧ t.fe.graphs = s.fe.graphs := by
  intro g
  have exec_install : exec .install s = match s.graphBad g with
      | some e => Cmd.done s e.1 e.2
      | none => Cmd.done (withGraphs s ((s.fe.graphs.filter fun h => h.gid != g.gid) ++ [g])) 0 0 := by
    rw [show exec .install s = execInstall s from rfl, execInstall, feSimple, feCommand_run h]
    rfl
  exact ⟨fun sound => withGraphs_answers (by rw [exec_install, sound]),
    fun e bad => withGraphs_answers (by rw [exec_install, bad]; rfl)⟩

theorem remove_answers {s : State} (h : CommandIs s 4) :
    ((s.fe.runs.any fun r => r.gid == s.cmdDw 1) = false → ∃ t, exec .remove s = .next t ∧ Answered s t ∧ StatusIs s t 0 0 ∧
      t.fe.graphs = s.fe.graphs.filter fun h => h.gid != s.cmdDw 1) ∧
    ((s.fe.runs.any fun r => r.gid == s.cmdDw 1) = true → ∃ t, exec .remove s = .next t ∧ Answered s t ∧ StatusIs s t 0x26 0 ∧
      t.fe.graphs = s.fe.graphs) := by
  have exec_remove : exec .remove s = if (s.fe.runs.any fun r => r.gid == s.cmdDw 1) = true then Cmd.done s 0x26 0
      else Cmd.done (withGraphs s (s.fe.graphs.filter fun h => h.gid != s.cmdDw 1)) 0 0 := by
    rw [show exec .remove s = execRemove s from rfl, execRemove, feSimple, feCommand_run h]
    rfl
  refine ⟨fun unused => withGraphs_answers ?_, fun used => withGraphs_answers ?_⟩
  · rw [exec_remove, unused, if_neg Bool.false_ne_true]
  · rw [exec_remove, if_pos used]
    rfl

/-! ### Queues (R115, R120 to R122) -/

@[simp] theorem setQState_fe (s : State) (b : Qsb) (st : Nat) : (s.setQState b st).fe = s.fe := memOnly_fe_eq (setQState_memOnly ..)
@[simp] theorem refresh_fe (s : State) (q : Nat) : (s.refresh q).fe = s.fe := memOnly_fe_eq (refresh_memOnly ..)

/-- A QSB that is linked leaves the record of removals. -/
theorem link_fe (s : State) (a p : Nat) : (s.link a p).fe = { s.fe with removed := s.fe.removed.filter fun r => r.1 != a } := by
  simp only [State.link, fePut_fe, apply_ite State.fe, ite_self]

/-- A QSB that is unlinked joins it. -/
theorem unlink_fe (s : State) (a p : Nat) : ∃ l, (s.unlink a p).fe = { s.fe with removed := l } := by
  unfold State.unlink
  extract_lets +onlyGivenNames l pred next s1 s2
  have h1 : s1.fe = s.fe := by
    simp only [s1]
    generalize pred = x
    cases x <;> exact fePut_fe ..
  have h2 : s2.fe = s.fe := by
    simp only [s2, apply_ite State.fe, fePut_fe, h1, ite_self]
  split
  · exact ⟨_, rfl⟩
  · exact ⟨_, by rw [h2]⟩

/-- A QSB that QCREATE clears, and its entry in the queue table. -/
def entered (s : State) (q a : Nat) : State :=
  let s1 := [0, 0x18, 0x20, 0x28].foldl (fun (s : State) o => s.fePut (a + o) 8 0) s
  (s1.setQState (s1.qsbAt a) 0).fePut (s.fe.regs.qtabBase.toNat + 8 * q) 8 a

theorem entered_fe (s : State) (q a : Nat) : (entered s q a).fe = s.fe := by simp [entered]

/-- The state with one queue more. -/
def withQueue (s : State) (q : Nat) : State := { s with fe := { s.fe with queues := q :: s.fe.queues } }

theorem withQueue_fe (s : State) (q : Nat) : (withQueue s q).fe = { s.fe with queues := q :: s.fe.queues } := rfl

theorem exec_qcreate {s : State} (h : CommandIs s 5) (free : s.qtabEntry (s.cmdDw 1) = 0) (sound : s.qsbBad (s.cmdDw 2) = false)
    (may : s.mayLink (s.cmdDw 2) = true) : let u := withQueue (entered s (s.cmdDw 1) (s.cmdDw 2)) (s.cmdDw 1)
    exec .qcreate s = Cmd.done (u.link (s.cmdDw 2) (u.qsbAt (s.cmdDw 2)).prio) 0 0 := by
  intro u
  rw [show exec .qcreate s = execQcreate s from rfl, execQcreate, feSimple, feCommand_run h]
  simp only [free, sound, may, ne_eq, not_true_eq_false, if_false, Bool.false_eq_true, Bool.not_true]
  rfl

theorem qcreate_answers {s : State} (h : CommandIs s 5) (free : s.qtabEntry (s.cmdDw 1) = 0) (sound : s.qsbBad (s.cmdDw 2) = false)
    (may : s.mayLink (s.cmdDw 2) = true) : ∃ t, exec .qcreate s = .next t ∧ Answered s t ∧ t.fe.queues = s.cmdDw 1 :: s.fe.queues ∧
      t.fe.removed = s.fe.removed.filter fun r => r.1 != s.cmdDw 2 := by
  refine ⟨_, exec_qcreate h free sound may, endCommand_answered ?_ .., ?_, ?_⟩
  · rw [link_fe, withQueue_fe, entered_fe]
  · rw [endCommand_fe, headPast, link_fe, withQueue_fe, entered_fe]
  · rw [endCommand_fe, headPast, link_fe, withQueue_fe, entered_fe]

/-- The triggers of a queue leave the order of triggers, but for the one that its run has taken. -/
theorem discardTriggers_memOnly {s : State} {q : Nat} {b : Qsb} (hb : s.qsb q = some b) :
    MemOnly (s.forgetTriggers q fun n => decide ((if (s.activeRun q).isSome = true then 1 else 0) = 1) && n == b.head)
      (s.discardTriggers q) := by
  rw [State.discardTriggers, hb]
  dsimp only
  generalize (if (s.activeRun q).isSome = true then 1 else 0) = keep
  split
  · exact memOnly_refl _
  · exact memOnly_trans (fePut_memOnly ..) (fePut_memOnly ..)

theorem forgetTriggers_fe (s : State) (q : Nat) (keep : Nat → Bool) :
    (s.forgetTriggers q keep).fe = { s.fe with trigs := s.fe.trigs.filter fun t => t.1 != q || keep t.2 } := rfl

theorem discardTriggers_none {s : State} {q : Nat} (h : s.qsb q = none) : s.discardTriggers q = s := by
  rw [State.discardTriggers, h]

theorem discardTriggers_fe (s : State) (q : Nat) : ∃ l, (s.discardTriggers q).fe = { s.fe with trigs := l } ∧
    ∀ b, s.qsb q = some b → (s.activeRun q).isSome = true → l = s.fe.trigs.filter fun x => x.1 != q || x.2 == b.head := by
  cases hb : s.qsb q with
  | none => exact ⟨_, by rw [discardTriggers_none hb], fun b hb' => by cases hb'⟩
  | some b =>
    refine ⟨_, by rw [memOnly_fe_eq (discardTriggers_memOnly hb), forgetTriggers_fe], fun b' hb' active => ?_⟩
    cases hb'
    simp only [active, if_true, decide_true, Bool.true_and]

theorem dropQueue_regs (s : State) (q : Nat) : (s.dropQueue q).fe.regs = s.fe.regs := by
  unfold State.dropQueue
  split
  · rfl
  · rename_i b _
    obtain ⟨l, fe⟩ := unlink_fe (s.setQState b 0) b.addr b.prio
    simp [fe]

/-- QDESTROY of a queue: its triggers go, then it waits for the run, or the queue goes. -/
def destroying (s : State) (q : Nat) : State := (s.discardTriggers q).refresh q

theorem destroying_fe (s : State) (q : Nat) : ∃ l, (destroying s q).fe = { s.fe with trigs := l } ∧
    ∀ b, s.qsb q = some b → (s.activeRun q).isSome = true → l = s.fe.trigs.filter fun x => x.1 != q || x.2 == b.head := by
  rw [destroying, refresh_fe]
  exact discardTriggers_fe s q

theorem activeRun_destroying (s : State) (q : Nat) : (destroying s q).activeRun q = s.activeRun q := by
  obtain ⟨l, fe, -⟩ := destroying_fe s q
  rw [State.activeRun, fe, State.activeRun]

theorem activeRun_isSome (s : State) (q : Nat) : (s.activeRun q).isSome = s.fe.runs.any fun r => r.qidx == q := by
  rw [Bool.eq_iff_iff, State.activeRun, List.find?_isSome, List.any_eq_true]

theorem exec_qdestroy {s : State} (h : CommandIs s 6) : exec .qdestroy s =
    if s.qtabEntry (s.cmdDw 1) = 0 then Cmd.done s 0x41 (s.cmdDw 1)
    else if (s.fe.runs.any fun r => r.qidx == s.cmdDw 1) = true then
      .next { destroying s (s.cmdDw 1) with fe := { (destroying s (s.cmdDw 1)).fe with wait := some (.qdestroy (s.cmdDw 1)) } }
    else Cmd.done ((destroying s (s.cmdDw 1)).dropQueue (s.cmdDw 1)) 0 0 := by
  rw [← activeRun_isSome, ← activeRun_destroying, show exec .qdestroy s = execQdestroy s from rfl, execQdestroy, feCommand_run h]
  rfl

theorem qdestroy_waits {s : State} {b : Qsb} (h : CommandIs s 6) (hb : s.qsb (s.cmdDw 1) = some b)
    (active : (s.fe.runs.any fun r => r.qidx == s.cmdDw 1) = true) : ∃ t, exec .qdestroy s = .next t ∧ t.fe = { s.fe with
      wait := some (.qdestroy (s.cmdDw 1)), trigs := s.fe.trigs.filter fun x => x.1 != s.cmdDw 1 || x.2 == b.head } := by
  obtain ⟨l, fe, kept⟩ := destroying_fe s (s.cmdDw 1)
  rw [exec_qdestroy h, if_neg (qsb_some hb).1, if_pos active]
  refine ⟨_, rfl, ?_⟩
  rw [fe, kept b hb (by rw [activeRun_isSome]; exact active)]

theorem qdestroy_answers {s : State} (h : CommandIs s 6) (idle : (s.fe.runs.any fun r => r.qidx == s.cmdDw 1) = false) :
    ∃ t, exec .qdestroy s = .next t ∧ Answered s t := by
  obtain ⟨l, fe, -⟩ := destroying_fe s (s.cmdDw 1)
  rw [exec_qdestroy h, idle, if_neg Bool.false_ne_true]
  split
  · exact ⟨_, rfl, endCommand_answered rfl ..⟩
  · exact ⟨_, rfl, endCommand_answered (by rw [dropQueue_regs, fe]) ..⟩

/-! ### QPRIO and SETTH (R120, R129, R130) -/

theorem qprio_waits {s : State} {b : Qsb} (h : CommandIs s 7) (hb : s.qsb (s.cmdDw 1) = some b) :
    ∃ t, exec .qprio s = .next t ∧ t.fe.wait = some (.relink (s.cmdDw 1) (s.cmdDw 2)) ∧ t.fe.regs = s.fe.regs := by
  obtain ⟨l, unlinked⟩ := unlink_fe s b.addr b.prio
  rw [show exec .qprio s = execQprio s from rfl, execQprio, feCommand_run h]
  simp only [hb]
  refine ⟨_, rfl, rfl, ?_⟩
  split
  · rfl
  · simp only [unlinked]

/-- The QSB of a queue that QPRIO has removed, back in the list of its new priority, where it is not parked; and the priority in it. -/
def relinked (s : State) (b : Qsb) (p : Nat) : State :=
  let w := s.feNat (b.addr + 8) 1
  (if b.state = 3 then s else s.link b.addr p).fePut (b.addr + 8) 1 (w - w % 8 + p)

theorem relinked_fe (s : State) (b : Qsb) (p : Nat) : ∃ l, (relinked s b p).fe = { s.fe with removed := l } := by
  unfold relinked
  extract_lets w
  rw [fePut_fe]
  split
  · exact ⟨_, rfl⟩
  · exact ⟨_, link_fe ..⟩

theorem exec_qprio_resume {s : State} {q p : Nat} {b : Qsb} (dies : DiesUp s) (some_left : s.fe.regs.cmdHead ≠ s.fe.regs.cmdTail)
    (waits : s.fe.wait = some (.relink q p)) (hop : s.cmdDw 0 % 256 = 7) (hb : s.qsb q = some b) (may : s.mayLink b.addr = true) :
    exec .qprio s = Cmd.done ((relinked s b p).reprioritise q p) 0 0 := by
  rw [show exec .qprio s = execQprio s from rfl, execQprio, feCommand_resume dies some_left waits hop]
  simp only [hb, Option.all_some, may, Bool.true_or, if_true]
  rfl

theorem qprio_answers {s : State} {q p : Nat} {b : Qsb} (dies : DiesUp s) (some_left : s.fe.regs.cmdHead ≠ s.fe.regs.cmdTail)
    (waits : s.fe.wait = some (.relink q p)) (hop : s.cmdDw 0 % 256 = 7) (hb : s.qsb q = some b) (may : s.mayLink b.addr = true) :
    ∃ t, exec .qprio s = .next t ∧ Answered s t ∧ ∀ i, t.fe.lst.get i =
      if (s.fe.lst.get i).st ≠ 0 ∧ (s.fe.lst.get i).qidx = q then { s.fe.lst.get i with prio := p } else s.fe.lst.get i := by
  obtain ⟨l, fe⟩ := relinked_fe s b p
  refine ⟨_, exec_qprio_resume dies some_left waits hop hb may, endCommand_answered ?_ .., fun i => ?_⟩
  · simp only [State.reprioritise, fe]
  · simp only [endCommand_fe, headPast, State.reprioritise, fe, Tab.get_ofFn]

theorem exec_setth {s : State} (h : CommandIs s 8) :
    exec .setth s = Cmd.done (s.fePut (s.prioAt (s.cmdDw 1) + 0x10) 4 (s.cmdDw 2)) 0 0 := by
  rw [show exec .setth s = execSetth s from rfl, execSetth, feSimple, feCommand_run h]

theorem setth_answers {s : State} (h : CommandIs s 8) (fits : s.prioAt (s.cmdDw 1) + 0x14 ≤ hbmTop)
    (apart : Apart [(s.prioAt (s.cmdDw 1) + 0x10, 4), (s.cmdAddr, 64)])
    (status : s.cmdDw 7 + 8 ≤ s.prioAt (s.cmdDw 1) + 0x10 ∨ s.prioAt (s.cmdDw 1) + 0x14 ≤ s.cmdDw 7)
    (off : OffTables s [(s.prioAt (s.cmdDw 1) + 0x10, 4)]) : ∃ t, exec .setth s = .next t ∧ Answered s t ∧ StatusIs s t 0 0 ∧
      memNat t.mem (s.prioAt (s.cmdDw 1) + 0x10) 4 = s.cmdDw 2 % 2 ^ 32 := by
  have beside : s.prioAt (s.cmdDw 1) + 0x10 + 4 ≤ s.cmdAddr ∨ s.cmdAddr + 64 ≤ s.prioAt (s.cmdDw 1) + 0x10 := by
    simpa [Apart] using apart
  have command : SameBytes s (s.fePut (s.prioAt (s.cmdDw 1) + 0x10) 4 (s.cmdDw 2)) s.cmdAddr 64 := fePut_sameBytes _ (by omega)
  have at_ := cmdDw_congr (by rw [fePut_fe]) command (show 7 < 8 by decide)
  refine ⟨_, exec_setth h, endCommand_answered (by rw [fePut_fe]) .., endCommand_status (memOnly_parts_eq (fePut_memOnly ..)) at_, ?_⟩
  rw [memNat_of_sameBytes (endCommand_sameBytes 0 0 (by omega))]
  exact wrote_memNat (fePut_wrote (by omega) _) off

/-! ### COPY (R114) -/

theorem exec_copy_unconfigured {s : State} (h : CommandIs s 9) (conf : (s.part (s.cmdDw 5)).st = .unconfigured) :
    exec .copy s = Cmd.done s 0x43 0 := by
  rw [show exec .copy s = execCopy s from rfl, execCopy, feSimple, feCommand_run h]
  exact if_pos conf

theorem takeSeq_memOnly (s : State) (part soid : Nat) : MemOnly s (s.takeSeq part soid).2 := by
  unfold State.takeSeq
  extract_lets e
  split
  · exact putRb_memOnly ..
  · exact memOnly_refl s

/-- The state in which a copy is started: an ordered release has taken its number. -/
def sequenced (s : State) (part sync : Nat) : State :=
  (if (bitsOf sync 18 1 == 1) = true then s.takeSeq part (bitsOf sync 0 12) else (none, s)).2

theorem sequenced_memOnly (s : State) (part sync : Nat) : MemOnly s (sequenced s part sync) := by
  unfold sequenced
  split
  · exact takeSeq_memOnly ..
  · exact memOnly_refl s

/-- A copy of the front end, as it starts. -/
def newCopy (cid : Nat) (owner : CopyOwner) (part src dst bytes sync : Nat) (relSeq : Option Word) : Copy :=
  { cid := cid, owner := owner, gang := none, core := 0, part := part, kind := 0, ccb := feCcb src dst bytes sync
    acq := bitsOf sync 17 1 == 1, rel := bitsOf sync 18 1 == 1, relSeq := relSeq, acquired := false, done := [], failed := false
    cancelled := false, stopped := false, lowest := false, released := false, fault := none }

/-- It is put behind the copies that there are. -/
theorem feCopyStart_copies (s : State) (owner : CopyOwner) (part src dst bytes sync : Nat) :
    (s.feCopyStart owner part src dst bytes sync).fe = s.fe ∧ ∃ relSeq, (s.feCopyStart owner part src dst bytes sync).copies =
      s.copies ++ [newCopy s.fresh owner part src dst bytes sync relSeq] := by
  have only := sequenced_memOnly s part sync
  rw [← memOnly_fe_eq only, ← memOnly_copies_eq only]
  exact ⟨rfl, _, rfl⟩

theorem feCcb_fields (src dst bytes sync : Nat) : ((feCcb src dst bytes sync).getD 0 0#64).toNat = src % 2 ^ 57 ∧
    ((feCcb src dst bytes sync).getD 1 0#64).toNat = dst % 2 ^ 57 ∧ ((feCcb src dst bytes sync).getD 2 0#64).toNat = bytes % 2 ^ 40 := by
  simp [feCcb, bitsOf]
  omega

theorem copy_starts {s : State} (h : CommandIs s 9) (conf : (s.part (s.cmdDw 5)).st ≠ .unconfigured) :
    ∃ t x, exec .copy s = .next t ∧ t.fe = { s.fe with wait := some .copy } ∧
      t.copies = s.copies ++ [x] ∧ x.owner = .command ∧ x.part = s.cmdDw 5 ∧ x.kind = 0 ∧ x.cid = s.fresh ∧ x.done = [] ∧
      x.acq = (s.cmdDw 4 / 2 ^ 17 % 2 == 1) ∧ x.rel = (s.cmdDw 4 / 2 ^ 18 % 2 == 1) ∧
      (x.ccb.getD 0 0#64).toNat = s.cmdDw 1 % 2 ^ 57 ∧ (x.ccb.getD 1 0#64).toNat = s.cmdDw 2 % 2 ^ 57 ∧
      (x.ccb.getD 2 0#64).toNat = s.cmdDw 3 % 2 ^ 40 := by
  obtain ⟨fe, relSeq, copies⟩ := feCopyStart_copies s .command (s.cmdDw 5) (s.cmdDw 1) (s.cmdDw 2) (s.cmdDw 3) (s.cmdDw 4)
  rw [show exec .copy s = execCopy s from rfl, execCopy, feSimple, feCommand_run h]
  refine ⟨_, _, if_neg conf, ?_, copies, rfl, rfl, rfl, rfl, rfl, rfl, rfl, feCcb_fields ..⟩
  rw [fe]

/-- Settles O41, command by command. -/
theorem ringCommands : Obligations.RingCommands := by
  refine ⟨fun i op hi s dies left idle bad => ?_, fun s n base h file room plain => ?_, fun s e h file => ?_,
    fun s img h loaded unnamed => ?_,
    fun s a n => unloadDrained_answers, fun s => install_answers, fun s => remove_answers, fun s => qcreate_answers,
    fun s b => qdestroy_waits, fun s => qdestroy_answers, fun s b => qprio_waits, fun s q p b => qprio_answers, fun s => setth_answers,
    fun s h => ⟨fun conf => ?_, copy_starts h⟩⟩
  · obtain ⟨resume, run, command⟩ := exec_feCommand hi s
    exact cmdDone_answers _ _ (command.trans (feCommand_bad dies left idle bad))
  · have placed := placed_memOnly s n (s.cmdDw 3)
    refine ⟨_, exec_load h file room plain, endCommand_answered ?_ .., ?_⟩
    · rw [withImage_fe, memOnly_fe_eq placed]
    · rw [endCommand_images, withImage_images, memOnly_images_eq placed, imageOf]
  · exact ⟨_, exec_load_bad h file, endCommand_answered rfl .., endCommand_status rfl rfl, endCommand_images ..⟩
  · obtain ⟨images, fe, mem⟩ := unloading_fields s (s.cmdDw 1) img.size
    refine ⟨_, exec_unload h loaded unnamed, images, fe, mem, fun k x hx => ?_⟩
    rw [unloading_tlb] at hx
    obtain ⟨held, kept⟩ := List.mem_filter.1 hx
    exact ⟨held, throughImage_eq_false (by simpa using kept)⟩
  · exact ⟨_, exec_copy_unconfigured h conf, endCommand_answered rfl .., endCommand_status rfl rfl, endCommand_copies ..⟩

end Sys2Proof.Launching
end

section
/-! PROOFS. The banker's check (07_placement_and_resources.md, R135, R139): taking any load that fits is as good as the best
order, because a load that is taken only adds to what is free. -/

namespace Sys2Proof.PlacementAndResources

open Sys2Proof.Machine

/-! ### Claims -/

@[simp] theorem claim_zero_add (a : Claim) : Claim.zero.add a = a := by simp [Claim.add, Claim.zero]
@[simp] theorem claim_add_zero (a : Claim) : a.add Claim.zero = a := by simp [Claim.add, Claim.zero]

theorem claim_add_assoc (a b c : Claim) : (a.add b).add c = a.add (b.add c) := by simp [Claim.add, Nat.add_assoc]

theorem claim_add_right_comm (a b c : Claim) : (a.add b).add c = (a.add c).add b := by simp [Claim.add, Nat.add_right_comm]

theorem claim_le_iff (a b : Claim) : a.le b = true ↔ a.reg ≤ b.reg ∧ a.scr ≤ b.scr ∧ a.acc ≤ b.acc ∧ a.bar ≤ b.bar := by
  simp [Claim.le]

theorem claim_le_add {a b : Claim} (h : a.le b = true) (c : Claim) : a.le (b.add c) = true := by
  rw [claim_le_iff] at h ⊢
  simp only [Claim.add]
  omega

theorem sumHold_cons (x : Load) (l : List Load) : sumHold (x :: l) = x.hold.add (sumHold l) := by
  have from_start (l : List Load) (a : Claim) : l.foldl (fun a x => a.add x.hold) a = a.add (sumHold l) := by
    induction l generalizing a with
    | nil => exact (claim_add_zero a).symm
    | cons y l ih => rw [sumHold, List.foldl_cons, List.foldl_cons, ih, ih, claim_zero_add, claim_add_assoc]
  rw [sumHold, List.foldl_cons, from_start, claim_zero_add]

/-! ### Orders in which every team finishes -/

/-- What a load may still need. -/
def need (x : Load) : Claim := x.max.sub x.hold

/-- With `f` free, the loads finish in the order of the list: each one's need fits what is free and what those before it held. -/
def Finishes : Claim → List Load → Prop
  | _, [] => True
  | f, x :: o => (need x).le f = true ∧ Finishes (f.add x.hold) o

theorem finishes_iff (f : Claim) (o : List Load) :
    Finishes f o ↔ ∀ (n : Nat) x, o[n]? = some x → (need x).le (f.add (sumHold (o.take n))) = true := by
  induction o generalizing f with
  | nil => simp [Finishes]
  | cons y o ih =>
    rw [Finishes, ih]
    refine ⟨fun ⟨first, rest⟩ n x hx => ?_, fun h => ⟨?_, fun n x hx => ?_⟩⟩
    · cases n with
      | zero =>
        obtain rfl : y = x := by simpa using hx
        exact claim_le_add first _
      | succ n =>
        rw [List.take_succ_cons, sumHold_cons, ← claim_add_assoc]
        exact rest n x (by simpa using hx)
    · simpa [sumHold] using h 0 y rfl
    · have later := h (n + 1) x (by simpa using hx)
      rwa [List.take_succ_cons, sumHold_cons, ← claim_add_assoc] at later

/-- A load whose need fits may go first: those before it find more free than they did. -/
theorem finishes_erase {f : Claim} {o : List Load} {x : Load} (h : Finishes f o) (hx : x ∈ o) :
    Finishes (f.add x.hold) (o.erase x) := by
  induction o generalizing f with
  | nil => simp at hx
  | cons y o ih =>
    obtain ⟨fits, rest⟩ := h
    by_cases e : y = x
    · subst e
      simpa using rest
    · have there : x ∈ o := by simpa [Ne.symm e] using hx
      rw [List.erase_cons_tail (by simpa using e)]
      exact ⟨claim_le_add fits _, by simpa only [claim_add_right_comm] using ih rest there⟩

/-- The search finds an order where there is one. -/
theorem safeFrom_iff (n : Nat) (f : Claim) (l : List Load) (fuel : l.length < n) :
    safeFrom n f l = true ↔ ∃ o : List Load, o.Perm l ∧ Finishes f o := by
  induction n generalizing f l with
  | zero => omega
  | succ n ih =>
    rw [safeFrom]
    split
    case h_1 x hx =>
      have there : x ∈ l := List.mem_of_find?_eq_some hx
      have fits : (need x).le f = true := by
        simpa only [need] using List.find?_some hx
      have perm : (x :: l.erase x).Perm l := (List.perm_cons_erase there).symm
      rw [ih _ _ (by have := List.length_erase_of_mem there; have := List.length_pos_of_mem there; omega)]
      constructor
      · rintro ⟨o, ho, hf⟩
        exact ⟨x :: o, (ho.cons x).trans perm, fits, hf⟩
      · rintro ⟨o, ho, hf⟩
        exact ⟨o.erase x, ho.erase x, finishes_erase hf (ho.mem_iff.2 there)⟩
    case h_2 none_fits =>
      rw [List.isEmpty_iff]
      constructor
      · rintro rfl
        exact ⟨[], .nil, trivial⟩
      · rintro ⟨o, ho, hf⟩
        cases o with
        | nil => exact ho.symm.eq_nil
        | cons y o => exact absurd hf.1 (List.find?_eq_none.1 none_fits y (ho.mem_iff.1 (by simp)))

/-- Settles O36: the holdings fit, and the search succeeds exactly where an order exists. -/
theorem bankerFindsEveryOrder : Obligations.BankerFindsEveryOrder := by
  intro l
  rw [safe, Bool.and_eq_true, safeFrom_iff _ _ _ (Nat.lt_succ_self _)]
  simp only [finishes_iff, need]

end Sys2Proof.PlacementAndResources
end

section
/-! PROOFS. What a grant and a release do to a team, its groups and its core's slots (07_placement_and_resources.md, R135, R136,
R47, R50), and the words that ask for them (R145 to R149). -/

namespace Sys2Proof.PlacementAndResources

open Sys2Proof.Machine Sys2Proof.Safety Sys2Proof.Claims Sys2Proof.Laws

/-! ### Tables written entry by entry -/

theorem tab_ext {n : Nat} {α : Type} {t u : Tab n α} (h : ∀ i, t.get i = u.get i) : t = u := by
  cases t with | mk a ha => cases u with | mk b hb =>
  congr 1
  refine List.ext_get (ha.trans hb.symm) fun i hi _ => ?_
  exact h ⟨i, ha ▸ hi⟩

/-- One value written at several places. -/
theorem get_foldl_set_const {n : Nat} {α β : Type} (key : β → Fin n) (a : α) (l : List β) (t : Tab n α) (j : Fin n) :
    (l.foldl (fun t p => t.set (key p) a) t).get j = if l.any (fun p => key p == j) = true then a else t.get j := by
  induction l generalizing t with
  | nil => rfl
  | cons p l ih =>
    rw [List.foldl_cons, ih, Tab.get_set, List.any_cons]
    by_cases h : key p = j
    · simp [h]
    · simp [h, Ne.symm h]

/-- Values written at different places. -/
theorem get_foldl_set {n : Nat} {α β : Type} (key : β → Fin n) (val : β → α) (l : List β) (distinct : (l.map key).Nodup) (t : Tab n α)
    (j : Fin n) : (l.foldl (fun t p => t.set (key p) (val p)) t).get j = ((l.find? fun p => key p == j).map val).getD (t.get j) := by
  induction l generalizing t with
  | nil => rfl
  | cons p l ih =>
    rw [List.map_cons, List.nodup_cons] at distinct
    rw [List.foldl_cons, ih distinct.2, Tab.get_set, List.find?_cons]
    by_cases h : key p = j
    · have later : (l.find? fun q => key q == j) = none := List.find?_eq_none.2 fun q hq e => distinct.1 <| by
        rw [h, ← eq_of_beq e]
        exact List.mem_map_of_mem hq
      simp [h, later]
    · simp [Ne.symm h, beq_eq_false_iff_ne.2 h]

/-- A fold that changes one field of a record folds over that field. -/
theorem foldl_core_acc {β : Type} (f : Tab 8 AccSlot → β → Tab 8 AccSlot) (l : List β) (c : Core) :
    l.foldl (fun (c : Core) p => { c with acc := f c.acc p }) c = { c with acc := l.foldl f c.acc } := by
  induction l generalizing c with
  | nil => rfl
  | cons p l ih => rw [List.foldl_cons, ih, List.foldl_cons]

theorem foldl_team_acc {β : Type} (f : Tab 8 Byte → β → Tab 8 Byte) (l : List β) (t : Team) :
    l.foldl (fun (t : Team) p => { t with acc := f t.acc p }) t = { t with acc := l.foldl f t.acc } := by
  induction l generalizing t with
  | nil => rfl
  | cons p l ih => rw [List.foldl_cons, ih, List.foldl_cons]

/-! ### Cores, teams and groups by number -/

theorem slotIx_eq_iff {n : Nat} (h : n < 8) (j : Fin 8) : slotIx n = j ↔ n = j.val := by
  rw [slotIx, Fin.ext_iff, Fin.val_ofNat, Nat.mod_eq_of_lt h]

theorem coreIx_eq (k n : Nat) : coreIx k = coreIx n ↔ k % 768 = n % 768 := Fin.ext_iff

theorem core_putCore_eq (s : State) (k n : Nat) (c : Core) : (s.putCore k c).core n = if n % 768 = k % 768 then c else s.core n := by
  simp only [State.core, State.putCore, Tab.get_set, coreIx_eq]

theorem team_putTeam_eq {s : State} {t t0 : Team} (h : s.team t.uid = some t0) (n : Nat) :
    (s.putTeam t).team n = if n = t.uid then some t else s.team n := by
  split
  case isTrue e => exact e ▸ State.team_putTeam h
  case isFalse e => exact State.team_putTeam_ne _ _ _ e

/-- The group of a number where each group is changed in place. -/
theorem group_map {s t : State} {f : Group → Group} (h : t.groups = s.groups.map f) (keeps : ∀ g, (f g).gid = g.gid) (n : Nat) :
    t.group n = (s.group n).map f := by
  rw [State.group, h, List.find?_map, State.group]
  congr 2
  exact funext fun g => by rw [Function.comp_apply, keeps]

theorem mapGroups_group (s : State) (uid : Nat) (f : Group → Group) (keeps : ∀ g, (f g).gid = g.gid) (n : Nat) :
    (s.mapGroups uid f).group n = (s.group n).map fun g => if g.team = uid then f g else g :=
  group_map rfl (fun g => by split <;> simp [keeps]) n

@[simp] theorem mapGroups_core (s : State) (uid : Nat) (f : Group → Group) (k : Nat) : (s.mapGroups uid f).core k = s.core k := rfl
@[simp] theorem mapGroups_team (s : State) (uid : Nat) (f : Group → Group) (n : Nat) : (s.mapGroups uid f).team n = s.team n := rfl

/-! ### Accumulator names and slots (R47) -/

theorem accValid_eq (b : Byte) : accValid b = (b.toNat / 128 == 1) := by
  have := b.isLt
  rw [accValid, BitVec.getLsbD, Nat.testBit_eq_decide_div_mod_eq, Bool.eq_iff_iff, decide_eq_true_iff, beq_iff_eq]
  omega

theorem named_eq (t : Team) (i : Nat) : accValid (t.acc.get (slotIx i)) = named t i := accValid_eq _

theorem accSlot_eq (t : Team) (i : Nat) : accSlot (t.acc.get (slotIx i)) = slotNamed t i := by
  simp [accSlot, slotNamed, slotIx]

/-- The names that a grant of `n` slots sets, with the slots that they take. -/
def slotPairs (t : Team) (c : Core) (n : Nat) : List (Nat × Nat) := (((List.range 8).filter fun i => !named t i).take n).zip c.freeSlots

theorem zip_fst_sublist {α β : Type} (l : List α) (m : List β) : ((l.zip m).map Prod.fst).Sublist l := by
  induction l generalizing m with
  | nil => exact .slnil
  | cons a l ih =>
    cases m with
    | nil => exact List.nil_sublist _
    | cons b m => exact (ih m).cons_cons a

theorem slotPairs_fst_sublist (t : Team) (c : Core) (n : Nat) : ((slotPairs t c n).map Prod.fst).Sublist (List.range 8) :=
  (zip_fst_sublist _ _).trans ((List.take_sublist _ _).trans List.filter_sublist)

theorem slotPairs_fst_lt {t : Team} {c : Core} {n : Nat} {p : Nat × Nat} (h : p ∈ slotPairs t c n) : p.1 < 8 :=
  List.mem_range.1 ((slotPairs_fst_sublist t c n).subset (List.mem_map_of_mem h))

theorem slotPairs_snd_lt {t : Team} {c : Core} {n : Nat} {p : Nat × Nat} (h : p ∈ slotPairs t c n) : p.2 < 8 :=
  List.mem_range.1 (List.mem_filter.1 (List.of_mem_zip h).2).1

theorem slotPairs_names_nodup (t : Team) (c : Core) (n : Nat) : ((slotPairs t c n).map fun p => slotIx p.1).Nodup := by
  have names : ((slotPairs t c n).map Prod.fst).Nodup := List.nodup_range.sublist (slotPairs_fst_sublist t c n)
  rw [show (fun p : Nat × Nat => slotIx p.1) = slotIx ∘ Prod.fst from rfl, ← List.map_map]
  refine names.map_on fun a ha b hb e => ?_
  have lt {a : Nat} (h : a ∈ (slotPairs t c n).map Prod.fst) : a < 8 := List.mem_range.1 ((slotPairs_fst_sublist t c n).subset h)
  rw [slotIx_eq_iff (lt ha)] at e
  simpa [slotIx, Nat.mod_eq_of_lt (lt hb)] using e

/-! ### A grant (R50, R136) -/

/-- A core of which a team has taken `n` slots more. -/
def takenCore (t : Team) (c : Core) (n : Nat) : Core :=
  { c with acc := (slotPairs t c n).foldl (fun a p => a.set (slotIx p.2) { AccSlot.reset with team := some t.uid }) c.acc }

/-- A team that has been granted `q` on a core. -/
def grantedTeam (t : Team) (c : Core) (q : Claim) : Team :=
  { t with
    hold := t.hold.add q
    scr := memDrop t.scr (t.hold.scr * 4096) ((t.hold.scr + q.scr) * 4096)
    full := t.full.filter fun n => decide (n < t.hold.scr * 32)
    bad := t.bad.filter fun a => decide (a < t.hold.scr * 4096)
    bars := t.bars ++ List.replicate q.bar Barrier.idle
    acc := (slotPairs t c q.acc).foldl (fun a p => a.set (slotIx p.1) (0x80#8 ||| BitVec.ofNat 8 p.2)) t.acc }

theorem takenCore_acc (t : Team) (c : Core) (n : Nat) (j : Fin 8) : (takenCore t c n).acc.get j =
    if (slotPairs t c n).any (fun p => p.2 == j.val) = true then { AccSlot.reset with team := some t.uid } else c.acc.get j := by
  rw [takenCore, get_foldl_set_const]
  simp only [List.any_eq_true, beq_iff_eq]
  refine if_congr (exists_congr fun p => and_congr_right fun hp => slotIx_eq_iff (slotPairs_snd_lt hp) j) rfl rfl

theorem grantedTeam_acc (t : Team) (c : Core) (q : Claim) (i : Fin 8) : (grantedTeam t c q).acc.get i =
    match (slotPairs t c q.acc).find? fun p => p.1 == i.val with
    | some p => 0x80#8 ||| BitVec.ofNat 8 p.2
    | none => t.acc.get i := by
  rw [grantedTeam, get_foldl_set _ _ _ (slotPairs_names_nodup t c q.acc)]
  rw [List.find?_congr fun p hp => (Bool.eq_iff_iff.2 <| by
    rw [beq_iff_eq, beq_iff_eq, slotIx_eq_iff (slotPairs_fst_lt hp)] : (slotIx p.1 == i) = (p.1 == i.val))]
  cases (slotPairs t c q.acc).find? fun p => p.1 == i.val <;> rfl

theorem grant_eq {s : State} {t : Team} (h : s.team t.uid = some t) (q : Claim) : s.grant t.uid q =
    ((s.putCore t.core (takenCore t (s.core t.core) q.acc)).putTeam (grantedTeam t (s.core t.core) q)).mapGroups t.uid
      fun g => g.zeroGranules t.hold.reg (t.hold.reg + q.reg) := by
  rw [State.grant, h]
  simp only [grantSlots, foldl_core_acc (fun a (p : Nat × Nat) => a.set (slotIx p.2) { AccSlot.reset with team := some t.uid }),
    foldl_team_acc (fun a (p : Nat × Nat) => a.set (slotIx p.1) (0x80#8 ||| BitVec.ofNat 8 p.2)), named_eq]
  rfl

theorem grant_team {s : State} {t : Team} (h : s.team t.uid = some t) (q : Claim) (n : Nat) :
    (s.grant t.uid q).team n = if n = t.uid then some (grantedTeam t (s.core t.core) q) else s.team n := by
  rw [grant_eq h, mapGroups_team]
  have old : (s.putCore t.core (takenCore t (s.core t.core) q.acc)).team t.uid = some t := by rw [State.putCore_team, h]
  have new := team_putTeam_eq (t := grantedTeam t (s.core t.core) q) old n
  rw [State.putCore_team] at new
  exact new

theorem grant_group {s : State} {t : Team} (h : s.team t.uid = some t) (q : Claim) (n : Nat) : (s.grant t.uid q).group n =
    (s.group n).map fun g => if g.team = t.uid then g.zeroGranules t.hold.reg (t.hold.reg + q.reg) else g := by
  rw [grant_eq h]
  rw [mapGroups_group _ _ (fun g => g.zeroGranules _ _) fun g => rfl, State.putTeam_group, State.putCore_group]

theorem grant_core {s : State} {t : Team} (h : s.team t.uid = some t) (q : Claim) (n : Nat) :
    (s.grant t.uid q).core n = if n % 768 = t.core % 768 then takenCore t (s.core t.core) q.acc else s.core n := by
  rw [grant_eq h, mapGroups_core, State.putTeam_core, core_putCore_eq]

/-- Nothing else of the state differs. -/
theorem grant_frame {s : State} {t : Team} (h : s.team t.uid = some t) (q : Claim) : s.grant t.uid q =
    { s with teams := (s.grant t.uid q).teams, groups := (s.grant t.uid q).groups, cores := (s.grant t.uid q).cores } := by
  rw [grant_eq h]
  simp only [State.mapGroups, State.putTeam, State.putCore]

/-! ### A release (R136) -/

/-- A core whose slots under some names of a team are free. -/
def droppedCore (t : Team) (c : Core) (names : List Nat) : Core :=
  { c with acc := names.foldl (fun a i => a.set (slotIx (slotNamed t i)) AccSlot.reset) c.acc }

/-- A team that has released `q`, from the top. -/
def releasedTeam (t : Team) (q : Claim) : Team :=
  { t with
    hold := t.hold.sub q
    scr := t.scr.filter fun c => decide (c.1 < (t.hold.sub q).scr * 4096)
    full := t.full.filter fun n => decide (n < (t.hold.sub q).scr * 32)
    bad := t.bad.filter fun a => decide (a < (t.hold.sub q).scr * 4096)
    bars := t.bars.take (t.hold.sub q).bar
    acc := (t.lastNames q.acc).foldl (fun a i => a.set (slotIx i) 0#8) t.acc }

theorem lastNames_eq (t : Team) (n : Nat) : t.lastNames n = ((List.range 8).reverse.filter fun i => named t i).take n := by
  rw [Team.lastNames, List.filter_reverse]
  simp only [named_eq]

theorem lastNames_lt {t : Team} {n i : Nat} (h : i ∈ t.lastNames n) : i < 8 := by
  rw [lastNames_eq] at h
  simpa using (List.mem_filter.1 (List.mem_of_mem_take h)).1

theorem droppedCore_acc (t : Team) (c : Core) (names : List Nat) (j : Fin 8) : (droppedCore t c names).acc.get j =
    if names.any (fun i => slotNamed t i == j.val) = true then AccSlot.reset else c.acc.get j := by
  rw [droppedCore, get_foldl_set_const]
  simp only [List.any_eq_true, beq_iff_eq]
  exact if_congr (exists_congr fun i => and_congr_right fun _ => slotIx_eq_iff (Nat.mod_lt _ (by decide)) j) rfl rfl

theorem releasedTeam_acc (t : Team) (q : Claim) (i : Fin 8) : (releasedTeam t q).acc.get i =
    if (t.lastNames q.acc).any (fun n => n == i.val) = true then 0#8 else t.acc.get i := by
  rw [releasedTeam, get_foldl_set_const]
  simp only [List.any_eq_true, beq_iff_eq]
  exact if_congr (exists_congr fun n => and_congr_right fun hn => slotIx_eq_iff (lastNames_lt hn) i) rfl rfl

theorem release_eq {s : State} {t : Team} (h : s.team t.uid = some t) (q : Claim) : s.release t.uid q =
    (s.putCore t.core (droppedCore t (s.core t.core) (t.lastNames q.acc))).putTeam (releasedTeam t q) := by
  rw [State.release, h]
  simp only [dropSlots, foldl_team_acc (fun a i => a.set (slotIx i) 0#8), accSlot_eq,
    foldl_core_acc (fun a i => a.set (slotIx (slotNamed t i)) AccSlot.reset)]
  rfl

theorem release_team {s : State} {t : Team} (h : s.team t.uid = some t) (q : Claim) (n : Nat) :
    (s.release t.uid q).team n = if n = t.uid then some (releasedTeam t q) else s.team n := by
  rw [release_eq h]
  have old : (s.putCore t.core (droppedCore t (s.core t.core) (t.lastNames q.acc))).team t.uid = some t := by rw [State.putCore_team, h]
  have new := team_putTeam_eq (t := releasedTeam t q) old n
  rw [State.putCore_team] at new
  exact new

theorem release_core {s : State} {t : Team} (h : s.team t.uid = some t) (q : Claim) (n : Nat) : (s.release t.uid q).core n =
    if n % 768 = t.core % 768 then droppedCore t (s.core t.core) (t.lastNames q.acc) else s.core n := by
  rw [release_eq h, State.putTeam_core, core_putCore_eq]

theorem release_frame {s : State} {t : Team} (h : s.team t.uid = some t) (q : Claim) :
    s.release t.uid q = { s with teams := (s.release t.uid q).teams, cores := (s.release t.uid q).cores } := by
  rw [release_eq h]
  simp only [State.putTeam, State.putCore]

/-! ### What a team holds after a grant or a release -/

theorem memGet_filter_lt (m : Memory) (k o : Nat) : memGet (m.filter fun c => decide (c.1 < k)) o = if o < k then memGet m o else 0#8 := by
  split
  case isTrue h => exact memGet_filter m o _ fun c hc => by simpa [hc] using h
  case isFalse h => exact memGet_none _ _ fun c hc e => h (e ▸ by simpa using (List.mem_filter.1 hc).2)

theorem memGet_drop (m : Memory) (lo hi o : Nat) : memGet (memDrop m lo hi) o = if lo ≤ o ∧ o < hi then 0#8 else memGet m o := by
  split
  case isTrue h =>
    refine memGet_none _ _ fun c hc e => ?_
    have := of_decide_eq_true (List.mem_filter.1 hc).2
    omega
  case isFalse h => exact memGet_filter m o _ fun c hc => decide_eq_true (by omega)

theorem zeroGranules_getX (g : Group) (lo hi : Nat) (r : Reg) (l : Lane) : (g.zeroGranules lo hi).getX r l =
    if lo ≤ granule false r ∧ granule false r < hi then 0#32 else g.getX r l := by
  have at_ : granuleOf false r.toFin.val = granule false r := rfl
  simp only [Group.getX, Group.zeroGranules, Tab.get_ofFn, at_, decide_eq_true_eq]
  by_cases zero : r = 0#6
  · simp [zero]
  · by_cases fresh : lo ≤ granule false r ∧ granule false r < hi <;> simp [zero, fresh]

theorem zeroGranules_getV (g : Group) (lo hi : Nat) (r : Reg) (l : Lane) : (g.zeroGranules lo hi).getV r l =
    if lo ≤ granule true r ∧ granule true r < hi then 0#64 else g.getV r l := by
  have at_ : granuleOf true r.toFin.val = granule true r := rfl
  simp only [Group.getV, Group.zeroGranules, Tab.get_ofFn, at_, decide_eq_true_eq]
  by_cases fresh : lo ≤ granule true r ∧ granule true r < hi <;> simp [fresh]

theorem zeroGranules_widened (c : Ctx) (q : Claim) (g : Group) :
    WidenedFrom c q g (g.zeroGranules c.t.hold.reg (c.t.hold.reg + q.reg)) :=
  ⟨rfl, fun r l => zeroGranules_getX g _ _ r l, fun r l => zeroGranules_getV g _ _ r l⟩

theorem ctx_team {s : State} {c : Ctx} (h : s.ctx = some c) : s.team c.t.uid = some c.t := by
  have team := (State.ctx_parts h).2.2.2
  rwa [← State.team_uid team] at team

theorem ctx_owner {s : State} {c : Ctx} (h : s.ctx = some c) : c.g.team = c.t.uid := (State.team_uid (State.ctx_parts h).2.2.2).symm

theorem ctx_group {s : State} {c : Ctx} (h : s.ctx = some c) : s.group c.g.gid = some c.g := by
  rw [State.ctx_gid h]
  exact (State.ctx_parts h).2.1

theorem grant_holdGrown {s : State} {c : Ctx} (h : s.ctx = some c) (q : Claim) : HoldGrown s c q (s.grant c.t.uid q) := by
  have team := ctx_team h
  refine ⟨grant_frame team q, fun k => ?_, fun n hn => ?_, fun n g hg other => ?_, fun n g hg mine => ?_, fun k j => ?_, ?_⟩
  · rw [grant_core team]
    split
    case isTrue e => rw [State.core, State.core, (coreIx_eq _ _).2 e]; rfl
    case isFalse => rfl
  · rw [grant_team team, if_neg hn]
  · rw [grant_group team, hg, Option.map_some, if_neg other]
  · exact ⟨_, by rw [grant_group team, hg, Option.map_some, if_pos mine], zeroGranules_widened c q g⟩
  · have slots : slotsGranted s c q.acc = slotPairs c.t (s.core c.t.core) q.acc := rfl
    rw [grant_core team, slots]
    by_cases here : k % 768 = c.t.core % 768
    · have same : s.core k = s.core c.t.core := by rw [State.core, State.core, (coreIx_eq _ _).2 here]
      simp only [here, takenCore_acc, true_and, if_true, same, AccSlot.reset]
    · simp only [here, false_and, if_false]
  · refine ⟨_, by rw [grant_team team, if_pos rfl], rfl, fun o => ?_, rfl, rfl, fun o => ?_, fun n => ?_, fun i => grantedTeam_acc _ _ _ i⟩
    · simp [grantedTeam]
    · exact memGet_drop ..
    · simp [grantedTeam]

theorem release_holdShrunk {s : State} {c : Ctx} (h : s.ctx = some c) (q : Claim) : HoldShrunk s c q (s.release c.t.uid q) := by
  have team := ctx_team h
  have names : namesReleased c q.acc = c.t.lastNames q.acc := (lastNames_eq ..).symm
  refine ⟨release_frame team q, fun k => ?_, fun n hn => ?_, fun k j => ?_, ?_⟩
  · rw [release_core team]
    split
    case isTrue e => rw [State.core, State.core, (coreIx_eq _ _).2 e]; rfl
    case isFalse => rfl
  · rw [release_team team, if_neg hn]
  · rw [release_core team, names]
    by_cases here : k % 768 = c.t.core % 768
    · rw [if_pos here, droppedCore_acc, State.core, State.core, (coreIx_eq _ _).2 here]
      exact if_congr (by simp only [here, true_and]) rfl rfl
    · rw [if_neg here, if_neg fun e => here e.1]
  · refine ⟨_, by rw [release_team team, if_pos rfl], rfl, fun o => ?_, fun o ho => ?_, rfl, rfl, fun o ho => ?_, fun n => ?_, fun i => ?_⟩
    · rw [releasedTeam, List.mem_filter, decide_eq_true_iff, Claim.sub]
    · exact (memGet_filter_lt ..).trans (if_neg (not_lt.2 ho))
    · exact (memGet_filter_lt ..).trans (if_pos ho)
    · rw [releasedTeam, List.mem_filter, decide_eq_true_iff, Claim.sub]
    · rw [releasedTeam_acc, names]

/-! ### The words (R145 to R149) -/

theorem claimOf_eq (w : Word) : claimOf w.toNat = vectorOf w := by simp [claimOf, vectorOf, bitsOf]

theorem claimInfo_of_fitsIn {w : Word} {limit : Claim} (h : fitsIn w limit) (rel : Bool) : claimInfo w limit rel false = 0 := by
  obtain ⟨reserved, reg, scr, acc, bar⟩ := h
  have clear : w.extractLsb' 25 7 = 0#7 := by
    apply BitVec.eq_of_toNat_eq
    rw [BitVec.extractLsb'_toNat, Nat.shiftRight_eq_div_pow, reserved]
    rfl
  simp [claimInfo, claimOf_eq, not_lt.2 reg, not_lt.2 scr, not_lt.2 acc, not_lt.2 bar, clear]

theorem claim_word (c : Claim) : c.word = claimWord c := by
  simp only [Claim.word, claimWord]
  congr 1
  omega

/-- The records of a word after a grant to its team. -/
def grantedCtx (s : State) (c : Ctx) (q : Claim) : Ctx :=
  { c with g := c.g.zeroGranules c.t.hold.reg (c.t.hold.reg + q.reg), t := grantedTeam c.t (s.core c.t.core) q }

theorem grant_group_in_hand {s : State} {c : Ctx} (h : s.ctx = some c) (q : Claim) :
    (s.grant c.t.uid q).group c.g.gid = some (grantedCtx s c q).g := by
  rw [grant_group (ctx_team h), ctx_group h, Option.map_some, if_pos (ctx_owner h)]
  rfl

theorem grant_ctx {s : State} {c : Ctx} (h : s.ctx = some c) (q : Claim) : (s.grant c.t.uid q).ctx = some (grantedCtx s c q) := by
  obtain ⟨cur, -, path, -⟩ := State.ctx_parts h
  have group := grant_group_in_hand h q
  rw [State.ctx_gid h] at group
  have cur' : (s.grant c.t.uid q).cur = some c.cur := by rw [grant_frame (ctx_team h), cur]
  have path' : (grantedCtx s c q).g.path c.cur.pid = some c.p := path
  have team : (s.grant c.t.uid q).team (grantedCtx s c q).g.team = some (grantedCtx s c q).t := by
    rw [show (grantedCtx s c q).g.team = c.t.uid from (ctx_owner h : c.g.team = c.t.uid), grant_team (ctx_team h), if_pos rfl]
    rfl
  simp only [State.ctx, cur', group, path', team]
  rfl

/-- A word that completes right after a grant to its team, with the group as the grant or the word leaves it. -/
theorem grant_done {s : State} {c : Ctx} (h : s.ctx = some c) (q : Claim) {g : Group} (gid : g.gid = c.g.gid) (paths : g.paths = c.g.paths) :
    Done (s.grant c.t.uid q) c g (finish (s.grant c.t.uid q) c g) :=
  finish_done (c := grantedCtx s c q) (grant_ctx h q) rfl gid paths

theorem exec_racq {f : FormA} {s : State} {c : Ctx} (h : Starts (.racq f) s c) (waited : c.ended ≠ some 0#32)
    (fits : fitsIn (c.g.getS f.a) (headroomOf c.t)) : exec (.racq f) s =
    if c.g.getS f.a = 0#32 then finish s c c.g
    else if c.t.reqs = [] ∧ granted s c (vectorOf (c.g.getS f.a)) = true then
      finish (s.grant c.t.uid (vectorOf (c.g.getS f.a))) c (grantedCtx s c (vectorOf (c.g.getS f.a))).g
    else
      waitAt (s.putTeam (asking s c (vectorOf (c.g.getS f.a)))) c c.g (.racq (vectorOf (c.g.getS f.a))) := by
  have start : exec (.racq f) s = _ := word_starts h _
  have may : s.mayGrant c.t ((vectorOf (c.g.getS f.a)).units (s.liveGroups c.t.uid)) = granted s c (vectorOf (c.g.getS f.a)) := rfl
  rw [start, if_neg waited]
  simp only [show claimInfo _ c.t.headroom false false = 0 from claimInfo_of_fitsIn fits false, claimOf_eq, may, Bool.and_eq_true,
    List.isEmpty_iff, grant_group_in_hand h.1, ne_eq, not_true_eq_false, if_false]
  rfl

theorem exec_rtry {f : FormDA} {s : State} {c : Ctx} (h : Starts (.rtry f) s c) (fits : fitsIn (c.g.getS f.a) (headroomOf c.t)) :
    exec (.rtry f) s =
    if c.g.getS f.a = 0#32 then finish s c (c.g.setS f.d 0#32)
    else if granted s c (vectorOf (c.g.getS f.a)) = true then
      finish (s.grant c.t.uid (vectorOf (c.g.getS f.a))) c ((grantedCtx s c (vectorOf (c.g.getS f.a))).g.setS f.d 0#32)
    else finish s c (c.g.setS f.d 1#32) := by
  have start : exec (.rtry f) s = _ := word_starts h _
  have may : s.mayGrant c.t ((vectorOf (c.g.getS f.a)).units (s.liveGroups c.t.uid)) = granted s c (vectorOf (c.g.getS f.a)) := rfl
  rw [start]
  simp only [show claimInfo _ c.t.headroom false false = 0 from claimInfo_of_fitsIn fits false, claimOf_eq, may,
    grant_group_in_hand h.1, ne_eq, not_true_eq_false, if_false]

theorem exec_rrel {f : FormA} {s : State} {c : Ctx} (h : Starts (.rrel f) s c) (fits : fitsIn (c.g.getS f.a) c.t.hold)
    (quiet : ∀ i, i < (vectorOf (c.g.getS f.a)).bar → s.barBusy c.t (c.t.hold.bar - (vectorOf (c.g.getS f.a)).bar + i) = false) :
    exec (.rrel f) s =
    if c.g.getS f.a = 0#32 then finish s c c.g
    else if s.slotsNamed c.t.core ((namesReleased c (vectorOf (c.g.getS f.a)).acc).map (slotNamed c.t)) = true then waitAt s c c.g .rrel
    else finish (s.release c.t.uid (vectorOf (c.g.getS f.a))) c c.g := by
  have start : exec (.rrel f) s = _ := word_starts h _
  have idle : (List.range (vectorOf (c.g.getS f.a)).bar).any
      (fun i => s.barBusy c.t (c.t.hold.bar - (vectorOf (c.g.getS f.a)).bar + i)) = false :=
    List.any_eq_false.2 fun i hi => by simp [quiet i (List.mem_range.1 hi)]
  have names (n : Nat) : c.t.lastNames n = namesReleased c n := lastNames_eq ..
  rw [start]
  simp only [claimInfo_of_fitsIn fits true, claimOf_eq, idle, names, accSlot_eq, ne_eq, not_true_eq_false, if_false, Bool.false_eq_true]

theorem exec_rqry {f : FormDS} {s : State} {c : Ctx} (h : Starts (.rqry f) s c) {w : Word} (answer : claimAnswer s c f.s.toNat = some w) :
    exec (.rqry f) s = finish s c (c.g.setS f.d w) := by
  have start : exec (.rqry f) s = _ := word_starts h _
  rw [start]
  have cases : f.s = 0#6 ∨ f.s = 1#6 ∨ f.s = 2#6 ∨ f.s = 3#6 ∨ f.s = 4#6 := by
    have small : f.s.toNat < 5 := by
      by_contra big
      obtain ⟨n, hn⟩ := Nat.exists_eq_add_of_le (not_lt.1 big)
      rw [hn, Nat.add_comm] at answer
      cases answer
    simp only [← BitVec.toNat_inj, BitVec.toNat_ofNat]
    omega
  have pend : c.t.pendWord = match c.t.reqs.head? with
      | some r => claimWord r.want
      | none => 0#32 := by
    rw [Team.pendWord]
    cases c.t.reqs <;> simp [claim_word]
  rcases cases with e | e | e | e | e <;> rw [e] at answer ⊢ <;> cases answer <;> simp [claim_word, pend, Team.headroom] <;> rfl

/-- Settles O35, word by word. -/
theorem claimWords : Obligations.ClaimWords := by
  refine ⟨fun f s c h waited fits => ?_, fun f s c h ended => ?_, fun f s c h fits => ?_, fun f s c h fits q hq quiet => ?_,
    fun f s c w h answer => ?_⟩
  · rw [exec_racq h waited fits]
    refine ⟨fun zero => ?_, fun some_ free may => ?_, fun some_ not_now => ?_⟩
    · rw [if_pos zero]
      exact finish_done h.1 rfl rfl rfl
    · rw [if_neg some_, if_pos ⟨free, may⟩]
      exact ⟨_, _, grant_holdGrown h.1 _, zeroGranules_widened .., grant_done h.1 _ rfl rfl⟩
    · rw [if_neg some_, if_neg not_now]
      exact ⟨_, ⟨rfl, team_putTeam_eq (t := asking ..) (ctx_team h.1)⟩, waitAt_waits (s' := s.putTeam _) h.1 rfl rfl rfl _⟩
  · rw [show exec (.racq f) s = _ from word_starts h _, if_pos ended]
    exact finish_done h.1 rfl rfl rfl
  · rw [exec_rtry h fits]
    refine ⟨fun zero => ?_, fun some_ may => ?_, fun some_ refused => ?_⟩
    · rw [if_pos zero]
      exact ⟨_, finish_done h.1 rfl (by simp) (by simp), setS_uni ..⟩
    · rw [if_neg some_, if_pos may]
      refine ⟨_, _, _, grant_holdGrown h.1 _, zeroGranules_widened .., ?_, fun r => ?_, grant_done h.1 _ (by simp; rfl) (by simp; rfl)⟩
      · exact (setS_uni (grantedCtx s c _) f.d 0#32).1
      · exact (setS_uni (grantedCtx s c _) f.d 0#32).2 r
    · rw [if_neg some_, if_neg (by simp [refused])]
      exact ⟨_, finish_done h.1 rfl (by simp) (by simp), setS_uni ..⟩
  · subst hq
    rw [exec_rrel h fits quiet]
    refine ⟨fun zero => ?_, fun some_ named => ?_, fun some_ unnamed => ?_⟩
    · rw [if_pos zero]
      exact finish_done h.1 rfl rfl rfl
    · rw [if_neg some_, if_pos named]
      exact waitAt_waits h.1 rfl rfl rfl _
    · rw [if_neg some_, if_neg (by simp [unnamed])]
      exact ⟨_, release_holdShrunk h.1 _, finish_done h.1 (by rw [release_frame (ctx_team h.1)]) rfl rfl⟩
  · rw [exec_rqry h answer]
    exact ⟨_, finish_done h.1 rfl (by simp) (by simp), setS_uni ..⟩

end Sys2Proof.PlacementAndResources
end

section
/-! PROOFS. Teams that leave their cores and come back (07_placement_and_resources.md, R150 to R153; R394, R395, R397): what a
pre-emption does to a team, its records and its copies, and that it does not change what the waits wait for. -/

namespace Sys2Proof.PlacementAndResources

open Sys2Proof.Machine Sys2Proof.Safety Sys2Proof.Claims Sys2Proof.Laws

/-! ### The objects of the waits (R153) -/

/-- Two states whose waits have the same objects: the same groups and release blocks, the same full lines of every team, and the same
commands under the fault service. -/
structure SameObjects (s t : State) : Prop where
  groups : t.groups = s.groups
  rels : ∀ p n, t.rbEntry p n = s.rbEntry p n
  full : ∀ n, (t.team n).map (fun u => u.full) = (s.team n).map fun u => u.full
  faults : ∀ g n, t.commandFaults g n = s.commandFaults g n

theorem SameObjects.objectOf {s t : State} (h : SameObjects s t) (u : Team) (g : Group) (w : Wait) :
    t.objectOf u g w = s.objectOf u g w := by
  have line : ∀ (n m k : Nat), (match t.team m with
      | some u => if u.full.contains (k / 128) then n + 2 ^ k else n
      | none => n) = match s.team m with
      | some u => if u.full.contains (k / 128) then n + 2 ^ k else n
      | none => n := by
    intro n m k
    have := h.full m
    cases ht : t.team m <;> cases hs : s.team m <;> simp_all
  cases hk : w.kind <;> simp only [State.objectOf, hk, h.rels, h.faults]
  case ldfe =>
    congr 1
    funext n a
    have := h.full a.1.2.1
    cases ht : t.team a.1.2.1 <;> cases hs : s.team a.1.2.1 <;> simp_all

theorem SameObjects.waitsOf {s t : State} (h : SameObjects s t) (u : Team) : t.waitsOf u = s.waitsOf u := by
  simp only [State.waitsOf, State.groupsOf, h.groups]

theorem SameObjects.objects {s t : State} (h : SameObjects s t) (u : Team) : t.objects u = s.objects u := by
  simp only [State.objects, h.waitsOf, h.objectOf]

/-- A team that leaves waits for what it waited for. -/
theorem objects_leaving (s s0 : State) (sw : Bool) (u : Team) : s.objects (leaving s0 sw u) = s.objects u := rfl

theorem leaving_leaving (s : State) (sw : Bool) (u : Team) : leaving s sw (leaving s sw u) = leaving s sw u := by
  rw [leaving, objects_leaving]; rfl

/-! ### A team begins its swap -/

/-- A change made where one condition holds, then where another does, is made where one of them does. -/
theorem map_if_twice {α : Type} {f : α → α} {p q : α → Bool} (l : List α) (idem : ∀ x, f (f x) = f x) (keeps : ∀ x, q (f x) = q x) :
    (l.map fun x => if p x = true then f x else x).map (fun x => if q x = true then f x else x) =
      l.map fun x => if (p x || q x) = true then f x else x := by
  rw [List.map_map]
  refine List.map_congr_left fun x _ => ?_
  rw [Function.comp_apply]
  cases hp : p x
  · simp
  · simp [keeps, idem]

theorem stoppedRecord_idem (r : Record) : stoppedRecord (stoppedRecord r) = stoppedRecord r := rfl

theorem stoppedCopy_q (x : Copy) : (stoppedCopy x).q = x.q := by
  unfold stoppedCopy; split <;> rfl

theorem stoppedCopy_idem (x : Copy) : stoppedCopy (stoppedCopy x) = stoppedCopy x := by
  rw [stoppedCopy, stoppedCopy_q]
  split
  case isTrue h => rw [stoppedCopy, if_pos h]
  case isFalse => rfl

theorem stoppedCopy_owner (x : Copy) : (stoppedCopy x).owner = x.owner := by
  unfold stoppedCopy; split <;> rfl

theorem stoppedCopy_fault (x : Copy) : (stoppedCopy x).fault = x.fault := by
  unfold stoppedCopy; split <;> rfl

theorem copy_stopped_eq (x : Copy) (uid : Nat) : (match x.owner with
    | .handle u _ _ _ => if u = uid ∧ (x.q.dsp ≠ 0 ∨ x.q.avsp ≠ 0) then { x with stopped := true, lowest := true } else x
    | _ => x) = if ownedBy x uid = true then stoppedCopy x else x := by
  cases ho : x.owner with
  | handle u g n t =>
    by_cases e : u = uid <;> simp [ownedBy, ho, stoppedCopy, e]
  | node q n => simp [ownedBy, ho]
  | command => simp [ownedBy, ho]

/-- One team begins its swap: only that team, its records and its copies differ (R151, R152). -/
theorem beginSwap_eq {s : State} {uid : Nat} {u : Team} (h : s.team uid = some u) (sw : Bool) :
    s.beginSwap uid sw = { s with
      teams := (s.putTeam (leaving s sw u)).teams
      records := s.records.map fun r => if (uid == r.team) = true then stoppedRecord r else r
      copies := s.copies.map fun x => if ownedBy x uid = true then stoppedCopy x else x } := by
  have records : (s.stopWork uid).records = s.records.map fun r => if (uid == r.team) = true then stoppedRecord r else r :=
    List.map_congr_left fun r _ => if_congr (eq_comm.trans beq_iff_eq.symm) rfl rfl
  have copies : (s.stopWork uid).copies = s.copies.map fun x => if ownedBy x uid = true then stoppedCopy x else x :=
    List.map_congr_left fun x _ => copy_stopped_eq x uid
  rw [State.beginSwap, h, ← records, ← copies]
  rfl

/-- Records and copies that stop keep their handles, and the fault service its commands. -/
theorem sameObjects_of_maps {s t : State} {fr : Record → Record} {fc : Copy → Copy} (groups : t.groups = s.groups)
    (parts : t.parts = s.parts) (mem : t.mem = s.mem)
    (full : ∀ n, (t.team n).map (fun u => u.full) = (s.team n).map fun u => u.full)
    (records : t.records = s.records.map fr) (copies : t.copies = s.copies.map fc)
    (keepsR : ∀ r, (fr r).hasH = r.hasH ∧ (fr r).gid = r.gid ∧ (fr r).h = r.h ∧ (fr r).tag = r.tag ∧ (fr r).fault = r.fault)
    (keepsC : ∀ x, (fc x).owner = x.owner ∧ (fc x).fault = x.fault) : SameObjects s t where
  groups := groups
  rels p n := by simp only [State.rbEntry, State.rbAddr, State.part, parts, mem]
  full := full
  faults g n := by
    simp only [State.commandFaults, records, copies, List.any_map, Function.comp_def, Record.isFor, Copy.isFor, keepsR, keepsC]

theorem stoppedRecord_keeps (r : Record) : (stoppedRecord r).team = r.team ∧ (stoppedRecord r).hasH = r.hasH ∧ (stoppedRecord r).gid = r.gid ∧
    (stoppedRecord r).h = r.h ∧ (stoppedRecord r).tag = r.tag ∧ (stoppedRecord r).fault = r.fault := ⟨rfl, rfl, rfl, rfl, rfl, rfl⟩

variable {s t : State} {ts : List Team} {sw : Bool}

theorem leave_sameObjects (h : Leave s ts sw t) : SameObjects s t := by
  obtain ⟨frame, teams, records, copies⟩ := h
  refine sameObjects_of_maps (by rw [frame]) (by rw [frame]) (by rw [frame]) (fun n => ?_) records copies (fun r => ?_) fun x => ?_
  · rw [teams]
    split
    · rw [Option.map_map]; rfl
    · rfl
  · split
    · exact (stoppedRecord_keeps r).2
    · simp
  · split
    · exact ⟨stoppedCopy_owner x, stoppedCopy_fault x⟩
    · exact ⟨rfl, rfl⟩

theorem leave_nil (s : State) (sw : Bool) : Leave s [] sw s :=
  ⟨rfl, fun _ => rfl, (List.map_id _).symm, (List.map_id _).symm⟩

theorem leave_beginSwap {u u0 : Team} (h : Leave s ts sw t) (known : s.team u.uid = some u0) :
    Leave s (ts ++ [u]) sw (t.beginSwap u.uid sw) := by
  have same := leave_sameObjects h
  obtain ⟨frame, teams, records, copies⟩ := h
  -- the team as it stands, on its way out already or not
  obtain ⟨u1, now, left⟩ : ∃ u1, t.team u.uid = some u1 ∧ leaving t sw u1 = leaving s sw u0 := by
    rw [teams, known]
    split
    · exact ⟨_, rfl, by rw [← leaving_leaving s sw u0, leaving, same.objects]; rfl⟩
    · exact ⟨_, rfl, by rw [leaving, same.objects]; rfl⟩
  rw [beginSwap_eq now]
  refine ⟨by rw [frame], fun n => ?_, ?_, ?_⟩
  · have uid : u1.uid = u.uid := State.team_uid now
    have other := team_putTeam_eq (s := t) (t := leaving t sw u1) (t0 := u1) (uid ▸ now) n
    rw [show (leaving t sw u1).uid = u.uid from uid, teams] at other
    refine Eq.trans (b := (t.putTeam (leaving t sw u1)).team n) rfl (other.trans ?_)
    by_cases e : n = u.uid
    · simp [e, known, left]
    · simp [e, Ne.symm e]
  · rw [records, map_if_twice _ stoppedRecord_idem fun _ => rfl]
    simp only [List.any_append, List.any_cons, List.any_nil, Bool.or_false]
  · rw [copies, map_if_twice _ stoppedCopy_idem fun x => by rw [ownedBy, stoppedCopy_owner]; rfl]
    simp only [List.any_append, List.any_cons, List.any_nil, Bool.or_false]

theorem leave_foldl (s : State) (sw : Bool) (ts : List Team) (known : ∀ u ∈ ts, ∃ u0, s.team u.uid = some u0) :
    Leave s ts sw (ts.foldl (fun s u => s.beginSwap u.uid sw) s) := by
  suffices ∀ (l done : List Team) (t : State), Leave s done sw t → (∀ u ∈ l, ∃ u0, s.team u.uid = some u0) →
      Leave s (done ++ l) sw (l.foldl (fun s u => s.beginSwap u.uid sw) t) from this ts [] s (leave_nil s sw) known
  intro l
  induction l with
  | nil => intro done t h _; rwa [List.append_nil]
  | cons u l ih =>
    intro done t h known
    obtain ⟨u0, hu⟩ := known u (List.mem_cons_self ..)
    rw [List.append_cons, List.foldl_cons]
    exact ih _ _ (leave_beginSwap h hu) fun v hv => known v (List.mem_cons_of_mem _ hv)

/-! ### A team is resident again (R151, R152) -/

/-- A team that has come back. -/
def residing (u : Team) : Team := { u with st := .resident, waitSince := none, switchedOut := false }

theorem copy_resumed_eq (x : Copy) (u : Team) : (match x.owner with
    | .handle n _ _ _ => if n = u.uid then { x with core := u.core, part := partOf u.core, stopped := false } else x
    | _ => x) = if ownedBy x u.uid = true then resumedCopy u x else x := by
  cases ho : x.owner with
  | handle n g h t => by_cases e : n = u.uid <;> simp [ownedBy, ho, resumedCopy, e]
  | node q n => simp [ownedBy, ho]
  | command => simp [ownedBy, ho]

theorem resume_eq (s : State) (u : Team) : s.resume u = { s with
    teams := (s.putTeam (residing u)).teams
    records := s.records.map fun r => if r.team = u.uid then resumedRecord u r else r
    copies := s.copies.map fun x => if ownedBy x u.uid = true then resumedCopy u x else x } := by
  have copies : (s.resume u).copies = s.copies.map fun x => if ownedBy x u.uid = true then resumedCopy u x else x :=
    List.map_congr_left fun x _ => copy_resumed_eq x u
  have records : (s.resume u).records = s.records.map fun r => if r.team = u.uid then resumedRecord u r else r := by
    refine List.map_congr_left fun r _ => if_congr Iff.rfl ?_ rfl
    rw [show (fun n => accSlot (u.acc.get (slotIx n))) = slotNamed u from funext (accSlot_eq u)]
    rfl
  rw [← records, ← copies]
  rfl

theorem resume_team {s : State} {u : Team} (h : s.team u.uid = some u) (n : Nat) :
    (s.resume u).team n = if n = u.uid then some (residing u) else s.team n := by
  rw [resume_eq]
  exact team_putTeam_eq (t := residing u) h n

theorem resume_sameObjects {s : State} {u : Team} (h : s.team u.uid = some u) : SameObjects s (s.resume u) := by
  refine sameObjects_of_maps (by rw [resume_eq]) (by rw [resume_eq]) (by rw [resume_eq]) (fun n => ?_)
    (by rw [resume_eq]) (by rw [resume_eq]) (fun r => ?_) fun x => ?_
  · rw [resume_team h]
    split
    case isTrue e => rw [e, h]; rfl
    case isFalse => rfl
  · split <;> exact ⟨rfl, rfl, rfl, rfl, rfl⟩
  · split <;> exact ⟨rfl, rfl⟩

/-! ### A team is pre-empted (R395, R397) -/

def preemptedTeam (s : State) (u : Team) : Team :=
  if u.st = .resident ∨ u.st = .waiting ∨ u.st = .returning then leaving s true u else u
def preemptedRecord (u : Team) (r : Record) : Record :=
  if u.st = .returning then stoppedRecord (resumedRecord u r) else if u.st = .resident ∨ u.st = .waiting then stoppedRecord r else r
def preemptedCopy (u : Team) (x : Copy) : Copy :=
  if u.st = .returning then stoppedCopy (resumedCopy u x) else if u.st = .resident ∨ u.st = .waiting then stoppedCopy x else x

theorem resumedRecord_team (u : Team) (r : Record) : (resumedRecord u r).team = r.team := rfl
theorem resumedCopy_ownedBy (u : Team) (x : Copy) (n : Nat) : ownedBy (resumedCopy u x) n = ownedBy x n := rfl

/-- One team pre-empted: only that team, its records and its copies differ. -/
def PreemptsOne (s : State) (u : Team) (t : State) : Prop :=
  t = { s with
    teams := t.teams
    records := s.records.map fun r => if (u.uid == r.team) = true then preemptedRecord u r else r
    copies := s.copies.map fun x => if ownedBy x u.uid = true then preemptedCopy u x else x } ∧
  ∀ n, t.team n = if n = u.uid then some (preemptedTeam s u) else s.team n

theorem preemptsOne_staying {s : State} {u : Team} (h : s.team u.uid = some u) (stays : u.st = .resident ∨ u.st = .waiting) :
    PreemptsOne s u (s.beginSwap u.uid true) := by
  have ne : u.st ≠ .returning := by rcases stays with e | e <;> simp [e]
  have r : preemptedRecord u = stoppedRecord := funext fun r => by rw [preemptedRecord, if_neg ne, if_pos stays]
  have c : preemptedCopy u = stoppedCopy := funext fun x => by rw [preemptedCopy, if_neg ne, if_pos stays]
  rw [PreemptsOne, beginSwap_eq h, r, c, preemptedTeam, if_pos (stays.imp_right Or.inl)]
  exact ⟨rfl, team_putTeam_eq (t := leaving s true u) h⟩

theorem preemptsOne_out {s : State} {u : Team} (h : s.team u.uid = some u) (out : u.st = .swappingOut ∨ u.st = .swapped) :
    PreemptsOne s u s := by
  have r : preemptedRecord u = id := funext fun r => by rcases out with e | e <;> simp [preemptedRecord, e]
  have c : preemptedCopy u = id := funext fun x => by rcases out with e | e <;> simp [preemptedCopy, e]
  have k : preemptedTeam s u = u := by rcases out with e | e <;> simp [preemptedTeam, e]
  rw [PreemptsOne, r, c, k]
  refine ⟨by simp, fun n => ?_⟩
  split
  case isTrue e => rw [e, h]
  case isFalse => rfl

theorem preemptsOne_returning {s : State} {u : Team} (h : s.team u.uid = some u) (hst : u.st = .returning) :
    PreemptsOne s u ((s.resume u).beginSwap u.uid true) := by
  have back : (s.resume u).team u.uid = some (residing u) := by rw [resume_team h, if_pos rfl]
  have left : leaving (s.resume u) true (residing u) = leaving s true u := by
    rw [leaving, (resume_sameObjects h).objects]; rfl
  have r : preemptedRecord u = stoppedRecord ∘ resumedRecord u := funext fun r => by rw [preemptedRecord, if_pos hst]; rfl
  have c : preemptedCopy u = stoppedCopy ∘ resumedCopy u := funext fun x => by rw [preemptedCopy, if_pos hst]; rfl
  rw [PreemptsOne, preemptedTeam, if_pos (.inr (.inr hst)), beginSwap_eq back, resume_eq]
  constructor
  · congr 1 <;> simp only [List.map_map]
    · refine List.map_congr_left fun x _ => ?_
      by_cases e : ownedBy x u.uid = true
      · simp [e, c, resumedCopy_ownedBy]
      · simp [e]
    · refine List.map_congr_left fun r' _ => ?_
      by_cases e : r'.team = u.uid
      · simp [e, r, resumedRecord_team]
      · simp [e, Ne.symm e]
  · intro n
    rw [← resume_eq, left]
    refine (team_putTeam_eq (t := leaving s true u) (t0 := residing u) back n).trans ?_
    rw [resume_team h, show (leaving s true u).uid = u.uid from rfl]
    by_cases e : n = u.uid <;> simp [e]

theorem preempt_one {s : State} {u : Team} (h : s.team u.uid = some u) : PreemptsOne s u (s.preempt u) := by
  unfold State.preempt
  split
  case h_1 st => exact preemptsOne_staying h (.inl st)
  case h_2 st => exact preemptsOne_staying h (.inr st)
  case h_3 st => exact preemptsOne_returning h st
  case h_4 resident waiting returning =>
    refine preemptsOne_out h ?_
    cases st : u.st <;> simp_all

/-! ### Teams pre-empted one after another (R397) -/

theorem preemptedRecord_keeps (u : Team) (r : Record) : (preemptedRecord u r).team = r.team ∧ (preemptedRecord u r).hasH = r.hasH ∧
    (preemptedRecord u r).gid = r.gid ∧ (preemptedRecord u r).h = r.h ∧ (preemptedRecord u r).tag = r.tag ∧
    (preemptedRecord u r).fault = r.fault := by
  unfold preemptedRecord
  split
  · exact ⟨rfl, rfl, rfl, rfl, rfl, rfl⟩
  · split <;> exact ⟨rfl, rfl, rfl, rfl, rfl, rfl⟩

theorem preemptedCopy_keeps (u : Team) (x : Copy) : (preemptedCopy u x).owner = x.owner ∧ (preemptedCopy u x).fault = x.fault := by
  unfold preemptedCopy
  split
  · exact ⟨stoppedCopy_owner _, stoppedCopy_fault _⟩
  · split
    · exact ⟨stoppedCopy_owner x, stoppedCopy_fault x⟩
    · exact ⟨rfl, rfl⟩

/-- The team of a list of numbers that `n` names. -/
def listedTeam (s : State) (uids : List Nat) (n : Nat) : Option Team := if uids.contains n = true then s.team n else none

/-- The teams that have been pre-empted, with their records and their copies. -/
def PreemptsAll (s : State) (uids : List Nat) (t : State) : Prop :=
  t = { s with teams := t.teams, records := t.records, copies := t.copies } ∧
  (∀ n, t.team n = if uids.contains n = true then (s.team n).map (preemptedTeam s) else s.team n) ∧
  (t.records = s.records.map fun r => match listedTeam s uids r.team with
    | some u => preemptedRecord u r
    | none => r) ∧
  t.copies = s.copies.map fun x => match x.owner with
    | .handle n _ _ _ => (match listedTeam s uids n with
      | some u => preemptedCopy u x
      | none => x)
    | _ => x

theorem preemptsAll_sameObjects {s t : State} {uids : List Nat} (h : PreemptsAll s uids t) : SameObjects s t := by
  obtain ⟨frame, teams, records, copies⟩ := h
  refine sameObjects_of_maps (by rw [frame]) (by rw [frame]) (by rw [frame]) (fun n => ?_) records copies (fun r => ?_) fun x => ?_
  · rw [teams]
    split
    · rw [Option.map_map]
      refine congrArg (fun f => (s.team n).map f) (funext fun u => ?_)
      rw [Function.comp_apply, preemptedTeam]
      split <;> rfl
    · rfl
  · split
    · exact (preemptedRecord_keeps _ r).2
    · exact ⟨rfl, rfl, rfl, rfl, rfl⟩
  · split
    · split
      · exact preemptedCopy_keeps _ x
      · exact ⟨rfl, rfl⟩
    · exact ⟨rfl, rfl⟩

theorem preemptedTeam_out {s : State} {u : Team} : (preemptedTeam s u).st = .swappingOut ∨ (preemptedTeam s u).st = .swapped := by
  unfold preemptedTeam
  split
  · exact .inl rfl
  · cases h : u.st <;> simp_all

theorem preempt_out {s : State} {u : Team} (h : u.st = .swappingOut ∨ u.st = .swapped) : s.preempt u = s := by
  rcases h with e | e <;> rw [State.preempt, e]

theorem listedTeam_append_old {s : State} {uids : List Nat} {n : Nat} (h : uids.contains n = true ∨ s.team n = none) (m : Nat) :
    listedTeam s (uids ++ [n]) m = listedTeam s uids m := by
  by_cases e : m = n
  · rcases h with h | h
    · simp_all [listedTeam]
    · simp [listedTeam, e, h]
  · simp [listedTeam, e]

/-- The pre-emption of one more team of a list. -/
def preemptNumber (s : State) (n : Nat) : State :=
  match s.team n with
  | some u => s.preempt u
  | none => s

theorem preemptsAll_step {s t : State} {uids : List Nat} (h : PreemptsAll s uids t) (n : Nat) :
    PreemptsAll s (uids ++ [n]) (preemptNumber t n) := by
  have same := preemptsAll_sameObjects h
  have ⟨frame, teams, records, copies⟩ := h
  by_cases old : uids.contains n = true ∨ s.team n = none
  · have stands : preemptNumber t n = t := by
      unfold preemptNumber
      rw [teams]
      cases hs : s.team n with
      | none => simp
      | some u =>
        rw [if_pos (old.resolve_right (by simp [hs]))]
        exact preempt_out preemptedTeam_out
    rw [stands, PreemptsAll]
    simp only [listedTeam_append_old old]
    refine ⟨frame, fun m => ?_, records, copies⟩
    rw [teams]
    by_cases e : m = n
    · rcases old with o | o
      · rw [e, if_pos o, if_pos (by simp)]
      · simp [e, o]
    · simp [e]
  · rw [not_or] at old
    obtain ⟨fresh, some⟩ := old
    obtain ⟨u, hu⟩ := Option.ne_none_iff_exists'.1 some
    have uid : u.uid = n := State.team_uid hu
    have now : t.team u.uid = .some u := by rw [teams, uid, if_neg fresh, hu]
    obtain ⟨frame1, teams1⟩ := preempt_one now
    have team : preemptedTeam t u = preemptedTeam s u := by
      unfold preemptedTeam
      rw [leaving, same.objects]; rfl
    have listed (m : Nat) : listedTeam s (uids ++ [n]) m = if m = n then .some u else listedTeam s uids m := by
      by_cases e : m = n
      · simp [listedTeam, e, hu]
      · simp [listedTeam, e]
    have unlisted : listedTeam s uids n = none := if_neg fresh
    rw [show preemptNumber t n = t.preempt u by rw [preemptNumber, ← uid, now]]
    refine ⟨?_, fun m => ?_, ?_, ?_⟩
    · rw [frame1, frame]
    · rw [teams1, teams, team, uid]
      by_cases e : m = n
      · simp [e, hu]
      · simp [e]
    · rw [frame1]
      simp only [records, List.map_map]
      refine List.map_congr_left fun r _ => ?_
      rw [Function.comp_apply, listed, uid]
      by_cases e : r.team = n
      · simp [e, unlisted]
      · rw [if_neg e]
        cases listedTeam s uids r.team <;> simp [preemptedRecord_keeps, Ne.symm e]
    · rw [frame1]
      simp only [copies, List.map_map]
      refine List.map_congr_left fun x _ => ?_
      rw [Function.comp_apply, uid]
      cases ho : x.owner with
      | node => simp [ownedBy, ho]
      | command => simp [ownedBy, ho]
      | handle m g h b =>
        simp only [listed]
        by_cases e : m = n
        · simp [e, unlisted, ownedBy, ho]
        · rw [if_neg e]
          cases listedTeam s uids m <;> simp [ownedBy, ho, preemptedCopy_keeps, e]

theorem preemptsAll_nil (s : State) : PreemptsAll s [] s := by
  refine ⟨rfl, fun _ => rfl, by simp [listedTeam], ?_⟩
  conv_lhs => rw [← List.map_id s.copies]
  refine List.map_congr_left fun x _ => ?_
  cases x.owner <;> rfl

theorem preemptsAll_foldl (s : State) (uids : List Nat) : PreemptsAll s uids (uids.foldl preemptNumber s) := by
  suffices ∀ (l done : List Nat) (t : State), PreemptsAll s done t → PreemptsAll s (done ++ l) (l.foldl preemptNumber t) from
    this uids [] s (preemptsAll_nil s)
  intro l
  induction l with
  | nil => intro done t h; rwa [List.append_nil]
  | cons n l ih =>
    intro done t h
    rw [List.append_cons, List.foldl_cons]
    exact ih _ _ (preemptsAll_step h n)

theorem preempted_of_preemptsAll {s t : State} {uids : List Nat} (h : PreemptsAll s uids t) : Preempted s uids t := by
  obtain ⟨_, teams, records, copies⟩ := h
  exact ⟨teams, records, copies⟩

end Sys2Proof.PlacementAndResources
end

section
/-! PROOFS. Management commands that are served, gang plans that are dropped, and the core switch (R397, R414, R415). -/

namespace Sys2Proof.PlacementAndResources

open Sys2Proof.Machine Sys2Proof.Safety Sys2Proof.Claims Sys2Proof.Laws Sys2Proof.Launching

/-! ### A management command is served (R414, R415) -/

/-- The command of a mailbox has begun. -/
def begunState (s : State) (side : Bool) (c : List DWord) : State :=
  { s with svc := if side = true then { s.svc with side := { s.svc.side with job := some c, begun := true } }
      else { s.svc with host := { s.svc.host with begun := true } } }

theorem mgmtServe_legal {s : State} {c : List DWord} (side : Bool) (run : State → Out) (fits : mgmtBad c = false)
    (up : mgmtNeedsDies (mgmtOp c) = true → s.dieUp = true) : mgmtServe s side c run = run s := by
  rw [mgmtServe, if_neg (by simp [fits]), if_neg]
  cases needs : mgmtNeedsDies (mgmtOp c)
  · simp
  · simp [up needs]

theorem mgmtSimple_served {s : State} {side : Bool} {c : List DWord} (run : Bool → List DWord → State → Out) (turned : Turned s side c)
    (legal : Legal s c) : mgmtSimple s (mgmtOp c) run = run side c (begunState s side c) := by
  obtain ⟨powered, restarting, reload, flag, turn⟩ := turned
  obtain ⟨fits, up⟩ := legal
  unfold mgmtSimple mgmt
  rw [if_neg (by simp [powered, restarting, reload])]
  cases side with
  | true =>
    obtain ⟨data, job, waits⟩ := (if_pos rfl ▸ turn :)
    have quiet : (s.svc.host.job.isSome && !s.svc.host.begun) = false := by
      cases hj : s.svc.host.job
      · simp
      · simpa [hj] using waits
    simp only [flag, data, job, quiet, if_true, Option.isSome_none, beq_self_eq_true, Bool.true_or, Bool.not_true, Bool.or_self,
      Bool.false_eq_true, if_false]
    exact mgmtServe_legal true (run true c) fits fun needs => dieUp_of (s := s) (up needs)
  | false =>
    obtain ⟨job, begun, stopped⟩ := (if_neg Bool.false_ne_true ▸ turn :)
    rw [if_neg (by simp [flag])]
    split
    case h_1 c1 job1 =>
      obtain rfl : c = c1 := by simpa [job] using job1
      rw [if_neg (by simp [job, begun, stopped])]
      exact mgmtServe_legal false (run false c) fits fun needs => dieUp_of (s := s) (up needs)
    case h_2 none => simp [job] at none

/-- A command ends: the part's state differs in the service core's registers alone. -/
theorem mbDone_frame (s : State) (side : Bool) (code index : Nat) : s.mbDone side code index = { s with svc := (s.mbDone side code index).svc } := by
  cases side <;> rfl

@[simp] theorem mbDone_core (s : State) (side : Bool) (code index n : Nat) : (s.mbDone side code index).core n = s.core n := by
  rw [mbDone_frame, State.core, State.core]
@[simp] theorem mbDone_part (s : State) (side : Bool) (code index n : Nat) : (s.mbDone side code index).part n = s.part n := by
  rw [mbDone_frame, State.part, State.part]

theorem replied_mbDone {s x : State} {side : Bool} {c : List DWord} (svc : x.svc = (begunState s side c).svc) (code index : Nat) :
    Replied s side code index (x.mbDone side code index) := by
  cases side with
  | true => simp [Replied, State.mbDone, svc, begunState]
  | false =>
    refine ⟨by simp [State.mbDone, State.signal, State.vector, svc, begunState], by simp [State.mbDone, State.signal, State.vector, svc, begunState], fun v => ?_⟩
    simp [State.mbDone, State.signal, State.vector, svc, begunState, Tab.get_set, vecIx]
    by_cases e : v = 0 <;> simp [e]

theorem mgmtOp_of_serving {s : State} {side : Bool} {c : List DWord} {i : Instr} (h : Serving i s side c) {n : Nat} {ok : List DWord → Prop}
    (op : managementOp i = some (n, ok)) : Turned s side c ∧ Legal s c ∧ mgmtOp c = n := by
  obtain ⟨turned, legal, m, ok', isOp, eq, _⟩ := h
  rw [op] at isOp
  obtain ⟨rfl, rfl⟩ := Prod.mk.inj (Option.some.inj isOp)
  exact ⟨turned, legal, eq⟩

/-! ### Gang plans dropped (R144) -/

theorem partIx_eq (p n : Nat) : partIx p = partIx n ↔ p % 8 = n % 8 := Fin.ext_iff

theorem part_putPart_eq (s : State) (p n : Nat) (q : Partition) : (s.putPart p q).part n = if n % 8 = p % 8 then q else s.part n := by
  simp only [State.part, State.putPart, Tab.get_set, partIx_eq]

theorem part_congr (s : State) {p n : Nat} (h : n % 8 = p % 8) : s.part n = s.part p := by
  rw [State.part, State.part, (partIx_eq n p).2 h]

theorem foldl_freeArea (l : List (Nat × (Nat × Nat))) (q : Partition) :
    l.foldl (fun q a => q.freeArea a.2) q = { q with saveUsed := q.saveUsed.filter fun a => !(l.any fun b => b.2 == a) } := by
  induction l generalizing q with
  | nil => simp
  | cons b l ih =>
    rw [List.foldl_cons, ih, Partition.freeArea]
    congr 1
    rw [List.filter_filter]
    refine List.filter_congr fun a _ => ?_
    rw [List.any_cons, Bool.not_or, Bool.and_comm, bne, BEq.comm (a := a)]

/-- A plan names an entry of its leader. -/
def samePlan (p x : GangPlan) : Bool := p.leader == x.leader && p.die == x.die && p.lst == x.lst

theorem samePlan_iff (p x : GangPlan) : samePlan p x = true ↔ x.leader = p.leader ∧ x.die = p.die ∧ x.lst = p.lst := by
  simp only [samePlan, Bool.and_eq_true, beq_iff_eq, and_assoc]
  exact and_congr eq_comm (and_congr eq_comm eq_comm)

/-- The save areas that a partition keeps when a plan is dropped. -/
def keptAreas (p : GangPlan) (n : Nat) (l : List (Nat × Nat)) : List (Nat × Nat) :=
  l.filter fun a => !(partOf p.leader % 8 == n % 8 && p.areas.any fun b => b.2 == a)

theorem dropPlan_part (s : State) (p : GangPlan) (keep : Option GangPlan) (n : Nat) :
    (s.dropPlan p keep).part n = { s.part n with saveUsed := keptAreas p n (s.part n).saveUsed } := by
  have dropped : (s.dropPlan p keep).parts =
      (s.putPart (partOf p.leader) (p.areas.foldl (fun q a => q.freeArea a.2) (s.part (partOf p.leader)))).parts := rfl
  rw [State.part, dropped, ← State.part, part_putPart_eq]
  split
  case isTrue e => simp [foldl_freeArea, part_congr s e, keptAreas, e]
  case isFalse e => rw [keptAreas, List.filter_eq_self.2 fun a _ => by simp [beq_eq_false_iff_ne.2 (Ne.symm e)]]

theorem dropPlan_none (s : State) (p : GangPlan) : s.dropPlan p none = { s with
    parts := (s.dropPlan p none).parts, fe := { s.fe with gangs := s.fe.gangs.filter fun x => !samePlan p x } } := by
  have gangs : (s.dropPlan p none).fe.gangs = s.fe.gangs.filter fun x => !samePlan p x := by
    rw [← List.filterMap_eq_filter]
    refine List.filterMap_congr fun x _ => ?_
    by_cases e : samePlan p x = true
    · simp [(samePlan_iff p x).1 e, e, Option.guard]
    · simp [mt (samePlan_iff p x).2 e, e, Option.guard]
  rw [← gangs]
  rfl

theorem dropPlans_foldl (l : List GangPlan) (s : State) :
    l.foldl (fun s g => s.dropPlan g none) s = { s with
      parts := (l.foldl (fun s g => s.dropPlan g none) s).parts
      fe := { s.fe with gangs := s.fe.gangs.filter fun x => !l.any fun g => samePlan g x } } ∧
    ∀ n, (l.foldl (fun s g => s.dropPlan g none) s).part n = { s.part n with saveUsed := (s.part n).saveUsed.filter fun a =>
      !(l.any fun g => partOf g.leader % 8 == n % 8 && g.areas.any (fun b => b.2 == a)) } := by
  induction l generalizing s with
  | nil => simp
  | cons g l ih =>
    obtain ⟨frame, parts⟩ := ih (s.dropPlan g none)
    rw [List.foldl_cons]
    constructor
    · rw [frame, dropPlan_none]
      simp [List.filter_filter, Bool.and_comm]
    · intro n
      rw [parts, dropPlan_part]
      simp [keptAreas, List.filter_filter, Bool.and_comm]

end Sys2Proof.PlacementAndResources
end

section
/-! PROOFS. Teams swapped out by a wait, resumed, and switched by priority or by the core switch (R150, R151, R394, R395, R397). -/

namespace Sys2Proof.PlacementAndResources

open Sys2Proof.Machine Sys2Proof.Safety Sys2Proof.Claims Sys2Proof.Laws Sys2Proof.Launching

theorem team_of_mem {s : State} {u : Team} (h : u ∈ s.teams) : ∃ v, s.team u.uid = some v :=
  Option.isSome_iff_exists.1 (List.find?_isSome.2 ⟨u, h, beq_self_eq_true _⟩)

theorem mem_teams_of_team {s : State} {n : Nat} {u : Team} (h : s.team n = some u) : u ∈ s.teams := List.mem_of_find?_eq_some h

theorem mem_teams_of_together {s : State} {u v : Team} (hu : u ∈ s.teams) (h : v ∈ s.together u) : v ∈ s.teams := by
  unfold State.together at h
  split at h
  · exact List.mem_of_mem_filter h
  · rwa [List.mem_singleton.1 h]

/-- The teams that go together, one after another, leave their cores. -/
theorem leave_together {s : State} {u : Team} (hu : u ∈ s.teams) (sw : Bool) :
    Leave s (s.together u) sw ((s.together u).foldl (fun s v => s.beginSwap v.uid sw) s) :=
  leave_foldl s sw _ fun _ hv => team_of_mem (mem_teams_of_together hu hv)

theorem waitSwapOut_step {s : State} {u : Team} (hu : s.team s.arg.team = some u) (runs : s.agentRuns u.core = true) :
    ((s.together u).all s.timedOut = true → (s.together u).any s.swapReason = true →
      ∃ t, exec .waitSwapOut s = .next t ∧ Leave s (s.together u) false t) ∧
    ((s.together u).all s.timedOut = false ∨ (s.together u).any s.swapReason = false → exec .waitSwapOut s = .next s) := by
  have step : exec .waitSwapOut s = execWaitSwapOut s := rfl
  rw [step, execWaitSwapOut, hu]
  constructor
  · intro timedOut reason
    exact ⟨_, if_pos (by simp only [runs, timedOut, reason, Bool.and_self]), leave_together (mem_teams_of_team hu) false⟩
  · intro stays
    refine if_neg fun h => ?_
    simp only [Bool.and_eq_true] at h
    obtain ⟨⟨_, timedOut⟩, reason⟩ := h
    rcases stays with e | e
    · exact Bool.false_ne_true (e ▸ timedOut)
    · exact Bool.false_ne_true (e ▸ reason)

theorem teamResume_step {s : State} {u : Team} (hu : s.team s.arg.team = some u) (back : u.st = .returning) (runs : s.agentRuns u.core = true) :
    ∃ t, exec .teamResume s = .next t ∧ t = { s with teams := t.teams, records := t.records, copies := t.copies } ∧
      (∀ n, t.team n = if n = u.uid then some { u with st := .resident, waitSince := none, switchedOut := false } else s.team n) ∧
      (t.records = s.records.map fun r => if r.team = u.uid then resumedRecord u r else r) ∧
      t.copies = s.copies.map fun x => if ownedBy x u.uid = true then resumedCopy u x else x := by
  have step : exec .teamResume s = execTeamResume s := rfl
  refine ⟨s.resume u, ?_, by rw [resume_eq], resume_team (State.team_uid hu ▸ hu), by rw [resume_eq], by rw [resume_eq]⟩
  rw [step, execTeamResume, hu]
  exact if_neg (by simp [back, runs])

theorem teamResume_stays {s : State} {u : Team} (hu : s.team s.arg.team = some u) (stays : u.st ≠ .returning ∨ s.agentRuns u.core = false) :
    exec .teamResume s = .next s := by
  have step : exec .teamResume s = execTeamResume s := rfl
  rw [step, execTeamResume, hu]
  exact if_pos (stays.imp_right fun h => by simp [h])

/-- A member of a list that a fold chooses comes from the list. -/
theorem foldl_choice_mem {α : Type} (f : Option α → α → Option α) (choice : ∀ a x y, f a x = some y → some y = a ∨ y = x) (l : List α) (a : Option α)
    {y : α} (h : l.foldl f a = some y) : some y = a ∨ y ∈ l := by
  induction l generalizing a with
  | nil => exact .inl h.symm
  | cons x l ih =>
    rcases ih _ h with e | m
    · rcases choice a x y e.symm with e | e
      · exact .inl e
      · exact .inr (e ▸ List.mem_cons_self ..)
    · exact .inr (List.mem_cons_of_mem _ m)

theorem victim_mem {s : State} {core prio : Nat} {v : Team} (h : s.victim core prio = some v) : v ∈ s.teams := by
  refine List.mem_of_mem_filter ((foldl_choice_mem _ (fun a x y e => ?_) _ _ h).resolve_left (by simp))
  cases a with
  | none => exact .inr (Option.some.inj e).symm
  | some b =>
    dsimp only at e
    split at e
    · exact .inr (Option.some.inj e).symm
    · exact .inl e.symm

theorem teamSwitch_step {s : State} {i : Nat} {e : LstEntry} {seq : Word} {since : Nat} {v : Team} (runs : s.agentRuns s.arg.core = true)
    (th : (s.part (partOf s.arg.core)).preemptTh ≠ 0) (unfit : (s.core s.arg.core).unfit = some (seq, since))
    (first : s.firstEntry s.arg.core = some (i, e)) (same : seq = e.seq) (due : since + (s.part (partOf s.arg.core)).preemptTh ≤ s.now)
    (quiet : ∀ u ∈ s.teams, ¬ (u.core = s.arg.core ∧ u.st = .swappingOut ∧ u.switchedOut = true))
    (unfits : s.entryFits s.arg.core e = false) (hv : s.victim s.arg.core e.prio = some v) :
    ∃ t, exec .teamSwitch s = .next t ∧ Leave s (s.together v) true t := by
  refine ⟨_, ?_, leave_together (victim_mem hv) true⟩
  have step : exec .teamSwitch s = execTeamSwitch s := rfl
  have busy : (s.teams.any fun t => t.core == s.arg.core && t.st == .swappingOut && t.switchedOut) = false := by
    simpa [List.any_eq_false, and_assoc] using quiet
  rw [step, execTeamSwitch]
  simp only [runs, unfit, first, hv]
  rw [if_neg (by simpa using th), if_neg (by simp [same, unfits, busy, due])]

theorem teamSwitch_off {s : State} (off : (s.part (partOf s.arg.core)).preemptTh = 0) :
    exec .teamSwitch s = .next s := by
  have step : exec .teamSwitch s = execTeamSwitch s := rfl
  rw [step, execTeamSwitch]
  exact if_pos (by simp [off])

/-! ### The core switch (R397) -/

/-- The numbers of the teams of a core, with the members of their gangs. -/
def coreUids (s : State) (k : Nat) : List Nat := ((s.teams.filter fun u => u.core == k).flatMap s.together).map fun u => u.uid

theorem preemptsAll_begun {s t : State} {side : Bool} {c : List DWord} {uids : List Nat} (h : PreemptsAll (begunState s side c) uids t) :
    t = { begunState s side c with teams := t.teams, records := t.records, copies := t.copies } ∧ Preempted s uids t := by
  have same : SameObjects s (begunState s side c) :=
    sameObjects_of_maps (fr := id) (fc := id) rfl rfl rfl (fun _ => rfl) (List.map_id _).symm (List.map_id _).symm
      (fun _ => ⟨rfl, rfl, rfl, rfl, rfl⟩) fun _ => ⟨rfl, rfl⟩
  have left : preemptedTeam (begunState s side c) = preemptedTeam s := by
    funext u
    rw [preemptedTeam, leaving, same.objects]
    rfl
  obtain ⟨frame, teams, records, copies⟩ := preempted_of_preemptsAll h |> fun p => And.intro h.1 p
  refine ⟨frame, fun n => ?_, records, copies⟩
  have := h.2.1 n
  rw [left] at this
  exact this

theorem cswitch_step {s : State} {side : Bool} {c : List DWord} (h : Serving .cswitch s side c) :
    let k := (c.getD 1 0#64).toNat
    ((s.part (partOf k)).st ≠ .running → ∃ t, exec .cswitch s = .next t ∧ Replied s side 0x51 0 t ∧ t = { s with svc := t.svc }) ∧
    ((s.part (partOf k)).st = .running →
      let plans := s.fe.gangs.filter fun g => g.covers k
      ∃ t, exec .cswitch s = .next t ∧ Replied s side 0 0 t ∧
        t = { s with
          teams := t.teams, records := t.records, copies := t.copies, parts := t.parts, cores := t.cores, svc := t.svc
          fe := { s.fe with gangs := s.fe.gangs.filter fun x => !plans.any fun g => g.leader == x.leader && g.die == x.die && g.lst == x.lst } } ∧
        Preempted s (((s.teams.filter fun u => u.core == k).flatMap s.together).map fun u => u.uid) t ∧
        (∀ n, t.core n = if n % 768 = k % 768 then { s.core n with agentOn := false, drafterOn := false } else s.core n) ∧
        ∀ p, t.part p = { s.part p with saveUsed := (s.part p).saveUsed.filter (fun a =>
          !(plans.any fun g => partOf g.leader % 8 == p % 8 && g.areas.any (fun b => b.2 == a))) }) := by
  obtain ⟨turned, legal, op⟩ := mgmtOp_of_serving h rfl
  intro k
  have step : exec .cswitch s = execCswitch s := rfl
  have dw : dwAt c 1 = k := by simp [dwAt, k]
  constructor
  · intro idle
    rw [step, execCswitch, ← op, mgmtSimple_served _ turned legal, dw]
    refine ⟨_, if_pos idle, replied_mbDone rfl _ _, ?_⟩
    rw [mbDone_frame, begunState]
  · intro running plans
    -- the teams leave, then the plans go, then the core's agent and drafter stop
    obtain ⟨s0, left⟩ : ∃ s0, s0 = (coreUids s k).foldl preemptNumber (begunState s side c) := ⟨_, rfl⟩
    obtain ⟨frame, pre⟩ := preemptsAll_begun (left ▸ preemptsAll_foldl (begunState s side c) (coreUids s k))
    have gangs : (s0.fe.gangs.filter fun g => g.covers k) = plans := by rw [frame]; rfl
    obtain ⟨s1, dropped⟩ : ∃ s1, s1 = plans.foldl (fun s g => s.dropPlan g none) s0 := ⟨_, rfl⟩
    obtain ⟨frame1, parts1⟩ := dropped ▸ dropPlans_foldl plans s0
    obtain ⟨s2, stopped⟩ : ∃ s2, s2 = s1.putCore k { s1.core k with agentOn := false, drafterOn := false } := ⟨_, rfl⟩
    have frame2 : s2 = { s1 with cores := s2.cores } := by rw [stopped, State.putCore]
    have ends : exec .cswitch s = .next (s2.mbDone side 0 0) := by
      rw [step, execCswitch, ← op, mgmtSimple_served _ turned legal, dw]
      refine (if_neg (not_not.2 running)).trans ?_
      rw [stopped, dropped, ← gangs, left]
      rfl
    refine ⟨_, ends, replied_mbDone (by rw [frame2, frame1, frame]) 0 0, ?_, ?_, fun n => ?_, fun p => ?_⟩
    · rw [mbDone_frame, frame2, frame1, frame]
      rfl
    · rw [mbDone_frame, frame2, frame1]
      exact pre
    · have cores (n : Nat) : s1.core n = s.core n := by rw [State.core, frame1, frame]; rfl
      rw [mbDone_core, stopped, core_putCore_eq, cores, cores]
      split
      case isTrue e => rw [State.core, State.core, (coreIx_eq n k).2 e]
      case isFalse => rfl
    · have part0 : s0.part p = s.part p := by rw [State.part, frame]; rfl
      rw [mbDone_part, ← part0, ← parts1, State.part, frame2, State.part]

end Sys2Proof.PlacementAndResources
end

section
/-! PROOFS. Work items that move between a core's region and the die pool (R152, R240 to R242). -/

namespace Sys2Proof.PlacementAndResources

open Sys2Proof.Machine Sys2Proof.Safety Sys2Proof.Claims Sys2Proof.Laws Sys2Proof.Launching

/-! ### An item in the pool (R241) -/

/-- Where in the share of a partition the units of an item are written. -/
def poolPlace (s : State) (i : Item) (p : Nat) : Nat := (s.part p).dpoolPA + 32 * (Config.poolUnit s.draws % ((s.part p).dpoolU - i.units + 1))

theorem inPool_eq (s : State) (i : Item) (p k : Nat) : s.inPool i p k =
    { s.writeRaw (poolPlace s i p) i.image with items := s.items ++ [{ i with home := .pool p k }], draws := s.draws + 1 } := by
  unfold State.inPool poolPlace
  rfl

theorem memOnly_items {s w : State} (h : MemOnly s w) (items : List Item) (draws : Nat) :
    MemOnly { s with items := items, draws := draws } { w with items := items, draws := draws } := by
  unfold MemOnly at h ⊢
  rw [h]

theorem memOnly_relisted {x w : State} (h : MemOnly x w) (items : List Item) :
    MemOnly { x with items := items, draws := w.draws } { w with items := items } := by
  unfold MemOnly at h ⊢
  rw [h]

/-- The units of an item go somewhere into the share of a partition: nothing but memory, the items and the draws differs. -/
theorem inPool_memOnly (s : State) (i : Item) (p k : Nat) :
    MemOnly { s with items := s.items ++ [{ i with home := .pool p k }], draws := s.draws + 1 } (s.inPool i p k) := by
  rw [inPool_eq]
  exact memOnly_items (writeRaw_memOnly ..) _ _

theorem inPool_mem {s : State} {i : Item} {p : Nat} (k : Nat) (room : i.units ≤ (s.part p).dpoolU) (whole : i.image.length = 32 * i.units)
    {a : Nat} (off : outOfPool s p a) : memGet (s.inPool i p k).mem a = memGet s.mem a := by
  have place : Config.poolUnit s.draws % ((s.part p).dpoolU - i.units + 1) < (s.part p).dpoolU - i.units + 1 :=
    Nat.mod_lt _ (Nat.succ_pos _)
  rw [inPool_eq]
  dsimp only
  rw [writeRaw_mem, memGet_put, if_neg]
  rw [whole, poolPlace]
  unfold outOfPool at off
  omega

/-! ### Units -/

theorem unitsOf_eq (l : List Item) : unitsOf l = unitSum l := by
  rw [unitSum, unitsOf, List.sum_eq_foldl, List.foldl_map]

theorem unitSum_cons (i : Item) (l : List Item) : unitSum (i :: l) = i.units + unitSum l := by simp [unitSum]

/-- One item put elsewhere: the units of the items there grow by its own. -/
theorem unitSum_setHome {l : List Item} {i : Item} {h : ItemHome} {there : Item → Bool} (distinct : l.Nodup) (mem : i ∈ l)
    (away : there i = false) (comes : there { i with home := h } = true) :
    unitSum ((setHome l i h).filter there) = unitSum (l.filter there) + i.units := by
  have units : ({ i with home := h } : Item).units = i.units := rfl
  induction l with
  | nil => exact absurd mem List.not_mem_nil
  | cons j l ih =>
    obtain ⟨new, distinct⟩ := List.nodup_cons.1 distinct
    by_cases e : j = i
    · have rest : setHome l i h = l := by
        conv_rhs => rw [← List.map_id l]
        exact List.map_congr_left fun x hx => if_neg fun (xi : x = i) => new (by rwa [e, ← xi])
      rw [show setHome (j :: l) i h = { j with home := h } :: setHome l i h from by rw [setHome, List.map_cons, if_pos e]; rfl, rest, e,
        List.filter_cons_of_pos comes, List.filter_cons_of_neg (by simp [away]), unitSum_cons, units, Nat.add_comm]
    · have ih := ih distinct ((List.mem_cons.1 mem).resolve_left (Ne.symm e))
      rw [show setHome (j :: l) i h = j :: setHome l i h from by rw [setHome, List.map_cons, if_neg e]; rfl]
      by_cases t : there j = true
      · rw [List.filter_cons_of_pos t, List.filter_cons_of_pos t, unitSum_cons, unitSum_cons, ih, Nat.add_assoc]
      · rw [List.filter_cons_of_neg t, List.filter_cons_of_neg t, ih]

/-! ### Items that change their place -/

theorem setHome_anywhere (l : List Item) (i : Item) (h : ItemHome) : (setHome l i h).map anywhere = l.map anywhere := by
  rw [setHome, List.map_map]
  refine List.map_congr_left fun j _ => ?_
  rw [Function.comp_apply]
  split <;> rfl

theorem mem_setHome_of_ne {l : List Item} {i j : Item} (h : ItemHome) (mem : j ∈ l) (ne : j ≠ i) : j ∈ setHome l i h :=
  List.mem_map.2 ⟨j, mem, if_neg ne⟩

theorem mem_setHome {l : List Item} {i j : Item} {h : ItemHome} (mem : j ∈ setHome l i h) : (j ∈ l ∧ j ≠ i) ∨ j = { i with home := h } := by
  obtain ⟨x, hx, e⟩ := List.mem_map.1 mem
  by_cases xi : x = i
  · rw [if_pos xi, xi] at e
    exact .inr e.symm
  · rw [if_neg xi] at e
    exact .inl ⟨e ▸ hx, e ▸ xi⟩

theorem nodup_of_anywhere {l : List Item} (h : (l.map anywhere).Nodup) : l.Nodup := List.Nodup.of_map _ h

/-! ### Moves to the pool (R152) -/

/-- Some items have moved to the pool, none is lost. -/
structure Moved (s t : State) : Prop where
  frame : MemOnly { s with items := t.items, draws := t.draws } t
  kept : t.items.map anywhere = s.items.map anywhere

theorem moved_refl (s : State) : Moved s s := ⟨rfl, rfl⟩

theorem moved_trans {s t u : State} (h : Moved s t) (k : Moved t u) : Moved s u where
  frame := by
    have hf := h.frame
    have kf := k.frame
    unfold MemOnly at hf kf ⊢
    rw [kf, hf]
  kept := k.kept.trans h.kept

/-- What a move of one item does. -/
theorem toPool_cases (s : State) (i : Item) :
    (s.toPool i = s ∧ ∀ k, i.home = .core k → (s.part (partOf k)).dpoolU < s.poolUsed (partOf k) + i.units) ∨
    ∃ k at_, i.home = .core k ∧ s.poolUsed (partOf k) + i.units ≤ (s.part (partOf k)).dpoolU ∧
      s.toPool i = { s.inPool i (partOf k) at_ with items := setHome s.items i (.pool (partOf k) at_) } := by
  cases home : i.home with
  | pool p k => exact .inl ⟨by rw [State.toPool, home], fun _ e => nomatch e⟩
  | core k =>
    by_cases room : s.poolUsed (partOf k) + i.units ≤ (s.part (partOf k)).dpoolU
    · exact .inr ⟨k, _, rfl, room, by rw [State.toPool, home]; exact if_pos room⟩
    · refine .inl ⟨by rw [State.toPool, home]; exact if_neg room, fun n e => ?_⟩
      cases e
      exact Nat.lt_of_not_le room

theorem toPool_moved (s : State) (i : Item) : Moved s (s.toPool i) := by
  rcases toPool_cases s i with ⟨e, _⟩ | ⟨k, at_, _, _, e⟩
  · rw [e]; exact moved_refl s
  · have items : (s.toPool i).items = setHome s.items i (.pool (partOf k) at_) := by rw [e]
    have draws : (s.toPool i).draws = (s.inPool i (partOf k) at_).draws := by rw [e]
    have frame := memOnly_relisted (inPool_memOnly s i (partOf k) at_) (setHome s.items i (.pool (partOf k) at_))
    rw [← e] at frame
    refine ⟨?_, items ▸ setHome_anywhere ..⟩
    rw [items, draws]
    exact frame

theorem toPool_mem {s : State} {i : Item} (whole : i.image.length = 32 * i.units) {a : Nat} (off : ∀ k, i.home = .core k → outOfPool s (partOf k) a) :
    memGet (s.toPool i).mem a = memGet s.mem a := by
  rcases toPool_cases s i with ⟨e, _⟩ | ⟨k, at_, home, room, e⟩
  · rw [e]
  · have mem : (s.toPool i).mem = (s.inPool i (partOf k) at_).mem := by rw [e]
    rw [mem]
    exact inPool_mem at_ (Nat.le_trans (Nat.le_add_left ..) room) whole (off k home)

theorem toPool_other {s : State} {i j : Item} (mem : j ∈ s.items) (ne : j ≠ i) : j ∈ (s.toPool i).items := by
  rcases toPool_cases s i with ⟨e, _⟩ | ⟨k, at_, _, _, e⟩
  · rwa [e]
  · rw [e]; exact mem_setHome_of_ne _ mem ne

/-- Moves of several items. -/
theorem toPools_moved (l : List Item) (s : State) : Moved s (l.foldl State.toPool s) := by
  induction l generalizing s with
  | nil => exact moved_refl s
  | cons i l ih => exact moved_trans (toPool_moved s i) (ih _)

theorem toPools_other {j : Item} (l : List Item) (s : State) (mem : j ∈ s.items) (out : j ∉ l) : j ∈ (l.foldl State.toPool s).items := by
  induction l generalizing s with
  | nil => exact mem
  | cons i l ih =>
    rw [List.mem_cons, not_or] at out
    exact ih _ (toPool_other mem out.1) out.2

theorem moved_parts {s t : State} (h : Moved s t) : t.parts = s.parts := by rw [h.frame]

theorem outOfPool_congr {s t : State} (h : t.parts = s.parts) (p a : Nat) : outOfPool t p a ↔ outOfPool s p a := by
  simp only [outOfPool, State.part, h]

theorem toPools_mem {a : Nat} (l : List Item) (s : State) (whole : ∀ i ∈ l, i.image.length = 32 * i.units)
    (off : ∀ i ∈ l, ∀ k, i.home = .core k → outOfPool s (partOf k) a) : memGet (l.foldl State.toPool s).mem a = memGet s.mem a := by
  induction l generalizing s with
  | nil => rfl
  | cons i l ih =>
    rw [List.foldl_cons, ih (s.toPool i) (fun j hj => whole j (List.mem_cons_of_mem _ hj))
      fun j hj k home => (outOfPool_congr (moved_parts (toPool_moved s i)) ..).2 (off j (List.mem_cons_of_mem _ hj) k home)]
    exact toPool_mem (whole i (List.mem_cons_self ..)) (off i (List.mem_cons_self ..))

/-- With room for all of them, the items of a list leave their core's region, and no other item comes to a region. -/
theorem toPools_leave {k : Nat} (l : List Item) (s : State) (distinct : (s.items.map anywhere).Nodup) (once : l.Nodup)
    (mem : ∀ i ∈ l, i ∈ s.items) (here : ∀ i ∈ l, i.coreOf = k)
    (room : s.poolUsed (partOf k) + unitSum (l.filter fun i => i.home == .core k) ≤ (s.part (partOf k)).dpoolU) :
    ∀ j ∈ (l.foldl State.toPool s).items, ∀ n, j.home = .core n → j ∈ s.items ∧ j ∉ l := by
  induction l generalizing s with
  | nil => exact fun j hj n _ => ⟨hj, List.not_mem_nil⟩
  | cons i l ih =>
    obtain ⟨new, once⟩ := List.nodup_cons.1 once
    have his : i ∈ s.items := mem i (List.mem_cons_self ..)
    have stays (j : Item) (hj : j ∈ l) : j ∈ (s.toPool i).items :=
      toPool_other (mem j (List.mem_cons_of_mem _ hj)) fun e => new (e ▸ hj)
    have next := ih (s.toPool i) ((toPool_moved s i).kept ▸ distinct) once stays fun j hj => here j (List.mem_cons_of_mem _ hj)
    have part : (s.toPool i).part (partOf k) = s.part (partOf k) := by rw [State.part, moved_parts (toPool_moved s i), State.part]
    rw [part] at next
    intro j hj n home
    rcases toPool_cases s i with ⟨e, full⟩ | ⟨m, at_, hm, _, e⟩
    · -- it was in the pool already
      have away : ∀ m, i.home ≠ .core m := fun m hm => by
        have mk : m = k := by simpa [Item.coreOf, hm] using here i (List.mem_cons_self ..)
        have := full m hm
        rw [List.filter_cons_of_pos (by simp [hm, mk]), unitSum_cons] at room
        rw [mk] at this
        omega
      rw [List.filter_cons_of_neg (by simpa using away k)] at room
      obtain ⟨old, out⟩ := next (e.symm ▸ room) j hj n home
      rw [e] at old
      exact ⟨old, fun h => (List.mem_cons.1 h).elim (fun ji => away n (ji ▸ home)) out⟩
    · have mk : m = k := by simpa [Item.coreOf, hm] using here i (List.mem_cons_self ..)
      subst mk
      have items : (s.toPool i).items = setHome s.items i (.pool (partOf m) at_) := by rw [e]
      have grown : (s.toPool i).poolUsed (partOf m) = s.poolUsed (partOf m) + i.units := by
        rw [State.poolUsed, State.poolUsed, unitsOf_eq, unitsOf_eq, items]
        exact unitSum_setHome (nodup_of_anywhere distinct) his (by simp [Item.inPool, hm]) (by simp [Item.inPool])
      rw [List.filter_cons_of_pos (by simp [hm]), unitSum_cons] at room
      obtain ⟨old, out⟩ := next (by omega) j hj n home
      rw [items] at old
      obtain ⟨old, ne⟩ := (mem_setHome old).resolve_right fun e => by rw [e] at home; cases home
      exact ⟨old, fun h => (List.mem_cons.1 h).elim ne out⟩

/-! ### Queues closed and opened (R240) -/

theorem core_congr (s : State) {k n : Nat} (h : n % 768 = k % 768) : s.core n = s.core k := by
  rw [State.core, State.core, (coreIx_eq n k).2 h]

theorem closeQueues_frame (s : State) (k : Nat) : s.closeQueues k = { s with cores := (s.closeQueues k).cores } := by
  simp only [State.closeQueues, State.putCore]

theorem closeQueues_core (s : State) (k n : Nat) : (s.closeQueues k).core n = { s.core n with
    queues := if n % 768 = k % 768 then (s.core n).queues.filter fun q => s.items.any fun i => i.coreOf == k && q.holds i
      else (s.core n).queues } := by
  have holds (q : TwillQueue) : (!(s.queueItems k q).isEmpty) = s.items.any fun i => i.coreOf == k && q.holds i := by
    rw [State.queueItems, Bool.eq_iff_iff]
    simp [List.filter_eq_nil_iff]
  rw [State.closeQueues, core_putCore_eq]
  split
  case isTrue e => simp only [core_congr s e, holds]
  case isFalse => rfl

/-- A queue that is opened for an item has its key. -/
theorem holds_opened (i : Item) (n now : Nat) : TwillQueue.holds ⟨n, i.entry, i.seq, i.teamKey, now⟩ i = true := by
  simp [TwillQueue.holds]

/-- An item has an open queue in a list, or no number is free there. -/
def Queued (queues : List TwillQueue) (i : Item) : Prop := (∃ q ∈ queues, q.holds i = true) ∨ ∀ n, n < 64 → ∃ q ∈ queues, q.num = n

theorem queued_append {queues : List TwillQueue} {i : Item} (h : Queued queues i) (new : List TwillQueue) : Queued (queues ++ new) i := by
  rcases h with ⟨q, hq, e⟩ | h
  · exact .inl ⟨q, List.mem_append_left _ hq, e⟩
  · exact .inr fun n hn => (h n hn).imp fun q hq => ⟨List.mem_append_left _ hq.1, hq.2⟩

/-- Queues have been opened on one core, each for one of some items. -/
structure Opened (s : State) (k : Nat) (items : List Item) (new : List TwillQueue) (t : State) : Prop where
  frame : t = { s with cores := t.cores }
  core : ∀ n, t.core n = { s.core n with queues := if n % 768 = k % 768 then (s.core n).queues ++ new else (s.core n).queues }
  fresh : ∀ q ∈ new, q.since = s.now ∧ ∃ i ∈ items, q.holds i = true
  queued : ∀ i ∈ items, Queued (t.core k).queues i

theorem opened_none {s : State} {k : Nat} {items : List Item} (queued : ∀ i ∈ items, Queued (s.core k).queues i) : Opened s k items [] s :=
  ⟨rfl, fun n => by simp, fun q hq => absurd hq List.not_mem_nil, queued⟩

theorem openFor_opened (s : State) (k : Nat) (i : Item) : ∃ new, Opened s k [i] new (s.openFor k i) := by
  unfold State.openFor
  dsimp only
  by_cases held : ((s.core k).queues.any fun q => q.holds i) = true
  · rw [if_pos held]
    refine ⟨[], opened_none fun j hj => .inl ?_⟩
    rw [List.mem_singleton.1 hj]
    exact List.any_eq_true.1 held
  · rw [if_neg held]
    cases free : (s.core k).freeQueue with
    | none =>
      refine ⟨[], opened_none fun j _ => .inr fun n hn => ?_⟩
      have := List.find?_eq_none.1 free n (List.mem_range.2 hn)
      simpa using this
    | some n =>
      refine ⟨[⟨n, i.entry, i.seq, i.teamKey, s.now⟩], by simp only [State.putCore], fun m => ?_, fun q hq => ?_, fun j hj => .inl ?_⟩
      · rw [core_putCore_eq]
        split
        case isTrue e => rw [core_congr s e]
        case isFalse => rfl
      · rw [List.mem_singleton.1 hq]
        exact ⟨rfl, i, List.mem_cons_self .., holds_opened ..⟩
      · rw [List.mem_singleton.1 hj, core_putCore_eq, if_pos rfl]
        exact ⟨_, List.mem_append_right _ (List.mem_cons_self ..), holds_opened ..⟩

theorem opened_trans {s t u : State} {k : Nat} {items more : List Item} {new later : List TwillQueue} (h : Opened s k items new t)
    (g : Opened t k more later u) : Opened s k (items ++ more) (new ++ later) u where
  frame := by rw [g.frame, h.frame]
  core n := by
    rw [g.core, h.core]
    split
    case isTrue e => rw [List.append_assoc]
    case isFalse => rfl
  fresh q hq := by
    rcases List.mem_append.1 hq with m | m
    · obtain ⟨since, i, hi, e⟩ := h.fresh q m
      exact ⟨since, i, List.mem_append_left _ hi, e⟩
    · obtain ⟨since, i, hi, e⟩ := g.fresh q m
      rw [h.frame] at since
      exact ⟨since, i, List.mem_append_right _ hi, e⟩
  queued i hi := by
    rcases List.mem_append.1 hi with m | m
    · have := queued_append (h.queued i m) later
      rw [g.core, if_pos rfl]
      exact this
    · exact g.queued i m

theorem openFors_opened (k : Nat) (l : List Item) (s : State) : ∃ new, Opened s k l new (l.foldl (fun s i => s.openFor k i) s) := by
  induction l generalizing s with
  | nil => exact ⟨[], opened_none fun i hi => absurd hi List.not_mem_nil⟩
  | cons i l ih =>
    obtain ⟨new, h⟩ := openFor_opened s k i
    obtain ⟨later, g⟩ := ih (s.openFor k i)
    exact ⟨_, opened_trans h g⟩

theorem openQueues_opened (s : State) (k : Nat) : ∃ new, Opened s k (s.items.filter fun i => i.coreOf == k) new (s.openQueues k) :=
  openFors_opened k _ s

/-- The queues of a core decided again: nothing but its queues differs, and each one that is open holds an item. -/
theorem requeued (s : State) (k : Nat) : ∃ queues, (s.closeQueues k).openQueues k = { s with cores := ((s.closeQueues k).openQueues k).cores } ∧
    (∀ n, ((s.closeQueues k).openQueues k).core n = { s.core n with queues := if n % 768 = k % 768 then queues else (s.core n).queues }) ∧
    ∀ q ∈ queues, ∃ i ∈ s.items, i.coreOf = k ∧ q.holds i = true := by
  have closed := closeQueues_core s k
  obtain ⟨new, frame, core, fresh, _⟩ := openQueues_opened (s.closeQueues k) k
  have items : (s.closeQueues k).items = s.items := by rw [closeQueues_frame]
  rw [items] at fresh
  refine ⟨((s.core k).queues.filter fun q => s.items.any fun i => i.coreOf == k && q.holds i) ++ new, ?_, fun n => ?_, fun q hq => ?_⟩
  · rw [frame, closeQueues_frame]
  · rw [core, closed]
    split
    case isTrue e => rw [core_congr s e]
    case isFalse => rfl
  · rcases List.mem_append.1 hq with m | m
    · obtain ⟨i, hi, e⟩ := List.any_eq_true.1 (List.mem_filter.1 m).2
      rw [Bool.and_eq_true, beq_iff_eq] at e
      exact ⟨i, hi, e⟩
    · obtain ⟨_, i, hi, e⟩ := fresh q m
      obtain ⟨hi, at_⟩ := List.mem_filter.1 hi
      exact ⟨i, hi, eq_of_beq at_, e⟩

end Sys2Proof.PlacementAndResources
end

section
/-! PROOFS. A swap is done: what a team leaves in its save area, on its core and in the pool (R152). -/

namespace Sys2Proof.PlacementAndResources

open Sys2Proof.Machine Sys2Proof.Safety Sys2Proof.Claims Sys2Proof.Laws Sys2Proof.Launching

/-! ### The context saved -/

theorem memOnly_draws {s w : State} (h : MemOnly s w) (draws : Nat) : MemOnly { s with draws := draws } { w with draws := draws } := by
  unfold MemOnly at h ⊢
  rw [h]

theorem saveContext_memOnly (s : State) (u : Team) : MemOnly { s with draws := s.draws + 1 } (s.saveContext u) := by
  unfold State.saveContext
  extract_lets area images s1
  exact memOnly_draws (memOnly_trans (writeRaw_memOnly s _ _ : MemOnly s s1) (writeRaw_memOnly s1 _ images)) _

theorem saveContext_mem {s : State} {u : Team} {a : Nat} (off : a < u.saveArea.1 ∨ u.saveArea.1 + u.saveArea.2 ≤ a) :
    memGet (s.saveContext u).mem a = memGet s.mem a := by
  unfold State.saveContext
  extract_lets area images s1
  have fits : images.length ≤ area.2 := List.length_take_le ..
  have place : Config.recordPlace s.draws % (area.2 - images.length + 1) < area.2 - images.length + 1 := Nat.mod_lt _ (Nat.succ_pos _)
  have outside : ¬ (area.1 ≤ a ∧ a < area.1 + area.2) := fun h => by
    have : area = u.saveArea := rfl
    rw [this] at h
    omega
  have first : memGet s1.mem a = memGet s.mem a := by
    rw [writeRaw_mem, memGet_put, List.length_map, List.length_range, if_neg outside]
  rw [writeRaw_mem, memGet_put, if_neg (by omega), first]

/-! ### A team that is out (R152) -/

/-- The names that a team has. -/
def namesOf (u : Team) : List Nat := (List.range 8).filter (named u)
/-- A record of a team that is out names its slots by their names. -/
def namedRecord (u : Team) (r : Record) : Record :=
  { r with slots := r.slots.map fun k => ((namesOf u).find? fun i => slotNamed u i == k).getD 0 }
def swappedTeam (s : State) (u : Team) : Team :=
  { u with st := .swapped, saved := (namesOf u).map (fun i => (i, s.slot u.core (slotNamed u i))), swappedAt := s.now }
/-- A team that is out, its items still where they were. -/
def outState (s : State) (u : Team) : State :=
  { s.saveContext u with
    cores := (s.putCore u.core ((s.core u.core).freeTeamSlots u.uid)).cores
    teams := (s.putTeam (swappedTeam s u)).teams
    records := s.records.map fun r => if r.team = u.uid then namedRecord u r else r }
/-- The items of a team that go with it. -/
def ownItems (s : State) (u : Team) : List Item := s.items.filter fun i => i.owner == u.uid && !i.free

theorem swapOut_eq (s : State) (u : Team) :
    s.swapOut u = (((ownItems s u).foldl State.toPool (outState s u)).closeQueues u.core).openQueues u.core := by
  have names : ((List.range 8).filter fun i => accValid (u.acc.get (slotIx i))) = namesOf u := List.filter_congr fun i _ => named_eq u i
  have saved : swappedTeam s u = { u with
      st := .swapped, swappedAt := s.now
      saved := (namesOf u).map fun i => (i, (s.core u.core).acc.get (slotIx (accSlot (u.acc.get (slotIx i))))) } := by
    simp only [swappedTeam, State.slot, accSlot_eq]
  have renamed : (fun r : Record => if r.team = u.uid then { r with slots := r.slots.map fun k =>
      ((namesOf u).find? fun i => accSlot (u.acc.get (slotIx i)) == k).getD 0 } else r) =
      fun r => if r.team = u.uid then namedRecord u r else r := by
    simp only [namedRecord, accSlot_eq]
  have context := saveContext_memOnly s u
  unfold State.swapOut outState ownItems
  rw [names, saved]
  generalize s.saveContext u = w at context ⊢
  unfold MemOnly at context
  rw [context, ← renamed]
  rfl

theorem outState_memOnly (s : State) (u : Team) : MemOnly { s with
    teams := (outState s u).teams, records := (outState s u).records, cores := (outState s u).cores, draws := (outState s u).draws }
    (outState s u) := by
  have context := saveContext_memOnly s u
  unfold outState
  generalize s.saveContext u = w at context ⊢
  unfold MemOnly at context ⊢
  rw [context]

theorem outState_core (s : State) (u : Team) (n : Nat) : (outState s u).core n =
    { s.core n with acc := Tab.ofFn fun i =>
      if n % 768 = u.core % 768 ∧ ((s.core n).acc.get i).team = some u.uid then AccSlot.reset else (s.core n).acc.get i } := by
  have cores : (outState s u).cores = (s.putCore u.core ((s.core u.core).freeTeamSlots u.uid)).cores := rfl
  rw [State.core, cores, ← State.core, core_putCore_eq]
  split
  case isTrue e => simp only [core_congr s e, Core.freeTeamSlots, e, true_and]
  case isFalse e =>
    have same : (Tab.ofFn fun i => (s.core n).acc.get i) = (s.core n).acc := tab_ext fun i => Tab.get_ofFn _ i
    simp only [e, false_and, if_false, same]

theorem outState_team {s : State} {u : Team} (hu : s.team u.uid = some u) (n : Nat) :
    (outState s u).team n = if n = u.uid then some (swappedTeam s u) else s.team n := by
  have teams : (outState s u).teams = (s.putTeam (swappedTeam s u)).teams := rfl
  rw [State.team, teams, ← State.team]
  exact team_putTeam_eq (t := swappedTeam s u) hu n

theorem outState_items (s : State) (u : Team) : (outState s u).items = s.items := by rw [outState_memOnly]

/-- The state after a swap: the context, the team and its records, then its items, then its core's queues. -/
theorem swapOut_parts (s : State) (u : Team) : ∃ queues, Moved (outState s u) ((ownItems s u).foldl State.toPool (outState s u)) ∧
    s.swapOut u = { (ownItems s u).foldl State.toPool (outState s u) with cores := (s.swapOut u).cores } ∧
    ∀ n, (s.swapOut u).core n = { (outState s u).core n with queues := if n % 768 = u.core % 768 then queues else (s.core n).queues } := by
  have moved := toPools_moved (ownItems s u) (outState s u)
  rw [swapOut_eq]
  generalize (ownItems s u).foldl State.toPool (outState s u) = w at moved ⊢
  obtain ⟨queues, frame, core, _⟩ := requeued w u.core
  refine ⟨queues, moved, frame, fun n => ?_⟩
  have same : w.core n = (outState s u).core n := by rw [State.core, moved.frame, State.core]
  rw [core, same, outState_core]

theorem swapOutDone_step {s : State} {u : Team} (hu : s.team s.arg.team = some u) (out : u.st = .swappingOut)
    (running : (s.part (partOf u.core)).st = .running) (up : DiesUp s) :
    let names := (List.range 8).filter (named u)
    ∃ t, exec .swapOutDone s = .next t ∧
      MemOnly { s with teams := t.teams, records := t.records, items := t.items, cores := t.cores, draws := t.draws } t ∧
      (∀ n, t.team n = if n = u.uid then
        some { u with st := .swapped, saved := names.map (fun i => (i, s.slot u.core (slotNamed u i))), swappedAt := s.now } else s.team n) ∧
      (t.records = s.records.map fun r => if r.team = u.uid then
        { r with slots := r.slots.map (fun k => (names.find? fun i => slotNamed u i == k).getD 0) } else r) ∧
      (∀ n, ∃ acc qs, t.core n = { s.core n with acc := acc, queues := qs } ∧
        (∀ i, acc.get i = if n % 768 = u.core % 768 ∧ ((s.core n).acc.get i).team = some u.uid then AccSlot.reset else (s.core n).acc.get i) ∧
        (n % 768 ≠ u.core % 768 → qs = (s.core n).queues)) ∧
      t.items.map anywhere = s.items.map anywhere ∧ (∀ i ∈ s.items, i.owner ≠ u.uid ∨ i.free = true → i ∈ t.items) ∧
      ((s.items.map anywhere).Nodup → (∀ i ∈ s.items, i.owner = u.uid → i.free = false → i.coreOf = u.core) →
        s.poolUsed (partOf u.core) + unitSum (s.items.filter fun i => i.home == .core u.core && i.owner == u.uid && !i.free) ≤
          (s.part (partOf u.core)).dpoolU →
        ∀ i ∈ t.items, i.owner = u.uid → i.free = false → i.home ≠ .core u.core) ∧
      ((∀ i ∈ s.items, i.image.length = 32 * i.units) → ∀ a, (a < u.saveArea.1 ∨ u.saveArea.1 + u.saveArea.2 ≤ a) →
        (∀ p, outOfPool s p a) → memGet t.mem a = memGet s.mem a) := by
  have uid : u.uid = s.arg.team := State.team_uid hu
  have step : exec .swapOutDone s = execSwapOutDone s := rfl
  have base := outState_memOnly s u
  have items0 := outState_items s u
  have parts0 : (outState s u).parts = s.parts := by rw [base]
  obtain ⟨queues, moved, frame, core⟩ := swapOut_parts s u
  have own {i : Item} : i ∈ ownItems s u ↔ i ∈ s.items ∧ i.owner = u.uid ∧ i.free = false := by simp [ownItems]
  have items : (s.swapOut u).items = ((ownItems s u).foldl State.toPool (outState s u)).items := by rw [frame]
  refine ⟨s.swapOut u, ?_, ?_, fun n => ?_, ?_, fun n => ?_, ?_, fun i hi stays => ?_, fun distinct here room i hi owner free home => ?_,
    fun whole a save pools => ?_⟩
  · rw [step, execSwapOutDone, hu]
    exact if_pos ⟨out, running, dieUp_of up⟩
  · have mf := moved.frame
    unfold MemOnly at mf base ⊢
    rw [frame, mf, base]
  · have teams : (s.swapOut u).teams = (outState s u).teams := by rw [frame, moved.frame]
    rw [State.team, teams, ← State.team, outState_team (uid ▸ hu)]
    rfl
  · have records : (s.swapOut u).records = (outState s u).records := by rw [frame, moved.frame]
    rw [records]
    rfl
  · rw [core, outState_core]
    exact ⟨_, _, rfl, fun i => Tab.get_ofFn _ i, fun ne => if_neg ne⟩
  · rw [items, moved.kept, items0]
  · rw [items]
    refine toPools_other _ _ (by rw [items0]; exact hi) fun h => ?_
    obtain ⟨_, owner, free⟩ := own.1 h
    rcases stays with e | e
    · exact e owner
    · exact Bool.false_ne_true (free ▸ e)
  · have used : (outState s u).poolUsed (partOf u.core) = s.poolUsed (partOf u.core) := by rw [State.poolUsed, items0, State.poolUsed]
    have part : (outState s u).part (partOf u.core) = s.part (partOf u.core) := by rw [State.part, parts0, State.part]
    have leaves := toPools_leave (k := u.core) (ownItems s u) (outState s u) (by rw [items0]; exact distinct)
      ((nodup_of_anywhere distinct).filter _) (fun j hj => by rw [items0]; exact (own.1 hj).1) (fun j hj => here j (own.1 hj).1 (own.1 hj).2.1 (own.1 hj).2.2)
      (by
        rw [used, part]
        simpa only [ownItems, List.filter_filter, Bool.and_assoc] using room)
    rw [items] at hi
    obtain ⟨old, off⟩ := leaves i hi _ home
    rw [items0] at old
    exact off (own.2 ⟨old, owner, free⟩)
  · have moved_mem : (s.swapOut u).mem = ((ownItems s u).foldl State.toPool (outState s u)).mem := by rw [frame]
    have saved : (outState s u).mem = (s.saveContext u).mem := rfl
    rw [moved_mem, toPools_mem _ _ (fun i hi => whole i (own.1 hi).1) fun i _ k _ => (outOfPool_congr parts0 ..).2 (pools _), saved,
      saveContext_mem save]

end Sys2Proof.PlacementAndResources
end

section
/-! PROOFS. Teams that come back (R140, R141, R151, R397): what a return changes of its own team and core, and that it changes nothing
of other teams. -/

namespace Sys2Proof.PlacementAndResources

open Sys2Proof.Machine Sys2Proof.Safety Sys2Proof.Claims Sys2Proof.Laws Sys2Proof.Launching

/-! ### Steps that touch one team alone -/

/-- Only the team `uid`, its groups, the items and the cores differ; every agent runs as before, and no core's L1 holds more. -/
structure Touches (uid : Nat) (s t : State) : Prop where
  frame : t = { s with teams := t.teams, groups := t.groups, cores := t.cores, items := t.items }
  team : ∀ n, n ≠ uid → t.team n = s.team n
  group : ∀ n g, s.group n = some g → g.team ≠ uid → t.group n = some g
  gids : (t.groups.map fun g => g.gid) = s.groups.map fun g => g.gid
  agent : ∀ n, (t.core n).agentOn = (s.core n).agentOn
  l1 : ∀ n, (s.core n).l1 = [] → (t.core n).l1 = []

/-- The groups of the team have the paths that they had. -/
def PathsKept (uid : Nat) (s t : State) : Prop :=
  ∀ n g, s.group n = some g → g.team = uid → ∃ g', t.group n = some g' ∧ g'.team = uid ∧ g'.paths = g.paths

variable {uid : Nat} {s t u : State}

theorem touches_refl (uid : Nat) (s : State) : Touches uid s s := ⟨rfl, fun _ _ => rfl, fun _ _ h _ => h, rfl, fun _ => rfl, fun _ h => h⟩

theorem touches_trans (h : Touches uid s t) (k : Touches uid t u) : Touches uid s u where
  frame := by rw [k.frame, h.frame]
  team n hn := (k.team n hn).trans (h.team n hn)
  group n g hg other := k.group n g (h.group n g hg other) other
  gids := k.gids.trans h.gids
  agent n := (k.agent n).trans (h.agent n)
  l1 n e := k.l1 n (h.l1 n e)

theorem pathsKept_refl (uid : Nat) (s : State) : PathsKept uid s s := fun _ g hg mine => ⟨g, hg, mine, rfl⟩

theorem pathsKept_trans (h : PathsKept uid s t) (k : PathsKept uid t u) : PathsKept uid s u := by
  intro n g hg mine
  obtain ⟨g1, h1, mine1, paths1⟩ := h n g hg mine
  obtain ⟨g2, h2, mine2, paths2⟩ := k n g1 h1 mine1
  exact ⟨g2, h2, mine2, paths2.trans paths1⟩

/-- A step on the cores and the items alone. -/
theorem touches_of_cores (frame : t = { s with cores := t.cores, items := t.items }) (agent : ∀ n, (t.core n).agentOn = (s.core n).agentOn)
    (l1 : ∀ n, (s.core n).l1 = [] → (t.core n).l1 = []) : Touches uid s t ∧ PathsKept uid s t := by
  have teams : t.teams = s.teams := by rw [frame]
  have groups : t.groups = s.groups := by rw [frame]
  have group (n : Nat) : t.group n = s.group n := by rw [State.group, groups, State.group]
  refine ⟨⟨?_, fun n _ => by rw [State.team, teams, State.team], fun n g hg _ => (group n).trans hg, by rw [groups], agent, l1⟩,
    fun n g hg mine => ⟨g, (group n).trans hg, mine, rfl⟩⟩
  rw [teams, groups]
  exact frame

theorem frame_of_cores (frame : t = { s with cores := t.cores }) : t = { s with cores := t.cores, items := t.items } := by
  have items : t.items = s.items := by rw [frame]
  rw [items]
  exact frame

/-! ### Groups that take their slots -/

theorem seat_touches (h : Touches uid s t) (k : PathsKept uid s t) {g : Group} (hg : s.group g.gid = some g) (mine : g.team = uid) (slot : Nat) :
    Touches uid s (t.putGroup { g with slot := slot }) ∧ PathsKept uid s (t.putGroup { g with slot := slot }) := by
  obtain ⟨g1, h1, -, -⟩ := k _ _ hg mine
  have here : (t.putGroup { g with slot := slot }).group g.gid = some { g with slot := slot } :=
    State.group_putGroup (g := { g with slot := slot }) h1
  have there (n : Nat) (ne : n ≠ g.gid) : (t.putGroup { g with slot := slot }).group n = t.group n :=
    State.group_putGroup_ne _ { g with slot := slot } n ne
  refine ⟨⟨?_, h.team, fun n g2 h2 other => ?_, ?_, h.agent, h.l1⟩, fun n g2 h2 mine2 => ?_⟩
  · have frame := h.frame
    rw [State.putGroup]
    conv_lhs => rw [frame]
  · have ne : n ≠ g.gid := fun e => other (by rw [e, hg] at h2; exact Option.some.inj h2 ▸ mine)
    exact (there n ne).trans (h.group n g2 h2 other)
  · rw [← h.gids, State.putGroup, List.map_map]
    refine List.map_congr_left fun x _ => ?_
    rw [Function.comp_apply]
    split
    case isTrue e => exact e.symm
    case isFalse => rfl
  · by_cases e : n = g.gid
    · subst e
      rw [hg] at h2
      obtain rfl := Option.some.inj h2
      exact ⟨_, here, mine2, rfl⟩
    · obtain ⟨g', h', mine', paths⟩ := k n g2 h2 mine2
      exact ⟨g', (there n e).trans h', mine', paths⟩

theorem group_of_mem (distinct : (s.groups.map fun g => g.gid).Nodup) {g : Group} (h : g ∈ s.groups) : s.group g.gid = some g := by
  rw [State.group]
  revert h distinct
  generalize s.groups = l
  intro distinct h
  induction l with
  | nil => exact absurd h List.not_mem_nil
  | cons a l ih =>
    rw [List.map_cons, List.nodup_cons] at distinct
    rcases List.mem_cons.1 h with e | m
    · simp [e]
    · have ne : a.gid ≠ g.gid := fun e => distinct.1 (e ▸ List.mem_map_of_mem m)
      rw [List.find?_cons_of_neg (by simpa using ne)]
      exact ih distinct.2 m

theorem seats_touch (slots : Nat → Nat) (l : List (Group × Nat)) (mem : ∀ x ∈ l, s.group x.1.gid = some x.1 ∧ x.1.team = uid)
    (h : Touches uid s t) (k : PathsKept uid s t) :
    Touches uid s (l.foldl (fun s x => s.putGroup { x.1 with slot := slots x.2 }) t) ∧
      PathsKept uid s (l.foldl (fun s x => s.putGroup { x.1 with slot := slots x.2 }) t) := by
  induction l generalizing t with
  | nil => exact ⟨h, k⟩
  | cons x l ih =>
    obtain ⟨hx, mine⟩ := mem x (List.mem_cons_self ..)
    obtain ⟨h, k⟩ := seat_touches h k hx mine (slots x.2)
    exact ih (fun y hy => mem y (List.mem_cons_of_mem _ hy)) h k

/-! ### The other steps of a return -/

theorem putCore_touches (uid : Nat) (s : State) (k : Nat) (c : Core) (agent : c.agentOn = (s.core k).agentOn)
    (l1 : (s.core k).l1 = [] → c.l1 = []) : Touches uid s (s.putCore k c) ∧ PathsKept uid s (s.putCore k c) := by
  refine touches_of_cores (by simp only [State.putCore]) (fun n => ?_) fun n e => ?_
  · rw [core_putCore_eq]
    split
    case isTrue e => rw [agent, core_congr s e]
    case isFalse => rfl
  · rw [core_putCore_eq]
    split
    case isTrue here => exact l1 (core_congr s here ▸ e)
    case isFalse => exact e

theorem loadDict_touches (uid : Nat) (s : State) (k : Nat) (img : Image) :
    Touches uid s (s.loadDict k img) ∧ PathsKept uid s (s.loadDict k img) := by
  unfold State.loadDict
  dsimp only
  split
  · exact ⟨touches_refl .., pathsKept_refl _ _⟩
  · split
    · exact ⟨touches_refl .., pathsKept_refl _ _⟩
    · exact putCore_touches _ _ _ _ rfl id

theorem putTeam_touches {v w : Team} (same : w.uid = v.uid) (items : List Item) :
    Touches v.uid s { s.putTeam w with items := items } ∧ PathsKept v.uid s { s.putTeam w with items := items } := by
  refine ⟨⟨rfl, fun n hn => ?_, fun _ _ h _ => h, rfl, fun _ => rfl, fun _ h => h⟩, pathsKept_refl _ s⟩
  exact State.team_putTeam_ne s w n (same ▸ hn)

theorem closeQueues_touches (uid : Nat) (s : State) (k : Nat) : Touches uid s (s.closeQueues k) ∧ PathsKept uid s (s.closeQueues k) := by
  have core := closeQueues_core s k
  exact touches_of_cores (frame_of_cores (closeQueues_frame s k)) (fun n => by rw [core]) fun n e => by rw [core]; exact e

theorem opened_touches (uid : Nat) {k : Nat} {items : List Item} {new : List TwillQueue} (h : Opened s k items new t) :
    Touches uid s t ∧ PathsKept uid s t :=
  touches_of_cores (frame_of_cores h.frame) (fun n => by rw [h.core]) fun n e => by rw [h.core]; exact e

theorem requeue_touches (uid : Nat) (s : State) (k core : Nat) :
    Touches uid s ((s.closeQueues k).openQueues core) ∧ PathsKept uid s ((s.closeQueues k).openQueues core) := by
  obtain ⟨closed, paths⟩ := closeQueues_touches uid s k
  obtain ⟨_, opened⟩ := openQueues_opened (s.closeQueues k) core
  obtain ⟨reopened, paths'⟩ := opened_touches uid opened
  exact ⟨touches_trans closed reopened, pathsKept_trans paths paths'⟩

theorem clearL1_touches (uid : Nat) (s : State) (k : Nat) : Touches uid s (s.clearL1 k) ∧ PathsKept uid s (s.clearL1 k) :=
  putCore_touches _ _ _ _ rfl fun _ => rfl

theorem grant_touches {v : Team} (h : s.team v.uid = some v) (q : Claim) :
    Touches v.uid s (s.grant v.uid q) ∧ PathsKept v.uid s (s.grant v.uid q) := by
  have core (n : Nat) : ∃ acc, (s.grant v.uid q).core n = { s.core n with acc := acc } := by
    rw [grant_core h]
    split
    case isTrue e => exact ⟨_, by rw [core_congr s e, takenCore]⟩
    case isFalse => exact ⟨_, rfl⟩
  refine ⟨⟨?_, fun n hn => by rw [grant_team h, if_neg hn], fun n g hg other => by rw [grant_group h, hg, Option.map_some, if_neg other], ?_,
    fun n => ?_, fun n e => ?_⟩, fun n g hg mine => ⟨g.zeroGranules v.hold.reg (v.hold.reg + q.reg),
      by rw [grant_group h, hg, Option.map_some, if_pos mine], mine, rfl⟩⟩
  · have items : (s.grant v.uid q).items = s.items := by rw [grant_frame h]
    rw [items]
    exact grant_frame h q
  · have groups : (s.grant v.uid q).groups = s.groups.map fun g =>
        if g.team = v.uid then g.zeroGranules v.hold.reg (v.hold.reg + q.reg) else g := by
      rw [grant_eq h, State.mapGroups, State.putTeam_groups, State.putCore_groups]
    rw [groups, List.map_map]
    refine List.map_congr_left fun g _ => ?_
    rw [Function.comp_apply]
    split <;> rfl
  · obtain ⟨acc, e⟩ := core n
    rw [e]
  · obtain ⟨acc, e'⟩ := core n
    rw [e', e]

/-- A request for resources ends with an answer (R145). -/
def racqEnded (data : Word) (p : Path) : Path :=
  match p.wait with
  | some w => match w.kind with
    | .racq _ => { p with wait := some { w with ended := true, data := data } }
    | _ => p
  | none => p

theorem racqEnded_pid (data : Word) (p : Path) : (racqEnded data p).pid = p.pid := by
  unfold racqEnded
  split
  · split <;> rfl
  · rfl

theorem endRacq_eq (s : State) (r : Request) (data : Word) : s.endRacq r data = match s.group r.gid with
    | none => s
    | some g => s.putGroup (g.updatePath r.pid (racqEnded data)) := by
  unfold State.endRacq racqEnded
  cases s.group r.gid <;> rfl

theorem path_updatePath {g : Group} {n : Nat} {p : Path} (h : g.path n = some p) {f : Path → Path} (keeps : ∀ p, (f p).pid = p.pid) :
    (g.updatePath n f).path n = some (f p) := by
  have same : (fun q : Path => q.pid == n) ∘ (fun q => if q.pid = n then f q else q) = fun q => q.pid == n := by
    funext q
    rw [Function.comp_apply]
    split <;> simp [keeps]
  rw [Group.path] at h
  rw [Group.path, Group.updatePath, List.find?_map, same, h, Option.map_some, if_pos (by simpa using List.find?_some h)]

theorem endRacq_touches {r : Request} (data : Word) (mine : ∀ g, s.group r.gid = some g → g.team = uid) : Touches uid s (s.endRacq r data) := by
  rw [endRacq_eq]
  split
  · exact touches_refl ..
  next g hg =>
    have gid : g.gid = r.gid := State.group_gid hg
    refine ⟨by simp only [State.putGroup], fun _ _ => rfl, fun n g1 h1 other => ?_, ?_, fun _ => rfl, fun _ h => h⟩
    · have ne : n ≠ r.gid := fun e => other (mine g1 (e ▸ h1))
      exact (State.group_putGroup_ne s (g.updatePath r.pid (racqEnded data)) n (by rw [Group.updatePath_gid, gid]; exact ne)).trans h1
    · rw [State.putGroup, List.map_map]
      refine List.map_congr_left fun x _ => ?_
      rw [Function.comp_apply]
      split
      case isTrue e => exact e.symm
      case isFalse => rfl

/-- The path of the request has its answer. -/
theorem endRacq_ended {r : Request} {g : Group} {p : Path} {y : Wait} {q : Claim} (data : Word) (hg : s.group r.gid = some g)
    (hp : g.path r.pid = some p) (hy : p.wait = some y) (kind : y.kind = .racq q) :
    ∃ g' p', (s.endRacq r data).group r.gid = some g' ∧ g'.team = g.team ∧ g'.path r.pid = some p' ∧
      p'.wait = some { y with ended := true, data := data } := by
  have gid : g.gid = r.gid := State.group_gid hg
  refine ⟨g.updatePath r.pid (racqEnded data), racqEnded data p, ?_, rfl, path_updatePath hp (racqEnded_pid data), ?_⟩
  · rw [endRacq_eq, hg, ← gid]
    exact State.group_putGroup (g := g.updatePath r.pid (racqEnded data)) (by rw [Group.updatePath_gid, gid]; exact hg)
  · rw [racqEnded, hy]
    simp only [kind]

/-! ### A team is readmitted (R140, R151) -/

/-- The groups of a team in free slots of a core, and its dictionary there. -/
def seatedState (s : State) (v : Team) (core : Nat) : State :=
  let slots := s.slotsFree core
  let s1 := (s.groupsOf v.uid).zipIdx.foldl (fun s x => s.putGroup { x.1 with slot := slots.getD x.2 0 }) s
  match v.info.dict, s1.imageBy v.info.image with
  | true, some img => s1.loadDict core img
  | _, _ => s1
/-- A team on the core that it comes to, its accumulator slots apart. -/
def arriving (v : Team) (core : Nat) : Team := { v with core := core, st := .returning, reqs := v.reqs.drop 1 }
def rehomed (v : Team) (core : Nat) (i : Item) : Item :=
  match i.home with
  | .pool p _ => if i.owner = v.uid ∧ !i.free then { i with home := .pool p core } else i
  | .core _ => i
/-- A team back on a core, its request not granted yet. -/
def backState (s : State) (v : Team) (core : Nat) : State :=
  let r := (seatedState s v core).restoreSlots (arriving v core)
  ((({ r.1.putTeam r.2 with items := r.1.items.map (rehomed v core) } : State).closeQueues v.core).openQueues core).clearL1 core

/-- The request that a team brings back. -/
def headWant (v : Team) : Claim :=
  match v.reqs with
  | r :: _ => r.want
  | [] => Claim.zero
/-- What a core has to have for a team to come back (R140). -/
def returnNeed (s : State) (v : Team) (core : Nat) : Need4 :=
  ⟨(v.hold.add (headWant v)).units (s.groupsOf v.uid).length, v.info.claim.units v.info.gpt, (s.groupsOf v.uid).length,
    if core = v.core then 0 else v.info.ven, if v.info.dict then some v.info.image else none, 0⟩

theorem readmit_eq (s : State) (v : Team) (core : Nat) : s.readmit v core =
    if v.st ≠ .swapped ∨ !s.agentRuns core ∨ !s.coreFits core (returnNeed s v core) 1 then none
    else some (match v.reqs with
      | q :: _ => ((backState s v core).grant v.uid (headWant v)).endRacq q 0#32
      | [] => backState s v core) := rfl

theorem readmit_some {s t : State} {v : Team} {core : Nat} (h : s.readmit v core = some t) :
    v.st = .swapped ∧ s.agentRuns core = true ∧ t = match v.reqs with
      | q :: _ => ((backState s v core).grant v.uid (headWant v)).endRacq q 0#32
      | [] => backState s v core := by
  rw [readmit_eq] at h
  split at h
  · exact absurd h (by simp)
  next fits =>
    simp only [not_or, ne_eq, not_not, Bool.not_eq_true] at fits
    obtain ⟨st, runs, _⟩ := fits
    exact ⟨st, by simpa using runs, (Option.some.inj h).symm⟩

theorem seatedState_touches {s : State} (distinct : (s.groups.map fun g => g.gid).Nodup) (v : Team) (core : Nat) :
    Touches v.uid s (seatedState s v core) ∧ PathsKept v.uid s (seatedState s v core) := by
  have mem (x : Group × Nat) (hx : x ∈ (s.groupsOf v.uid).zipIdx) : s.group x.1.gid = some x.1 ∧ x.1.team = v.uid := by
    obtain ⟨hg, mine⟩ := List.mem_filter.1 (List.fst_mem_of_mem_zipIdx hx)
    exact ⟨group_of_mem distinct hg, eq_of_beq mine⟩
  obtain ⟨seated, paths⟩ := seats_touch (fun n => (s.slotsFree core).getD n 0) _ mem (touches_refl v.uid s) (pathsKept_refl v.uid s)
  unfold seatedState
  dsimp only
  split
  · obtain ⟨loaded, paths'⟩ := loadDict_touches v.uid
      ((s.groupsOf v.uid).zipIdx.foldl (fun r x => r.putGroup { x.1 with slot := (s.slotsFree core).getD x.2 0 }) s) core ‹_›
    exact ⟨touches_trans seated loaded, pathsKept_trans paths paths'⟩
  · exact ⟨seated, paths⟩

theorem restoreSlots_eq (s : State) (v : Team) : ∃ acc names,
    s.restoreSlots v = (s.putCore v.core { s.core v.core with acc := acc }, { v with acc := names, saved := [] }) := by
  unfold State.restoreSlots
  dsimp only
  rw [foldl_core_acc (fun a (p : (Nat × AccSlot) × Nat) => a.set (slotIx p.2) { p.1.2 with team := some v.uid }),
    foldl_team_acc (fun a (p : (Nat × AccSlot) × Nat) => a.set (slotIx p.1.1) (0x80#8 ||| BitVec.ofNat 8 p.2))]
  exact ⟨_, _, rfl⟩

theorem requeue_team (s : State) (k core n : Nat) : ((s.closeQueues k).openQueues core).team n = s.team n := by
  obtain ⟨_, opened⟩ := openQueues_opened (s.closeQueues k) core
  rw [State.team, opened.frame, closeQueues_frame, State.team]

theorem seatedState_teams (s : State) (v : Team) (core : Nat) : (seatedState s v core).teams = s.teams := by
  have loaded (s : State) (img : Image) : (s.loadDict core img).teams = s.teams := by
    unfold State.loadDict
    dsimp only
    split
    · rfl
    · split
      · rfl
      · exact State.putCore_teams ..
  have seats (slots : Nat → Nat) (l : List (Group × Nat)) (s : State) :
      (l.foldl (fun s x => s.putGroup { x.1 with slot := slots x.2 }) s).teams = s.teams := by
    induction l generalizing s with
    | nil => rfl
    | cons x l ih => exact (ih _).trans (State.putGroup_teams ..)
  unfold seatedState
  dsimp only
  split
  · exact (loaded ..).trans (seats (fun n => (s.slotsFree core).getD n 0) ..)
  · exact seats (fun n => (s.slotsFree core).getD n 0) ..

/-- A team put on a core, with its slots, its items and its queues. -/
theorem put_back {s : State} {v w : Team} (hv : s.team v.uid = some v) (same : w.uid = v.uid) (k core : Nat) (acc : Tab 8 AccSlot)
    (items : List Item) :
    let t := (((({ (s.putCore core { s.core core with acc := acc }).putTeam w with items := items } : State).closeQueues k).openQueues core).clearL1 core)
    Touches v.uid s t ∧ PathsKept v.uid s t ∧ (t.core core).l1 = [] ∧ t.team v.uid = some w := by
  obtain ⟨h1, k1⟩ := putCore_touches v.uid s core { s.core core with acc := acc } rfl id
  have team1 : (s.putCore core { s.core core with acc := acc }).team v.uid = some v := by rw [State.team, State.putCore_teams, ← State.team, hv]
  generalize s.putCore core { s.core core with acc := acc } = s1 at h1 k1 team1 ⊢
  obtain ⟨h2, k2⟩ := putTeam_touches (s := s1) same items
  have team2 : State.team { s1.putTeam w with items := items } v.uid = some w := by
    have := State.team_putTeam (t := w) (t0 := v) (same ▸ team1)
    rwa [same] at this
  generalize ({ s1.putTeam w with items := items } : State) = s2 at h2 k2 team2 ⊢
  obtain ⟨h3, k3⟩ := requeue_touches v.uid s2 k core
  have team3 : ((s2.closeQueues k).openQueues core).team v.uid = some w := by rw [requeue_team, team2]
  generalize (s2.closeQueues k).openQueues core = s3 at h3 k3 team3 ⊢
  obtain ⟨h4, k4⟩ := clearL1_touches v.uid s3 core
  refine ⟨touches_trans (touches_trans h1 h2) (touches_trans h3 h4), pathsKept_trans (pathsKept_trans k1 k2) (pathsKept_trans k3 k4), ?_, ?_⟩
  · rw [State.clearL1, State.core_putCore, Core.l1Clear]
  · rw [State.clearL1, State.team, State.putCore_teams, ← State.team, team3]

theorem backState_back {s : State} (distinct : (s.groups.map fun g => g.gid).Nodup) {v : Team} (hv : s.team v.uid = some v) (core : Nat) :
    Touches v.uid s (backState s v core) ∧ PathsKept v.uid s (backState s v core) ∧ ((backState s v core).core core).l1 = [] ∧
      ∃ names, (backState s v core).team v.uid = some { arriving v core with acc := names, saved := [] } := by
  obtain ⟨h1, k1⟩ := seatedState_touches distinct v core
  have team1 : (seatedState s v core).team v.uid = some v := by rw [State.team, seatedState_teams, ← State.team, hv]
  obtain ⟨acc, names, slots⟩ := restoreSlots_eq (seatedState s v core) (arriving v core)
  unfold backState
  rw [slots]
  obtain ⟨h2, k2, l1, team⟩ := put_back team1 (w := { arriving v core with acc := names, saved := [] }) rfl v.core core acc
    (((seatedState s v core).putCore core { (seatedState s v core).core core with acc := acc }).items.map (rehomed v core))
  exact ⟨touches_trans h1 h2, pathsKept_trans k1 k2, l1, names, team⟩

/-- A team is back on a core: it holds what it held and what it asked for, and its request has its answer. -/
structure BackOn (s : State) (v : Team) (core : Nat) (t : State) : Prop where
  l1 : (t.core core).l1 = []
  team : ∃ w, t.team v.uid = some w ∧ w.core = core ∧ w.st = .returning ∧ w.reqs = v.reqs.drop 1 ∧
    (v.reqs = [] → w = { v with core := core, st := .returning, acc := w.acc, saved := [] }) ∧
    ∀ r rest, v.reqs = r :: rest → w.hold = v.hold.add r.want
  ended : ∀ r rest, v.reqs = r :: rest → ∀ g p y q, s.group r.gid = some g → g.team = v.uid → g.path r.pid = some p → p.wait = some y →
    y.kind = .racq q → ∃ g' p', t.group r.gid = some g' ∧ g'.team = v.uid ∧ g'.path r.pid = some p' ∧
      p'.wait = some { y with ended := true, data := 0#32 }

/-- It stays so when another team comes back. -/
theorem backOn_touched {s t u : State} {v : Team} {core uid : Nat} (h : BackOn s v core t) (k : Touches uid t u) (other : v.uid ≠ uid) :
    BackOn s v core u where
  l1 := k.l1 _ h.l1
  team := by rw [k.team _ other]; exact h.team
  ended r rest reqs g p y q hg mine hp hy kind := by
    obtain ⟨g', p', hg', mine', hp', hy'⟩ := h.ended r rest reqs g p y q hg mine hp hy kind
    exact ⟨g', p', k.group _ _ hg' (mine' ▸ other), mine', hp', hy'⟩

theorem group_none_of_gids {s t : State} (gids : (t.groups.map fun g => g.gid) = s.groups.map fun g => g.gid) {n : Nat}
    (none : s.group n = none) : t.group n = .none := by
  refine List.find?_eq_none.2 fun g hg e => ?_
  have : g.gid ∈ s.groups.map fun g => g.gid := gids ▸ List.mem_map_of_mem hg
  obtain ⟨g0, h0, e0⟩ := List.mem_map.1 this
  exact List.find?_eq_none.1 none g0 h0 (by simpa [e0] using e)

theorem readmitted {s t : State} (distinct : (s.groups.map fun g => g.gid).Nodup) {v : Team} (hv : s.team v.uid = some v) {core : Nat}
    (own : ∀ r ∈ v.reqs, ∀ g, s.group r.gid = some g → g.team = v.uid) (h : s.readmit v core = some t) :
    Touches v.uid s t ∧ s.agentRuns core = true ∧ BackOn s v core t := by
  obtain ⟨_, runs, eq⟩ := readmit_some h
  obtain ⟨h1, k1, l1, names, team⟩ := backState_back distinct hv core
  cases reqs : v.reqs with
  | nil =>
    rw [reqs] at eq
    subst eq
    exact ⟨h1, runs, l1, ⟨_, team, rfl, rfl, by rw [arriving, reqs], fun _ => by rw [arriving, reqs]; rfl, fun r rest e => by simp [reqs] at e⟩,
      fun r rest e => by simp [reqs] at e⟩
  | cons r rest =>
    have want : headWant v = r.want := by rw [headWant, reqs]
    rw [reqs, want] at eq
    dsimp only at eq
    generalize backState s v core = s1 at eq h1 k1 l1 team
    -- the request is granted, then its path has its answer
    obtain ⟨w, hw⟩ : ∃ w : Team, w = { arriving v core with acc := names, saved := [] } := ⟨_, rfl⟩
    have uid : w.uid = v.uid := by rw [hw]; rfl
    rw [← hw, ← uid] at team
    obtain ⟨h2, k2⟩ := grant_touches team r.want
    have team2 := grant_team team r.want w.uid
    have l2 := h2.l1 core l1
    rw [uid] at h2 k2 team2 l2
    generalize s1.grant v.uid r.want = s2 at eq h2 k2 team2 l2
    have mine (g : Group) (hg : s2.group r.gid = some g) : g.team = v.uid := by
      cases old : s.group r.gid with
      | none => rw [group_none_of_gids (h2.gids.trans h1.gids) old] at hg; cases hg
      | some g0 =>
        obtain ⟨g', h', mine', _⟩ := pathsKept_trans k1 k2 _ _ old (own r (reqs ▸ List.mem_cons_self ..) g0 old)
        rw [h'] at hg
        exact Option.some.inj hg ▸ mine'
    have h3 := endRacq_touches 0#32 mine
    subst eq
    refine ⟨touches_trans (touches_trans h1 h2) h3, runs, h3.l1 core l2, ⟨grantedTeam w (s1.core w.core) r.want, ?_, ?_, ?_, ?_, ?_, ?_⟩, ?_⟩
    · rw [← team2 |>.trans (if_pos rfl), endRacq_eq]
      split <;> rfl
    · rw [hw]; rfl
    · rw [hw]; rfl
    · rw [hw]; rfl
    · intro e; simp [reqs] at e
    · intro r' rest' e
      obtain ⟨rfl, _⟩ := List.cons.inj (reqs.symm.trans e)
      rw [hw]; rfl
    · intro r' rest' e g p y q hg mine' hp hy kind
      obtain ⟨rfl, _⟩ := List.cons.inj (reqs.symm.trans e)
      obtain ⟨g', h', mine2, paths⟩ := pathsKept_trans k1 k2 _ _ hg mine'
      have hp' : g'.path r.pid = some p := by rw [Group.path, paths]; exact hp
      obtain ⟨g'', p', hg'', team'', hp'', wait⟩ := endRacq_ended 0#32 h' hp' hy kind
      exact ⟨g'', p', hg'', team''.trans mine2, hp'', wait⟩

/-! ### Teams that come back together (R151, R397) -/

/-- Some teams are back, each on its core; nothing of the others differs. -/
structure Returned (s : State) (done : List (Team × Nat)) (t : State) : Prop where
  frame : t = { s with teams := t.teams, groups := t.groups, cores := t.cores, items := t.items }
  team : ∀ n, (∀ x ∈ done, x.1.uid ≠ n) → t.team n = s.team n
  group : ∀ n g, s.group n = some g → (∀ x ∈ done, x.1.uid ≠ g.team) → t.group n = some g
  gids : (t.groups.map fun g => g.gid) = s.groups.map fun g => g.gid
  agent : ∀ n, (t.core n).agentOn = (s.core n).agentOn
  back : ∀ x ∈ done, s.agentRuns x.2 = true ∧ BackOn s x.1 x.2 t

theorem returned_nil (s : State) : Returned s [] s :=
  ⟨rfl, fun _ _ => rfl, fun _ _ h _ => h, rfl, fun _ => rfl, fun _ h => absurd h List.not_mem_nil⟩

theorem returned_runs {s t : State} {done : List (Team × Nat)} (h : Returned s done t) (n : Nat) : t.agentRuns n = s.agentRuns n := by
  have svc : t.svc = s.svc := by rw [h.frame]
  have parts : t.parts = s.parts := by rw [h.frame]
  rw [State.agentRuns, State.agentRuns, h.agent, State.dieUp, State.dieUp, svc, State.part, State.part, parts]

theorem returned_step {s t u : State} {done : List (Team × Nat)} (distinct : (s.groups.map fun g => g.gid).Nodup) (h : Returned s done t)
    {v : Team} {core : Nat} (hv : s.team v.uid = some v) (new : ∀ x ∈ done, x.1.uid ≠ v.uid)
    (own : ∀ r ∈ v.reqs, ∀ g, s.group r.gid = some g → g.team = v.uid) (step : t.readmit v core = some u) :
    Returned s (done ++ [(v, core)]) u := by
  have own' (r : Request) (hr : r ∈ v.reqs) (g : Group) (hg : t.group r.gid = some g) : g.team = v.uid := by
    cases old : s.group r.gid with
    | none => rw [group_none_of_gids h.gids old] at hg; cases hg
    | some g0 =>
      have mine := own r hr g0 old
      rw [h.group _ _ old (mine ▸ new)] at hg
      exact Option.some.inj hg ▸ mine
  obtain ⟨touches, runs, back⟩ := readmitted (h.gids ▸ distinct) ((h.team _ new).trans hv) own' step
  refine ⟨by rw [touches.frame, h.frame], fun n hn => ?_, fun n g hg hn => ?_, touches.gids.trans h.gids,
    fun n => (touches.agent n).trans (h.agent n), fun x hx => ?_⟩
  · have ne : n ≠ v.uid := fun e => hn (v, core) (List.mem_append_right _ (List.mem_cons_self ..)) e.symm
    rw [touches.team n ne, h.team n fun x hx => hn x (List.mem_append_left _ hx)]
  · have ne : g.team ≠ v.uid := fun e => hn (v, core) (List.mem_append_right _ (List.mem_cons_self ..)) e.symm
    exact touches.group n g (h.group n g hg fun x hx => hn x (List.mem_append_left _ hx)) ne
  · rcases List.mem_append.1 hx with m | m
    · obtain ⟨runs', back'⟩ := h.back x m
      exact ⟨runs', backOn_touched back' touches (new x m)⟩
    · rw [List.mem_singleton.1 m]
      refine ⟨returned_runs h core ▸ runs, back.l1, back.team, fun r rest reqs g p y q hg mine => ?_⟩
      exact back.ended r rest reqs g p y q (h.group _ _ hg (mine ▸ new)) mine

/-- One team of a return comes back, if the ones before it do. -/
def returnOne (s : State) (a : Option State) (x : Team × Nat) : Option State :=
  match a, s.team x.1.uid with
  | some s1, some u => s1.readmit u x.2
  | _, _ => none

theorem returnOne_none (s : State) (l : List (Team × Nat)) : l.foldl (returnOne s) none = none := by
  induction l with
  | nil => rfl
  | cons x l ih => exact ih

theorem returned_foldl {s t u : State} {done l : List (Team × Nat)} (distinct : (s.groups.map fun g => g.gid).Nodup) (h : Returned s done t)
    (known : ∀ x ∈ l, s.team x.1.uid = some x.1) (own : ∀ x ∈ l, ∀ r ∈ x.1.reqs, ∀ g, s.group r.gid = some g → g.team = x.1.uid)
    (once : ((done ++ l).map fun x => x.1.uid).Nodup) (steps : l.foldl (returnOne s) (some t) = some u) : Returned s (done ++ l) u := by
  induction l generalizing done t with
  | nil =>
    obtain rfl := Option.some.inj steps
    rwa [List.append_nil]
  | cons x l ih =>
    have hx := known x (List.mem_cons_self ..)
    rw [List.foldl_cons, show returnOne s (some t) x = t.readmit x.1 x.2 by simp only [returnOne, hx]] at steps
    rw [List.append_cons] at once ⊢
    have new (y : Team × Nat) (hy : y ∈ done) : y.1.uid ≠ x.1.uid := by
      intro e
      rw [List.map_append, List.map_append, List.nodup_append] at once
      refine (List.nodup_append.1 once.1).2.2 _ (List.mem_map_of_mem hy) _ (List.mem_map_of_mem (List.mem_cons_self ..)) e
    cases r : t.readmit x.1 x.2 with
    | none => rw [r, returnOne_none] at steps; cases steps
    | some t1 =>
      rw [r] at steps
      exact ih (returned_step distinct h hx new (own x (List.mem_cons_self ..)) r) (fun y hy => known y (List.mem_cons_of_mem _ hy))
        (fun y hy => own y (List.mem_cons_of_mem _ hy)) once steps

/-- The cores of a return: each team comes to its own core or stays in its cluster (R397). -/
theorem homesFor_homes {s : State} {v : Team} {dest : Nat} {homes : List (Team × Nat)} (h : s.homesFor v (s.together v) dest = some homes) :
    (homes.map fun x => x.1) = s.together v ∧ ∀ x ∈ homes, x.2 = x.1.core ∨ partOf x.2 = partOf v.core := by
  have own (ts : List Team) : ((ts.map fun u : Team => (u, u.core)).map fun x => x.1) = ts ∧
      ∀ x ∈ ts.map fun u : Team => (u, u.core), x.2 = x.1.core ∨ partOf x.2 = partOf v.core := by
    refine ⟨by rw [List.map_map]; exact List.map_id _, fun x hx => ?_⟩
    obtain ⟨u, _, rfl⟩ := List.mem_map.1 hx
    exact .inl rfl
  unfold State.homesFor at h
  dsimp only at h
  cases gang : v.info.gang with
  | none =>
    have alone : s.together v = [v] := by rw [State.together, gang]; rfl
    rw [alone]
    simp only [gang] at h
    split at h
    · obtain rfl := Option.some.inj h
      exact ⟨rfl, fun x hx => .inl (List.mem_singleton.1 hx ▸ rfl)⟩
    · split at h
      next near =>
        obtain rfl := Option.some.inj h
        exact ⟨rfl, fun x hx => .inr (List.mem_singleton.1 hx ▸ eq_of_beq near)⟩
      · cases h
  | some g =>
    simp only [gang] at h
    split at h
    · split at h
      · obtain rfl := Option.some.inj h
        exact own _
      · split at h
        next near =>
          obtain rfl := Option.some.inj h
          refine ⟨by rw [List.map_map]; exact List.map_id _, fun x hx => ?_⟩
          obtain ⟨u, _, rfl⟩ := List.mem_map.1 hx
          have near := eq_of_beq (Bool.and_eq_true_iff.1 near).1
          simp only [partOf, quadOf] at near ⊢
          omega
        · cases h
    · split at h
      · obtain rfl := Option.some.inj h
        exact own _
      · cases h

theorem together_uids {s : State} (distinct : (s.teams.map fun u => u.uid).Nodup) (v : Team) : ((s.together v).map fun u => u.uid).Nodup := by
  unfold State.together
  split
  · exact distinct.sublist (List.filter_sublist.map _)
  · exact List.nodup_singleton _

theorem team_of_mem_nodup {s : State} (distinct : (s.teams.map fun u => u.uid).Nodup) {u : Team} (h : u ∈ s.teams) : s.team u.uid = some u := by
  obtain ⟨w, hw⟩ := team_of_mem h
  have same : w.uid = u.uid := State.team_uid hw
  rw [hw, List.inj_on_of_nodup_map distinct (mem_teams_of_team hw) h same]

theorem tryReturn_returned {s s1 : State} {v : Team} {dest : Nat} (numbered : Numbered s) (hv : v ∈ s.teams)
    (own : ∀ u ∈ s.together v, ∀ r ∈ u.reqs, ∀ g, s.group r.gid = some g → g.team = u.uid) (h : s.tryReturn v dest = some s1) :
    ∃ homes, s.homesFor v (s.together v) dest = some homes ∧ Returned s homes s1 := by
  obtain ⟨teams, groups, _, _⟩ := numbered
  unfold State.tryReturn at h
  cases hh : s.homesFor v (s.together v) dest with
  | none => rw [hh] at h; cases h
  | some homes =>
    rw [hh] at h
    obtain ⟨members, _⟩ := homesFor_homes hh
    have mem (x : Team × Nat) (hx : x ∈ homes) : x.1 ∈ s.together v := members ▸ List.mem_map_of_mem hx
    refine ⟨homes, rfl, returned_foldl groups (returned_nil s)
      (fun x hx => team_of_mem_nodup teams (mem_teams_of_together hv (mem x hx))) (fun x hx => own x.1 (mem x hx)) ?_ h⟩
    rw [List.nil_append, show (fun x : Team × Nat => x.1.uid) = (fun u : Team => u.uid) ∘ fun x => x.1 from rfl, ← List.map_map, members]
    exact together_uids teams v

theorem teamReturn_step {s s1 : State} {u : Team} (numbered : Numbered s) (hu : s.team s.arg.team = some u) (eligible : s.eligible u = true)
    (own : ∀ v ∈ s.together u, ∀ r ∈ v.reqs, ∀ g, s.group r.gid = some g → g.team = v.uid)
    (first : ((s.returners u.core).find? fun v => (s.tryReturn v s.arg.core).isSome) = some u) (fits : s.tryReturn u s.arg.core = some s1) :
    exec .teamReturn s = .next s1 ∧
      s1 = { s with teams := s1.teams, groups := s1.groups, cores := s1.cores, items := s1.items } ∧
      (∀ n, (∀ v ∈ s.together u, v.uid ≠ n) → s1.team n = s.team n) ∧
      (∀ n g, s.group n = some g → (∀ v ∈ s.together u, v.uid ≠ g.team) → s1.group n = some g) ∧
      ∀ v ∈ s.together u, ∃ w, s1.team v.uid = some w ∧ w.st = .returning ∧ w.reqs = v.reqs.drop 1 ∧ (s1.core w.core).l1 = [] ∧
        s.agentRuns w.core = true ∧ (w.core = v.core ∨ partOf w.core = partOf u.core) ∧
        (v.reqs = [] → w = { v with core := w.core, st := .returning, acc := w.acc, saved := [] }) ∧
        ∀ r rest, v.reqs = r :: rest → w.hold = v.hold.add r.want ∧ ∀ g p y q, s.group r.gid = some g → g.path r.pid = some p →
          p.wait = some y → y.kind = .racq q → ∃ g' p', s1.group r.gid = some g' ∧ g'.path r.pid = some p' ∧
            p'.wait = some { y with ended := true, data := 0#32 } := by
  have step : exec .teamReturn s = execTeamReturn s := rfl
  obtain ⟨homes, hh, returned⟩ := tryReturn_returned numbered (mem_teams_of_team hu) own fits
  obtain ⟨members, near⟩ := homesFor_homes hh
  have mem (x : Team × Nat) (hx : x ∈ homes) : x.1 ∈ s.together u := members ▸ List.mem_map_of_mem hx
  refine ⟨?_, returned.frame, fun n hn => returned.team n fun x hx => hn x.1 (mem x hx),
    fun n g hg hn => returned.group n g hg fun x hx => hn x.1 (mem x hx), fun v hv => ?_⟩
  · rw [step, execTeamReturn, hu]
    simp only [eligible, first, fits, Bool.not_true, Bool.false_eq_true, if_false, if_true, Option.getD_some]
  · obtain ⟨x, hx, rfl⟩ := List.mem_map.1 (members ▸ hv : v ∈ homes.map fun x => x.1)
    obtain ⟨runs, back⟩ := returned.back x hx
    obtain ⟨w, team, core, st, reqs, alone, granted⟩ := back.team
    rw [← core] at runs
    refine ⟨w, team, st, reqs, core ▸ back.l1, runs, by rw [core]; exact near x hx, fun none => by rw [core]; exact alone none,
      fun r rest e => ⟨granted r rest e, fun g p y q hg hp hy kind => ?_⟩⟩
    obtain ⟨g', p', hg', _, hp', hy'⟩ := back.ended r rest e g p y q hg (own x.1 (mem x hx) r (e ▸ List.mem_cons_self ..) g hg) hp hy kind
    exact ⟨g', p', hg', hp', hy'⟩

theorem teamReturn_stays {s : State} {u : Team} (hu : s.team s.arg.team = some u) (stays : s.eligible u = false) :
    exec .teamReturn s = .next s := by
  have step : exec .teamReturn s = execTeamReturn s := rfl
  rw [step, execTeamReturn, hu]
  simp only [stays, Bool.not_false, if_true]

/-- Settles O44, event by event. -/
theorem swapSteps : Obligations.SwapSteps := by
  unfold Obligations.SwapSteps
  exact ⟨fun _ _ hu runs => waitSwapOut_step hu runs, fun _ _ hu out running up => swapOutDone_step hu out running up,
    fun _ _ _ numbered hu eligible own first fits => teamReturn_step numbered hu eligible own first fits,
    fun _ _ hu stays => teamReturn_stays hu stays, fun _ _ hu back runs => teamResume_step hu back runs,
    fun _ _ hu stays => teamResume_stays hu stays,
    fun _ _ _ _ _ _ runs th unfit first same due quiet unfits hv => teamSwitch_step runs th unfit first same due quiet unfits hv,
    fun _ _ off => teamSwitch_off off, fun _ _ _ serving => cswitch_step serving⟩

end Sys2Proof.PlacementAndResources
end

section
/-! PROOFS. A team that is placed: its groups, its accumulator slots and its dictionary (R41, R47, R137, R143). -/

namespace Sys2Proof.PlacementAndResources

open Sys2Proof.Machine Sys2Proof.Safety Sys2Proof.Claims Sys2Proof.Laws Sys2Proof.Launching

/-! ### Its groups (R41, R143) -/

theorem lowHalf_eq (d : DWord) : lowHalf d = d.setWidth 32 := BitVec.eq_of_toNat_eq (by simp [lowHalf])
theorem highHalf_eq (d : DWord) : highHalf d = (d >>> 32).setWidth 32 :=
  BitVec.eq_of_toNat_eq (by simp [highHalf, Nat.shiftRight_eq_div_pow])

theorem paramOf_eq (l : Launch) (i : Nat) : l.paramOf i = launchWord l.params i := by
  unfold Launch.paramOf launchWord
  by_cases zero : i = 0
  · rw [if_pos zero, if_pos zero]
  · rw [if_neg zero, if_neg zero, List.getD_eq_getElem?_getD]
    cases l.params[(i - 1) / 2]? with
    | none => simp [lowHalf, highHalf]
    | some d => simp only [Option.getD_some, lowHalf_eq, highHalf_eq]

/-- The groups of a team that is placed. -/
def placedGroup (s : State) (core : Nat) (info : Launch) (n : Nat) : Group :=
  groupStart (s.fresh + 1 + n) s.fresh n ((s.slotsFree core).getD n 0) info.params (startLin info.t info.gpt n)
    (codeAt info.base info.entryOff) 0xFFFFFFFF#32

theorem startGroup_eq (s : State) (core : Nat) (info : Launch) (t : Team) (ht : t.info = info) (n : Nat) :
    { (blankGroup (s.fresh + 1 + n) s.fresh n ((s.slotsFree core).getD n 0) [startPath 0 (codeAt info.base info.entryOff) 0xFFFFFFFF#32]).teamStart t with
      lin := Tab.ofFn (startLin info.t info.gpt n) } = placedGroup s core info n := by
  have params : (Tab.ofFn fun i : Fin 64 => t.info.paramOf i.val) = Tab.ofFn fun i => launchWord info.params i.val := by
    rw [ht]; exact congrArg Tab.ofFn (funext fun i => paramOf_eq info i.val)
  simp only [Group.teamStart, params]
  rfl

/-- A group whose registers are zero stays as it is when granules are widened. -/
theorem zeroGranules_start {g : Group} (x : g.x = Tab.const 64 (Tab.const 32 0#32)) (v : g.v = Tab.const 64 (Tab.const 32 0#64)) (lo hi : Nat) :
    g.zeroGranules lo hi = g := by
  have xs : (Tab.ofFn fun i : Fin 64 => if decide (lo ≤ granuleOf false i.val ∧ granuleOf false i.val < hi) = true then Tab.const 32 0#32 else g.x.get i) = g.x :=
    tab_ext fun i => by simp [x]
  have vs : (Tab.ofFn fun i : Fin 64 => if decide (lo ≤ granuleOf true i.val ∧ granuleOf true i.val < hi) = true then Tab.const 32 0#64 else g.v.get i) = g.v :=
    tab_ext fun i => by simp [v]
  simp only [Group.zeroGranules, xs, vs]

/-! ### Its accumulator slots (R47, R304) -/

theorem freeSlots_length_le (c : Core) : c.freeSlots.length ≤ 8 := by
  rw [Core.freeSlots]
  exact (List.length_filter_le ..).trans (by simp)

/-- A team without names takes the lowest ones, in order. -/
theorem slotPairs_of_unnamed {t : Team} (unnamed : ∀ i, named t i = false) (c : Core) (n : Nat) :
    slotPairs t c n = ((List.range 8).take n).zip c.freeSlots := by
  have all : ((List.range 8).filter fun i => !named t i) = List.range 8 := List.filter_eq_self.2 fun i _ => by simp [unnamed]
  rw [slotPairs, all]

theorem take_zip_snd {α β : Type} (l : List α) (m : List β) (n : Nat) (short : m.length ≤ l.length) :
    ((l.take n).zip m).map Prod.snd = m.take n := by
  induction l generalizing m n with
  | nil => rw [List.length_eq_zero_iff.1 (Nat.le_zero.1 short)]; simp
  | cons a l ih =>
    cases n with
    | zero => simp
    | succ n =>
      cases m with
      | nil => simp
      | cons b m => simpa using ih m n (Nat.le_of_succ_le_succ short)

theorem find_range_zip {β : Type} (m : List β) (a k n i : Nat) (fits : i < k) :
    (((List.range' a k).take n).zip m).find? (fun p => p.1 == a + i) = if i < n then (m[i]?).map fun b => (a + i, b) else none := by
  induction m generalizing a k n i with
  | nil => simp
  | cons b m ih =>
    cases n with
    | zero => simp
    | succ n =>
      obtain ⟨k, rfl⟩ : ∃ k', k = k' + 1 := ⟨k - 1, by omega⟩
      rw [List.range'_succ, List.take_succ_cons, List.zip_cons_cons, List.find?_cons]
      cases i with
      | zero => simp
      | succ i =>
        have := ih (a + 1) k n i (by omega)
        rw [show a + 1 + i = a + (i + 1) by omega] at this
        have ne : (a == a + (i + 1)) = false := by simp
        simp [this, ne]

theorem slotsTaken_grant {s : State} {core : Nat} {t : Team} {c : Core} (unnamed : t.acc = Tab.const 8 0#8)
    (same : c.acc = (s.core core).acc) (q : Claim) :
    SlotsTaken s core t.uid q.acc (grantedTeam t c q).acc (takenCore t c q.acc) := by
  have free : c.freeSlots = (s.core core).freeSlots := by rw [Core.freeSlots, same, Core.freeSlots]
  have names : ∀ i, named t i = false := fun i => by simp [named, unnamed]
  refine ⟨fun i => ?_, fun j => ?_⟩
  · have found := find_range_zip (s.core core).freeSlots 0 8 q.acc i.val i.isLt
    rw [Nat.zero_add, ← List.range_eq_range'] at found
    rw [grantedTeam_acc, slotPairs_of_unnamed names, free, found, unnamed, Tab.get_const]
    by_cases low : i.val < q.acc
    · rw [if_pos low, if_pos low]
      cases (s.core core).freeSlots[i.val]? <;> rfl
    · rw [if_neg low, if_neg low]
  · rw [takenCore_acc, slotPairs_of_unnamed names, free, same]
    refine if_congr ?_ rfl rfl
    rw [← take_zip_snd (List.range 8) (s.core core).freeSlots q.acc (freeSlots_length_le _)]
    simp only [List.any_eq_true, beq_iff_eq, List.contains_iff_mem, List.mem_map]

/-! ### Its dictionary (R137, R178) -/

theorem set_get_self {n : Nat} {α : Type} (t : Tab n α) (i : Fin n) : t.set i (t.get i) = t :=
  tab_ext fun j => by rw [Tab.get_set]; split <;> simp_all

/-- The first of the numbers below `n` that satisfies a test. -/
theorem find_finRange {n : Nat} {p : Fin n → Bool} {a : Fin n} (h : (List.finRange n).find? p = some a) : p a = true ∧ ∀ j, j < a → p j = false := by
  obtain ⟨pa, i, hi, e, before⟩ := List.find?_eq_some_iff_getElem.1 h
  refine ⟨pa, fun j lt => ?_⟩
  rw [List.getElem_finRange] at e
  have ji : j.val < i := by rw [← e] at lt; exact lt
  have := before j.val ji
  rw [List.getElem_finRange] at this
  simpa using this

theorem loadDict_spec (s : State) (core : Nat) (img : Image) : ∃ c, s.loadDict core img = { s with cores := s.cores.set (coreIx core) c } ∧
    c = { s.core core with dict := c.dict, loops := c.loops } ∧ DictTaken s core img c := by
  unfold State.loadDict
  dsimp only
  by_cases held : ((List.finRange 4).any fun b => ((s.core core).dict.get b).image == some img.base) = true
  · rw [if_pos held]
    obtain ⟨b, _, hb⟩ := List.any_eq_true.1 held
    refine ⟨s.core core, by rw [State.core, set_get_self], rfl, fun _ => ⟨rfl, rfl⟩, fun b' none => absurd (eq_of_beq hb) (none b)⟩
  · rw [if_neg held]
    have absent : ¬ ∃ b, ((s.core core).dict.get b).image = some img.base := fun ⟨b, hb⟩ =>
      held (List.any_eq_true.2 ⟨b, List.mem_finRange b, beq_iff_eq.2 hb⟩)
    cases free : (List.finRange 4).find? fun b => !s.bankUsed core b.val with
    | none =>
      refine ⟨s.core core, by rw [State.core, set_get_self], rfl, fun h => absurd h absent, fun b _ unused => ?_⟩
      have := List.find?_eq_none.1 free b (List.mem_finRange b)
      simp [unused] at this
    | some b0 =>
      obtain ⟨unused0, before⟩ := find_finRange free
      refine ⟨_, rfl, rfl, fun h => absurd h absent, fun b _ unused lower => ?_⟩
      obtain rfl : b = b0 := by
        rcases lt_trichotomy b b0 with lt | eq | gt
        · simpa [unused] using before b lt
        · exact eq
        · simp [lower b0 gt] at unused0
      refine ⟨by simp [Core.putBank], fun j ne => by simp [Core.putBank, Tab.get_set_ne _ _ ne], fun off size sect i hi => ?_, fun i => by
        simp [Core.putBank]⟩
      simp [Core.putBank, bankFill, sect, List.getElem?_append_left, hi]

theorem dictTaken_congr {s : State} {core : Nat} {img : Image} {c c' : Core} (h : DictTaken s core img c) (dict : c'.dict = c.dict)
    (loops : c'.loops = c.loops) : DictTaken s core img c' := by
  unfold DictTaken at h ⊢
  rw [dict, loops]
  exact h

/-! ### The team placed (R143) -/

theorem foldl_append_find {α : Type} (l : List α) (a : α) (p : α → Bool) (pa : p a = true) (none : ∀ x ∈ l, p x = false) :
    (l ++ [a]).find? p = some a := by
  rw [List.find?_append, List.find?_eq_none.2 fun x hx => by simp [none x hx]]
  simp [pa]

/-- What a placed team changes: its core, and the teams and groups, which grow by it and its groups. -/
structure Placed (s : State) (core : Nat) (info : Launch) (img : Image) (prio : Nat) (area : Nat × Nat) (acc : Tab 8 Byte) (c : Core)
    (t : State) : Prop where
  frame : t = { s with teams := t.teams, groups := t.groups, cores := s.cores.set (coreIx core) c, fresh := s.fresh + 1 + info.gpt }
  fields : c = { s.core core with l1 := [], acc := c.acc, dict := c.dict, loops := c.loops }
  slots : SlotsTaken s core s.fresh info.initial.acc acc c
  dict : if info.dict = true then DictTaken s core img c else c.dict = (s.core core).dict ∧ c.loops = (s.core core).loops
  teams : t.teams = s.teams ++ [teamStart s core info prio area acc]
  groups : t.groups = s.groups ++ (List.range info.gpt).map (placedGroup s core info)

theorem dict_spec (s : State) (core : Nat) (info : Launch) (img : Image) : ∃ c,
    (if info.dict = true then s.loadDict core img else s) = { s with cores := s.cores.set (coreIx core) c } ∧
    c = { s.core core with dict := c.dict, loops := c.loops } ∧
    if info.dict = true then DictTaken s core img c else c.dict = (s.core core).dict ∧ c.loops = (s.core core).loops := by
  by_cases d : info.dict = true
  · simp only [if_pos d]
    exact loadDict_spec s core img
  · simp only [if_neg d]
    exact ⟨s.core core, by rw [State.core, set_get_self], rfl, rfl, rfl⟩

/-- The cores of a state in which one core is replaced. -/
theorem cores_of_core {s t : State} {k : Nat} {c : Core} (h : ∀ n, t.core n = if n % 768 = k % 768 then c else s.core n) :
    t.cores = s.cores.set (coreIx k) c := by
  refine tab_ext fun i => ?_
  have ix : coreIx i.val = i := by rw [coreIx, Fin.ext_iff, Fin.val_ofNat, Nat.mod_eq_of_lt i.isLt]
  have here := h i.val
  rw [State.core, ix, State.core, ix] at here
  rw [here, Tab.get_set]
  refine if_congr ?_ rfl rfl
  rw [← coreIx_eq, ix]

theorem zero_claim_add (q : Claim) : Claim.zero.add q = q := by
  cases q
  simp [Claim.add, Claim.zero]

/-- A team as it is entered, nothing granted yet. -/
def enteredTeam (s : State) (core : Nat) (info : Launch) (prio : Nat) (area : Nat × Nat) : Team :=
  blankTeam s.fresh core info prio (s.swapTh prio) s.now area

/-- A state in which a team is entered. -/
def enteredState (s : State) (core : Nat) (info : Launch) (prio : Nat) (area : Nat × Nat) (c : Core) : State :=
  { s with
    cores := s.cores.set (coreIx core) c
    teams := s.teams ++ [enteredTeam s core info prio area]
    groups := s.groups ++ (List.range info.gpt).map (placedGroup s core info)
    fresh := s.fresh + 1 + info.gpt }

theorem loadTeam_entered (s : State) (core : Nat) (e : LstEntry) (info : Launch) (img : Image) (area : Nat × Nat) {c : Core}
    (loaded : (if info.dict = true then s.loadDict core img else s) = { s with cores := s.cores.set (coreIx core) c }) :
    s.loadTeam core e info img area = ((enteredState s core info e.prio area c).grant s.fresh info.initial).clearL1 core := by
  have groups : (fun n => ({ (blankGroup (s.fresh + 1 + n) s.fresh n ((s.slotsFree core).getD n 0)
      [startPath 0 (codeAt info.base info.entryOff) 0xFFFFFFFF#32]).teamStart (enteredTeam s core info e.prio area) with
      lin := Tab.ofFn (startLin info.t info.gpt n) } : Group)) = placedGroup s core info :=
    funext fun n => startGroup_eq s core info (enteredTeam s core info e.prio area) rfl n
  unfold State.loadTeam enteredState
  dsimp only
  rw [loaded, ← groups]
  rfl

theorem grantedTeam_entered (s : State) (core : Nat) (info : Launch) (prio : Nat) (area : Nat × Nat) (c : Core) :
    grantedTeam (enteredTeam s core info prio area) c info.initial =
      teamStart s core info prio area (grantedTeam (enteredTeam s core info prio area) c info.initial).acc := by
  have hold : (enteredTeam s core info prio area).hold.add info.initial = info.initial := zero_claim_add _
  rw [grantedTeam, hold]
  rfl

theorem loadTeam_placed {s : State} (numbered : Numbered s) (core : Nat) (e : LstEntry) (info : Launch) (img : Image) (area : Nat × Nat) :
    ∃ acc c, Placed s core info img e.prio area acc c (s.loadTeam core e info img area) := by
  obtain ⟨_, _, teams, groups⟩ := numbered
  obtain ⟨c0, loaded, core0, dict0⟩ := dict_spec s core info img
  rw [loadTeam_entered s core e info img area loaded]
  obtain ⟨t0, ht0⟩ : ∃ t0, t0 = enteredTeam s core info e.prio area := ⟨_, rfl⟩
  obtain ⟨s1, hs1⟩ : ∃ s1, s1 = enteredState s core info e.prio area c0 := ⟨_, rfl⟩
  rw [← hs1]
  have uid : t0.uid = s.fresh := by rw [ht0]; rfl
  have team : s1.team t0.uid = some t0 := by
    rw [hs1, uid, ht0]
    exact foldl_append_find _ _ _ (beq_self_eq_true _) fun u hu => by
      have := teams u hu
      simpa using Nat.ne_of_lt this
  have cores1 : s1.core core = c0 := by rw [hs1]; exact Tab.get_set_self ..
  have granted := grantedTeam_entered s core info e.prio area c0
  rw [← ht0] at granted
  have eq := grant_eq team info.initial
  have core' : t0.core = core := by rw [ht0]; rfl
  rw [uid, core', cores1, granted] at eq
  obtain ⟨c, hc⟩ : ∃ c, c = { takenCore t0 c0 info.initial.acc with l1 := [] } := ⟨_, rfl⟩
  obtain ⟨t, ht⟩ : ∃ t, t = (s1.grant s.fresh info.initial).clearL1 core := ⟨_, rfl⟩
  have cores : t.cores = s.cores.set (coreIx core) c := by
    refine cores_of_core fun n => ?_
    have before (n : Nat) (other : ¬ n % 768 = core % 768) : s1.core n = s.core n := by
      rw [hs1]
      exact Tab.get_set_ne _ _ (mt (coreIx_eq n core).1 other)
    have granted := grant_core team info.initial
    rw [uid, core', cores1] at granted
    rw [ht, State.clearL1, core_putCore_eq, granted, granted, if_pos rfl, hc]
    by_cases here : n % 768 = core % 768
    · rw [if_pos here, if_pos here, Core.l1Clear]
    · rw [if_neg here, if_neg here, if_neg here, before n here]
  have teams' : t.teams = s.teams ++ [teamStart s core info e.prio area (grantedTeam t0 c0 info.initial).acc] := by
    have old : (s.teams.map fun u => if u.uid = s.fresh then teamStart s core info e.prio area (grantedTeam t0 c0 info.initial).acc else u) =
        s.teams := by
      conv_rhs => rw [← List.map_id s.teams]
      exact List.map_congr_left fun u hu => if_neg (Nat.ne_of_lt (teams u hu))
    have entered : s1.teams = s.teams ++ [t0] := by rw [hs1, ht0]; rfl
    rw [ht, State.clearL1, State.putCore_teams, eq, State.mapGroups, State.putTeam, State.putCore_teams, entered, List.map_append]
    refine congrArg₂ _ old ?_
    exact congrArg (fun u => [u]) (if_pos uid)
  have groups' : t.groups = s.groups ++ (List.range info.gpt).map (placedGroup s core info) := by
    have entered : s1.groups = s.groups ++ (List.range info.gpt).map (placedGroup s core info) := by rw [hs1]; rfl
    rw [ht, State.clearL1, State.putCore_groups, eq, State.mapGroups, State.putTeam_groups, State.putCore_groups, entered]
    conv_rhs => rw [← List.map_id (s.groups ++ (List.range info.gpt).map (placedGroup s core info))]
    refine List.map_congr_left fun g hg => ?_
    rcases List.mem_append.1 hg with m | m
    · exact if_neg (Nat.ne_of_lt (groups g m).2)
    · obtain ⟨n, _, rfl⟩ := List.mem_map.1 m
      exact (if_pos rfl).trans (zeroGranules_start rfl rfl _ _)
  have acc0 : c0.acc = (s.core core).acc := by rw [core0]
  refine ⟨_, c, ?_, ?_, ?_, ?_, ht ▸ teams', ht ▸ groups'⟩
  · rw [← ht, ← cores, ht, State.clearL1, State.putCore, eq, hs1]
    rfl
  · rw [hc, takenCore, core0]
  · have slots := slotsTaken_grant (s := s) (core := core) (t := t0) (c := c0) (by rw [ht0]; rfl) acc0 info.initial
    rw [uid] at slots
    rw [hc]
    exact slots
  · have dict : c.dict = c0.dict := by rw [hc]; rfl
    have loops : c.loops = c0.loops := by rw [hc]; rfl
    by_cases d : info.dict = true
    · rw [if_pos d] at dict0 ⊢
      exact dictTaken_congr dict0 dict loops
    · rw [if_neg d] at dict0 ⊢
      rw [dict, loops]
      exact dict0

end Sys2Proof.PlacementAndResources
end

section
/-! PROOFS. AGENT_PLACE of a single team (R127, R141, R143). -/

namespace Sys2Proof.PlacementAndResources

open Sys2Proof.Machine Sys2Proof.Safety Sys2Proof.Claims Sys2Proof.Laws Sys2Proof.Launching

/-! ### The teams and groups after a placement -/

section
variable {s t : State} {core prio : Nat} {info : Launch} {img : Image} {area : Nat × Nat} {acc : Tab 8 Byte} {c : Core}

theorem placed_team (p : Placed s core info img prio area acc c t) (numbered : Numbered s) (n : Nat) :
    t.team n = if n = s.fresh then some (teamStart s core info prio area acc) else s.team n := by
  obtain ⟨_, _, below, _⟩ := numbered
  rw [State.team, p.teams]
  by_cases e : n = s.fresh
  · rw [if_pos e]
    exact foldl_append_find _ _ _ (beq_iff_eq.2 e.symm) fun u hu => beq_eq_false_iff_ne.2 (e ▸ Nat.ne_of_lt (below u hu))
  · rw [if_neg e, List.find?_append, List.find?_cons_of_neg (by simpa [teamStart] using Ne.symm e), List.find?_nil, Option.or_none, State.team]

theorem placed_group_old (p : Placed s core info img prio area acc c t) {n : Nat} (old : n ≤ s.fresh ∨ s.fresh + info.gpt < n) :
    t.group n = s.group n := by
  have away : ((List.range info.gpt).map (placedGroup s core info)).find? (fun g => g.gid == n) = none := by
    refine List.find?_eq_none.2 fun g hg e => ?_
    obtain ⟨i, hi, rfl⟩ := List.mem_map.1 hg
    have gid : s.fresh + 1 + i = n := eq_of_beq e
    have := List.mem_range.1 hi
    omega
  rw [State.group, p.groups, List.find?_append, away, Option.or_none, State.group]

theorem placed_group_new (p : Placed s core info img prio area acc c t) (numbered : Numbered s) {n : Nat} (new : n < info.gpt) :
    t.group (s.fresh + 1 + n) = some (placedGroup s core info n) := by
  obtain ⟨_, _, _, below⟩ := numbered
  have away : s.groups.find? (fun g => g.gid == s.fresh + 1 + n) = none := by
    refine List.find?_eq_none.2 fun g hg e => ?_
    have := (below g hg).1
    have gid : g.gid = s.fresh + 1 + n := eq_of_beq e
    omega
  rw [State.group, p.groups, List.find?_append, away, Option.none_or, List.find?_map]
  have key : (fun g : Group => g.gid == s.fresh + 1 + n) ∘ placedGroup s core info = fun i => i == n := by
    funext i
    rw [Function.comp_apply, show (placedGroup s core info i).gid = s.fresh + 1 + i from rfl, Bool.eq_iff_iff, beq_iff_eq, beq_iff_eq]
    omega
  have found : (List.range info.gpt).find? (fun i => i == n) = some n := by
    rw [List.find?_eq_some_iff_getElem]
    refine ⟨beq_self_eq_true n, n, by simpa using new, by simp, fun j hj => ?_⟩
    rw [List.getElem_range]
    simpa using Nat.ne_of_lt hj
  rw [key, found]
  rfl

theorem placed_numbered (p : Placed s core info img prio area acc c t) (numbered : Numbered s) : Numbered t := by
  obtain ⟨teams, groups, belowT, belowG⟩ := numbered
  have fresh : t.fresh = s.fresh + 1 + info.gpt := by rw [p.frame]
  have gids : ((List.range info.gpt).map (placedGroup s core info)).map (fun g => g.gid) = (List.range info.gpt).map fun i => s.fresh + 1 + i := by
    rw [List.map_map]; rfl
  refine ⟨?_, ?_, fun u hu => ?_, fun g hg => ?_⟩
  · rw [p.teams, List.map_append, List.nodup_append]
    refine ⟨teams, List.nodup_singleton _, fun n hn m hm => ?_⟩
    obtain ⟨u, hu, rfl⟩ := List.mem_map.1 hn
    have : m = s.fresh := List.mem_singleton.1 hm
    exact this ▸ Nat.ne_of_lt (belowT u hu)
  · rw [p.groups, List.map_append, List.nodup_append, gids]
    refine ⟨groups, List.Nodup.map (fun a b e => Nat.add_left_cancel e) List.nodup_range, fun n hn m hm => ?_⟩
    obtain ⟨g, hg, rfl⟩ := List.mem_map.1 hn
    obtain ⟨i, _, rfl⟩ := List.mem_map.1 hm
    have := (belowG g hg).1
    omega
  · rw [p.teams] at hu
    rw [fresh]
    rcases List.mem_append.1 hu with m | m
    · have := belowT u m
      omega
    · have uid : u.uid = s.fresh := by rw [List.mem_singleton.1 m]; rfl
      omega
  · rw [p.groups] at hg
    rw [fresh]
    rcases List.mem_append.1 hg with m | m
    · have := belowG g m
      omega
    · obtain ⟨i, hi, rfl⟩ := List.mem_map.1 m
      have := List.mem_range.1 hi
      have gid : (placedGroup s core info i).gid = s.fresh + 1 + i := rfl
      have team : (placedGroup s core info i).team = s.fresh := rfl
      omega

end

/-! ### The agent's step -/

theorem reloading_false {s : State} {core : Nat} (h : ∀ b, s.svc.reload ≠ some (core, b)) : s.reloading core = false := by
  unfold State.reloading
  cases r : s.svc.reload with
  | none => rfl
  | some x =>
    have : x.1 ≠ core := fun e => h x.2 (by rw [r, ← e])
    simpa using this

theorem mayReserve_of {s : State} {core : Nat} (h : MayServe s core) : s.mayReserve core = true := by
  obtain ⟨runs, reload, returns, drafts⟩ := h
  unfold State.mayReserve
  rw [runs, reloading_false reload, returns]
  cases on : (s.core core).drafterOn
  · rfl
  · rw [drafts on]; rfl

theorem agentPlace_serves {s : State} {i : Nat} {e : LstEntry} {img : Image} {k : Kernel} (h : Serves s s.arg.core i e img k) :
    exec .agentPlace s = .next (match lrGang e.record with
      | none => s.placeOne s.arg.core i e img k
      | some (dom, size) => s.placeGang s.arg.core i e img k dom size) := by
  obtain ⟨may, first, held, image, kernel⟩ := h
  have step : exec .agentPlace s = execAgentPlace s := rfl
  have base : dwAt e.record 0 = (e.record.getD 0 0#64).toNat := by simp [dwAt]
  rw [step, execAgentPlace]
  simp only [mayReserve_of may, first, held, base, image, kernel, Bool.not_true, Bool.false_eq_true, if_false]
  cases lrGang e.record <;> rfl

theorem takeAreas_one (s : State) (part size : Nat) : s.takeAreas part size 1 =
    ((s.part part).findArea size).map fun a => ([a], s.putPart part { s.part part with saveUsed := (s.part part).saveUsed ++ [a] }) := by
  unfold State.takeAreas
  cases (s.part part).findArea size <;> rfl

theorem entry_putEntry (s : State) (die i : Nat) (e : LstEntry) : (s.putEntry die i e).entry die i = e := Tab.get_set_self ..

theorem withEntry_eq (s : State) (die i : Nat) (e : LstEntry) : s.putEntry die i e = withEntry s die i e := rfl

/-- A reservation of one save area, and a ticket taken, change nothing that a placement reads. -/
theorem placed_reserved {s t : State} {q die i core prio : Nat} {p : Partition} {e : LstEntry} {info : Launch} {img : Image} {area : Nat × Nat}
    {acc : Tab 8 Byte} {c : Core} (h : Placed ((s.putPart q p).putEntry die i e) core info img prio area acc c t) :
    Placed s core info img prio area acc c { s with
      teams := t.teams, groups := t.groups, cores := s.cores.set (coreIx core) c, fresh := s.fresh + 1 + info.gpt } where
  frame := rfl
  fields := h.fields
  slots := h.slots
  dict := h.dict
  teams := h.teams
  groups := h.groups

theorem placeOne_placed {s : State} {core i : Nat} {e : LstEntry} {img : Image} {k : Kernel} {a : Nat × Nat} (numbered : Numbered s)
    (fits : s.coreFits core (needOfRecord e.record k) 1 = true) (area : (s.part (partOf core)).findArea (needOfRecord e.record k).save = some a)
    (ticket : e.ticket < e.tend) :
    ∃ acc c t0, Placed s core (s.launchOf (dieOf core) i e img k e.ticket none) img e.prio a acc c t0 ∧
      s.placeOne core i e img k = { s with
        teams := t0.teams, groups := t0.groups, cores := s.cores.set (coreIx core) { c with unfit := none }
        fresh := s.fresh + 1 + lrGpt e.record
        parts := s.parts.set (partIx (partOf core)) { s.part (partOf core) with saveUsed := (s.part (partOf core)).saveUsed ++ [a] }
        fe := { s.fe with lst := s.fe.lst.set (lstIx (dieOf core) i) { e with ticket := e.ticket + 1 } } } := by
  obtain ⟨s2, hs2⟩ : ∃ s2, s2 = (s.putPart (partOf core) { s.part (partOf core) with saveUsed := (s.part (partOf core)).saveUsed ++ [a] }).putEntry
    (dieOf core) i { e with ticket := e.ticket + 1 } := ⟨_, rfl⟩
  obtain ⟨acc, c, placed⟩ := loadTeam_placed (s := s2) (hs2 ▸ numbered) core e (s.launchOf (dieOf core) i e img k e.ticket none) img a
  have eq : s.placeOne core i e img k = (s2.loadTeam core e (s.launchOf (dieOf core) i e img k e.ticket none) img a).noteFit core := by
    unfold State.placeOne
    dsimp only
    rw [if_pos fits, takeAreas_one, area]
    exact (if_neg (Nat.not_le.2 ticket)).trans (by rw [hs2])
  rw [eq]
  generalize s2.loadTeam core e (s.launchOf (dieOf core) i e img k e.ticket none) img a = t at placed ⊢
  refine ⟨acc, c, _, placed_reserved (hs2 ▸ placed), ?_⟩
  have here : t.core core = c := by rw [placed.frame]; exact Tab.get_set_self ..
  have cores : (t.noteFit core).cores = s.cores.set (coreIx core) { c with unfit := none } := by
    refine cores_of_core fun n => ?_
    rw [State.noteFit, core_putCore_eq, here]
    by_cases e : n % 768 = core % 768
    · rw [if_pos e, if_pos e]
    · rw [if_neg e, if_neg e, placed.frame, hs2]
      exact Tab.get_set_ne _ _ (mt (coreIx_eq n core).1 e)
  have frame := placed.frame
  rw [show (s.launchOf (dieOf core) i e img k e.ticket none).gpt = lrGpt e.record from rfl] at frame
  have noted : t.noteFit core = { t with cores := (t.noteFit core).cores } := by simp only [State.noteFit, State.putCore]
  rw [← cores]
  generalize t.noteFit core = u at noted ⊢
  rw [frame, hs2, State.putEntry, State.putPart] at noted
  exact noted

theorem agentPlace_loads {s : State} {i : Nat} {e : LstEntry} {img : Image} {k : Kernel} {a : Nat × Nat} (serves : Serves s s.arg.core i e img k)
    (single : lrGang e.record = none) (numbered : Numbered s) (fits : s.coreFits s.arg.core (needOfRecord e.record k) 1 = true)
    (area : (s.part (partOf s.arg.core)).findArea (needOfRecord e.record k).save = some a) (ticket : e.ticket < e.tend) :
    let die := dieOf s.arg.core
    let info := s.launchOf die i e img k e.ticket none
    ∃ t acc c, exec .agentPlace s = .next t ∧
      t = { withCore (withEntry s die i { e with ticket := e.ticket + 1 }) s.arg.core c with
        teams := t.teams, groups := t.groups, parts := t.parts, fresh := s.fresh + 1 + lrGpt e.record } ∧
      c = { s.core s.arg.core with l1 := [], unfit := none, acc := c.acc, dict := c.dict, loops := c.loops } ∧
      SlotsTaken s s.arg.core s.fresh info.initial.acc acc c ∧
      (if k.dict = true then DictTaken s s.arg.core img c else c.dict = (s.core s.arg.core).dict ∧ c.loops = (s.core s.arg.core).loops) ∧
      (∀ p, t.part p = if p % 8 = partOf s.arg.core % 8 then { s.part p with saveUsed := (s.part p).saveUsed ++ [a] } else s.part p) ∧
      (∀ n, t.team n = if n = s.fresh then some (teamStart s s.arg.core info e.prio a acc) else s.team n) ∧
      (∀ n, (n ≤ s.fresh ∨ s.fresh + lrGpt e.record < n) → t.group n = s.group n) ∧
      ∀ n, n < lrGpt e.record → t.group (s.fresh + 1 + n) = some (groupStart (s.fresh + 1 + n) s.fresh n ((s.slotsFree s.arg.core).getD n 0)
        info.params (fun l => BitVec.ofNat 64 (((e.ticket * lrGpt e.record + n) * 32 + l.val) % 2 ^ 40))
        (codeAt (BitVec.ofNat 57 img.base) ((((img.sectOf 1).map fun q => q.1).getD 0) + k.entryOff)) 0xFFFFFFFF#32) := by
  intro die info
  obtain ⟨acc, c, t0, placed, eq⟩ := placeOne_placed (i := i) (img := img) numbered fits area ticket
  have step := agentPlace_serves serves
  rw [single] at step
  refine ⟨s.placeOne s.arg.core i e img k, acc, { c with unfit := none }, step, ?_, ?_, placed.slots, ?_, fun p => ?_, fun n => ?_, fun n old => ?_,
    fun n new => ?_⟩
  · generalize s.placeOne s.arg.core i e img k = u at eq
    have teams : u.teams = t0.teams := by rw [eq]
    have groups : u.groups = t0.groups := by rw [eq]
    have parts : u.parts = s.parts.set (partIx (partOf s.arg.core)) { s.part (partOf s.arg.core) with
        saveUsed := (s.part (partOf s.arg.core)).saveUsed ++ [a] } := by rw [eq]
    rw [teams, groups, parts, eq, withCore, withEntry]
  · rw [placed.fields]
  · have dict := placed.dict
    rw [show (s.launchOf (dieOf s.arg.core) i e img k e.ticket none).dict = k.dict from rfl] at dict
    by_cases d : k.dict = true
    · rw [if_pos d] at dict ⊢
      exact dictTaken_congr dict rfl rfl
    · rw [if_neg d] at dict ⊢
      exact dict
  · have parts : (s.placeOne s.arg.core i e img k).parts = (s.putPart (partOf s.arg.core) { s.part (partOf s.arg.core) with
        saveUsed := (s.part (partOf s.arg.core)).saveUsed ++ [a] }).parts := by rw [eq]; rfl
    rw [State.part, parts, ← State.part, part_putPart_eq]
    split
    case isTrue same => rw [part_congr s same]
    case isFalse => rfl
  · rw [show (s.placeOne s.arg.core i e img k).team n = t0.team n by rw [eq]; rfl]
    exact placed_team placed numbered n
  · rw [show (s.placeOne s.arg.core i e img k).group n = t0.group n by rw [eq]; rfl]
    exact placed_group_old placed old
  · rw [show (s.placeOne s.arg.core i e img k).group (s.fresh + 1 + n) = t0.group (s.fresh + 1 + n) by rw [eq]; rfl]
    exact placed_group_new placed numbered new

theorem set_set_same {n : Nat} {α : Type} (t : Tab n α) (i : Fin n) (a b : α) : (t.set i a).set i b = t.set i b :=
  tab_ext fun j => by simp only [Tab.get_set]; split <;> rfl

theorem agentPlace_drains {s : State} {i : Nat} {e : LstEntry} {img : Image} {k : Kernel} (serves : Serves s s.arg.core i e img k)
    (single : lrGang e.record = none) (fits : s.coreFits s.arg.core (needOfRecord e.record k) 1 = true)
    (area : (s.part (partOf s.arg.core)).findArea (needOfRecord e.record k).save ≠ none) (ticket : e.tend ≤ e.ticket) :
    exec .agentPlace s = .next (withCore (withEntry s (dieOf s.arg.core) i { e with ticket := e.ticket + 1, st := 2 }) s.arg.core
      { s.core s.arg.core with unfit := none }) := by
  obtain ⟨a, ha⟩ := Option.ne_none_iff_exists'.1 area
  have step := agentPlace_serves serves
  rw [single] at step
  refine step.trans (congrArg Host.Outcome.next ?_)
  unfold State.placeOne
  dsimp only
  rw [if_pos fits, takeAreas_one, ha]
  refine (if_pos ticket).trans ?_
  rw [State.drain, entry_putEntry]
  have once : (s.putEntry (dieOf s.arg.core) i { e with ticket := e.ticket + 1 }).putEntry (dieOf s.arg.core) i { e with ticket := e.ticket + 1, st := 2 } =
      withEntry s (dieOf s.arg.core) i { e with ticket := e.ticket + 1, st := 2 } := by
    simp only [State.putEntry, withEntry, set_set_same]
  rw [once]
  rfl

theorem agentPlace_unfits {s : State} {i : Nat} {e : LstEntry} {img : Image} {k : Kernel} (serves : Serves s s.arg.core i e img k)
    (single : lrGang e.record = none) (unfits : s.coreFits s.arg.core (needOfRecord e.record k) 1 = false ∨
      (s.part (partOf s.arg.core)).findArea (needOfRecord e.record k).save = none) :
    ((∃ n, (s.core s.arg.core).unfit = some (e.seq, n)) → exec .agentPlace s = .next s) ∧
    ((∀ n, (s.core s.arg.core).unfit ≠ some (e.seq, n)) → exec .agentPlace s =
      .next (withCore s s.arg.core { s.core s.arg.core with unfit := some (e.seq, s.now) })) := by
  have step := agentPlace_serves serves
  have noted : s.placeOne s.arg.core i e img k = s.noteUnfit s.arg.core e.seq := by
    have none : (if s.coreFits s.arg.core (needOfRecord e.record k) 1 = true then
        s.takeAreas (partOf s.arg.core) (needOfRecord e.record k).save 1 else none) = none := by
      rcases unfits with h | h
      · rw [h]; rfl
      · rw [takeAreas_one, h]; exact ite_self _
    unfold State.placeOne
    dsimp only
    rw [none]
  rw [single] at step
  dsimp only at step
  rw [noted] at step
  rw [step]
  unfold State.noteUnfit
  dsimp only
  cases unfit : (s.core s.arg.core).unfit with
  | none => exact ⟨fun ⟨_, h⟩ => absurd h (by simp), fun _ => rfl⟩
  | some x =>
    obtain ⟨q, since⟩ := x
    dsimp only
    refine ⟨fun ⟨n, h⟩ => ?_, fun h => ?_⟩
    · rw [if_pos (congrArg Prod.fst (Option.some.inj h))]
    · rw [if_neg fun e => h since (by rw [e])]
      rfl

end Sys2Proof.PlacementAndResources
end

section
/-! PROOFS. AGENT_PLACE of a gang entry: the request to the members, and the teams once every member has said yes (R144). -/

namespace Sys2Proof.PlacementAndResources

open Sys2Proof.Machine Sys2Proof.Safety Sys2Proof.Claims Sys2Proof.Laws Sys2Proof.Launching

theorem agentPlace_gang {s : State} {i dom size : Nat} {e : LstEntry} {img : Image} {k : Kernel} (serves : Serves s s.arg.core i e img k)
    (gang : lrGang e.record = some (dom, size)) : exec .agentPlace s = .next (s.placeGang s.arg.core i e img k dom size) := by
  have step := agentPlace_serves serves
  rwa [gang] at step

theorem agentPlace_asks {s : State} {i dom size : Nat} {e : LstEntry} {img : Image} {k : Kernel} (serves : Serves s s.arg.core i e img k)
    (gang : lrGang e.record = some (dom, size)) (new : ∀ p ∈ s.fe.gangs, ¬ (p.leader = s.arg.core ∧ p.die = dieOf s.arg.core ∧ p.lst = i)) :
    let n := needOfRecord e.record k
    exec .agentPlace s = .next { s with fe := { s.fe with gangs := s.fe.gangs ++
      [⟨dieOf s.arg.core, i, e.seq, s.arg.core, size, dom, n.init, n.max, n.gpt, n.ven, n.dict, n.save, [], [], false, s.now⟩] } } := by
  have none : (s.fe.gangs.find? fun p => p.leader == s.arg.core && p.die == dieOf s.arg.core && p.lst == i && p.seq == e.seq) = none := by
    refine List.find?_eq_none.2 fun p hp h => new p hp ?_
    simp only [Bool.and_eq_true, beq_iff_eq] at h
    exact ⟨h.1.1.1, h.1.1.2, h.1.2⟩
  have stale : (s.fe.gangs.filter fun x => x.leader == s.arg.core && x.die == dieOf s.arg.core && x.lst == i) = [] := by
    refine List.filter_eq_nil_iff.2 fun p hp h => new p hp ?_
    simpa only [Bool.and_eq_true, beq_iff_eq, and_assoc] using h
  rw [agentPlace_gang serves gang]
  unfold State.placeGang
  dsimp only
  rw [none, stale]
  rfl

/-! ### The teams of a gang (R144) -/

theorem launchOf_congr {s t : State} (mem : t.mem = s.mem) (die i : Nat) (e : LstEntry) (img : Image) (k : Kernel) (n : Nat) (g : Option Gang) :
    t.launchOf die i e img k n g = s.launchOf die i e img k n g := by
  have nat : t.feNat = s.feNat := by funext a n; rw [State.feNat, State.feNat, mem]
  have keeps : t.keepsOf img = s.keepsOf img := by rw [State.keepsOf, State.keepsOf, nat]
  rw [State.launchOf, keeps, State.launchOf]

/-- The core that takes member `j` of a gang. -/
def memberCore (p : GangPlan) (j : Nat) : Nat := p.leader + j % gangCores p.dom

/-- The save areas of a gang's plan suffice for the members from `j` on, core by core. -/
def AreasFor (p : GangPlan) (j n : Nat) (areas : List (Nat × (Nat × Nat))) : Prop :=
  ∀ c, (List.range' j n).countP (fun i => memberCore p i == c) ≤ areas.countP fun a => a.1 == c

/-- Member `j` as it is placed. -/
def IsMember (s : State) (p : GangPlan) (e : LstEntry) (img : Image) (k : Kernel) (areas : List (Nat × (Nat × Nat))) (j : Nat) (u : Team) : Prop :=
  u.core = memberCore p j ∧ u.st = .resident ∧ u.info = s.launchOf p.die p.lst e img k (e.ticket + j) (some ⟨e.ticket, p.size, p.dom⟩) ∧
    u.hold = u.info.initial ∧ (u.core, u.saveArea) ∈ areas

/-- Members `j` to `j + n - 1` have been placed. -/
structure GangLoaded (s : State) (p : GangPlan) (e : LstEntry) (img : Image) (k : Kernel) (areas : List (Nat × (Nat × Nat))) (j n : Nat)
    (t : State) : Prop where
  frame : t = { s with teams := t.teams, groups := t.groups, cores := t.cores, fresh := t.fresh }
  numbered : Numbered t
  old : ∀ m, m < s.fresh → t.team m = s.team m ∧ t.group m = s.group m
  members : ∀ i, i < n → ∃ u, t.team (s.fresh + i * (1 + lrGpt e.record)) = some u ∧ IsMember s p e img k areas (j + i) u

theorem find_area {p : GangPlan} {j n : Nat} {areas : List (Nat × (Nat × Nat))} (h : AreasFor p j (n + 1) areas) :
    ∃ a, areas.find? (fun a => a.1 == memberCore p j) = some a := by
  have := h (memberCore p j)
  rw [List.range'_succ, List.countP_cons_of_pos (by simp)] at this
  obtain ⟨a, ha, at_⟩ := List.countP_pos_iff.1 (Nat.lt_of_lt_of_le (Nat.succ_pos _) this)
  exact Option.isSome_iff_exists.1 (List.find?_isSome.2 ⟨a, ha, at_⟩)

theorem areasFor_erase {p : GangPlan} {j n : Nat} {areas : List (Nat × (Nat × Nat))} (h : AreasFor p j (n + 1) areas) {a : Nat × (Nat × Nat)}
    (mem : a ∈ areas) (at_ : a.1 = memberCore p j) : AreasFor p (j + 1) n (areas.erase a) := by
  intro c
  have := h c
  rw [List.range'_succ, List.countP_cons, ← at_] at this
  rw [List.countP_erase]
  by_cases e : a.1 = c
  · simp only [e, mem, beq_self_eq_true, and_self, if_true] at this ⊢
    omega
  · simpa [e] using this

theorem loadGang_loaded (p : GangPlan) (e : LstEntry) (img : Image) (k : Kernel) (n j : Nat) (areas : List (Nat × (Nat × Nat))) (s : State)
    (numbered : Numbered s) (enough : AreasFor p j n areas) : GangLoaded s p e img k areas j n (s.loadGang p e img k n j areas) := by
  induction n generalizing j areas s with
  | zero => exact ⟨rfl, numbered, fun _ _ => ⟨rfl, rfl⟩, fun i hi => absurd hi (Nat.not_lt_zero i)⟩
  | succ n ih =>
    obtain ⟨a, ha⟩ := find_area enough
    have mem : a ∈ areas := List.mem_of_find?_eq_some ha
    have at_ : a.1 = memberCore p j := by simpa using List.find?_some ha
    obtain ⟨info, hinfo⟩ : ∃ info, info = s.launchOf p.die p.lst e img k (e.ticket + j) (some ⟨e.ticket, p.size, p.dom⟩) := ⟨_, rfl⟩
    have gpt : info.gpt = lrGpt e.record := by rw [hinfo]; rfl
    have step : s.loadGang p e img k (n + 1) j areas =
        (s.loadTeam (memberCore p j) e info img a.2).loadGang p e img k n (j + 1) (areas.erase a) := by
      rw [State.loadGang]
      dsimp only
      rw [show p.leader + j % gangCores p.dom = memberCore p j from rfl, ha, ← hinfo]
    obtain ⟨acc, c, placed⟩ := loadTeam_placed numbered (memberCore p j) e info img a.2
    rw [step]
    generalize s.loadTeam (memberCore p j) e info img a.2 = s1 at placed ⊢
    have rest := ih (j + 1) (areas.erase a) s1 (placed_numbered placed numbered) (areasFor_erase enough mem at_)
    generalize s1.loadGang p e img k n (j + 1) (areas.erase a) = t at rest ⊢
    have fresh : s1.fresh = s.fresh + (1 + lrGpt e.record) := by rw [placed.frame, gpt, Nat.add_assoc]
    have frame1 := placed.frame
    refine ⟨?_, rest.numbered, fun m hm => ?_, fun i hi => ?_⟩
    · rw [rest.frame, frame1]
    · obtain ⟨team, group⟩ := rest.old m (by omega)
      exact ⟨team.trans ((placed_team placed numbered m).trans (if_neg (Nat.ne_of_lt hm))),
        group.trans (placed_group_old placed (.inl (Nat.le_of_lt hm)))⟩
    · cases i with
      | zero =>
        refine ⟨teamStart s (memberCore p j) info e.prio a.2 acc, ?_, rfl, rfl, hinfo, rfl, ?_⟩
        · rw [Nat.zero_mul, Nat.add_zero, (rest.old s.fresh (by omega)).1, placed_team placed numbered, if_pos rfl]
        · rw [show (teamStart s (memberCore p j) info e.prio a.2 acc).core = a.1 from at_.symm]
          exact mem
      | succ i =>
        obtain ⟨u, hu, core, st, launch, hold, area⟩ := rest.members i (by omega)
        have number : s.fresh + (i + 1) * (1 + lrGpt e.record) = s1.fresh + i * (1 + lrGpt e.record) := by
          rw [fresh, Nat.succ_mul]
          omega
        have index : j + (i + 1) = j + 1 + i := by omega
        rw [launchOf_congr (by rw [frame1])] at launch
        rw [number, index]
        exact ⟨u, hu, core, st, launch, hold, List.mem_of_mem_erase area⟩

/-- How many members of a gang a core takes (R144). -/
theorem share_eq (p : GangPlan) (c : Nat) : (List.range' 0 p.size).countP (fun i => memberCore p i == c) = p.share c := by
  have count (leader gc : Nat) (h : gc = 4 ∨ gc = 96) (n : Nat) : (List.range n).countP (fun i => leader + i % gc == c) =
      if leader ≤ c ∧ c < leader + gc then (n + gc - 1 - (c - leader)) / gc else 0 := by
    induction n with
    | zero =>
      rw [List.range_zero, List.countP_nil]
      rcases h with rfl | rfl <;> split <;> omega
    | succ n ih =>
      rw [List.range_succ, List.countP_append, ih, List.countP_singleton]
      rcases h with rfl | rfl <;> simp only [beq_iff_eq] <;> split <;> split <;> omega
  have cores : gangCores p.dom = if p.dom = 3 then 4 else 96 := rfl
  rw [← List.range_eq_range', GangPlan.share, ← cores]
  exact count p.leader (gangCores p.dom) (by rw [cores]; split <;> simp) p.size

theorem agentPlace_gangLoads {s : State} {i dom size : Nat} {e : LstEntry} {img : Image} {k : Kernel} {p : GangPlan}
    (serves : Serves s s.arg.core i e img k) (gang : lrGang e.record = some (dom, size)) (numbered : Numbered s) (ticket : e.ticket < e.tend)
    (plan : (s.fe.gangs.find? fun p => p.leader == s.arg.core && p.die == dieOf s.arg.core && p.lst == i && p.seq == e.seq) = some p)
    (psize : p.size = size) (pdom : p.dom = dom) (yes : ∀ j, j < gangCores dom → p.share (s.arg.core + j) ≠ 0 →
      s.agentRuns (s.arg.core + j) = true ∧ (s.arg.core + j, true) ∈ p.answers)
    (areas : ∀ c, (p.areas.filter fun a => a.1 == c).length = p.share c) :
    let s1 := withEntry s (dieOf s.arg.core) i { e with ticket := e.ticket + size }
    ∃ t, exec .agentPlace s = .next t ∧ t = { s1 with
        teams := t.teams, groups := t.groups, cores := t.cores, fresh := t.fresh
        fe := { s1.fe with gangs := s.fe.gangs.filter fun x => x != p } } ∧
      (∀ n, n < s.fresh → t.team n = s.team n ∧ t.group n = s.group n) ∧
      ∀ j, j < size → ∃ u, t.team (s.fresh + j * (1 + lrGpt e.record)) = some u ∧ u.core = s.arg.core + j % gangCores dom ∧ u.st = .resident ∧
        u.info = s.launchOf (dieOf s.arg.core) i e img k (e.ticket + j) (some ⟨e.ticket, size, dom⟩) ∧ u.hold = u.info.initial ∧
        (u.core, u.saveArea) ∈ p.areas := by
  intro s1
  subst psize pdom
  have key := List.find?_some plan
  simp only [Bool.and_eq_true, beq_iff_eq, and_assoc] at key
  obtain ⟨leader, die, lst, -⟩ := key
  -- every member has said yes
  have member (c : Nat) (h : c ∈ ((List.range (gangCores p.dom)).map fun j => s.arg.core + j).filter fun c => p.share c != 0) :
      s.agentRuns c = true ∧ p.answers.contains (c, true) = true := by
    obtain ⟨hc, share⟩ := List.mem_filter.1 h
    obtain ⟨j, hj, rfl⟩ := List.mem_map.1 hc
    obtain ⟨runs, answer⟩ := yes j (List.mem_range.1 hj) (bne_iff_ne.1 share)
    exact ⟨runs, List.contains_iff_mem.2 answer⟩
  have enough : AreasFor p 0 p.size p.areas := fun c => by
    rw [share_eq, ← areas c, List.countP_eq_length_filter]
  obtain ⟨s2, hs2⟩ : ∃ s2 : State, s2 = { s1 with fe := { s1.fe with gangs := s.fe.gangs.filter fun x => x != p } } := ⟨_, rfl⟩
  have loaded := loadGang_loaded p e img k p.size 0 p.areas s2 (hs2 ▸ numbered) enough
  have placed : s.placeGang s.arg.core i e img k p.dom p.size = (s2.loadGang p e img k p.size 0 p.areas).noteFit s.arg.core := by
    unfold State.placeGang
    dsimp only
    rw [plan]
    dsimp only
    rw [if_neg (by simpa using fun c hc share => (member c (List.mem_filter.2 ⟨hc, share⟩)).1),
      if_neg (by simpa using fun c hc share => (member c (List.mem_filter.2 ⟨hc, share⟩)).2), if_neg (Nat.not_le.2 ticket), hs2]
    rfl
  generalize s2.loadGang p e img k p.size 0 p.areas = t at loaded placed
  have frame := loaded.frame
  refine ⟨t.noteFit s.arg.core, (agentPlace_gang serves gang).trans (by rw [placed]), ?_, fun n hn => ?_, fun j hj => ?_⟩
  · have teams : (t.noteFit s.arg.core).teams = t.teams := State.putCore_teams ..
    have groups : (t.noteFit s.arg.core).groups = t.groups := State.putCore_groups ..
    have fresh : (t.noteFit s.arg.core).fresh = t.fresh := by rw [State.noteFit, State.putCore]
    have noted : t.noteFit s.arg.core = { t with cores := (t.noteFit s.arg.core).cores } := by simp only [State.noteFit, State.putCore]
    rw [teams, groups, fresh]
    generalize t.noteFit s.arg.core = u at noted ⊢
    rw [frame, hs2] at noted
    exact noted
  · rw [State.noteFit, State.putCore_team, State.putCore_group, (loaded.old n (by rw [hs2]; exact hn)).1, (loaded.old n (by rw [hs2]; exact hn)).2, hs2]
    exact ⟨rfl, rfl⟩
  · obtain ⟨u, hu, core, st, launch, hold, area⟩ := loaded.members j hj
    rw [Nat.zero_add] at core launch
    rw [launchOf_congr (s := s) (by rw [hs2]; rfl), die, lst] at launch
    rw [memberCore, leader] at core
    refine ⟨u, ?_, core, st, launch, hold, area⟩
    have fresh : s2.fresh = s.fresh := by rw [hs2]; rfl
    rw [State.noteFit, State.putCore_team, ← fresh]
    exact hu

end Sys2Proof.PlacementAndResources
end

section
/-! PROOFS. GANG_RESERVE, GROUP_RETIRE and TEAM_RETIRE (R144, R154, R245, R402). -/

namespace Sys2Proof.PlacementAndResources

open Sys2Proof.Machine Sys2Proof.Safety Sys2Proof.Claims Sys2Proof.Laws Sys2Proof.Launching

/-! ### GANG_RESERVE -/

theorem findArea_size {p : Partition} {size : Nat} {a : Nat × Nat} (h : p.findArea size = some a) : a.2 = size := by
  unfold Partition.findArea at h
  obtain ⟨b, _, rfl⟩ := Option.map_eq_some_iff.1 h
  rfl

theorem takeAreas_spec {part size n : Nat} {s s1 : State} {areas : List (Nat × Nat)} (h : s.takeAreas part size n = some (areas, s1)) :
    s1 = s.putPart part { s.part part with saveUsed := (s.part part).saveUsed ++ areas } ∧ areas.length = n ∧ ∀ a ∈ areas, a.2 = size := by
  induction n generalizing s areas with
  | zero =>
    obtain ⟨rfl, rfl⟩ := Prod.mk.inj (Option.some.inj h)
    refine ⟨?_, rfl, fun a ha => absurd ha List.not_mem_nil⟩
    rw [List.append_nil, State.putPart, State.part, set_get_self]
  | succ n ih =>
    unfold State.takeAreas at h
    cases found : (s.part part).findArea size with
    | none => rw [found] at h; cases h
    | some a =>
      rw [found] at h
      dsimp only at h
      generalize hp : s.putPart part { s.part part with saveUsed := (s.part part).saveUsed ++ [a] } = s2 at h
      cases rest : s2.takeAreas part size n with
      | none => rw [rest] at h; cases h
      | some x =>
        obtain ⟨l, s3⟩ := x
        rw [rest] at h
        obtain ⟨rfl, rfl⟩ := Prod.mk.inj (Option.some.inj h)
        obtain ⟨eq, len, sizes⟩ := ih rest
        refine ⟨?_, by rw [List.length_cons, len], fun b hb => ?_⟩
        · rw [eq, ← hp, State.part_putPart]
          simp only [State.putPart, set_set_same, List.append_assoc, List.singleton_append]
        · rcases List.mem_cons.1 hb with e | m
          · rw [e]; exact findArea_size found
          · exact sizes b m

section
variable {s : State} {p : GangPlan}

theorem gangReserve_yes (plan : (s.fe.gangs.find? fun p => p.leader == s.arg.item && p.covers s.arg.core && p.share s.arg.core != 0
      && p.answers.all (fun a => a.1 != s.arg.core)) = some p)
    (st : (s.entry p.die p.lst).st = 1) (seq : (s.entry p.die p.lst).seq = p.seq) (held : s.heldBack s.arg.core p.lst (s.entry p.die p.lst) = false)
    {areas : List (Nat × Nat)} {s1 : State} (may : MayServe s s.arg.core)
    (fits : s.coreFits s.arg.core ⟨p.init, p.max, p.gpt, p.ven, p.dict, p.save⟩ (p.share s.arg.core) = true)
    (taken : s.takeAreas (partOf s.arg.core) p.save (p.share s.arg.core) = some (areas, s1)) :
    exec .gangReserve s = .next { s with
      parts := s.parts.set (partIx (partOf s.arg.core)) { s.part (partOf s.arg.core) with saveUsed := (s.part (partOf s.arg.core)).saveUsed ++ areas }
      fe := { s.fe with gangs := s.fe.gangs.map fun x => if x = p then agreed p s.arg.core areas else x } } ∧
      areas.length = p.share s.arg.core ∧ ∀ a ∈ areas, a.2 = p.save := by
  obtain ⟨eq, len, sizes⟩ := takeAreas_spec taken
  refine ⟨?_, len, sizes⟩
  have step : exec .gangReserve s = execGangReserve s := rfl
  rw [step, execGangReserve]
  simp only [mayReserve_of may, plan, st, seq, held, reloading_false may.2.1, fits, taken, Bool.true_or, Bool.not_true, Bool.not_false,
    Bool.true_and, Bool.false_eq_true, if_false, if_true, ne_eq, not_true, or_self]
  rw [eq]
  rfl

theorem gangReserve_no (plan : (s.fe.gangs.find? fun p => p.leader == s.arg.item && p.covers s.arg.core && p.share s.arg.core != 0
      && p.answers.all (fun a => a.1 != s.arg.core)) = some p)
    (st : (s.entry p.die p.lst).st = 1) (seq : (s.entry p.die p.lst).seq = p.seq) (held : s.heldBack s.arg.core p.lst (s.entry p.die p.lst) = false)
    (no : MayServe s s.arg.core ∧ (s.coreFits s.arg.core ⟨p.init, p.max, p.gpt, p.ven, p.dict, p.save⟩ (p.share s.arg.core) = false ∨
        s.takeAreas (partOf s.arg.core) p.save (p.share s.arg.core) = none) ∨
      s.agentRuns s.arg.core = true ∧ (∃ b, s.svc.reload = some (s.arg.core, b))) :
    exec .gangReserve s = .next ((s.dropPlan p (some { p with answers := [], areas := [], refused := true })).noteUnfit p.leader p.seq) := by
  have asked : (s.mayReserve s.arg.core || (s.agentRuns s.arg.core && s.reloading s.arg.core)) = true := by
    rcases no with ⟨may, _⟩ | ⟨runs, b, reload⟩
    · rw [mayReserve_of may]; rfl
    · simp [runs, State.reloading, reload]
  have none : (if !s.reloading s.arg.core && s.coreFits s.arg.core ⟨p.init, p.max, p.gpt, p.ven, p.dict, p.save⟩ (p.share s.arg.core) then
      s.takeAreas (partOf s.arg.core) p.save (p.share s.arg.core) else none) = none := by
    rcases no with ⟨_, h | h⟩ | ⟨_, b, reload⟩
    · rw [h, Bool.and_false]; rfl
    · rw [h]; exact ite_self _
    · simp [State.reloading, reload]
  have step : exec .gangReserve s = execGangReserve s := rfl
  rw [step, execGangReserve]
  simp only [asked, plan, st, seq, held, none, Bool.not_true, Bool.false_eq_true, if_false, ne_eq, not_true, or_self]

theorem dropPlan_some (s : State) (p q : GangPlan) : s.dropPlan p (some q) = { s with
    parts := (s.dropPlan p (some q)).parts
    fe := { s.fe with gangs := s.fe.gangs.map fun x => if x.leader = p.leader ∧ x.die = p.die ∧ x.lst = p.lst then q else x } } := by
  have gangs : (s.dropPlan p (some q)).fe.gangs =
      s.fe.gangs.map fun x => if x.leader = p.leader ∧ x.die = p.die ∧ x.lst = p.lst then q else x := by
    rw [← List.filterMap_eq_map]
    refine List.filterMap_congr fun x _ => ?_
    rw [Function.comp_apply]
    split <;> rfl
  rw [← gangs]
  rfl

theorem noteUnfit_core (s : State) (k : Nat) (seq : Word) (n : Nat) : (s.noteUnfit k seq).core n =
    if n % 768 = k % 768 then { s.core n with unfit := match (s.core n).unfit with
      | some (x, since) => if x = seq then some (x, since) else some (seq, s.now)
      | none => some (seq, s.now) } else s.core n := by
  unfold State.noteUnfit
  dsimp only
  by_cases here : n % 768 = k % 768
  · rw [if_pos here, core_congr s here]
    cases unfit : (s.core k).unfit with
    | none =>
      dsimp only
      rw [core_putCore_eq, if_pos here]
    | some x =>
      obtain ⟨q, since⟩ := x
      dsimp only
      by_cases same : q = seq
      · rw [if_pos same, if_pos same, core_congr s here, ← unfit]
      · rw [if_neg same, if_neg same, core_putCore_eq, if_pos here]
  · rw [if_neg here]
    cases (s.core k).unfit with
    | none => exact (core_putCore_eq ..).trans (if_neg here)
    | some x =>
      dsimp only
      split
      · rfl
      · exact (core_putCore_eq ..).trans (if_neg here)

theorem noteUnfit_frame (s : State) (k : Nat) (seq : Word) : s.noteUnfit k seq = { s with cores := (s.noteUnfit k seq).cores } := by
  unfold State.noteUnfit
  dsimp only
  split
  · split
    · rfl
    · simp only [State.putCore]
  · simp only [State.putCore]

theorem gangReserve_refuses (plan : (s.fe.gangs.find? fun p => p.leader == s.arg.item && p.covers s.arg.core && p.share s.arg.core != 0
      && p.answers.all (fun a => a.1 != s.arg.core)) = some p)
    (st : (s.entry p.die p.lst).st = 1) (seq : (s.entry p.die p.lst).seq = p.seq) (held : s.heldBack s.arg.core p.lst (s.entry p.die p.lst) = false)
    (no : MayServe s s.arg.core ∧ (s.coreFits s.arg.core ⟨p.init, p.max, p.gpt, p.ven, p.dict, p.save⟩ (p.share s.arg.core) = false ∨
        s.takeAreas (partOf s.arg.core) p.save (p.share s.arg.core) = none) ∨
      s.agentRuns s.arg.core = true ∧ (∃ b, s.svc.reload = some (s.arg.core, b))) :
    ∃ t, exec .gangReserve s = .next t ∧
      t = { s with parts := t.parts, cores := t.cores, fe := { s.fe with gangs := s.fe.gangs.map fun x =>
        if x.leader = p.leader ∧ x.die = p.die ∧ x.lst = p.lst then { p with answers := [], areas := [], refused := true } else x } } ∧
      (∀ n, t.part n = if n % 8 = partOf p.leader % 8 then
        { s.part n with saveUsed := (s.part n).saveUsed.filter fun a => !(p.areas.any fun b => b.2 == a) } else s.part n) ∧
      ∀ n, t.core n = if n % 768 = p.leader % 768 then { s.core n with unfit := match (s.core n).unfit with
          | some (x, since) => if x = p.seq then some (x, since) else some (p.seq, s.now)
          | none => some (p.seq, s.now) } else s.core n := by
  obtain ⟨s1, hs1⟩ : ∃ s1, s1 = s.dropPlan p (some { p with answers := [], areas := [], refused := true }) := ⟨_, rfl⟩
  have frame := dropPlan_some s p { p with answers := [], areas := [], refused := true }
  have parts := dropPlan_part s p (some { p with answers := [], areas := [], refused := true })
  rw [← hs1] at frame parts
  refine ⟨s1.noteUnfit p.leader p.seq, by rw [hs1]; exact gangReserve_no plan st seq held no, ?_, fun n => ?_, fun n => ?_⟩
  · have noted := noteUnfit_frame s1 p.leader p.seq
    have same : (s1.noteUnfit p.leader p.seq).parts = s1.parts := by rw [noted]
    rw [same]
    generalize s1.noteUnfit p.leader p.seq = t at noted ⊢
    rw [noted]
    conv_lhs => rw [frame]
  · have same : (s1.noteUnfit p.leader p.seq).part n = s1.part n := by rw [State.part, noteUnfit_frame, State.part]
    rw [same, parts, keptAreas]
    by_cases here : n % 8 = partOf p.leader % 8
    · rw [if_pos here]
      simp [here]
    · rw [if_neg here, List.filter_eq_self.2 fun a _ => by simp [beq_eq_false_iff_ne.2 (Ne.symm here)]]
  · have cores : ∀ n, s1.core n = s.core n := fun n => by rw [State.core, frame, State.core]
    have now : s1.now = s.now := by rw [frame]
    rw [noteUnfit_core, cores, now]

end

/-! ### GROUP_RETIRE -/

theorem groupRetire_step {s : State} {g : Group} {u : Team} (hg : s.group s.arg.item = some g) (hu : s.team g.team = some u) :
    (s.svc.diesOn = true → s.svc.stopped = false → g.paths = [] →
      exec .groupRetire s = .next { s with groups := s.groups.filter fun h => h.gid != s.arg.item }) ∧
    (g.paths ≠ [] → exec .groupRetire s = .next s) := by
  have step : exec .groupRetire s = execGroupRetire s := rfl
  rw [step, execGroupRetire, hg]
  dsimp only
  rw [hu]
  refine ⟨fun on running empty => ?_, fun live => ?_⟩
  · rw [if_neg (by simp [State.diesRun, on, running, empty]), State.group_gid hg]
  · exact if_pos (by simp [live])

/-! ### TEAM_RETIRE -/

theorem countDone_frame (s : State) (u : Team) (killed : Bool) :
    s.countDone u killed = { s with fe := { s.fe with lst := (s.countDone u killed).fe.lst } } := by
  unfold State.countDone
  dsimp only
  split
  · simp only [State.putEntry]
  · rfl

theorem entry_putEntry_eq (s : State) (die i d n : Nat) (e : LstEntry) :
    (s.putEntry die i e).entry d n = if lstIx d n = lstIx die i then e else s.entry d n := by
  rw [State.entry, State.putEntry, State.entry, Tab.get_set]

theorem countDone_entry (s : State) (u : Team) (d n : Nat) : (s.countDone u false).entry d n =
    let e := s.entry d n
    if lstIx d n = lstIx u.info.die u.info.lst ∧ e.st ≠ 0 ∧ e.seq = BitVec.ofNat 32 u.info.seq then { e with done := e.done + 1 } else e := by
  have same (h : lstIx d n = lstIx u.info.die u.info.lst) : s.entry d n = s.entry u.info.die u.info.lst := by rw [State.entry, h, State.entry]
  unfold State.countDone
  dsimp only
  by_cases counts : (s.entry u.info.die u.info.lst).st ≠ 0 ∧ (s.entry u.info.die u.info.lst).seq = BitVec.ofNat 32 u.info.seq
  · rw [if_pos counts, entry_putEntry_eq]
    by_cases here : lstIx d n = lstIx u.info.die u.info.lst
    · rw [if_pos here, same here]
      exact (if_pos ⟨here, counts⟩).symm
    · rw [if_neg here]
      exact (if_neg (not_and_of_not_left _ here)).symm
  · rw [if_neg counts]
    refine (if_neg ?_).symm
    rintro ⟨here, live⟩
    exact counts (same here ▸ live)

/-- Of a team that is over, only its number, its slots and its save area are left to give up. -/
theorem dropTeam_over {s : State} {u : Team} (isOver : s.teamOver u = true) : s.dropTeam u = ({ s with
    cores := s.cores.set (coreIx u.core) ((s.core u.core).freeTeamSlots u.uid)
    teams := s.teams.filter fun x => x.uid != u.uid } : State).putPart (partOf u.core) ((s.part (partOf u.core)).freeArea u.saveArea) := by
  unfold State.teamOver at isOver
  simp only [Bool.and_eq_true, List.all_eq_true, List.isEmpty_iff, State.groupsOf, List.filter_eq_nil_iff, bne_iff_ne] at isOver
  obtain ⟨⟨⟨⟨groups, items⟩, records⟩, _⟩, _⟩ := isOver
  have noItems (i : Item) (hi : i ∈ s.items) : i.owner ≠ u.uid := items i (List.mem_append_left _ hi)
  have keptG : (s.groups.filter fun g => g.team != u.uid) = s.groups := List.filter_eq_self.2 fun g hg => by simpa using groups g hg
  have keptI : (s.items.filter fun i => i.owner != u.uid || i.free) = s.items :=
    List.filter_eq_self.2 fun i hi => by simp [noItems i hi]
  have keptR : (s.records.filter fun r => r.team != u.uid) = s.records := List.filter_eq_self.2 fun r hr => by simpa using records r hr
  have none : (s.items.filter fun i => i.owner == u.uid && !i.free) = [] := List.filter_eq_nil_iff.2 fun i hi => by simp [noItems i hi]
  unfold State.dropTeam
  dsimp only
  rw [keptG, keptI, keptR, none, List.map_nil, List.eraseDups_nil, List.foldl_nil, State.putCore]
  rfl

theorem teamRetire_step {s : State} {u : Team} (hu : s.team s.arg.team = some u) (isOver : s.teamOver u = true) (runs : s.teamRuns u = true)
    (reload : ∀ b, s.svc.reload ≠ some (u.core, b)) :
    ∃ t, exec .teamRetire s = .next t ∧
      t = { s with
        teams := s.teams.filter fun x => x.uid != s.arg.team
        cores := t.cores, parts := t.parts, fe := { s.fe with lst := t.fe.lst } } ∧
      (∀ n, ∃ acc, t.core n = { s.core n with acc := acc } ∧ ∀ i, acc.get i =
        if n % 768 = u.core % 768 ∧ ((s.core n).acc.get i).team = some u.uid then AccSlot.reset else (s.core n).acc.get i) ∧
      (∀ p, t.part p = if p % 8 = partOf u.core % 8 then { s.part p with saveUsed := (s.part p).saveUsed.filter fun a => a != u.saveArea } else s.part p) ∧
      ∀ d n, t.entry d n = (let e := s.entry d n
        if lstIx d n = lstIx u.info.die u.info.lst ∧ e.st ≠ 0 ∧ e.seq = BitVec.ofNat 32 u.info.seq then { e with done := e.done + 1 } else e) := by
  have step : exec .teamRetire s = execTeamRetire s := rfl
  have uid : u.uid = s.arg.team := State.team_uid hu
  have dropped := dropTeam_over isOver
  obtain ⟨s1, hs1⟩ : ∃ s1, s1 = s.dropTeam u := ⟨_, rfl⟩
  rw [← hs1] at dropped
  have counted := countDone_frame s1 u false
  have fe : s1.fe = s.fe := by rw [dropped]; rfl
  have cores : (s1.countDone u false).cores = s1.cores := by rw [counted]
  have parts : (s1.countDone u false).parts = s1.parts := by rw [counted]
  have parts1 : s1.parts = (s.putPart (partOf u.core) ((s.part (partOf u.core)).freeArea u.saveArea)).parts := by rw [dropped]; rfl
  have cores1 : s1.cores = (s.putCore u.core ((s.core u.core).freeTeamSlots u.uid)).cores := by rw [dropped]; rfl
  refine ⟨s1.countDone u false, ?_, ?_, fun n => ?_, fun p => ?_, fun d n => ?_⟩
  · rw [step, execTeamRetire, hu, hs1]
    exact if_pos (by simp [isOver, runs, reloading_false reload])
  · rw [cores, parts]
    generalize s1.countDone u false = t at counted ⊢
    rw [fe] at counted
    rw [counted, parts1, cores1, ← uid]
    conv_lhs => rw [dropped]
    rfl
  · rw [State.core, cores, cores1, ← State.core, core_putCore_eq]
    by_cases here : n % 768 = u.core % 768
    · rw [if_pos here, core_congr s here]
      refine ⟨_, rfl, fun i => ?_⟩
      rw [Tab.get_ofFn]
      exact if_congr (by simp [here]) rfl rfl
    · rw [if_neg here]
      exact ⟨_, rfl, fun i => (if_neg fun h => here h.1).symm⟩
  · rw [State.part, parts, parts1, ← State.part, part_putPart_eq]
    split
    case isTrue here => rw [part_congr s here, Partition.freeArea]
    case isFalse => rfl
  · rw [countDone_entry]
    have entry : s1.entry d n = s.entry d n := by rw [State.entry, fe, State.entry]
    rw [entry]

end Sys2Proof.PlacementAndResources
end

section
/-! PROOFS. The registers of a lane that starts from a work item (R232, R244). -/

namespace Sys2Proof.PlacementAndResources

open Sys2Proof.Machine Sys2Proof.Safety Sys2Proof.Claims Sys2Proof.Laws Sys2Proof.Launching

/-! ### What a lane sees -/

/-- The registers of one lane. -/
structure LaneView where
  x : Reg → Word
  v : Reg → DWord
  q : Fin 8 → BitVec 2
  m : Fin 8 → Bool
  lin : DWord

def viewOf (g : Group) (l : Lane) : LaneView where
  x r := g.getX r l
  v r := g.getV r l
  q n := (g.q.get n).get l
  m n := laneOn (g.m.get n) l
  lin := g.lin.get l

/-- Only lane registers and lineages differ. -/
def LanesOnly (g h : Group) : Prop := h = { g with x := h.x, v := h.v, q := h.q, m := h.m, lin := h.lin }

theorem lanesOnly_refl (g : Group) : LanesOnly g g := rfl
theorem lanesOnly_trans {g h k : Group} (a : LanesOnly g h) (b : LanesOnly h k) : LanesOnly g k := by
  unfold LanesOnly at a b ⊢
  rw [b, a]

theorem lanesOnly_setX (g : Group) (r : Reg) (on : Mask) (f : Lane → Word) : LanesOnly g (g.setX r on f) := by
  unfold LanesOnly Group.setX; split <;> rfl
theorem lanesOnly_setV (g : Group) (r : Reg) (on : Mask) (f : Lane → DWord) : LanesOnly g (g.setV r on f) := rfl
theorem lanesOnly_setQ (g : Group) (r : Reg) (on : Mask) (f : Lane → BitVec 2) : LanesOnly g (g.setQ r on f) := rfl
theorem lanesOnly_setM (g : Group) (r : Reg) (w : Mask) : LanesOnly g (g.setM r w) := by
  unfold LanesOnly Group.setM; split <;> rfl
theorem lanesOnly_setLin (g : Group) (on : Mask) (f : Lane → DWord) : LanesOnly g (g.setLin on f) := rfl

/-! ### One register written in a lane -/

/-- The view of a lane after an x-register write that may name it. -/
def LaneView.putX (w : LaneView) (d : Reg) (a : Word) : LaneView := { w with x := fun r => if r = d ∧ d ≠ 0#6 then a else w.x r }
def LaneView.putV (w : LaneView) (d : Reg) (a : DWord) : LaneView := { w with v := fun r => if r = d then a else w.v r }

theorem viewOf_setX (g : Group) (d : Reg) (on : Mask) (a : Word) (l : Lane) :
    viewOf (g.setX d on fun _ => a) l = if laneOn on l = true then (viewOf g l).putX d a else viewOf g l := by
  have other : (g.setX d on fun _ => a).v = g.v ∧ (g.setX d on fun _ => a).q = g.q ∧ (g.setX d on fun _ => a).m = g.m ∧
      (g.setX d on fun _ => a).lin = g.lin := by
    unfold Group.setX; split <;> exact ⟨rfl, rfl, rfl, rfl⟩
  obtain ⟨v, q, m, lin⟩ := other
  unfold viewOf
  simp only [getX_setX, Group.getV, v, q, m, lin]
  by_cases on' : laneOn on l = true
  · simp [on', LaneView.putX]
  · simp [on']

theorem viewOf_setV (g : Group) (d : Reg) (on : Mask) (a : DWord) (l : Lane) :
    viewOf (g.setV d on fun _ => a) l = if laneOn on l = true then (viewOf g l).putV d a else viewOf g l := by
  unfold viewOf
  simp only [getV_setV]
  by_cases on' : laneOn on l = true
  · simp [on', LaneView.putV]; rfl
  · simp [on']; rfl

theorem viewOf_setLin (g : Group) (on : Mask) (a : DWord) (l : Lane) :
    viewOf (g.setLin on fun _ => a) l = if laneOn on l = true then { viewOf g l with lin := a } else viewOf g l := by
  unfold viewOf
  by_cases on' : laneOn on l = true
  · simp [on', Group.setLin]; exact ⟨rfl, rfl⟩
  · simp [on', Group.setLin]; exact ⟨rfl, rfl⟩

/-! ### Many registers written in a lane -/

theorem getLast_find {α : Type} (l : List (Reg × α)) (y : Reg × α) (r : Reg) :
    ((l ++ [y]).reverse.find? fun z => z.1 == r) = if y.1 = r then some y else l.reverse.find? fun z => z.1 == r := by
  rw [List.reverse_append, List.reverse_singleton, List.singleton_append, List.find?_cons]
  by_cases e : y.1 = r
  · simp [e]
  · rw [beq_eq_false_iff_ne.2 e, if_neg e]

theorem foldl_putX (l : List (Reg × Word)) (w : LaneView) : l.foldl (fun w y => w.putX y.1 y.2) w =
    { w with x := fun r => if r = 0#6 then w.x r else ((l.reverse.find? fun y => y.1 == r).map fun y => y.2).getD (w.x r) } := by
  induction l using List.reverseRecOn with
  | nil => simp
  | append_singleton l y ih =>
    rw [List.foldl_append, ih, List.foldl_cons, List.foldl_nil, LaneView.putX]
    congr 1
    funext r
    rw [getLast_find]
    by_cases zero : r = 0#6
    · have other : ¬ (r = y.1 ∧ y.1 ≠ 0#6) := fun h => h.2 (h.1 ▸ zero)
      simp only [if_pos zero, if_neg other]
    · by_cases e : r = y.1
      · subst e; simp [zero]
      · simp [e, zero, Ne.symm e]

theorem foldl_putV (l : List (Reg × DWord)) (w : LaneView) : l.foldl (fun w y => w.putV y.1 y.2) w =
    { w with v := fun r => ((l.reverse.find? fun y => y.1 == r).map fun y => y.2).getD (w.v r) } := by
  induction l using List.reverseRecOn with
  | nil => simp
  | append_singleton l y ih =>
    rw [List.foldl_append, ih, List.foldl_cons, List.foldl_nil, LaneView.putV]
    congr 1
    funext r
    rw [getLast_find]
    by_cases e : r = y.1
    · subst e; simp
    · simp [e, Ne.symm e]

/-- Writes that a lane sees one by one, or not at all. -/
theorem viewOf_foldl {β : Type} (l : List β) (f : Group → β → Group) (put : LaneView → β → LaneView) (k : Lane) (on : Bool)
    (one : ∀ g y, viewOf (f g y) k = if on = true then put (viewOf g k) y else viewOf g k) (g : Group) :
    viewOf (l.foldl f g) k = if on = true then l.foldl put (viewOf g k) else viewOf g k := by
  induction l generalizing g with
  | nil => simp
  | cons y l ih =>
    rw [List.foldl_cons, ih, one]
    cases on <;> rfl

theorem lanesOnly_foldl {β : Type} (l : List β) (f : Group → β → Group) (one : ∀ g y, LanesOnly g (f g y)) (g : Group) :
    LanesOnly g (l.foldl f g) := by
  induction l generalizing g with
  | nil => exact lanesOnly_refl g
  | cons y l ih => exact lanesOnly_trans (one g y) (ih _)

/-! ### The q and m registers of an item (R232) -/

theorem laneOn_one (l k : Lane) : laneOn (1#32 <<< l.val) k = decide (k = l) := by
  have := k.isLt
  rw [laneOn, BitVec.getLsbD_shiftLeft, BitVec.getLsbD_one, Bool.eq_iff_iff]
  simp only [Bool.and_eq_true, decide_eq_true_eq, Bool.not_eq_true', decide_eq_false_iff_not, Fin.ext_iff]
  omega

theorem qIx_ofNat {n : Nat} (h : n < 8) (k : Fin 8) : qIx (BitVec.ofNat 6 n) = k ↔ n = k.val := by
  rw [qIx, Fin.ext_iff, Fin.val_ofNat, BitVec.toNat_ofNat, Nat.mod_eq_of_lt (a := n) (by omega), Nat.mod_eq_of_lt h]

/-- The view of a lane after register `n` of the q and m word of an item. -/
def LaneView.putQM (w : LaneView) (i : Item) (n : Nat) : LaneView :=
  { w with
    q := fun k => if k.val = n ∧ i.keep.q.getLsbD n = true then i.qm.extractLsb' (2 * n) 2 else w.q k
    m := fun k => if k.val = n ∧ n ≠ 0 ∧ i.keep.m.getLsbD n = true then i.qm.getLsbD (15 + n) else w.m k }

/-- Register `n` of the q and m word of an item put into a lane. -/
def putQM (l : Lane) (i : Item) (g : Group) (n : Nat) : Group :=
  let on : Mask := 1#32 <<< l.val
  let g := if i.keep.q.getLsbD n then g.setQ (BitVec.ofNat 6 n) on fun _ => i.qm.extractLsb' (2 * n) 2 else g
  if n ≠ 0 && i.keep.m.getLsbD n then
    let r := BitVec.ofNat 6 n
    g.setM r (if i.qm.getLsbD (15 + n) then g.getM r ||| on else g.getM r &&& ~~~on)
  else g

theorem lane_setQ (g : Group) (l k : Lane) (a : BitVec 2) {n : Nat} (h : n < 8) (j : Fin 8) :
    ((g.setQ (BitVec.ofNat 6 n) (1#32 <<< l.val) fun _ => a).q.get j).get k = if k = l ∧ j.val = n then a else (g.q.get j).get k := by
  rw [Group.setQ, Tab.get_set]
  by_cases jn : j.val = n
  · have ix : qIx (BitVec.ofNat 6 n) = j := (qIx_ofNat h j).2 jn.symm
    rw [if_pos ix.symm, Tab.get_ofFn, laneOn_one, ix]
    by_cases kl : k = l <;> simp [kl, jn]
  · rw [if_neg fun e => jn ((qIx_ofNat h j).1 e.symm).symm, if_neg fun e => jn e.2]

theorem lane_setM (g : Group) (l k : Lane) (bit : Bool) {n : Nat} (h : n < 8) (some : n ≠ 0) (j : Fin 8) :
    laneOn ((g.setM (BitVec.ofNat 6 n) (if bit then g.getM (BitVec.ofNat 6 n) ||| (1#32 <<< l.val)
      else g.getM (BitVec.ofNat 6 n) &&& ~~~(1#32 <<< l.val))).m.get j) k = if k = l ∧ j.val = n then bit else laneOn (g.m.get j) k := by
  have zero : qIx (BitVec.ofNat 6 n) ≠ 0 := fun e => some ((qIx_ofNat h 0).1 e)
  rw [Group.setM, if_neg zero, Tab.get_set]
  by_cases jn : j.val = n
  · have ix : qIx (BitVec.ofNat 6 n) = j := (qIx_ofNat h j).2 jn.symm
    have one := laneOn_one l k
    have old : g.getM (BitVec.ofNat 6 n) = g.m.get j := by rw [Group.getM, if_neg zero, ix]
    unfold laneOn at one ⊢
    rw [if_pos ix.symm, old]
    have lt : k.val < 32 := k.isLt
    cases bit with
    | true =>
      rw [if_pos rfl, BitVec.getLsbD_or, one]
      by_cases kl : k = l
      · rw [if_pos ⟨kl, jn⟩, decide_eq_true kl, Bool.or_true]
      · rw [if_neg fun e => kl e.1, decide_eq_false kl, Bool.or_false]
    | false =>
      rw [if_neg Bool.false_ne_true, BitVec.getLsbD_and, BitVec.getLsbD_not, one, decide_eq_true lt, Bool.true_and]
      by_cases kl : k = l
      · rw [if_pos ⟨kl, jn⟩, decide_eq_true kl, Bool.not_true, Bool.and_false]
      · rw [if_neg fun e => kl e.1, decide_eq_false kl, Bool.not_false, Bool.and_true]
  · rw [if_neg fun e => jn ((qIx_ofNat h j).1 e.symm).symm, if_neg fun e => jn e.2]

theorem viewOf_q (g : Group) (l k : Lane) (a : BitVec 2) {n : Nat} (h : n < 8) :
    viewOf (g.setQ (BitVec.ofNat 6 n) (1#32 <<< l.val) fun _ => a) k =
      if k = l then { viewOf g k with q := fun j => if j.val = n then a else (viewOf g k).q j } else viewOf g k := by
  have q := funext fun j => lane_setQ g l k a h j
  unfold viewOf
  rw [q]
  by_cases kl : k = l
  · simp only [kl, true_and, if_true]; rfl
  · simp only [kl, false_and, if_false]; rfl

theorem viewOf_m (g : Group) (l k : Lane) (bit : Bool) {n : Nat} (h : n < 8) (some : n ≠ 0) :
    viewOf (g.setM (BitVec.ofNat 6 n) (if bit then g.getM (BitVec.ofNat 6 n) ||| (1#32 <<< l.val)
      else g.getM (BitVec.ofNat 6 n) &&& ~~~(1#32 <<< l.val))) k =
      if k = l then { viewOf g k with m := fun j => if j.val = n then bit else (viewOf g k).m j } else viewOf g k := by
  have m := funext fun j => lane_setM g l k bit h some j
  have only := lanesOnly_setM g (BitVec.ofNat 6 n) (if bit then g.getM (BitVec.ofNat 6 n) ||| (1#32 <<< l.val)
      else g.getM (BitVec.ofNat 6 n) &&& ~~~(1#32 <<< l.val))
  have zero : qIx (BitVec.ofNat 6 n) ≠ 0 := fun e => some ((qIx_ofNat h 0).1 e)
  unfold viewOf
  rw [m, Group.setM, if_neg zero]
  by_cases kl : k = l
  · simp only [kl, true_and, if_true]; rfl
  · simp only [kl, false_and, if_false]; rfl

theorem viewOf_putQM (g : Group) (l k : Lane) (i : Item) {n : Nat} (h : n < 8) :
    viewOf (putQM l i g n) k = if k = l then (viewOf g k).putQM i n else viewOf g k := by
  have bits (g : Group) : viewOf (if n ≠ 0 && i.keep.m.getLsbD n then
      g.setM (BitVec.ofNat 6 n) (if i.qm.getLsbD (15 + n) then g.getM (BitVec.ofNat 6 n) ||| (1#32 <<< l.val)
        else g.getM (BitVec.ofNat 6 n) &&& ~~~(1#32 <<< l.val)) else g) k =
      if k = l then { viewOf g k with
        m := fun j => if j.val = n ∧ n ≠ 0 ∧ i.keep.m.getLsbD n = true then i.qm.getLsbD (15 + n) else (viewOf g k).m j } else viewOf g k := by
    by_cases kept : n ≠ 0 ∧ i.keep.m.getLsbD n = true
    · rw [if_pos (by simpa using kept), viewOf_m g l k _ h kept.1]
      simp only [kept, and_true, ne_eq, not_false_eq_true]
    · rw [if_neg (by simpa using kept)]
      simp only [kept, and_false, if_false, ite_self]
  have quads : viewOf (if i.keep.q.getLsbD n then g.setQ (BitVec.ofNat 6 n) (1#32 <<< l.val) fun _ => i.qm.extractLsb' (2 * n) 2 else g) k =
      if k = l then { viewOf g k with
        q := fun j => if j.val = n ∧ i.keep.q.getLsbD n = true then i.qm.extractLsb' (2 * n) 2 else (viewOf g k).q j } else viewOf g k := by
    by_cases kept : i.keep.q.getLsbD n = true
    · rw [if_pos kept, viewOf_q g l k _ h]
      simp only [kept, and_true]
    · rw [if_neg kept]
      rw [Bool.not_eq_true] at kept
      simp only [kept, Bool.false_eq_true, and_false, if_false, ite_self]
  refine (bits _).trans ?_
  rw [quads]
  by_cases kl : k = l
  · simp only [if_pos kl]; rfl
  · simp only [if_neg kl]

theorem lanesOnly_putQM (l : Lane) (i : Item) (g : Group) (n : Nat) : LanesOnly g (putQM l i g n) := by
  unfold putQM
  dsimp only
  generalize quads : (if i.keep.q.getLsbD n then g.setQ (BitVec.ofNat 6 n) (1#32 <<< l.val) fun _ => i.qm.extractLsb' (2 * n) 2 else g) = g1
  have first : LanesOnly g g1 := by
    rw [← quads]
    split
    · exact lanesOnly_setQ ..
    · exact lanesOnly_refl _
  refine lanesOnly_trans first ?_
  split
  · exact lanesOnly_setM ..
  · exact lanesOnly_refl _

/-- The view of a lane after the whole q and m word of an item. -/
theorem foldl_putQM (i : Item) (ns : List Nat) (w : LaneView) : ns.foldl (fun w n => w.putQM i n) w = { w with
    q := fun k => if k.val ∈ ns ∧ i.keep.q.getLsbD k.val = true then i.qm.extractLsb' (2 * k.val) 2 else w.q k
    m := fun k => if k.val ∈ ns ∧ k ≠ 0 ∧ i.keep.m.getLsbD k.val = true then i.qm.getLsbD (15 + k.val) else w.m k } := by
  induction ns generalizing w with
  | nil => simp
  | cons n ns ih =>
    rw [List.foldl_cons, ih, LaneView.putQM]
    congr 1
    · funext k
      by_cases e : k.val = n
      · subst e
        by_cases kept : i.keep.q.getLsbD k.val = true
        · simp only [kept, and_true, if_true, List.mem_cons, true_or, ite_self]
        · rw [Bool.not_eq_true] at kept
          simp only [kept, Bool.false_eq_true, and_false, if_false]
      · simp [e]
    · funext k
      by_cases e : k.val = n
      · subst e
        have zero : k.val ≠ 0 ↔ k ≠ 0 := by rw [Ne, Ne, Fin.ext_iff]; rfl
        by_cases kept : k ≠ 0 ∧ i.keep.m.getLsbD k.val = true
        · simp [kept, zero.2 kept.1]
        · simp only [zero, kept, and_false, if_false]
      · simp [e]

/-! ### A whole item in a lane (R232, R244) -/

/-- The view of a lane of zero registers that has taken an item. -/
def itemView (i : Item) : LaneView where
  x r := if r = 0#6 then 0#32 else itemX i r
  v r := itemV i r
  q n := if i.keep.q.getLsbD n.val = true then i.qm.extractLsb' (2 * n.val) 2 else 0#2
  m n := n != 0 && i.keep.m.getLsbD n.val && i.qm.getLsbD (15 + n.val)
  lin := i.lin

def zeroView : LaneView where
  x _ := 0#32
  v _ := 0#64
  q _ := 0#2
  m _ := false
  lin := 0#64

/-- One item put into one lane, with its lineage. -/
def takeLane (l : Lane) (i : Item) (g : Group) : Group := (g.takeItem l i).setLin (1#32 <<< l.val) fun _ => i.lin

/-- The steps of an item's registers. -/
def takeSteps (l : Lane) (i : Item) (g : Group) : Group :=
  let on : Mask := 1#32 <<< l.val
  (List.range 8).foldl (putQM l i) (i.vs.foldl (fun g r => g.setV r.1 on fun _ => r.2) (i.xs.foldl (fun g r => g.setX r.1 on fun _ => r.2) g))

theorem takeItem_eq (g : Group) (l : Lane) (i : Item) : g.takeItem l i = match i.carried with
    | .none => takeSteps l i g
    | .x r v => (takeSteps l i g).setX r (1#32 <<< l.val) fun _ => v
    | .v r v => (takeSteps l i g).setV r (1#32 <<< l.val) fun _ => v := rfl

theorem lanesOnly_takeLane (l : Lane) (i : Item) (g : Group) : LanesOnly g (takeLane l i g) := by
  have steps : LanesOnly g (takeSteps l i g) :=
    lanesOnly_trans (lanesOnly_trans (lanesOnly_foldl _ _ (fun _ _ => lanesOnly_setX ..) g) (lanesOnly_foldl _ _ (fun _ _ => lanesOnly_setV ..) _))
      (lanesOnly_foldl _ _ (fun g n => lanesOnly_putQM l i g n) _)
  refine lanesOnly_trans ?_ (lanesOnly_setLin ..)
  rw [takeItem_eq]
  split
  · exact steps
  · exact lanesOnly_trans steps (lanesOnly_setX ..)
  · exact lanesOnly_trans steps (lanesOnly_setV ..)

theorem viewOf_foldl_lt (l k : Lane) (i : Item) (ns : List Nat) (small : ∀ n ∈ ns, n < 8) (g : Group) :
    viewOf (ns.foldl (putQM l i) g) k = if k = l then ns.foldl (fun w n => w.putQM i n) (viewOf g k) else viewOf g k := by
  induction ns generalizing g with
  | nil => simp
  | cons n ns ih =>
    rw [List.foldl_cons, ih (fun m hm => small m (List.mem_cons_of_mem _ hm)), viewOf_putQM g l k i (small n (List.mem_cons_self ..))]
    by_cases kl : k = l
    · simp only [if_pos kl, List.foldl_cons]
    · simp only [if_neg kl]

theorem viewOf_takeSteps (l k : Lane) (i : Item) (g : Group) : viewOf (takeSteps l i g) k = if k = l then
    (List.range 8).foldl (fun w n => w.putQM i n) (i.vs.foldl (fun w y => w.putV y.1 y.2) (i.xs.foldl (fun w y => w.putX y.1 y.2) (viewOf g k)))
    else viewOf g k := by
  unfold takeSteps
  dsimp only
  rw [viewOf_foldl_lt l k i _ fun n hn => List.mem_range.1 hn,
    viewOf_foldl i.vs _ (fun w y => w.putV y.1 y.2) k (decide (k = l)) fun g y => by rw [viewOf_setV, laneOn_one],
    viewOf_foldl i.xs _ (fun w y => w.putX y.1 y.2) k (decide (k = l)) fun g y => by rw [viewOf_setX, laneOn_one]]
  by_cases kl : k = l <;> simp [kl]

theorem viewOf_takeLane_ne {l k : Lane} (ne : k ≠ l) (i : Item) (g : Group) : viewOf (takeLane l i g) k = viewOf g k := by
  have off : ¬ laneOn (1#32 <<< l.val) k = true := by rw [laneOn_one]; simpa using ne
  have steps : viewOf (takeSteps l i g) k = viewOf g k := by rw [viewOf_takeSteps, if_neg ne]
  rw [takeLane, viewOf_setLin, if_neg off, takeItem_eq]
  split
  · exact steps
  · rw [viewOf_setX, if_neg off, steps]
  · rw [viewOf_setV, if_neg off, steps]

theorem viewOf_takeLane (l : Lane) (i : Item) (g : Group) (zero : viewOf g l = zeroView) : viewOf (takeLane l i g) l = itemView i := by
  have on : laneOn (1#32 <<< l.val) l = true := by rw [laneOn_one]; simp
  have steps := viewOf_takeSteps l l i g
  rw [if_pos rfl, foldl_putQM, foldl_putV, foldl_putX, zero] at steps
  have below (n : Fin 8) : n.val ∈ List.range 8 := List.mem_range.2 n.isLt
  have quads (n : Fin 8) : (if n.val ∈ List.range 8 ∧ i.keep.q.getLsbD n.val = true then i.qm.extractLsb' (2 * n.val) 2 else zeroView.q n) =
      (itemView i).q n := by simp only [below, true_and, itemView, zeroView]
  have bits (n : Fin 8) : (if n.val ∈ List.range 8 ∧ n ≠ 0 ∧ i.keep.m.getLsbD n.val = true then i.qm.getLsbD (15 + n.val) else zeroView.m n) =
      (itemView i).m n := by
    simp only [below, true_and, itemView, zeroView]
    generalize i.keep.m.getLsbD n.val = kept
    generalize i.qm.getLsbD (15 + n.val) = bit
    by_cases zero : n = 0 <;> cases kept <;> simp [zero]
  rw [funext quads, funext bits] at steps
  rw [takeLane, viewOf_setLin, if_pos on, takeItem_eq]
  cases carried : i.carried with
  | none =>
    have x (r : Reg) : itemX i r = ((i.xs.reverse.find? fun y => y.1 == r).map fun y => y.2).getD 0#32 := by rw [itemX, carried]
    have v (r : Reg) : itemV i r = ((i.vs.reverse.find? fun y => y.1 == r).map fun y => y.2).getD 0#64 := by rw [itemV, carried]
    simp only [steps, itemView, x, v]
    rfl
  | x d w =>
    have x (r : Reg) : itemX i r = if d = r then w else ((i.xs.reverse.find? fun y => y.1 == r).map fun y => y.2).getD 0#32 := by rw [itemX, carried]
    have v (r : Reg) : itemV i r = ((i.vs.reverse.find? fun y => y.1 == r).map fun y => y.2).getD 0#64 := by rw [itemV, carried]
    have put (r : Reg) : (if r = d ∧ d ≠ 0#6 then w else if r = 0#6 then zeroView.x r
        else ((i.xs.reverse.find? fun y => y.1 == r).map fun y => y.2).getD (zeroView.x r)) = if r = 0#6 then 0#32 else itemX i r := by
      rw [x]
      by_cases zero : r = 0#6
      · have other : ¬ (r = d ∧ d ≠ 0#6) := fun h => h.2 (h.1 ▸ zero)
        simp only [if_neg other, if_pos zero]
        rfl
      · by_cases e : r = d
        · have named : r = d ∧ d ≠ 0#6 := ⟨e, e ▸ zero⟩
          simp only [if_pos named, if_neg zero, if_pos e.symm]
        · have other : ¬ (r = d ∧ d ≠ 0#6) := fun h => e h.1
          simp only [if_neg other, if_neg zero, if_neg (Ne.symm e)]
          rfl
    simp only [viewOf_setX, if_pos on, steps, LaneView.putX, put, itemView, v]
    rfl
  | v d w =>
    have x (r : Reg) : itemX i r = ((i.xs.reverse.find? fun y => y.1 == r).map fun y => y.2).getD 0#32 := by rw [itemX, carried]
    have v (r : Reg) : itemV i r = if d = r then w else ((i.vs.reverse.find? fun y => y.1 == r).map fun y => y.2).getD 0#64 := by rw [itemV, carried]
    simp only [viewOf_setV, if_pos on, steps, LaneView.putV, itemView, x, v, eq_comm (a := d)]
    rfl

/-! ### The lanes of a drafted group (R244) -/

theorem lanes_taken (f : Group → Lane → Group) (items : Lane → Option Item)
    (one : ∀ g l, f g l = match items l with
      | some i => takeLane l i g
      | none => g) (lanes : List Lane) (once : lanes.Nodup) (g : Group) (k : Lane) (zero : viewOf g k = zeroView) :
    viewOf (lanes.foldl f g) k = if k ∈ lanes then ((items k).map itemView).getD zeroView else zeroView := by
  have away (lanes : List Lane) (g : Group) (out : k ∉ lanes) : viewOf (lanes.foldl f g) k = viewOf g k := by
    induction lanes generalizing g with
    | nil => rfl
    | cons l lanes ih =>
      rw [List.mem_cons, not_or] at out
      rw [List.foldl_cons, ih _ out.2, one]
      split
      · exact viewOf_takeLane_ne out.1 _ g
      · rfl
  induction lanes generalizing g with
  | nil => simpa using zero
  | cons l lanes ih =>
    obtain ⟨new, once⟩ := List.nodup_cons.1 once
    rw [List.foldl_cons]
    by_cases e : k = l
    · subst e
      rw [away lanes _ new, if_pos (List.mem_cons_self ..), one]
      cases items k with
      | none => exact zero
      | some i => exact viewOf_takeLane k i g zero
    · have step : viewOf (f g l) k = zeroView := by
        rw [one]
        split
        · rw [viewOf_takeLane_ne e, zero]
        · exact zero
      rw [ih once (f g l) step]
      simp [e]

theorem lanesOnly_lanes (f : Group → Lane → Group) (items : Lane → Option Item)
    (one : ∀ g l, f g l = match items l with
      | some i => takeLane l i g
      | none => g) (lanes : List Lane) (g : Group) : LanesOnly g (lanes.foldl f g) := by
  refine lanesOnly_foldl _ _ (fun g l => ?_) g
  rw [one]
  split
  · exact lanesOnly_takeLane ..
  · exact lanesOnly_refl g

end Sys2Proof.PlacementAndResources
end

section
/-! PROOFS. DRAFT_GROUP (R243, R244). -/

namespace Sys2Proof.PlacementAndResources

open Sys2Proof.Machine Sys2Proof.Safety Sys2Proof.Claims Sys2Proof.Laws Sys2Proof.Launching

/-! ### The group drafted -/

/-- A drafted group before its items. -/
def draftedBase (t : Team) (gid idx slot : Nat) (items : List Item) : Group :=
  (blankGroup gid t.uid idx slot [startPath 0 ((items.head?.map fun i => i.entry).getD 0#57)
    (maskOf fun l => decide (l.val < items.length))]).teamStart t
/-- The lane `l` of a drafted group takes item `l`. -/
def draftLane (items : List Item) (g : Group) (l : Lane) : Group :=
  match items[l.val]? with
  | some i => takeLane l i g
  | none => g
/-- The lanes of a drafted group. -/
def draftedLanes (items : List Item) : List Lane := allLanes.filter fun l => decide (l.val < items.length)

theorem draftedGroup_eq (t : Team) (gid idx slot : Nat) {items : List Item} {i : Item} (first : items.head? = some i) :
    draftedGroup t gid idx slot items = ((draftedLanes items).foldl (draftLane items) (draftedBase t gid idx slot items)).takeS i := by
  unfold draftedGroup draftedLanes draftLane draftedBase
  rw [first]
  rfl

theorem takeS_only (g : Group) (i : Item) : g.takeS i = { g with s := (g.takeS i).s } := by
  unfold Group.takeS
  induction i.ss generalizing g with
  | nil => rfl
  | cons y l ih =>
    rw [List.foldl_cons, ih]
    unfold Group.setS
    split <;> rfl

theorem takeS_getS (g : Group) (i : Item) {r : Reg} (some : r ≠ 0#6) :
    (g.takeS i).getS r = ((i.ss.reverse.find? fun y => y.1 == r).map fun y => y.2).getD (g.getS r) := by
  unfold Group.takeS
  induction i.ss using List.reverseRecOn with
  | nil => rfl
  | append_singleton l y ih =>
    rw [List.foldl_append, List.foldl_cons, List.foldl_nil, getS_setS, ih, getLast_find]
    by_cases e : r = y.1
    · rw [if_pos ⟨e, e ▸ some⟩, if_pos e.symm]; rfl
    · rw [if_neg fun h => e h.1, if_neg (Ne.symm e)]

theorem draftedBase_view (t : Team) (gid idx slot : Nat) (items : List Item) (k : Lane) :
    viewOf (draftedBase t gid idx slot items) k = zeroView := by
  have x (r : Reg) : (draftedBase t gid idx slot items).getX r k = 0#32 := by simp [draftedBase, Group.getX, Group.teamStart]
  have v (r : Reg) : (draftedBase t gid idx slot items).getV r k = 0#64 := by simp [draftedBase, Group.getV, Group.teamStart]
  have q (n : Fin 8) : ((draftedBase t gid idx slot items).q.get n).get k = 0#2 := by simp [draftedBase, Group.teamStart]
  have m (n : Fin 8) : laneOn ((draftedBase t gid idx slot items).m.get n) k = false := by simp [draftedBase, Group.teamStart, laneOn]
  have lin : (draftedBase t gid idx slot items).lin.get k = 0#64 := by simp [draftedBase, Group.teamStart, blankGroup]
  unfold viewOf zeroView
  simp only [x, v, q, m, lin]

theorem takeS_view (g : Group) (i : Item) (k : Lane) : viewOf (g.takeS i) k = viewOf g k := by
  rw [takeS_only]
  rfl

theorem draftedGroup_view (t : Team) (gid idx slot : Nat) {items : List Item} {i : Item} (first : items.head? = some i) (k : Lane) :
    viewOf (draftedGroup t gid idx slot items) k = if k.val < items.length then ((items[k.val]?).map itemView).getD zeroView else zeroView := by
  have once : (draftedLanes items).Nodup := (List.nodup_finRange 32).filter _
  rw [draftedGroup_eq t gid idx slot first, takeS_view,
    lanes_taken (draftLane items) (fun l => items[l.val]?) (fun _ _ => rfl) _ once _ _ (draftedBase_view t gid idx slot items k)]
  exact if_congr (by simp [draftedLanes, allLanes]) rfl rfl

theorem draftedGroup_drafted (t : Team) (gid idx slot : Nat) {items : List Item} {i0 : Item} (first : items.head? = some i0) :
    Drafted items t.info.params (draftedGroup t gid idx slot items) := by
  have view := draftedGroup_view t gid idx slot first
  refine ⟨fun l i hi => ?_, fun l hl => ?_, fun r hr => ?_⟩
  · have lt : l.val < items.length := (List.getElem?_eq_some_iff.1 hi).1
    have eq : viewOf (draftedGroup t gid idx slot items) l = itemView i := by rw [view, if_pos lt, hi]; rfl
    refine ⟨congrArg LaneView.lin eq, fun r hr => ?_, fun r => congrFun (congrArg LaneView.v eq) r, fun n => congrFun (congrArg LaneView.q eq) n,
      fun n hn => ?_⟩
    · exact (congrFun (congrArg LaneView.x eq) r).trans (if_neg hr)
    · refine (congrFun (congrArg LaneView.m eq) n).trans ?_
      have : (n != 0) = true := bne_iff_ne.2 hn
      dsimp only [itemView]
      rw [this, Bool.true_and]
  · have eq : viewOf (draftedGroup t gid idx slot items) l = zeroView := by rw [view, if_neg (Nat.not_lt.2 hl)]
    exact ⟨congrArg LaneView.lin eq, fun r => congrFun (congrArg LaneView.x eq) r, fun r => congrFun (congrArg LaneView.v eq) r,
      fun n => congrFun (congrArg LaneView.q eq) n, fun n => congrFun (congrArg LaneView.m eq) n⟩
  · rw [draftedGroup_eq t gid idx slot first, takeS_getS _ _ hr, first]
    have only := lanesOnly_lanes (draftLane items) (fun l => items[l.val]?) (fun _ _ => rfl) (draftedLanes items) (draftedBase t gid idx slot items)
    have start : ((draftedLanes items).foldl (draftLane items) (draftedBase t gid idx slot items)).getS r = launchWord t.info.params r.toNat := by
      rw [only]
      simp only [Group.getS, if_neg hr, draftedBase, Group.teamStart, Tab.get_ofFn, paramOf_eq]
      rfl
    rw [start]
    rfl

theorem draftedGroup_shape (t : Team) (gid idx slot : Nat) {items : List Item} {i0 : Item} (first : items.head? = some i0) :
    let g := draftedGroup t gid idx slot items
    g = { groupStart gid t.uid idx slot t.info.params (fun _ => 0#64) i0.entry (maskOf fun l => decide (l.val < items.length)) with
      x := g.x, v := g.v, s := g.s, q := g.q, m := g.m, lin := g.lin } := by
  intro g
  have only := lanesOnly_lanes (draftLane items) (fun l => items[l.val]?) (fun _ _ => rfl) (draftedLanes items) (draftedBase t gid idx slot items)
  have eq : g = ((draftedLanes items).foldl (draftLane items) (draftedBase t gid idx slot items)).takeS i0 := draftedGroup_eq t gid idx slot first
  have taken := takeS_only ((draftedLanes items).foldl (draftLane items) (draftedBase t gid idx slot items)) i0
  have entry : (items.head?.map fun i => i.entry).getD 0#57 = i0.entry := by rw [first]; rfl
  have params : (Tab.ofFn fun i : Fin 64 => t.info.paramOf i.val) = Tab.ofFn fun i => launchWord t.info.params i.val :=
    congrArg Tab.ofFn (funext fun i => paramOf_eq t.info i.val)
  have base : { groupStart gid t.uid idx slot t.info.params (fun _ => 0#64) i0.entry (maskOf fun l => decide (l.val < items.length)) with
      lin := (draftedBase t gid idx slot items).lin } = draftedBase t gid idx slot items := by
    unfold draftedBase
    rw [entry]
    simp only [Group.teamStart, params]
    rfl
  rw [eq, taken, only, ← base]

/-! ### The choice (R243) -/

theorem firstBest_mem {score : Pick → Nat} {l : List Pick} {p : Pick} (h : firstBest score l = some p) : p ∈ l := by
  induction l generalizing p with
  | nil => cases h
  | cons x l ih =>
    rw [firstBest] at h
    cases best : firstBest score l with
    | none =>
      rw [best] at h
      cases h
      exact List.mem_cons_self ..
    | some q =>
      rw [best] at h
      dsimp only at h
      split at h
      · cases h
        exact List.mem_cons_of_mem _ (ih best)
      · cases h
        exact List.mem_cons_self ..

theorem draftPick_mem {s : State} {k : Nat} {p : Pick} (h : s.draftPick k = some p) : p ∈ s.picks k := by
  unfold State.draftPick at h
  dsimp only at h
  split at h
  · cases h
  · split at h
    · exact firstBest_mem h
    · exact (List.mem_filter.1 (firstBest_mem h)).1

/-- A queue that may be drafted holds an item. -/
theorem picks_items {s : State} {k : Nat} {p : Pick} (h : p ∈ s.picks k) : p.items ≠ [] := by
  unfold State.picks at h
  dsimp only at h
  obtain ⟨c, _, h⟩ := List.mem_flatMap.1 h
  obtain ⟨q, _, h⟩ := List.mem_filterMap.1 h
  split at h
  · cases h
  · split at h
    · cases h
    · split at h
      case isTrue ok =>
        cases h
        intro none
        dsimp only at none
        rw [none] at ok
        simp at ok
      case isFalse => cases h

/-! ### DRAFT_GROUP -/

/-- The lowest index that no group of a team has. -/
theorem lowestIdx {s : State} {uid idx : Nat} (small : idx < 64) (free : ∀ h ∈ s.groups, h.team = uid → h.idx ≠ idx)
    (below : ∀ n, n < idx → ∃ h ∈ s.groups, h.team = uid ∧ h.idx = n) :
    ((List.range 64).find? fun i => (s.groupsOf uid).all fun g => g.idx != i) = some idx := by
  have unused (i : Nat) : ((s.groupsOf uid).all fun g => g.idx != i) = true ↔ ∀ h ∈ s.groups, h.team = uid → h.idx ≠ i := by
    simp [State.groupsOf, imp_iff_not_or]
  rw [List.find?_range_eq_some]
  refine ⟨(unused idx).2 free, List.mem_range.2 small, fun n lt => ?_⟩
  obtain ⟨h, mem, own, at_⟩ := below n lt
  rw [Bool.not_eq_true', ← Bool.not_eq_true, unused]
  exact fun all => all h mem own at_

theorem draftGroup_step (s : State) (p : Pick) (slot : Nat) (up : DiesUp s) (running : (s.part (partOf s.arg.core)).st = .running)
    (on : (s.core s.arg.core).drafterOn = true) (first : s.returnWaits s.arg.core = false) (pick : s.draftPick s.arg.core = some p)
    (free : (s.slotsFree s.arg.core).head? = some slot) (idx : Nat) (small : idx < 64)
    (unused : ∀ h ∈ s.groups, h.team = p.team.uid → h.idx ≠ idx) (below : ∀ n, n < idx → ∃ h ∈ s.groups, h.team = p.team.uid ∧ h.idx = n) :
    let items := p.items.take 32
    ∃ t g pc, exec .draftGroup s = .next t ∧
      t = { s with items := items.foldl (fun l i => l.erase i) s.items, groups := s.groups ++ [g], fresh := s.fresh + 1, cores := t.cores } ∧
      items.head?.map (fun i => i.entry) = some pc ∧ Drafted items p.team.info.params g ∧
      g = { groupStart s.fresh p.team.uid idx slot p.team.info.params (fun _ => 0#64) pc (maskOf fun l => decide (l.val < items.length)) with
        x := g.x, v := g.v, s := g.s, q := g.q, m := g.m, lin := g.lin } ∧
      ∀ n, t.core n = { s.core n with
        l1 := if p.queue.team = none ∧ n % 768 = s.arg.core % 768 then [] else (s.core n).l1
        queues := if n % 768 = p.core % 768 then (s.core n).queues.filter fun q => t.items.any fun i => i.coreOf == p.core && q.holds i
          else (s.core n).queues } := by
  intro items
  obtain ⟨i0, head⟩ : ∃ i, items.head? = some i := by
    cases h : p.items with
    | nil => exact absurd h (picks_items (draftPick_mem pick))
    | cons i l => exact ⟨i, by simp [items, h]⟩
  obtain ⟨g, hg⟩ : ∃ g, g = draftedGroup p.team s.fresh idx slot items := ⟨_, rfl⟩
  obtain ⟨s1, hs1⟩ : ∃ s1 : State, s1 = { s with
    items := items.foldl (fun l i => l.erase i) s.items, groups := s.groups ++ [g], fresh := s.fresh + 1 } := ⟨_, rfl⟩
  obtain ⟨s2, hs2⟩ : ∃ s2, s2 = if p.queue.team.isNone then s1.clearL1 s.arg.core else s1 := ⟨_, rfl⟩
  have run : exec .draftGroup s = .next (s2.closeQueues p.core) := by
    have goes : (!(s.dieUp && (s.part (partOf s.arg.core)).st == .running && (s.core s.arg.core).drafterOn) || s.returnWaits s.arg.core) = false := by
      rw [dieUp_of up, running, on, first]; rfl
    show execDraftGroup s = _
    unfold execDraftGroup
    dsimp only
    rw [goes, if_neg Bool.false_ne_true, pick, free]
    dsimp only
    rw [lowestIdx small unused below, Option.getD_some, ← hg, ← hs1, ← hs2]
  have frame : s2 = { s1 with cores := s2.cores } := by
    rw [hs2]
    split
    · simp only [State.clearL1, State.putCore]
    · rfl
  have cores (n : Nat) : s2.core n = { s1.core n with
      l1 := if p.queue.team = none ∧ n % 768 = s.arg.core % 768 then [] else (s1.core n).l1 } := by
    rw [hs2]
    by_cases none : p.queue.team = none
    · rw [if_pos (by rw [none]; rfl), State.clearL1, core_putCore_eq]
      split
      case isTrue e => rw [if_pos ⟨none, e⟩, core_congr s1 e, Core.l1Clear]
      case isFalse e => rw [if_neg fun h => e h.2]
    · rw [if_neg (by simpa using none), if_neg fun h => none h.1]
  refine ⟨_, g, i0.entry, run, ?_, by rw [head]; rfl, hg ▸ draftedGroup_drafted _ _ _ _ head, ?_, fun n => ?_⟩
  · rw [closeQueues_frame, frame, hs1]
  · rw [hg]; exact draftedGroup_shape _ _ _ _ head
  · have items : (s2.closeQueues p.core).items = s2.items := by rw [closeQueues_frame]
    have old : s1.core n = s.core n := by rw [hs1]; rfl
    rw [closeQueues_core, cores, old, items]

end Sys2Proof.PlacementAndResources
end

section
/-! PROOFS. STEAL_REQUEST and STEAL_REPLY (R242). -/

namespace Sys2Proof.PlacementAndResources

open Sys2Proof.Machine Sys2Proof.Safety Sys2Proof.Claims Sys2Proof.Laws Sys2Proof.Launching

/-! ### STEAL_REQUEST -/

theorem closeQueuesOf_frame (ks : List Nat) (s : State) :
    ks.foldl (fun s c => s.closeQueues c) s = { s with cores := (ks.foldl (fun s c => s.closeQueues c) s).cores } := by
  induction ks generalizing s with
  | nil => rfl
  | cons k ks ih =>
    rw [List.foldl_cons, ih, closeQueues_frame]

/-- The queues of several cores closed: on those cores each queue that stays open holds an item. -/
theorem closeQueuesOf_core (ks : List Nat) (small : ∀ k ∈ ks, k < 768) (s : State) {n : Nat} (here : n < 768) :
    (ks.foldl (fun s c => s.closeQueues c) s).core n = { s.core n with
      queues := (s.core n).queues.filter fun q => !ks.contains n || s.items.any fun i => i.coreOf == n && q.holds i } := by
  induction ks generalizing s with
  | nil => simp
  | cons k ks ih =>
    have items : (s.closeQueues k).items = s.items := by rw [closeQueues_frame]
    have lt := small k (List.mem_cons_self ..)
    rw [List.foldl_cons, ih (fun j hj => small j (List.mem_cons_of_mem _ hj)), items, closeQueues_core, Nat.mod_eq_of_lt here, Nat.mod_eq_of_lt lt]
    by_cases e : n = k
    · subst e
      simp only [if_pos, List.filter_filter, List.contains_cons, beq_self_eq_true, Bool.true_or, Bool.not_true, Bool.false_or]
      congr 2
      exact funext fun q => by cases (s.items.any fun i => i.coreOf == n && q.holds i) <;> simp
    · simp only [if_neg e, List.contains_cons, beq_eq_false_iff_ne.2 e, Bool.false_or]

theorem die_contains {e n : Nat} (here : n < 768) : (((List.range 192).map fun i => e * 192 + i).contains n) = (dieOf n == e) := by
  rw [Bool.eq_iff_iff, beq_iff_eq, List.contains_iff_mem]
  simp only [List.mem_map, List.mem_range, dieOf]
  constructor
  · rintro ⟨i, lt, rfl⟩; omega
  · intro h; exact ⟨n - e * 192, by omega, by omega⟩

theorem stealRequest_step (s : State) (u : Team) (e : Nat) (up : DiesUp s) (team : s.team s.arg.team = some u) (at_ : u.core = s.arg.core)
    (takes : s.takesGroup u = true) (room : s.slotRoom s.arg.core ≠ 0) (empty : s.freeItems (dieOf s.arg.core) u.info.seq = [])
    (alone : ∀ r ∈ s.steals, r.die ≠ dieOf s.arg.core)
    (from_ : ([(dieOf s.arg.core + 1) % 4, (dieOf s.arg.core + 3) % 4, (dieOf s.arg.core + 2) % 4].find? fun d =>
      !(s.freeItems d u.info.seq).isEmpty) = some e) :
    let p := partOf s.arg.core
    let got := fitItems ((s.part p).dpoolU - s.poolUsed p) ((s.oldestFree e u.info.seq).take (min 32 (((s.freeItems e u.info.seq).length + 1) / 2)))
    (got = [] → exec .stealRequest s = .next s) ∧ (got ≠ [] → ∃ t, exec .stealRequest s = .next t ∧
      t = { s with
        items := got.foldl (fun l i => l.erase i) s.items
        steals := s.steals ++ [⟨dieOf s.arg.core, p, s.arg.core, u.info.seq, got⟩], cores := t.cores } ∧
      ∀ n, n < 768 → t.core n = { s.core n with
        queues := (s.core n).queues.filter fun q => dieOf n != e || t.items.any fun i => i.coreOf == n && q.holds i }) := by
  intro p got
  obtain ⟨s1, hs1⟩ : ∃ s1 : State, s1 = { s with
    items := got.foldl (fun l i => l.erase i) s.items
    steals := s.steals ++ [⟨dieOf s.arg.core, p, s.arg.core, u.info.seq, got⟩] } := ⟨_, rfl⟩
  have run : exec .stealRequest s = if got.isEmpty then .next s else
      .next (((List.range 192).map fun i => e * 192 + i).foldl (fun s c => s.closeQueues c) s1) := by
    have busy : (s.steals.any fun r => r.die == dieOf s.arg.core) = false := by simpa using alone
    have goes : (!s.dieUp || u.core != s.arg.core || !s.takesGroup u || s.slotRoom s.arg.core == 0
        || !(s.freeItems (dieOf s.arg.core) u.info.seq).isEmpty || s.steals.any fun r => r.die == dieOf s.arg.core) = false := by
      rw [dieUp_of up, at_, takes, beq_eq_false_iff_ne.2 room, empty, busy]
      simp
    show execStealRequest s = _
    unfold execStealRequest
    dsimp only
    rw [team]
    dsimp only
    rw [goes, if_neg Bool.false_ne_true, from_]
    dsimp only
    rw [← hs1]
  refine ⟨fun none => ?_, fun some => ?_⟩
  · rw [run, if_pos (by simpa using none)]
  · rw [run, if_neg (by simpa using some)]
    have near : e < 4 := by
      have := List.mem_of_find?_eq_some from_
      simp only [List.mem_cons, List.not_mem_nil, or_false] at this
      omega
    have small (k : Nat) (hk : k ∈ (List.range 192).map fun i => e * 192 + i) : k < 768 := by
      obtain ⟨i, hi, rfl⟩ := List.mem_map.1 hk
      have := List.mem_range.1 hi
      omega
    have frame := closeQueuesOf_frame ((List.range 192).map fun i => e * 192 + i) s1
    refine ⟨_, rfl, ?_, fun n hn => ?_⟩
    · rw [frame, hs1]
    · have items : (((List.range 192).map fun i => e * 192 + i).foldl (fun s c => s.closeQueues c) s1).items = s1.items := by rw [frame]
      have old : s1.core n = s.core n := by rw [hs1]; rfl
      rw [items, closeQueuesOf_core _ small s1 hn, old, die_contains hn]
      rfl

/-! ### STEAL_REPLY -/

/-- Several items put into the share of a partition. -/
theorem inPools_memOnly (p k : Nat) (l : List Item) (s : State) :
    MemOnly { s with items := s.items ++ l.map fun i => { i with home := .pool p k }, draws := s.draws + l.length }
      (l.foldl (fun (s : State) i => s.inPool i p k) s) := by
  induction l generalizing s with
  | nil => simp only [List.map_nil, List.append_nil, List.length_nil, Nat.add_zero]; rfl
  | cons i l ih =>
    have one := inPool_memOnly s i p k
    have items : (s.inPool i p k).items = s.items ++ [{ i with home := .pool p k }] := by rw [one]
    have draws : (s.inPool i p k).draws = s.draws + 1 := by rw [one]
    have rest := ih (s.inPool i p k)
    rw [items, draws, List.append_assoc, Nat.add_assoc, Nat.add_comm 1] at rest
    rw [List.foldl_cons]
    exact memOnly_trans (memOnly_items one _ _) rest

theorem inPools_mem {p : Nat} (k : Nat) {a : Nat} (l : List Item) (s : State) (off : outOfPool s p a)
    (fits : ∀ i ∈ l, i.units ≤ (s.part p).dpoolU ∧ i.image.length = 32 * i.units) :
    memGet (l.foldl (fun (s : State) i => s.inPool i p k) s).mem a = memGet s.mem a := by
  induction l generalizing s with
  | nil => rfl
  | cons i l ih =>
    have parts : (s.inPool i p k).parts = s.parts := by rw [inPool_memOnly s i p k]
    have part : (s.inPool i p k).part p = s.part p := by rw [State.part, parts, State.part]
    obtain ⟨room, whole⟩ := fits i (List.mem_cons_self ..)
    have rest := ih (s.inPool i p k) ((outOfPool_congr parts ..).2 off)
    rw [part] at rest
    rw [List.foldl_cons, rest fun j hj => fits j (List.mem_cons_of_mem _ hj)]
    exact inPool_mem k room whole off

theorem stealReply_step (s : State) (r : StealReq) (on : s.svc.diesOn = true) (going : s.svc.stopped = false)
    (asked : (s.steals.find? fun x => x.die == s.arg.die) = some r) :
    ∃ t new, exec .stealReply s = .next t ∧
      MemOnly { s with
        items := s.items ++ r.items.map fun i => { i with home := .pool r.part r.core }
        steals := s.steals.filter fun x => x.die != s.arg.die, draws := s.draws + r.items.length, cores := t.cores } t ∧
      ((∀ i ∈ r.items, i.units ≤ (s.part r.part).dpoolU ∧ i.image.length = 32 * i.units) → ∀ a, outOfPool s r.part a → memGet t.mem a = memGet s.mem a) ∧
      (∀ n, t.core n = if n % 768 = r.core % 768 then { s.core n with queues := (s.core n).queues ++ new } else s.core n) ∧
      (∀ q ∈ new, q.since = s.now ∧ ∃ i ∈ t.items, i.coreOf = r.core ∧ q.holds i = true) ∧
      ∀ i ∈ r.items, (∃ q ∈ (t.core r.core).queues, q.holds i = true) ∨ ∀ n, n < 64 → ∃ q ∈ (t.core r.core).queues, q.num = n := by
  obtain ⟨s0, hs0⟩ : ∃ s0 : State, s0 = { s with steals := s.steals.filter fun x => x.die != s.arg.die } := ⟨_, rfl⟩
  obtain ⟨s1, hs1⟩ : ∃ s1, s1 = r.items.foldl (fun (s : State) i => s.inPool i r.part r.core) s0 := ⟨_, rfl⟩
  have run : exec .stealReply s = .next (s1.openQueues r.core) := by
    show execStealReply s = _
    unfold execStealReply
    rw [State.diesRun, on, going, Bool.not_false, Bool.and_true, if_pos rfl, asked]
    dsimp only
    rw [← hs0, ← hs1]
  have pooled := inPools_memOnly r.part r.core r.items s0
  rw [← hs1, hs0] at pooled
  have items : s1.items = s.items ++ r.items.map fun i => { i with home := .pool r.part r.core } := by rw [pooled]
  have cores : s1.cores = s.cores := by rw [pooled]
  have now : s1.now = s.now := by rw [pooled]
  have core (n : Nat) : s1.core n = s.core n := by rw [State.core, cores, State.core]
  obtain ⟨new, frame, opened, fresh, queued⟩ := openQueues_opened s1 r.core
  have same : (s1.openQueues r.core).items = s1.items := by rw [frame]
  have mem : (s1.openQueues r.core).mem = s1.mem := by rw [frame]
  refine ⟨_, new, run, ?_, fun fits a off => ?_, fun n => ?_, fun q hq => ?_, fun i hi => ?_⟩
  · generalize (s1.openQueues r.core) = t at frame
    unfold MemOnly at pooled ⊢
    rw [frame, pooled]
  · have part : s0.part r.part = s.part r.part := by rw [hs0]; rfl
    have old : s0.mem = s.mem := by rw [hs0]
    rw [mem, hs1, inPools_mem r.core r.items s0 ((outOfPool_congr (by rw [hs0]) ..).2 off) (by rwa [part]), old]
  · rw [opened, core]
    split <;> rfl
  · obtain ⟨since, i, hi, holds⟩ := fresh q hq
    obtain ⟨hi, at_⟩ := List.mem_filter.1 hi
    exact ⟨since.trans now, i, by rwa [same], eq_of_beq at_, holds⟩
  · have listed : ({ i with home := .pool r.part r.core } : Item) ∈ s1.items.filter fun i => i.coreOf == r.core := by
      refine List.mem_filter.2 ⟨?_, by simp [Item.coreOf]⟩
      rw [items]
      exact List.mem_append_right _ (List.mem_map.2 ⟨i, hi, rfl⟩)
    have := queued _ listed
    exact this

end Sys2Proof.PlacementAndResources
end

section
/-! PROOFS. DIE_POOL_RETURN (R152, R241, R397). -/

namespace Sys2Proof.PlacementAndResources

open Sys2Proof.Machine Sys2Proof.Safety Sys2Proof.Claims Sys2Proof.Laws Sys2Proof.Launching

/-! ### Items back into the region -/

/-- Some items of a list have come back into the region of core `k`, and queues of it have opened; none is lost. -/
structure Refilled (s : State) (k : Nat) (l : List Item) (t : State) : Prop where
  frame : t = { s with items := t.items, cores := t.cores }
  kept : t.items.map anywhere = s.items.map anywhere
  other : ∀ j ∈ s.items, j ∉ l → j ∈ t.items
  back : ∀ j ∈ t.items, j ∈ s.items ∨ ∃ i ∈ l, j = { i with home := .core k }
  cores : ∃ queues, ∀ n, t.core n = { s.core n with queues := if n % 768 = k % 768 then queues else (s.core n).queues }

theorem sameQueues (s : State) (k n : Nat) :
    s.core n = { s.core n with queues := if n % 768 = k % 768 then (s.core k).queues else (s.core n).queues } := by
  split
  case isTrue e => rw [← core_congr s e]
  case isFalse => rfl

theorem refilled_none (s : State) (k : Nat) (l : List Item) : Refilled s k l s :=
  ⟨rfl, rfl, fun _ h _ => h, fun _ h => .inl h, _, sameQueues s k⟩

theorem toRegion_refilled {s s1 : State} {i : Item} {k : Nat} (here : i.coreOf = k) (moved : s.toRegion i = some s1) : Refilled s k [i] s1 := by
  cases home : i.home with
  | core n => rw [State.toRegion, home] at moved; cases moved
  | pool p n =>
    have nk : n = k := by simpa [Item.coreOf, home] using here
    subst nk
    rw [State.toRegion, home] at moved
    dsimp only at moved
    split at moved
    case isFalse => cases moved
    case isTrue =>
      obtain ⟨new, frame, core, _, _⟩ := openFor_opened s n i
      have items : (s.openFor n i).items = s.items := by rw [frame]
      obtain ⟨t, ht⟩ : ∃ t, t = s.openFor n i := ⟨_, rfl⟩
      rw [← ht] at frame core items moved
      cases moved
      rw [items]
      refine ⟨?_, setHome_anywhere .., fun j hj out => mem_setHome_of_ne _ hj fun e => out (e ▸ List.mem_cons_self ..), fun j hj => ?_,
        (s.core n).queues ++ new, fun m => ?_⟩
      · rw [frame]
      · rcases mem_setHome hj with h | h
        · exact .inl h.1
        · exact .inr ⟨i, List.mem_cons_self .., h⟩
      · refine (core m).trans ?_
        split
        case isTrue e => rw [core_congr s e]
        case isFalse => rfl

theorem refilled_cons {s t u : State} {k : Nat} {i : Item} {l : List Item} (h : Refilled s k [i] t) (g : Refilled t k l u) :
    Refilled s k (i :: l) u where
  frame := by rw [g.frame, h.frame]
  kept := g.kept.trans h.kept
  other j hj out := by
    rw [List.mem_cons, not_or] at out
    exact g.other j (h.other j hj (by simpa using out.1)) out.2
  back j hj := by
    rcases g.back j hj with old | ⟨x, hx, e⟩
    · rcases h.back j old with older | ⟨x, hx, e⟩
      · exact .inl older
      · exact .inr ⟨x, List.mem_cons.2 (.inl (List.mem_singleton.1 hx)), e⟩
    · exact .inr ⟨x, List.mem_cons_of_mem _ hx, e⟩
  cores := by
    obtain ⟨qs, hq⟩ := h.cores
    obtain ⟨rs, hr⟩ := g.cores
    refine ⟨rs, fun n => ?_⟩
    rw [hr, hq]
    split
    case isTrue => rfl
    case isFalse => rfl

theorem refill_refilled {k : Nat} (l : List Item) (s : State) (here : ∀ i ∈ l, i.coreOf = k) : Refilled s k l (s.refill l) := by
  induction l generalizing s with
  | nil => exact refilled_none s k []
  | cons i l ih =>
    rw [State.refill]
    split
    case h_1 s1 moved =>
      exact refilled_cons (toRegion_refilled (here i (List.mem_cons_self ..)) moved) (ih s1 fun j hj => here j (List.mem_cons_of_mem _ hj))
    case h_2 => exact refilled_none s k _

/-! ### When all of them come back -/

theorem toRegion_fits {s : State} {i : Item} {k p : Nat} (home : i.home = .pool p k) (held : ∃ q ∈ (s.core k).queues, q.holds i = true)
    (room : s.regionUsed k + i.units ≤ 512) : s.toRegion i = some { s with items := setHome s.items i (.core k) } := by
  have any : ((s.core k).queues.any fun q => q.holds i) = true := List.any_eq_true.2 held
  have stays : s.openFor k i = s := by unfold State.openFor; exact if_pos any
  have takes : s.regionTakes k i = true := by rw [State.regionTakes, any, Bool.and_true]; exact decide_eq_true room
  rw [State.toRegion, home]
  dsimp only
  rw [stays, takes, if_pos rfl]

/-- Items of the pool that have their queues and room come back, all of them. -/
theorem refill_all {k : Nat} (l : List Item) (s : State) (distinct : (s.items.map anywhere).Nodup) (once : l.Nodup)
    (mem : ∀ i ∈ l, i ∈ s.items) (pooled : ∀ i ∈ l, ∃ p, i.home = .pool p k) (held : ∀ i ∈ l, ∃ q ∈ (s.core k).queues, q.holds i = true)
    (room : s.regionUsed k + unitSum l ≤ 512) : ∀ j ∈ (s.refill l).items, j.home = .core k ∨ j ∈ s.items ∧ j ∉ l := by
  induction l generalizing s with
  | nil => exact fun j hj => .inr ⟨hj, List.not_mem_nil⟩
  | cons i l ih =>
    obtain ⟨new, once⟩ := List.nodup_cons.1 once
    obtain ⟨p, home⟩ := pooled i (List.mem_cons_self ..)
    rw [unitSum_cons] at room
    have moved := toRegion_fits home (held i (List.mem_cons_self ..)) (by omega)
    obtain ⟨s1, hs1⟩ : ∃ s1 : State, s1 = { s with items := setHome s.items i (.core k) } := ⟨_, rfl⟩
    have items : s1.items = setHome s.items i (.core k) := by rw [hs1]
    have core : s1.core k = s.core k := by rw [hs1]; rfl
    have grown : s1.regionUsed k = s.regionUsed k + i.units := by
      rw [State.regionUsed, State.regionUsed, unitsOf_eq, unitsOf_eq, items]
      exact unitSum_setHome (nodup_of_anywhere distinct) (mem i (List.mem_cons_self ..)) (by simp [Item.inRegion, home]) (by simp [Item.inRegion])
    rw [State.refill, moved]
    dsimp only
    rw [← hs1]
    intro j hj
    have rest := ih s1 (by rw [items, setHome_anywhere]; exact distinct) once
      (fun j hj => by rw [items]; exact mem_setHome_of_ne _ (mem j (List.mem_cons_of_mem _ hj)) fun e => new (e ▸ hj))
      (fun j hj => pooled j (List.mem_cons_of_mem _ hj)) (fun j hj => by rw [core]; exact held j (List.mem_cons_of_mem _ hj)) (by omega) j hj
    rcases rest with at_ | ⟨old, out⟩
    · exact .inl at_
    · rw [items] at old
      rcases mem_setHome old with ⟨older, ne⟩ | e
      · exact .inr ⟨older, fun h => (List.mem_cons.1 h).elim ne out⟩
      · exact .inl (by rw [e])

/-- The items of a core lie in its region or in the pool. -/
theorem unitSum_core (l : List Item) (k : Nat) : unitSum (l.filter fun i => i.coreOf == k) =
    unitSum (l.filter (Item.inRegion k)) + unitSum (l.filter fun i => i.coreOf == k && i.home != .core k) := by
  induction l with
  | nil => rfl
  | cons i l ih =>
    by_cases home : i.home = .core k
    · have at_ : i.coreOf = k := by simp [Item.coreOf, home]
      rw [List.filter_cons_of_pos (by simpa using at_), List.filter_cons_of_pos (by simpa [Item.inRegion] using home),
        List.filter_cons_of_neg (by simp [home]), unitSum_cons, unitSum_cons, ih, Nat.add_assoc]
    · rw [List.filter_cons_of_neg (p := Item.inRegion k) (by simpa [Item.inRegion] using home)]
      by_cases at_ : i.coreOf = k
      · rw [List.filter_cons_of_pos (by simpa using at_), List.filter_cons_of_pos (by simp [at_, home]), unitSum_cons, unitSum_cons, ih,
          Nat.add_left_comm]
      · rw [List.filter_cons_of_neg (by simpa using at_), List.filter_cons_of_neg (by simp [at_]), ih]

/-! ### DIE_POOL_RETURN -/

theorem directory_runs {s : State} (up : DiesUp s) (here : s.directoryHere s.arg.core = true) : (!s.dieUp || !s.directoryHere s.arg.core) = false := by
  rw [dieUp_of up, here]; rfl

/-- The items of a core that must leave its region. -/
def leavers (s : State) (k : Nat) : List Item := (s.items.filter fun i => i.coreOf == k).filter s.mustLeave
/-- The items of a core in the pool that may come back. -/
def comers (s s1 : State) (k : Nat) : List Item := (s1.items.filter fun i => i.coreOf == k && i.home != .core k).filter fun i => !s.mustLeave i

theorem mem_leavers {s : State} {k : Nat} {i : Item} : i ∈ leavers s k ↔ i ∈ s.items ∧ i.coreOf = k ∧ s.mustLeave i = true := by
  simp only [leavers, List.mem_filter, beq_iff_eq, and_assoc]
theorem mem_comers {s s1 : State} {k : Nat} {i : Item} :
    i ∈ comers s s1 k ↔ i ∈ s1.items ∧ i.coreOf = k ∧ i.home ≠ .core k ∧ s.mustLeave i = false := by
  simp only [comers, List.mem_filter, Bool.and_eq_true, beq_iff_eq, bne_iff_ne, ne_eq, Bool.not_eq_true', and_assoc]

theorem coreOf_home {i : Item} {k : Nat} (h : i.home = .core k) : i.coreOf = k := by rw [Item.coreOf, h]

/-- What must leave is decided by an item's key. -/
theorem mustLeave_region (s : State) {i : Item} {k : Nat} (here : i.coreOf = k) : s.mustLeave { i with home := .core k } = s.mustLeave i := by
  have same : ({ i with home := .core k } : Item).coreOf = i.coreOf := by rw [here]; rfl
  rw [State.mustLeave, State.mustLeave, same]

theorem diePoolReturn_step (s : State) (up : DiesUp s) (here : s.directoryHere s.arg.core = true) (distinct : (s.items.map anywhere).Nodup) :
    ∃ t, exec .diePoolReturn s = .next t ∧ MemOnly { s with items := t.items, cores := t.cores, draws := t.draws } t ∧
      t.items.map anywhere = s.items.map anywhere ∧ (∀ i ∈ s.items, i.coreOf ≠ s.arg.core → i ∈ t.items) ∧
      ((∀ i ∈ s.items, i.image.length = 32 * i.units) → ∀ a, outOfPool s (partOf s.arg.core) a → memGet t.mem a = memGet s.mem a) ∧
      (s.poolUsed (partOf s.arg.core) + unitSum (s.items.filter fun i => i.home == .core s.arg.core && s.mustLeave i) ≤ (s.part (partOf s.arg.core)).dpoolU →
        ∀ i ∈ t.items, i.home = .core s.arg.core → s.mustLeave i = false) ∧
      ((∀ i ∈ s.items, i.coreOf = s.arg.core → s.mustLeave i = false) →
        unitSum (s.items.filter fun i => i.coreOf == s.arg.core) ≤ 512 →
        (∀ i ∈ s.items, i.coreOf = s.arg.core → ∃ q ∈ (s.core s.arg.core).queues, q.holds i = true) →
        ∀ i ∈ t.items, i.coreOf = s.arg.core → i.home = .core s.arg.core) ∧
      (∀ n, n % 768 ≠ s.arg.core % 768 → t.core n = s.core n) ∧
      t.core s.arg.core = { s.core s.arg.core with queues := (t.core s.arg.core).queues } ∧
      ∀ q ∈ (t.core s.arg.core).queues, ∃ i ∈ t.items, i.coreOf = s.arg.core ∧ q.holds i = true := by
  obtain ⟨k, hk⟩ : ∃ k, k = s.arg.core := ⟨_, rfl⟩
  obtain ⟨s1, hs1⟩ : ∃ s1, s1 = (leavers s k).foldl State.toPool s := ⟨_, rfl⟩
  obtain ⟨s2, hs2⟩ : ∃ s2, s2 = s1.refill (comers s s1 k) := ⟨_, rfl⟩
  have run : exec .diePoolReturn s = .next ((s2.closeQueues k).openQueues k) := by
    show execDiePoolReturn s = _
    unfold execDiePoolReturn
    dsimp only
    rw [directory_runs up here, if_neg Bool.false_ne_true, hs2, hs1, hk]
    rfl
  rw [← hk]
  have moved : Moved s s1 := hs1 ▸ toPools_moved _ s
  have back : Refilled s1 k (comers s s1 k) s2 := hs2 ▸ refill_refilled _ s1 fun i hi => (mem_comers.1 hi).2.1
  obtain ⟨queues, frame, core, holding⟩ := requeued s2 k
  have items : ((s2.closeQueues k).openQueues k).items = s2.items := by rw [frame]
  have mem : ((s2.closeQueues k).openQueues k).mem = s1.mem := by rw [frame]; dsimp only; rw [back.frame]
  have cores1 : s1.cores = s.cores := by rw [moved.frame]
  have core1 (n : Nat) : s1.core n = s.core n := by rw [State.core, cores1, State.core]
  obtain ⟨opened, core2⟩ := back.cores
  have cores (n : Nat) : ((s2.closeQueues k).openQueues k).core n =
      { s.core n with queues := if n % 768 = k % 768 then queues else (s.core n).queues } := by
    rw [core, core2, core1]
    split <;> rfl
  refine ⟨_, run, ?_, ?_, fun i hi away => ?_, fun whole a off => ?_, fun room i hi home => ?_, fun stay units held i hi at_ => ?_,
    fun n other => ?_, ?_, fun q hq => ?_⟩
  · generalize ((s2.closeQueues k).openQueues k) = t at frame
    have first := moved.frame
    unfold MemOnly at first ⊢
    rw [frame, back.frame, first]
  · rw [items, back.kept, moved.kept]
  · rw [items]
    refine back.other i ?_ fun h => away (mem_comers.1 h).2.1
    rw [hs1]
    exact toPools_other _ s hi fun h => away (mem_leavers.1 h).2.1
  · rw [mem, hs1]
    refine toPools_mem _ s (fun i hi => whole i (mem_leavers.1 hi).1) fun i hi n home => ?_
    have : n = k := (coreOf_home home).symm.trans (mem_leavers.1 hi).2.1
    exact this ▸ off
  · rw [items] at hi
    have listed : (leavers s k).filter (fun i => i.home == .core k) = s.items.filter fun i => i.home == .core k && s.mustLeave i := by
      rw [leavers, List.filter_filter, List.filter_filter]
      refine List.filter_congr fun i _ => ?_
      by_cases home : i.home = .core k
      · simp [home, coreOf_home home]
      · simp [home]
    rcases back.back i hi with old | ⟨x, hx, e⟩
    · rw [hs1] at old
      have := toPools_leave (leavers s k) s distinct (((nodup_of_anywhere distinct).filter _).filter _) (fun i hi => (mem_leavers.1 hi).1)
        (fun i hi => (mem_leavers.1 hi).2.1) (by rw [listed]; exact room) i old k home
      exact Bool.eq_false_iff.2 fun leaves => this.2 (mem_leavers.2 ⟨this.1, coreOf_home home, leaves⟩)
    · obtain ⟨_, at_, _, stays⟩ := mem_comers.1 hx
      rw [e, mustLeave_region s at_, stays]
  · rw [items] at hi
    have none : leavers s k = [] := List.eq_nil_iff_forall_not_mem.2 fun i hi => by
      obtain ⟨mem, at_, leaves⟩ := mem_leavers.1 hi
      rw [stay i mem at_] at leaves
      cases leaves
    have same : s1 = s := by rw [hs1, none]; rfl
    rw [same] at hs2 back
    have list : comers s s k = s.items.filter fun i => i.coreOf == k && i.home != .core k := by
      refine List.filter_eq_self.2 fun i hi => ?_
      obtain ⟨mem, at_⟩ := List.mem_filter.1 hi
      rw [Bool.and_eq_true, beq_iff_eq] at at_
      rw [stay i mem at_.1]
      rfl
    have room : s.regionUsed k + unitSum (comers s s k) ≤ 512 := by
      rw [list, State.regionUsed, unitsOf_eq, ← unitSum_core]
      exact units
    rw [hs2] at hi
    have all := refill_all (comers s s k) s distinct (((nodup_of_anywhere distinct).filter _).filter _) (fun i hi => (mem_comers.1 hi).1)
      (fun i hi => ?_) (fun i hi => held i (mem_comers.1 hi).1 (mem_comers.1 hi).2.1) room i hi
    · rcases all with home | ⟨old, out⟩
      · exact home
      · exact Classical.not_not.1 fun home => out (mem_comers.2 ⟨old, at_, home, stay i old at_⟩)
    · obtain ⟨_, at_, home, _⟩ := mem_comers.1 hi
      cases e : i.home with
      | core n => exact absurd (e.trans (congrArg _ ((coreOf_home e).symm.trans at_))) home
      | pool p n => exact ⟨p, by rw [← at_, Item.coreOf, e]⟩
  · rw [cores, if_neg other]
  · rw [cores, if_pos rfl]
  · rw [cores, if_pos rfl] at hq
    rw [items]
    exact holding q hq

end Sys2Proof.PlacementAndResources
end

section
/-! PROOFS. Obligation O43. -/

namespace Sys2Proof.PlacementAndResources

open Sys2Proof.Machine Sys2Proof.Safety Sys2Proof.Claims Sys2Proof.Laws

/-- Settles O43, clause by clause: each event's own lemma says what it leaves, from the rules for teams loaded, plans dropped, items
moved and queues decided again. -/
theorem placementSteps : Obligations.PlacementSteps := by
  unfold Obligations.PlacementSteps
  refine ⟨fun s i e img k serves single => ⟨fun a numbered fits area ticket => ?_, fun fits area ticket => ?_, fun unfits => ?_⟩,
    fun s i e img k dom size serves gang new => agentPlace_asks serves gang new,
    fun s i e img k dom size p serves gang numbered ticket plan psize pdom yes areas => ?_,
    fun s p plan st seq held => ⟨fun areas s1 may fits taken => gangReserve_yes plan st seq held may fits taken,
      fun no => gangReserve_refuses plan st seq held no⟩,
    fun s g u hg hu => groupRetire_step hg hu,
    fun s u hu isOver runs reload => teamRetire_step hu isOver runs reload,
    fun s p slot up running on first pick free => draftGroup_step s p slot up running on first pick free,
    fun s u e up team at_ takes room empty alone from_ => stealRequest_step s u e up team at_ takes room empty alone from_,
    fun s r on going asked => stealReply_step s r on going asked,
    fun s up here distinct => diePoolReturn_step s up here distinct⟩
  · exact agentPlace_loads serves single numbered fits area ticket
  · exact agentPlace_drains serves single fits area ticket
  · exact agentPlace_unfits serves single unfits
  · exact agentPlace_gangLoads serves gang numbered ticket plan psize pdom yes areas

end Sys2Proof.PlacementAndResources
end

section
/-! PROOFS. The numbers of teams and groups, and the updates that leave them as they are (R143, R245). -/

namespace Sys2Proof.PlacementAndResources

open Sys2Proof.Machine Sys2Proof.Safety Sys2Proof.Claims Sys2Proof.Laws

/-- The numbers of a state: its teams, its groups with their teams, and the next number that is free. -/
structure Roster where
  uids : List Nat
  gids : List (Nat × Nat)
  fresh : Nat

def rosterOf (s : State) : Roster := ⟨s.teams.map Team.uid, s.groups.map fun g => (g.gid, g.team), s.fresh⟩

/-- What is left as it is while teams, groups and the next number are. -/
@[simp ↓] theorem rosterOf_mk (s : State) (now cur arg agenda lastPart draws cores quadTlb items parts images mem l2 zipped flights late
    copies records rels fe faults tinv mcasts bad logs steals svc) :
    rosterOf ⟨now, cur, arg, agenda, lastPart, s.fresh, draws, s.groups, s.teams, cores, quadTlb, items, parts, images, mem, l2, zipped, flights,
      late, copies, records, rels, fe, faults, tinv, mcasts, bad, logs, steals, svc⟩ = rosterOf s := by unfold rosterOf; rfl

@[simp] theorem roster_ite {p : Prop} [Decidable p] (s t : State) :
    rosterOf (if p then s else t) = if p then rosterOf s else rosterOf t := apply_ite ..

@[simp] theorem roster_foldl {α : Type} {f : State → α → State} (one : ∀ s a, rosterOf (f s a) = rosterOf s) (l : List α) (s : State) :
    rosterOf (l.foldl f s) = rosterOf s := by
  induction l generalizing s with
  | nil => rfl
  | cons a l ih => rw [List.foldl_cons, ih, one]

/-- A number of a group that takes another team. -/
def Roster.put (r : Roster) (gid team : Nat) : Roster := { r with gids := r.gids.map fun k => if k.1 = gid then (gid, team) else k }

@[simp] theorem roster_putTeam (s : State) (t : Team) : rosterOf (s.putTeam t) = rosterOf s := by
  have uids : (s.putTeam t).teams.map Team.uid = s.teams.map Team.uid := by
    rw [State.putTeam, List.map_map]
    refine List.map_congr_left fun u _ => ?_
    rw [Function.comp_apply]
    split
    case isTrue e => exact e.symm
    case isFalse => rfl
  rw [rosterOf, uids, State.putTeam_groups, State.putTeam_fresh, rosterOf]

@[simp] theorem roster_putGroup (s : State) (g : Group) : rosterOf (s.putGroup g) = (rosterOf s).put g.gid g.team := by
  have gids : (s.putGroup g).groups.map (fun g => (g.gid, g.team)) =
      (s.groups.map fun g => (g.gid, g.team)).map fun k => if k.1 = g.gid then (g.gid, g.team) else k := by
    rw [State.putGroup, List.map_map, List.map_map]
    refine List.map_congr_left fun h _ => ?_
    rw [Function.comp_apply, Function.comp_apply]
    split <;> rfl
  rw [rosterOf, gids, State.putGroup_teams, State.putGroup_fresh, Roster.put, rosterOf]

/-- Groups changed one by one, each in its own team. -/
theorem roster_of_groups {s t : State} {f : Group → Group} (teams : t.teams = s.teams) (groups : t.groups = s.groups.map f)
    (fresh : t.fresh = s.fresh) (keeps : ∀ g, (f g).gid = g.gid ∧ (f g).team = g.team) : rosterOf t = rosterOf s := by
  have gids : t.groups.map (fun g => (g.gid, g.team)) = s.groups.map fun g => (g.gid, g.team) := by
    rw [groups, List.map_map]
    refine List.map_congr_left fun g _ => ?_
    rw [Function.comp_apply, (keeps g).1, (keeps g).2]
  rw [rosterOf, gids, teams, fresh, rosterOf]

theorem roster_groups (s : State) {f : Group → Group} (keeps : ∀ g, (f g).gid = g.gid ∧ (f g).team = g.team) :
    rosterOf { s with groups := s.groups.map f } = rosterOf s := roster_of_groups rfl rfl rfl keeps

/-- Teams changed one by one. -/
theorem roster_teams (s : State) {f : Team → Team} (keeps : ∀ t, (f t).uid = t.uid) :
    rosterOf { s with teams := s.teams.map f } = rosterOf s := by
  have uids : (s.teams.map f).map Team.uid = s.teams.map Team.uid := by
    rw [List.map_map]
    exact List.map_congr_left fun t _ => keeps t
  rw [rosterOf, uids, rosterOf]

theorem roster_mapGroups (s : State) (uid : Nat) (f : Group → Group) (keeps : ∀ g, (f g).gid = g.gid ∧ (f g).team = g.team) :
    rosterOf (s.mapGroups uid f) = rosterOf s := by
  refine roster_groups s fun g => ?_
  split
  · exact keeps g
  · exact ⟨rfl, rfl⟩

/-! ### Rosters in order -/

/-- Numbers apart, all of them below the next free one, which is no less than `n`. -/
structure Roster.Ok (n : Nat) (r : Roster) : Prop where
  uids : r.uids.Nodup
  gids : (r.gids.map Prod.fst).Nodup
  teams : ∀ u ∈ r.uids, u < r.fresh
  groups : ∀ k ∈ r.gids, k.1 < r.fresh ∧ k.2 < r.fresh
  fresh : n ≤ r.fresh

theorem numbered_iff (s : State) : Numbered s ↔ (rosterOf s).Ok 0 := by
  have pairs : (s.groups.map fun g => (g.gid, g.team)).map Prod.fst = s.groups.map fun g => g.gid := by rw [List.map_map]; rfl
  constructor
  · rintro ⟨uids, gids, teams, groups⟩
    refine ⟨uids, by rw [rosterOf, pairs]; exact gids, ?_, ?_, Nat.zero_le _⟩
    · simpa [rosterOf] using teams
    · simpa [rosterOf] using groups
  · rintro ⟨uids, gids, teams, groups, _⟩
    rw [rosterOf, pairs] at gids
    refine ⟨uids, gids, ?_, ?_⟩
    · simpa [rosterOf] using teams
    · simpa [rosterOf] using groups

section
variable {n m : Nat} {r : Roster}

theorem ok_fresh (h : r.Ok n) : r.Ok r.fresh := ⟨h.uids, h.gids, h.teams, h.groups, Nat.le_refl _⟩
theorem ok_mono (h : r.Ok m) (le : n ≤ m) : r.Ok n := ⟨h.uids, h.gids, h.teams, h.groups, Nat.le_trans le h.fresh⟩

@[simp] theorem ok_put {gid team : Nat} (h : r.Ok n) (low : team < n) : (r.put gid team).Ok n where
  uids := h.uids
  gids := by
    have same : (r.put gid team).gids.map Prod.fst = r.gids.map Prod.fst := by
      rw [Roster.put, List.map_map]
      refine List.map_congr_left fun k _ => ?_
      rw [Function.comp_apply]
      split
      case isTrue e => exact e.symm
      case isFalse => rfl
    rw [same]
    exact h.gids
  teams := h.teams
  groups k hk := by
    obtain ⟨j, hj, e⟩ := List.mem_map.1 hk
    have old := h.groups j hj
    split at e
    case isTrue at_ => rw [← e]; exact ⟨at_ ▸ old.1, Nat.lt_of_lt_of_le low h.fresh⟩
    case isFalse => rw [← e]; exact old
  fresh := h.fresh

theorem ok_sublist {q : Roster} (h : r.Ok n) (uids : q.uids.Sublist r.uids) (gids : q.gids.Sublist r.gids) (fresh : q.fresh = r.fresh) : q.Ok n where
  uids := h.uids.sublist uids
  gids := h.gids.sublist (gids.map _)
  teams u hu := fresh ▸ h.teams u (uids.subset hu)
  groups k hk := fresh ▸ h.groups k (gids.subset hk)
  fresh := fresh ▸ h.fresh

theorem ok_fewer {s t : State} (h : (rosterOf s).Ok n) (teams : t.teams.Sublist s.teams) (groups : t.groups.Sublist s.groups)
    (fresh : t.fresh = s.fresh) : (rosterOf t).Ok n := ok_sublist h (teams.map _) (groups.map _) fresh

/-- A record of the part has taken the next free number. -/
theorem ok_raised {s x t : State} (h : (rosterOf s).Ok n) (teams : t.teams = x.teams) (groups : t.groups = x.groups) (le : s.fresh ≤ t.fresh)
    (same : rosterOf x = rosterOf s) : (rosterOf t).Ok n := by
  have uids : (rosterOf t).uids = (rosterOf s).uids := (congrArg (List.map _) teams).trans (congrArg Roster.uids same)
  have gids : (rosterOf t).gids = (rosterOf s).gids := (congrArg (List.map _) groups).trans (congrArg Roster.gids same)
  refine ⟨uids ▸ h.uids, gids ▸ h.gids, fun u hu => Nat.lt_of_lt_of_le (h.teams u (uids ▸ hu)) le, fun k hk => ?_, Nat.le_trans h.fresh le⟩
  obtain ⟨gid, team⟩ := h.groups k (gids ▸ hk)
  exact ⟨Nat.lt_of_lt_of_le gid le, Nat.lt_of_lt_of_le team le⟩

/-- A step that may use that the teams of groups are below a bound. -/
theorem ok_at {s t : State} (h : (rosterOf s).Ok n) (step : ∀ m, (rosterOf s).Ok m → (∀ g ∈ s.groups, g.team < m) → (rosterOf t).Ok m) :
    (rosterOf t).Ok n := by
  refine ok_mono (step s.fresh (ok_fresh h) fun g hg => ?_) h.fresh
  exact (h.groups (g.gid, g.team) (List.mem_map.2 ⟨g, hg, rfl⟩)).2

@[simp] theorem ok_ite {p : Prop} [Decidable p] {s : Roster} : (if p then r else s).Ok n ↔ (p → r.Ok n) ∧ (¬ p → s.Ok n) := by
  split
  case isTrue h => exact ⟨fun k => ⟨fun _ => k, fun no => absurd h no⟩, fun k => k.1 h⟩
  case isFalse h => exact ⟨fun k => ⟨fun yes => absurd yes h, fun _ => k⟩, fun k => k.2 h⟩

@[simp] theorem ok_foldl {α : Type} {f : State → α → State} (one : ∀ s a, (rosterOf s).Ok n → (rosterOf (f s a)).Ok n) (l : List α)
    (s : State) (h : (rosterOf s).Ok n) : (rosterOf (l.foldl f s)).Ok n := by
  induction l generalizing s with
  | nil => exact h
  | cons a l ih => exact ih _ (one s a h)

end

end Sys2Proof.PlacementAndResources
end

section
/-! PROOFS. A group keeps its team through every change of its registers and paths. -/

namespace Sys2Proof.PlacementAndResources

open Sys2Proof.Machine Sys2Proof.Safety Sys2Proof.Claims Sys2Proof.Laws

@[simp] theorem group_foldl {α : Type} {f : Group → α → Group} (one : ∀ g a, (f g a).team = g.team) (l : List α) (g : Group) :
    (l.foldl f g).team = g.team := by
  induction l generalizing g with
  | nil => rfl
  | cons a l ih => rw [List.foldl_cons, ih, one]

@[simp] theorem group_ite {p : Prop} [Decidable p] (g h : Group) : (if p then g else h).team = if p then g.team else h.team := apply_ite ..

@[simp] theorem team_pathAt (c : Ctx) (g : Group) (pc : VAddr) : (c.pathAt g pc).team = g.team := by
  unfold Ctx.pathAt
  split <;> rfl

@[simp] theorem team_enterTrap (g : Group) (t : TrapRec) (ret : VAddr) : (g.enterTrap t ret).team = g.team := by simp [Group.enterTrap]
@[simp] theorem team_writeX (c : Ctx) (d : Reg) (f : Lane → Word × Flags) : (c.writeX d f).team = c.g.team := by simp [Ctx.writeX]

@[simp] theorem team_writeV (c : Ctx) (d : Reg) (f : Lane → DWord × Flags) : (c.writeV d f).team = c.g.team := by
  unfold Ctx.writeV
  rfl

@[simp] theorem team_writeQ (c : Ctx) (d : Reg) (f : Lane → BitVec 2 × Flags) : (c.writeQ d f).team = c.g.team := by
  unfold Ctx.writeQ
  rfl

@[simp] theorem team_addPaths (g : Group) (e : Nat) (lvl : Fin 3) (l : List (VAddr × Mask)) : (g.addPaths e lvl l).team = g.team := by
  induction l generalizing g with
  | nil => rfl
  | cons x l ih => exact ih _

theorem team_diverge {g h : Group} {p : Path} {transfer : Bool} {paths : List (VAddr × Mask)} {dflt : VAddr}
    (e : g.diverge p transfer paths dflt = some h) : h.team = g.team := by
  unfold Group.diverge at e
  split at e
  · cases e; rfl
  · cases e; rfl
  · split at e
    · cases e
    · cases e
      exact team_addPaths ..

theorem team_releaseCollective {g h : Group} (e : g.releaseCollective = some h) : h.team = g.team := by
  unfold Group.releaseCollective at e
  split at e <;> cases e
  rfl

theorem team_unpark {g h : Group} (e : g.unpark = some h) : h.team = g.team := by
  unfold Group.unpark at e
  repeat' split at e
  all_goals cases e
  all_goals rfl

@[simp] theorem team_dropPath (g : Group) (pid : Nat) : (g.dropPath pid).team = g.team := by
  unfold Group.dropPath
  rfl

@[simp] theorem team_complete (g : Group) (e : Entry) (kept : Mask) : (g.complete e kept).team = g.team := by
  unfold Group.complete
  rfl

@[simp] theorem team_join (g : Group) (p : Path) (next : VAddr) : (g.join p next).team = g.team := by
  unfold Group.join
  exact group_foldl (fun g (q : Machine.Path) => team_dropPath g q.pid) ..

@[simp] theorem team_takeItem (g : Group) (l : Lane) (i : Item) : (g.takeItem l i).team = g.team := by
  have lane : (takeLane l i g).team = g.team := by rw [lanesOnly_takeLane l i g]
  exact lane

@[simp] theorem team_putWords (d : Reg) (n : Nat) (l : Lane) (bs : List Byte) (g : Group) : (putWords d n l bs g).team = g.team := by simp [putWords]
@[simp] theorem team_zeroWords (d : Reg) (n : Nat) (on : Mask) (g : Group) : (zeroWords d n on g).team = g.team := by simp [zeroWords]

@[simp] theorem team_putItv (d : Reg) (conv : Nat → DWord × Flags) (l : Lane) (bs : List Byte) (g : Group) :
    (putItv d conv l bs g).team = g.team := by
  unfold putItv
  rfl

@[simp] theorem team_zeroItv (d : Reg) (on : Mask) (g : Group) : (zeroItv d on g).team = g.team := by
  unfold zeroItv
  rfl

@[simp] theorem team_putPair (d : Reg) (l : Lane) (old : Nat) (g : Group) : (putPair d l old g).team = g.team := by simp [putPair]
@[simp] theorem team_zeroPair (d : Reg) (on : Mask) (g : Group) : (zeroPair d on g).team = g.team := by simp [zeroPair]

@[simp] theorem team_teamStart (g : Group) (t : Team) : (g.teamStart t).team = g.team := by
  unfold Group.teamStart
  rfl

@[simp] theorem team_takeCarried (g : Group) (l : Lane) (x : Carried) : (g.takeCarried l x).team = g.team := by
  unfold Group.takeCarried
  split <;> simp

@[simp] theorem team_sysWrite (g : Group) (num : Nat) (w : Word) : (g.sysWrite num w).team = g.team := by
  unfold Group.sysWrite
  split <;> rfl

@[simp] theorem team_drew (g : Group) (n : Nat) : (g.drew n).team = g.team := by
  unfold Group.drew
  rfl

@[simp] theorem team_takeS (g : Group) (i : Item) : (g.takeS i).team = g.team := by simp [Group.takeS]

@[simp] theorem team_restoreLane (t : Team) (f : Frame) (k : Keep) (g : Group) (l : Lane) : (restoreLane t f k g l).team = g.team := by
  simp [restoreLane]

@[simp] theorem team_popFrame (g : Group) (t : Team) (f : Frame) (p : Path) : (g.popFrame t f p).team = g.team := by
  simp [Group.popFrame]

@[simp] theorem team_completeAll (kept : Mask) (n : Nat) (g : Group) : (g.completeAll kept n).team = g.team := by
  induction n generalizing g with
  | zero => rfl
  | succ n ih =>
    rw [Group.completeAll]
    split
    · exact ih _
    · rfl

theorem team_finishInto {g h : Group} {b : Path} (e : g.finishInto b = some h) : h.team = g.team := by
  unfold Group.finishInto at e
  obtain ⟨f, _, e⟩ := List.exists_of_findSome?_eq_some e
  dsimp only at e
  repeat' split at e
  all_goals cases e
  all_goals simp

end Sys2Proof.PlacementAndResources
end

section
/-! PROOFS. What the state, memory and the words of lanes do to the numbers of teams and groups. -/

namespace Sys2Proof.PlacementAndResources

open Sys2Proof.Machine Sys2Proof.Safety Sys2Proof.Claims Sys2Proof.Laws

/-! ### Records of cores and partitions -/

@[simp] theorem roster_putCore (s : State) (k : Nat) (c : Core) : rosterOf (s.putCore k c) = rosterOf s := by simp [State.putCore]
@[simp] theorem roster_putPart (s : State) (p : Nat) (q : Partition) : rosterOf (s.putPart p q) = rosterOf s := by simp [State.putPart]

/-! ### The L2 slices -/

@[simp] theorem roster_l2Evict (s : State) (l : L2Line) : rosterOf (s.l2Evict l) = rosterOf s := by simp [State.l2Evict]

@[simp] theorem roster_l2Reach (s : State) (x : Xlat) (pa : Nat) : rosterOf (s.l2Reach x pa) = rosterOf s := by
  unfold State.l2Reach
  dsimp only
  repeat' split
  all_goals simp

@[simp] theorem roster_l2Shrink (s : State) : rosterOf s.l2Shrink = rosterOf s := by
  unfold State.l2Shrink
  dsimp only
  refine roster_foldl (fun _ _ => ?_) _ _
  repeat' split
  all_goals simp

@[simp] theorem roster_putHome (s : State) (pa : Nat) (bs : List Byte) : rosterOf (s.putHome pa bs) = rosterOf s := by simp [State.putHome]
@[simp] theorem roster_writeRaw (s : State) (pa : Nat) (bs : List Byte) : rosterOf (s.writeRaw pa bs) = rosterOf s := rfl
@[simp] theorem roster_writePhys (s : State) (pa : Nat) (bs : List Byte) : rosterOf (s.writePhys pa bs) = rosterOf s := rfl
@[simp] theorem roster_writeHome (s : State) (x : Xlat) (pa : Nat) (bs : List Byte) : rosterOf (s.writeHome x pa bs) = rosterOf s := by
  simp [State.writeHome]
@[simp] theorem roster_readHome (s : State) (x : Xlat) (pa : Nat) : rosterOf (s.readHome x pa) = rosterOf s := by simp [State.readHome]

/-! ### Region bindings, interrupts, logs and rings -/

@[simp] theorem roster_putRb (s : State) (part soid : Nat) (e : RbEntry) : rosterOf (s.putRb part soid e) = rosterOf s := by simp [State.putRb]
@[simp] theorem roster_performRelease (s : State) (part soid : Nat) : rosterOf (s.performRelease part soid) = rosterOf s := by
  simp [State.performRelease]

@[simp] theorem roster_takeSeq (s : State) (part soid : Nat) : rosterOf (s.takeSeq part soid).2 = rosterOf s := by
  unfold State.takeSeq
  dsimp only
  split <;> simp

@[simp] theorem roster_inBand (s : State) : rosterOf s.inBand = rosterOf s := by simp [State.inBand]
@[simp] theorem roster_vector (s : State) (v : Nat) : rosterOf (s.vector v) = rosterOf s := by simp [State.vector]
@[simp] theorem roster_signal (s : State) (v : Nat) : rosterOf (s.signal v) = rosterOf s := by simp [State.signal]
@[simp] theorem roster_logError (s : State) (pa kind src mask : Nat) : rosterOf (s.logError pa kind src mask) = rosterOf s := by simp [State.logError]
@[simp] theorem roster_consume (s : State) (pa mask : Nat) : rosterOf (s.consume pa mask) = rosterOf s := by simp [State.consume]
@[simp] theorem roster_ringPut (s : State) (r : Ring) (n : Nat) (bs : List Byte) : rosterOf (s.ringPut r n bs) = rosterOf s := by simp [State.ringPut]

@[simp] theorem roster_errorRecord (s : State) (ds : List DWord) : rosterOf (s.errorRecord ds) = rosterOf s := by
  unfold State.errorRecord
  split <;> simp

/-! ### Grants and releases -/

@[simp] theorem roster_grant (s : State) (uid : Nat) (q : Claim) : rosterOf (s.grant uid q) = rosterOf s := by
  unfold State.grant
  split
  · rfl
  · dsimp only
    refine (roster_mapGroups _ _ (fun g => g.zeroGranules _ _) fun g => ⟨rfl, rfl⟩).trans ?_
    simp [grantSlots]

@[simp] theorem roster_release (s : State) (uid : Nat) (l : Claim) : rosterOf (s.release uid l) = rosterOf s := by
  unfold State.release
  split
  · rfl
  · simp [dropSlots]

/-! ### The kill of a team and what it releases -/

@[simp] theorem roster_turnOrWait (s : State) (r : PendingRel) : rosterOf (s.turnOrWait r) = rosterOf s := by simp [State.turnOrWait]
@[simp] theorem roster_closeQueues (s : State) (k : Nat) : rosterOf (s.closeQueues k) = rosterOf s := by simp [State.closeQueues]

@[simp] theorem ok_dropTeam (s : State) (t : Team) {n : Nat} (h : (rosterOf s).Ok n) : (rosterOf (s.dropTeam t)).Ok n := by
  unfold State.dropTeam
  dsimp only
  rw [roster_putPart, roster_foldl roster_closeQueues]
  refine ok_fewer (s := s) h ?_ ?_ ?_
  · exact List.filter_sublist
  · exact List.filter_sublist
  · simp only [State.putCore]

@[simp] theorem roster_putEntry (s : State) (die i : Nat) (e : LstEntry) : rosterOf (s.putEntry die i e) = rosterOf s := by simp [State.putEntry]
@[simp] theorem roster_countDone (s : State) (t : Team) (killed : Bool) : rosterOf (s.countDone t killed) = rosterOf s := by simp [State.countDone]
@[simp] theorem roster_markKill (s : State) (t : Team) : rosterOf (s.markKill t) = rosterOf s := by simp [State.markKill]
@[simp] theorem roster_failJoints (s : State) (uid : Nat) : rosterOf (s.failJoints uid) = rosterOf s := by simp [State.failJoints]
@[simp] theorem roster_dropFlights (s : State) (uid : Nat) : rosterOf (s.dropFlights uid) = rosterOf s := by simp [State.dropFlights]

@[simp] theorem ok_killTeam (s : State) (t : Team) (reason : Nat) (k : KillRegs) {n : Nat} (h : (rosterOf s).Ok n) :
    (rosterOf (killTeam s t reason k)).Ok n := by
  simp [killTeam, h]

/-! ### Traps -/

@[simp] theorem ok_enterAt (s : State) (g : Group) (pid : Nat) (t : TrapRec) (ret vec : VAddr) {n : Nat} (h : (rosterOf s).Ok n) (low : g.team < n) :
    (rosterOf (enterAt s g pid t ret vec)).Ok n := by
  unfold enterAt
  dsimp only
  split <;> simp [h, low]

@[simp] theorem ok_trapTo (s : State) (g : Group) (tm : Team) (pid : Nat) (t : TrapRec) (ret : VAddr) {n : Nat} (h : (rosterOf s).Ok n)
    (low : g.team < n) : (rosterOf (trapTo s g tm pid t ret)).Ok n := by
  simp [trapTo, h, low]

/-! ### Work items and the Twill pool -/

@[simp] theorem roster_inPool (s : State) (i : Item) (p k : Nat) : rosterOf (s.inPool i p k) = rosterOf s := by simp [State.inPool]

@[simp] theorem roster_openFor (s : State) (k : Nat) (i : Item) : rosterOf (s.openFor k i) = rosterOf s := by
  unfold State.openFor
  dsimp only
  repeat' split
  all_goals simp

@[simp] theorem roster_openQueues (s : State) (k : Nat) : rosterOf (s.openQueues k) = rosterOf s := by simp [State.openQueues]

theorem roster_placeItem {s t : State} {k : Nat} {i : Item} (h : s.placeItem k i = some t) : rosterOf t = rosterOf s := by
  unfold State.placeItem at h
  dsimp only at h
  repeat' split at h
  all_goals cases h
  all_goals simp

theorem roster_placeAll {k : Nat} {l : List Item} {s t : State} (h : s.placeAll k l = some t) : rosterOf t = rosterOf s := by
  induction l generalizing s with
  | nil => cases h; rfl
  | cons i l ih =>
    rw [State.placeAll] at h
    split at h
    · rw [ih h, roster_placeItem ‹_›]
    · cases h

/-! ### Writes on their way -/

@[simp] theorem roster_overtake (s : State) (p : Party) (pa n : Nat) : rosterOf (s.overtake p pa n) = rosterOf s := by simp [State.overtake]

@[simp] theorem roster_arrive (s : State) (f : Flight) : rosterOf (s.arrive f) = rosterOf s := by
  unfold State.arrive
  split <;> simp

@[simp] theorem roster_landThose (s : State) (which : Flight → Bool) : rosterOf (s.landThose which) = rosterOf s := by simp [State.landThose]

@[simp] theorem roster_landAll (s : State) : rosterOf s.landAll = rosterOf s := by
  unfold State.landAll
  exact roster_foldl (fun _ _ => by simp) _ _

@[simp] theorem roster_landSeen (s : State) (p : Party) : rosterOf (s.landSeen p) = rosterOf s := by
  unfold State.landSeen
  exact roster_foldl (fun _ _ => by simp) _ _

@[simp] theorem roster_landOne (s : State) (k : Nat) : rosterOf (s.landOne k) = rosterOf s := by
  unfold State.landOne
  split <;> simp

@[simp] theorem roster_publish (s : State) (p : Party) (mask : BitVec 5) (scope : Nat) : rosterOf (s.publish p mask scope) = rosterOf s := by
  unfold State.publish
  dsimp only
  repeat' split
  all_goals simp

@[simp] theorem roster_releaseWrites (s : State) (p : Party) (part soid : Nat) (mask : BitVec 5) :
    rosterOf (s.releaseWrites p part soid mask) = rosterOf s := by
  simp [State.releaseWrites]

@[simp] theorem roster_releaseBy (s : State) (p : Party) (part soid : Nat) (mask : BitVec 5) :
    rosterOf (s.releaseBy p part soid mask) = rosterOf s := by
  simp [State.releaseBy]

@[simp] theorem roster_releaseMask (s : State) (p : Party) (mask : BitVec 5) : rosterOf (s.releaseMask p mask) = rosterOf s := by
  simp [State.releaseMask]

@[simp] theorem roster_acquireMask (s : State) (w : Station) (mask : BitVec 5) : rosterOf (s.acquireMask w mask) = rosterOf s := by
  unfold State.acquireMask
  exact roster_foldl (fun _ _ => by simp) _ _

@[simp] theorem roster_acquireFor (s : State) (w : Station) (part soid : Nat) (mask : BitVec 5) :
    rosterOf (s.acquireFor w part soid mask) = rosterOf s := by
  simp [State.acquireFor]

@[simp] theorem roster_partyWrites (s : State) (p : Party) (x : Xlat) (pa : Nat) (bs : List Byte) :
    rosterOf (s.partyWrites p x pa bs) = rosterOf s := by
  simp [State.partyWrites]

@[simp] theorem roster_ringStream (s : State) (stream : Nat) : rosterOf (s.ringStream stream) = rosterOf s := by
  unfold State.ringStream
  exact roster_foldl (fun _ _ => by simp) _ _

/-! ### Translation and the L1 -/

@[simp] theorem roster_hold (s : State) (core : Nat) (x : Xlat) : rosterOf (s.hold core x) = rosterOf s := by simp [State.hold]
@[simp] theorem roster_clearL1 (s : State) (core : Nat) : rosterOf (s.clearL1 core) = rosterOf s := by simp [State.clearL1]
@[simp] theorem roster_passL1 (s : State) (core : Nat) (x : Xlat) (pa : Nat) : rosterOf (s.passL1 core x pa) = rosterOf s := by simp [State.passL1]

@[simp] theorem roster_storeAt (s : State) (core gid : Nat) (x : Xlat) (va : Nat) (bs : List Byte) :
    rosterOf (s.storeAt core gid x va bs) = rosterOf s := by
  simp [State.storeAt]

@[simp] theorem roster_loadAt (s : State) (core : Nat) (x : Xlat) (va n : Nat) : rosterOf (s.loadAt core x va n).2 = rosterOf s := by
  unfold State.loadAt
  dsimp only
  repeat' split
  all_goals simp

/-! ### Lanes and the four address spaces -/

@[simp] theorem roster_passBytes (core part : Nat) (n : Nat) (s : State) (va : Nat) : rosterOf (s.passBytes core part va n) = rosterOf s := by
  induction n generalizing s va with
  | zero => rfl
  | succ n ih =>
    rw [State.passBytes]
    split <;> simp [ih]

@[simp] theorem roster_putAt (s0 : State) (core part : Nat) (bs : List Byte) (s : State) (va : Nat) :
    rosterOf (s.putAt s0 core part va bs) = rosterOf s := by
  induction bs generalizing s va with
  | nil => rfl
  | cons b bs ih =>
    rw [State.putAt]
    split <;> simp [ih]

@[simp] theorem roster_windowPass (s : State) (core part : Nat) (w : Window) (o n : Nat) : rosterOf (s.windowPass core part w o n) = rosterOf s := by
  refine roster_foldl (fun t i => ?_) _ _
  dsimp only
  repeat' split
  all_goals simp

@[simp] theorem roster_consumeBad (s : State) (core part va : Nat) : rosterOf (s.consumeBad core part va) = rosterOf s := by
  unfold State.consumeBad
  split <;> simp

@[simp] theorem roster_laneRead (s s0 : State) (c : Ctx) (space n a : Nat) : rosterOf (s.laneRead s0 c space n a).2 = rosterOf s := by
  unfold State.laneRead
  repeat' split
  all_goals simp

@[simp] theorem roster_laneWrite (s : State) (s0 : State) (c : Ctx) (space a : Nat) (bs : List Byte) :
    rosterOf (s.laneWrite s0 c space a bs) = rosterOf s := by
  unfold State.laneWrite
  repeat' split
  all_goals simp

/-- A loop over lanes that carries a group with the state: the state's numbers stay, and the group's team does. -/
theorem roster_pairs {α : Type} {f : State × Group → α → State × Group}
    (one : ∀ x a, rosterOf (f x a).1 = rosterOf x.1 ∧ (f x a).2.team = x.2.team)
    (l : List α) (x : State × Group) : rosterOf (l.foldl f x).1 = rosterOf x.1 ∧ (l.foldl f x).2.team = x.2.team := by
  induction l generalizing x with
  | nil => exact ⟨rfl, rfl⟩
  | cons a l ih =>
    obtain ⟨state, team⟩ := one x a
    obtain ⟨states, teams⟩ := ih (f x a)
    exact ⟨states.trans state, teams.trans team⟩

/-! ### Loads -/

theorem roster_readLanes (s : State) (c : Ctx) (f : FormL) (size : Nat) {put : Lane → List Byte → Group → Group}
    (keeps : ∀ l bs g, (put l bs g).team = g.team) :
    rosterOf (readLanes s c f size put).1 = rosterOf s ∧ (readLanes s c f size put).2.team = c.g.team :=
  roster_pairs (fun _ _ => ⟨roster_laneRead .., keeps ..⟩) _ (s, c.g)

theorem roster_ldffLoop (c : Ctx) (f : FormL) (l : List Lane) (s : State) (g : Group) (m : Mask) :
    rosterOf (ldffLoop c f l s g m).1 = rosterOf s ∧ (ldffLoop c f l s g m).2.1.team = g.team := by
  induction l generalizing s g m with
  | nil => exact ⟨rfl, rfl⟩
  | cons l ls ih =>
    rw [ldffLoop]
    dsimp only
    split
    · exact ⟨rfl, rfl⟩
    · obtain ⟨states, teams⟩ := ih (s.laneRead s c f.space.toNat 4 (c.address f 4 l)).2
        (putWords f.d 1 l (s.laneRead s c f.space.toNat 4 (c.address f 4 l)).1 g) (m ||| laneBit l)
      exact ⟨states.trans (roster_laneRead ..), teams.trans (team_putWords ..)⟩

theorem roster_ldfeServe (s : State) (g : Group) (d : Reg) (ad : List (Lane × Nat × Nat)) (zeroed : Mask) :
    rosterOf (ldfeServe s g d ad zeroed).1 = rosterOf s ∧ (ldfeServe s g d ad zeroed).2.team = g.team := by
  refine ⟨roster_foldl (fun t k => ?_) _ _, (team_zeroWords ..).trans (group_foldl (fun h a => ?_) _ _)⟩
  · split <;> simp
  · split
    · exact team_putWords ..
    · rfl

@[simp] theorem roster_mcastRead (s : State) (x : Xlat) (pa n : Nat) : rosterOf (s.mcastRead x pa n).2 = rosterOf s := by
  unfold State.mcastRead
  dsimp only
  split <;> simp

/-! ### Stores -/

@[simp] theorem roster_writeLanes (s : State) (c : Ctx) (f : FormL) (size : Nat) (val : Lane → List Byte) :
    rosterOf (writeLanes s c f size val) = rosterOf s := by
  simp [writeLanes]

/-! ### Atomics -/

@[simp] theorem roster_acquireFence (s : State) (core : Nat) : rosterOf (s.acquireFence core) = rosterOf s := by simp [State.acquireFence]

@[simp] theorem roster_bankOp (s : State) (core : Nat) (x : Xlat) (pa n : Nat) (f : Nat → Nat) :
    rosterOf (s.bankOp core x pa n f).2 = rosterOf s := by
  simp [State.bankOp]

@[simp] theorem roster_atomRelease (s : State) (c : Ctx) (xs : List Acc) : rosterOf (s.atomRelease c xs) = rosterOf s := by simp [State.atomRelease]

theorem roster_atomLoop (s0 : State) (c : Ctx) (a : Reg) (n : Nat) (new : Lane → Nat → Nat) {put : Lane → Nat → Group → Group}
    (keeps : ∀ l old g, (put l old g).team = g.team) (l : List Lane) (s : State) (g : Group) :
    rosterOf (atomLoop s0 c a n new put l s g).1 = rosterOf s ∧ (atomLoop s0 c a n new put l s g).2.1.team = g.team := by
  induction l generalizing s g with
  | nil => exact ⟨rfl, rfl⟩
  | cons l ls ih =>
    rw [atomLoop]
    dsimp only
    repeat' split
    · exact ⟨rfl, rfl⟩
    · obtain ⟨states, teams⟩ := ih _ _
      exact ⟨states.trans (by simp), teams.trans (keeps ..)⟩
    · exact ⟨rfl, rfl⟩

/-! ### Loop bodies -/

@[simp] theorem roster_noteBody (s : State) (c : Ctx) (off : BitVec 19) (target : VAddr) : rosterOf (s.noteBody c off target) = rosterOf s := by
  simp [State.noteBody]

/-! ### Barriers, releases and handles -/

@[simp] theorem ok_endBarrierWaits (s : State) (t : Team) (gid : Nat) (sel : Path → Bool) {n : Nat} (h : (rosterOf s).Ok n) :
    (rosterOf (endBarrierWaits s t gid sel)).Ok n := by
  refine ok_at h fun m h low => ?_
  unfold endBarrierWaits
  dsimp only
  split
  · exact h
  · have low := low _ (List.mem_of_find?_eq_some ‹_›)
    repeat' split
    all_goals simp [h, low]

@[simp] theorem ok_completePhase (s : State) (uid b : Nat) {n : Nat} (h : (rosterOf s).Ok n) : (rosterOf (completePhase s uid b)).Ok n := by
  unfold completePhase
  split
  · exact h
  · exact ok_foldl (fun _ _ h => ok_endBarrierWaits _ _ _ _ h) _ _ (by simpa using h)

@[simp] theorem ok_sweepBars (s : State) (uid : Nat) {n : Nat} (h : (rosterOf s).Ok n) : (rosterOf (s.sweepBars uid)).Ok n := by
  unfold State.sweepBars
  split
  · exact h
  · refine ok_foldl (fun s b h => ?_) _ _ h
    dsimp only
    repeat' split
    all_goals simp [h]

@[simp] theorem ok_sweepGang (s : State) (uid : Nat) {n : Nat} (h : (rosterOf s).Ok n) : (rosterOf (s.sweepGang uid)).Ok n := by
  unfold State.sweepGang
  split
  · exact h
  · split
    · refine ok_foldl (fun s u h => ok_foldl (fun s g h => ok_endBarrierWaits _ _ _ _ h) _ _ h) _ _ ?_
      simpa using h
    · exact h

@[simp] theorem ok_waiting (c : Ctx) (s : State) (k : WaitKind) {n : Nat} (h : (rosterOf s).Ok n) (low : c.g.team < n) :
    (rosterOf (c.waiting s k)).Ok n := by
  simp [Ctx.waiting, h, low]

@[simp] theorem roster_barrierRelease (s : State) (c : Ctx) (rel : Bool) (scope : Nat) : rosterOf (s.barrierRelease c rel scope) = rosterOf s := by
  simp [State.barrierRelease]
@[simp] theorem roster_dropRegion (s : State) (core : Nat) (e : RbEntry) : rosterOf (s.dropRegion core e) = rosterOf s := by simp [State.dropRegion]
@[simp] theorem roster_sawHandle (s : State) (c : Ctx) (r : Reg) : rosterOf (s.sawHandle c r) = rosterOf s := by simp [State.sawHandle]

end Sys2Proof.PlacementAndResources
end

section
/-! PROOFS. Copies, the front end and its runs leave the numbers of teams and groups apart. -/

namespace Sys2Proof.PlacementAndResources

open Sys2Proof.Machine Sys2Proof.Safety Sys2Proof.Claims Sys2Proof.Laws

/-! ### Copies -/

@[simp] theorem roster_putCopy (s : State) (x : Copy) : rosterOf (s.putCopy x) = rosterOf s := by simp [State.putCopy]

theorem roster_engineRead {s t : State} {p : Party} {r : Reach} {part va : Nat} {mc : Bool} {b : Byte} (h : s.engineRead p r part va mc = .ok
    (b, t)) :
    rosterOf t = rosterOf s := by
  unfold State.engineRead at h
  dsimp only at h
  repeat' split at h
  all_goals cases h
  all_goals simp

@[simp] theorem roster_partyPut (p : Party) (core part : Nat) (bs : List Byte) (s : State) (va : Nat) :
    rosterOf (s.partyPut p core part va bs) = rosterOf s := by
  induction bs generalizing s va with
  | nil => rfl
  | cons b bs ih =>
    rw [State.partyPut]
    split <;> simp [ih]

theorem roster_copyByte {s t : State} {x : Copy} {va : Nat} {b : Byte} (h : s.copyByte x va = .ok (b, t)) : rosterOf t = rosterOf s := by
  unfold State.copyByte at h
  split at h
  · exact roster_engineRead h
  · repeat' split at h
    all_goals cases h
    simp
  · repeat' split at h
    all_goals cases h
    rfl
  · cases h

theorem roster_copyBytes {x : Copy} {n : Nat} {s t : State} {b : Nat} {bs : List Byte} (h : s.copyBytes x b n = .ok (bs, t)) :
    rosterOf t = rosterOf s := by
  induction n generalizing s b bs with
  | zero => cases h; rfl
  | succ n ih =>
    rw [State.copyBytes] at h
    repeat' split at h
    all_goals cases h
    rw [ih ‹_›, roster_copyByte ‹_›]

theorem roster_copyPut {s t : State} {x : Copy} {j va : Nat} {b : Byte} (h : s.copyPut x j va b = .ok t) : rosterOf t = rosterOf s := by
  unfold State.copyPut at h
  repeat' split at h
  all_goals cases h
  all_goals simp

theorem roster_copyPutAll {x : Copy} {j : Nat} {l : List Byte} {s t : State} {b : Nat} (h : s.copyPutAll x j b l = .ok t) :
    rosterOf t = rosterOf s := by
  induction l generalizing s b with
  | nil => cases h; rfl
  | cons v l ih =>
    rw [State.copyPutAll] at h
    split at h
    · cases h
    · rw [ih h, roster_copyPut ‹_›]

@[simp] theorem roster_copyArrive (s : State) (x : Copy) (j n : Nat) (failed : Bool) : rosterOf (s.copyArrive x j n failed) = rosterOf s := by
  unfold State.copyArrive
  repeat' split
  all_goals simp

@[simp] theorem roster_failArrive (s : State) (x : Copy) (j : Nat) : rosterOf (s.failArrive x j) = rosterOf s := by simp [State.failArrive]

@[simp] theorem roster_settleCopy (s : State) (x : Copy) : rosterOf (s.settleCopy x).1 = rosterOf s := by
  unfold State.settleCopy
  split
  · exact roster_foldl (fun _ _ => roster_failArrive ..) _ _
  · rfl

@[simp] theorem roster_releaseCopy (s : State) (x : Copy) : rosterOf (s.releaseCopy x).1 = rosterOf s := by
  unfold State.releaseCopy
  dsimp only
  repeat' split
  all_goals simp

@[simp] theorem roster_acquireCopy (s : State) (x : Copy) : rosterOf (s.acquireCopy x) = rosterOf s := by simp [State.acquireCopy]

@[simp] theorem ok_endHandle (s : State) (gid h eng : Nat) (tag : BitVec 16) (failed : Bool) {n : Nat} (k : (rosterOf s).Ok n) :
    (rosterOf (s.endHandle gid h eng tag failed)).Ok n := by
  refine ok_at k fun m k low => ?_
  unfold State.endHandle
  dsimp only
  split
  · simpa using k
  · have low := low _ (List.mem_of_find?_eq_some ‹_›)
    split <;> simp [k, low]

/-! ### Capture -/

@[simp] theorem roster_putRun (s : State) (r : Run) : rosterOf (s.putRun r) = rosterOf s := by simp [State.putRun]

@[simp] theorem roster_ringBytes (base size : Nat) (bs : List Byte) (s : State) (o : Nat) : rosterOf (s.ringBytes base size o bs) = rosterOf s := by
  induction bs generalizing s o with
  | nil => rfl
  | cons b bs ih => rw [State.ringBytes, ih, roster_writePhys]

@[simp] theorem roster_capture (s : State) (qidx : Nat) (runid : Word) (kind : Nat) (v1 v2 : DWord) (payload : List Byte) :
    rosterOf (s.capture qidx runid kind v1 v2 payload) = rosterOf s := by
  unfold State.capture
  dsimp only
  repeat' split
  all_goals simp

/-! ### The front end -/

@[simp] theorem roster_fePut (s : State) (a n v : Nat) : rosterOf (s.fePut a n v) = rosterOf s := by simp [State.fePut]
@[simp] theorem roster_placePrio (s : State) (a : Nat) : rosterOf (s.placePrio a) = rosterOf s := by simp [State.placePrio]
@[simp] theorem roster_bar0Write (s : State) (a n v : Nat) : rosterOf (s.bar0Write a n v) = rosterOf s := by simp [State.bar0Write]
@[simp] theorem roster_bar0Put (s : State) (a n v : Nat) : rosterOf (s.bar0Put a n v) = rosterOf s := by simp [State.bar0Put]

@[simp] theorem roster_bar0Writes (vs : List DWord) (s : State) (a n : Nat) : rosterOf (s.bar0Writes a n vs) = rosterOf s := by
  induction vs generalizing s a n with
  | nil => rfl
  | cons v vs ih => rw [State.bar0Writes, ih, roster_bar0Put]

@[simp] theorem roster_setQState (s : State) (b : Qsb) (st : Nat) : rosterOf (s.setQState b st) = rosterOf s := by simp [State.setQState]
@[simp] theorem roster_feAdd (s : State) (a n : Nat) : rosterOf (s.feAdd a n) = rosterOf s := by simp [State.feAdd]

@[simp] theorem roster_refresh (s : State) (q : Nat) : rosterOf (s.refresh q) = rosterOf s := by
  unfold State.refresh
  split <;> simp

@[simp] theorem roster_link (s : State) (a p : Nat) : rosterOf (s.link a p) = rosterOf s := by simp [State.link]

@[simp] theorem roster_unlink (s : State) (a p : Nat) : rosterOf (s.unlink a p) = rosterOf s := by
  unfold State.unlink
  dsimp only
  repeat' split
  all_goals simp

@[simp] theorem roster_doorbell (s : State) (part soid : Nat) : rosterOf (s.doorbell part soid) = rosterOf s := by simp [State.doorbell]

@[simp] theorem roster_endCommand (s : State) (code index : Nat) (result : Option Nat) : rosterOf (s.endCommand code index result) = rosterOf s := by
  unfold State.endCommand
  split <;> simp

@[simp] theorem roster_forgetTriggers (s : State) (q : Nat) (keep : Nat → Bool) : rosterOf (s.forgetTriggers q keep) = rosterOf s := by
  simp [State.forgetTriggers]

@[simp] theorem roster_discardTriggers (s : State) (q : Nat) : rosterOf (s.discardTriggers q) = rosterOf s := by
  unfold State.discardTriggers
  split <;> simp

@[simp] theorem roster_dropQueue (s : State) (q : Nat) : rosterOf (s.dropQueue q) = rosterOf s := by
  unfold State.dropQueue
  split <;> simp

@[simp] theorem roster_reprioritise (s : State) (q p : Nat) : rosterOf (s.reprioritise q p) = rosterOf s := by simp [State.reprioritise]

/-! ### The loader -/

theorem roster_relocate {s t : State} {n : Nco} {base pa a : Nat} (h : s.relocate n base pa a = .ok t) : rosterOf t = rosterOf s := by
  unfold State.relocate at h
  dsimp only at h
  repeat' split at h
  all_goals cases h
  all_goals simp

theorem roster_relocateAll {n : Nco} {base pa a k : Nat} {s t : State} {i : Nat} (h : s.relocateAll n base pa a k i = .ok t) :
    rosterOf t = rosterOf s := by
  induction k generalizing s i with
  | zero => cases h; rfl
  | succ k ih =>
    rw [State.relocateAll] at h
    split at h
    · cases h
    · rw [ih h, roster_relocate ‹_›]

@[simp] theorem roster_mapCores (s : State) (f : Core → Core) : rosterOf (s.mapCores f) = rosterOf s := by simp [State.mapCores]
@[simp] theorem roster_feZero (s : State) (a n : Nat) : rosterOf (s.feZero a n) = rosterOf s := by simp [State.feZero]
@[simp] theorem roster_feCopy (s : State) (src dst n : Nat) : rosterOf (s.feCopy src dst n) = rosterOf s := by simp [State.feCopy]
@[simp] theorem roster_dropXlats (s : State) (p : Xlat → Bool) : rosterOf (s.dropXlats p) = rosterOf s := by simp [State.dropXlats]

/-! ### Runs and their nodes -/

@[simp] theorem roster_setNode (s : State) (q i : Nat) (f : RunNode → RunNode) : rosterOf (s.setNode q i f) = rosterOf s := by
  unfold State.setNode
  split <;> simp

@[simp] theorem roster_setNodeSt (s : State) (q i : Nat) (st : NodeState) : rosterOf (s.setNodeSt q i st) = rosterOf s := by simp [State.setNodeSt]
@[simp] theorem roster_feApply (a : FeAccess) (s : State) (pa : Nat) : rosterOf (FeAccess.apply a s pa) = rosterOf s := by simp [FeAccess.apply]

theorem roster_feMake {s t : State} {a : FeAccess} (h : s.feMake a = some t) : rosterOf t = rosterOf s := by
  unfold State.feMake at h
  split at h <;> cases h
  simp

@[simp] theorem roster_feWait (s : State) (a : FeAccess) : rosterOf (s.feWait a) = rosterOf s := by simp [State.feWait]

@[simp] theorem roster_finishRun (s : State) (r : Run) : rosterOf (s.finishRun r) = rosterOf s := by
  unfold State.finishRun
  dsimp only
  repeat' split
  all_goals simp

@[simp] theorem roster_tryEnd (s : State) (q : Nat) : rosterOf (s.tryEnd q) = rosterOf s := by
  unfold State.tryEnd
  dsimp only
  repeat' split
  all_goals simp
  all_goals exact roster_feMake ‹_›

@[simp] theorem roster_nodeDone (s : State) (q i : Nat) : rosterOf (s.nodeDone q i) = rosterOf s := by
  unfold State.nodeDone
  split <;> simp

@[simp] theorem roster_failRun (s : State) (q i code : Nat) : rosterOf (s.failRun q i code) = rosterOf s := by
  unfold State.failRun
  split <;> simp

@[simp] theorem roster_nodeAcquire (s : State) (r : Run) (n : RunNode) : rosterOf (s.nodeAcquire r n) = rosterOf s := by simp [State.nodeAcquire]
@[simp] theorem roster_nodePublish (s : State) (r : Run) (n : RunNode) : rosterOf (s.nodePublish r n) = rosterOf s := by simp [State.nodePublish]

@[simp] theorem roster_afterRelease (s : State) (q i : Nat) : rosterOf (s.afterRelease q i) = rosterOf s := by
  unfold State.afterRelease
  dsimp only
  repeat' split
  all_goals simp
  all_goals exact roster_feMake ‹_›

@[simp] theorem roster_nodeRelease (s : State) (q i : Nat) : rosterOf (s.nodeRelease q i) = rosterOf s := by
  unfold State.nodeRelease
  dsimp only
  repeat' split
  all_goals simp

@[simp] theorem roster_nodeTurn (s : State) (q i : Nat) : rosterOf (s.nodeTurn q i) = rosterOf s := by
  unfold State.nodeTurn
  repeat' split
  all_goals simp

@[simp] theorem roster_readWait (s : State) (q i : Nat) : rosterOf (s.readWait q i) = rosterOf s := by
  unfold State.readWait
  dsimp only
  repeat' split
  all_goals simp

@[simp] theorem roster_waitFails (s : State) (q i status : Nat) : rosterOf (s.waitFails q i status) = rosterOf s := by
  unfold State.waitFails
  split <;> simp

@[simp] theorem ok_feCopyStart (s : State) (owner : CopyOwner) (part : Nat) (src dst bytes sync : Nat) {n : Nat} (h : (rosterOf s).Ok n) :
    (rosterOf (s.feCopyStart owner part src dst bytes sync)).Ok n := by
  unfold State.feCopyStart
  dsimp only
  refine ok_raised (x := (if bitsOf sync 18 1 == 1 then s.takeSeq part (bitsOf sync 0 12) else (none, s)).2) h rfl rfl (Nat.le_succ _) ?_
  split <;> simp

@[simp] theorem roster_bindEntry (s : State) (die i : Nat) (e : LstEntry) : rosterOf (s.bindEntry die i e) = rosterOf s := by simp [State.bindEntry]

@[simp] theorem roster_distribute (s : State) (q i : Nat) (b : Qsb) : rosterOf (s.distribute q i b) = rosterOf s := by
  unfold State.distribute
  split
  · rfl
  · dsimp only
    split
    · rfl
    · rw [roster_setNode]
      refine (roster_foldl (fun s x => ?_) _ _).trans (by simp)
      split <;> simp

theorem roster_placeRange {s t : State} {e : LstEntry} (h : s.placeRange e = some t) : rosterOf t = rosterOf s := by
  have bound {l : List (Nat × Nat × Nat)} {f : State → Nat × Nat × Nat → Option State}
      (one : ∀ s t x, f s x = some t → rosterOf t = rosterOf s)
      (o : Option State) (t : State) (h : l.foldl (fun o x => o.bind fun s => f s x) o = some t) : ∃ s, o = some s ∧ rosterOf t = rosterOf s := by
    induction l generalizing o with
    | nil => exact ⟨t, h, rfl⟩
    | cons x l ih =>
      obtain ⟨s1, e, same⟩ := ih _ h
      obtain ⟨s0, rfl, e⟩ := Option.bind_eq_some_iff.1 e
      exact ⟨s0, rfl, same.trans (one _ _ _ e)⟩
  unfold State.placeRange at h
  split at h
  · cases h
  · dsimp only at h
    split at h
    · cases h
    · obtain ⟨s0, e, same⟩ := bound (fun s t x e => by obtain ⟨k, _, rfl⟩ := Option.map_eq_some_iff.1 e; simp) _ _ h
      cases e
      exact same

@[simp] theorem roster_placeRanges (s : State) : rosterOf s.placeRanges = rosterOf s := by
  refine roster_foldl (fun s e => ?_) _ _
  split
  · simpa using roster_placeRange ‹_›
  · rfl

@[simp] theorem ok_serveNode (s : State) (q : Nat) (b : Qsb) (i : Nat) {n : Nat} (h : (rosterOf s).Ok n) : (rosterOf (s.serveNode q b i)).Ok n := by
  unfold State.serveNode
  repeat' split
  all_goals simp [h]

@[simp] theorem ok_serveReady (q : Nat) (b : Qsb) (k : Nat) (s : State) {n : Nat} (h : (rosterOf s).Ok n) : (rosterOf (s.serveReady q b k)).Ok n := by
  induction k generalizing s with
  | zero => exact h
  | succ k ih => exact ih _ (ok_foldl (fun _ _ h => ok_serveNode _ _ _ _ h) _ _ h)

@[simp] theorem roster_captureStart (s : State) (r : Run) (e : Nat) (t : List DWord) (list n : Nat) :
    rosterOf (s.captureStart r e t list n) = rosterOf s := by
  simp [State.captureStart]

@[simp] theorem roster_startRun (s : State) (q : Nat) (b : Qsb) : rosterOf (s.startRun q b) = rosterOf s := by
  unfold State.startRun
  dsimp only
  repeat' split
  all_goals simp

@[simp] theorem roster_unparkNodes (s : State) (q : Nat) : rosterOf (s.unparkNodes q) = rosterOf s := by
  unfold State.unparkNodes
  refine roster_foldl (fun _ _ => ?_) _ _
  repeat' split
  all_goals simp

@[simp] theorem roster_report (s : State) (die i : Nat) : rosterOf (s.report die i) = rosterOf s := by
  unfold State.report
  dsimp only
  split <;> simp

@[simp] theorem ok_tellCopy (s : State) (x : Copy) {n0 : Nat} (h : (rosterOf s).Ok n0) : (rosterOf (s.tellCopy x)).Ok n0 := by
  unfold State.tellCopy
  split <;> simp [h]

end Sys2Proof.PlacementAndResources
end

section
/-! PROOFS. Placement, decisions, what a step settles and returns keep the numbers of teams and groups apart. -/

namespace Sys2Proof.PlacementAndResources

open Sys2Proof.Machine Sys2Proof.Safety Sys2Proof.Claims Sys2Proof.Laws

/-! ### Resampling -/

@[simp] theorem roster_popPut (s s0 : State) (core part va : Nat) (bs : List Byte) : rosterOf (s.popPut s0 core part va bs) = rosterOf s := by
  simp [State.popPut]

@[simp] theorem roster_setCounts (s s0 : State) (core part va arrived done : Nat) :
    rosterOf (s.setCounts s0 core part va arrived done) = rosterOf s := by
  simp [State.setCounts]

@[simp] theorem roster_arriveSlot (s s0 : State) (c : Ctx) (o : PopObj) (i w : Nat) : rosterOf (s.arriveSlot s0 c o i w) = rosterOf s := by
  simp [State.arriveSlot]

@[simp] theorem roster_writePrefixes (s0 : State) (core part : Nat) (o : PopObj) (ws : List Nat) (s : State) (i acc : Nat) :
    rosterOf (s.writePrefixes s0 core part o i acc ws).1 = rosterOf s := by
  induction ws generalizing s i acc with
  | nil => rfl
  | cons w ws ih => rw [State.writePrefixes, ih, roster_popPut]

@[simp] theorem roster_endRsmp (s : State) (core part va : Nat) (data : Word) : rosterOf (s.endRsmp core part va data) = rosterOf s := by
  unfold State.endRsmp
  dsimp only
  refine roster_groups s (fun g => ?_)
  split <;> exact ⟨rfl, rfl⟩

@[simp] theorem roster_closeRound (s s0 : State) (core part va : Nat) (o : PopObj) : rosterOf (s.closeRound s0 core part va o) = rosterOf s := by
  simp [State.closeRound]
@[simp] theorem roster_rsmpPrefix (s s0 : State) (c : Ctx) (va : Nat) : rosterOf (s.rsmpPrefix s0 c va) = rosterOf s := by simp [State.rsmpPrefix]

/-! ### Loading a team -/

theorem roster_takeAreas {part size n : Nat} {s t : State} {l : List (Nat × Nat)} (h : s.takeAreas part size n = some (l, t)) :
    rosterOf t = rosterOf s := by
  induction n generalizing s l with
  | zero => cases h; rfl
  | succ n ih =>
    rw [State.takeAreas] at h
    dsimp only at h
    repeat' split at h
    all_goals cases h
    rw [ih ‹_›, roster_putPart]

@[simp] theorem roster_loadDict (s : State) (core : Nat) (img : Image) : rosterOf (s.loadDict core img) = rosterOf s := by
  unfold State.loadDict
  split <;> simp

/-- A team and its groups take the next numbers. -/
theorem ok_started {r q : Roster} {n k : Nat} (h : r.Ok n) (uids : q.uids = r.uids ++ [r.fresh])
    (gids : q.gids = r.gids ++ (List.range k).map fun i => (r.fresh + 1 + i, r.fresh)) (fresh : q.fresh = r.fresh + 1 + k) : q.Ok n where
  uids := by
    rw [uids, List.nodup_append]
    refine ⟨h.uids, List.nodup_singleton _, fun a ha b hb => ?_⟩
    rw [List.mem_singleton.1 hb]
    exact Nat.ne_of_lt (h.teams a ha)
  gids := by
    have new : (((List.range k).map fun i => (r.fresh + 1 + i, r.fresh)).map Prod.fst).Nodup := by
      rw [List.map_map]
      exact List.nodup_range.map fun a b e => Nat.add_left_cancel e
    rw [gids, List.map_append, List.nodup_append]
    refine ⟨h.gids, new, fun a ha b hb => ?_⟩
    obtain ⟨j, hj, rfl⟩ := List.mem_map.1 ha
    obtain ⟨_, hi, rfl⟩ := List.mem_map.1 hb
    obtain ⟨i, _, rfl⟩ := List.mem_map.1 hi
    have := (h.groups j hj).1
    dsimp only
    omega
  teams u hu := by
    rw [uids, List.mem_append, List.mem_singleton] at hu
    rcases hu with old | rfl
    · have := h.teams u old; omega
    · omega
  groups j hj := by
    rw [gids, List.mem_append] at hj
    rcases hj with old | new
    · have := h.groups j old; omega
    · obtain ⟨i, hi, rfl⟩ := List.mem_map.1 new
      have := List.mem_range.1 hi
      dsimp only
      omega
  fresh := by have := h.fresh; omega

@[simp] theorem ok_loadTeam (s : State) (core : Nat) (e : LstEntry) (info : Launch) (img : Image) (area : Nat × Nat) {n : Nat} (h :
    (rosterOf s).Ok n) :
    (rosterOf (s.loadTeam core e info img area)).Ok n := by
  unfold State.loadTeam
  dsimp only
  rw [roster_clearL1, roster_grant]
  obtain ⟨s0, hs0⟩ : ∃ s0, s0 = if info.dict then s.loadDict core img else s := ⟨_, rfl⟩
  have same : rosterOf s0 = rosterOf s := by rw [hs0]; simp
  have uids : s0.teams.map Team.uid = s.teams.map Team.uid := congrArg Roster.uids same
  have gids : s0.groups.map (fun g => (g.gid, g.team)) = s.groups.map fun g => (g.gid, g.team) := congrArg Roster.gids same
  rw [← hs0]
  refine ok_started (k := info.gpt) h ?_ ?_ rfl
  · simp only [rosterOf, List.map_append, uids]
    rfl
  · simp only [rosterOf, List.map_append, gids, List.map_map]
    rfl

/-! ### Decisions on requests -/

@[simp] theorem ok_endRacq (s : State) (r : Request) (data : Word) {n : Nat} (h : (rosterOf s).Ok n) : (rosterOf (s.endRacq r data)).Ok n := by
  refine ok_at h fun m h low => ?_
  unfold State.endRacq
  split
  · exact h
  · have low := low _ (List.mem_of_find?_eq_some ‹_›)
    simp [h, low]

@[simp] theorem ok_refuseHead (s : State) (t : Team) (r : Request) (info : Nat) {n : Nat} (h : (rosterOf s).Ok n) :
    (rosterOf (s.refuseHead t r info)).Ok n := by
  have h : (rosterOf (s.putTeam t.popReq)).Ok n := by simpa using h
  refine ok_at h fun m h low => ?_
  unfold State.refuseHead
  dsimp only
  split
  · exact h
  · have low := low _ (List.mem_of_find?_eq_some ‹_›)
    repeat' split
    · exact ok_trapTo _ _ _ _ _ _ h low
    · exact ok_endRacq _ _ _ h
    · exact h

@[simp] theorem ok_redecideFrom (n : Nat) (s : State) (core : Nat) (refused : List Nat) {m : Nat} (h : (rosterOf s).Ok m) :
    (rosterOf (redecideFrom n s core refused)).Ok m := by
  induction n generalizing s refused with
  | zero => exact h
  | succ n ih =>
    rw [redecideFrom]
    split
    · exact h
    · dsimp only
      repeat' split
      · exact ih _ _ (ok_refuseHead _ _ _ _ h)
      · exact ih _ _ (ok_endRacq _ _ _ (by simpa using h))
      · exact ih _ _ h

@[simp] theorem ok_redecide (s : State) (core : Nat) {n : Nat} (h : (rosterOf s).Ok n) : (rosterOf (s.redecide core)).Ok n :=
  ok_redecideFrom _ _ _ _ h
@[simp] theorem ok_redecideAll (s : State) {n : Nat} (h : (rosterOf s).Ok n) : (rosterOf s.redecideAll).Ok n :=
  ok_foldl (fun _ _ h => ok_redecide _ _ h) _ _ h

/-! ### Ends of paths and entries -/

@[simp] theorem ok_popDue (s : State) (g : Group) (t : Team) (f : Frame) (p : Path) {n : Nat} (h : (rosterOf s).Ok n) (low : g.team < n) :
    (rosterOf (popDue s g t f p)).Ok n := by
  unfold popDue
  split <;> simp [h, low]

@[simp] theorem ok_completeStep (s : State) (g : Group) (t : Team) (e : Entry) {n : Nat} (h : (rosterOf s).Ok n) (low : g.team < n) :
    (rosterOf (completeStep s g t e)).Ok n := by
  unfold completeStep
  split <;> simp [h, low]

@[simp] theorem ok_joinAt (s : State) (g : Group) (t : Team) (p : Path) (e : Entry) (next : VAddr) {n : Nat} (h : (rosterOf s).Ok n)
    (low : g.team < n) : (rosterOf (joinAt s g t p e next)).Ok n := by
  simp [joinAt, h, low]

/-! ### What follows a step of itself -/

theorem ok_settleOnce {s s1 : State} {g : Group} {t : Team} (e : settleOnce s g t = some s1) {n : Nat} (h : (rosterOf s).Ok n) (low : g.team < n) :
    (rosterOf s1).Ok n := by
  unfold settleOnce at e
  split at e
  · cases e; simp [h, low]
  split at e
  · cases e
    have into (b : Path) : ((g.finishInto b).getD (g.dropPath b.pid)).team = g.team := by
      cases k : g.finishInto b with
      | none => rfl
      | some g1 => exact team_finishInto k
    simp [h, low, into]
  split at e
  · cases e; simp [h, low]
  split at e
  · cases e; simp [h, low]
  split at e
  · cases e; simp [h, low]
  split at e
  · cases e
    rename_i g1 k
    have kept : g1.team = g.team := by
      cases merged : g.releaseCollective with
      | none => rw [merged] at k; exact team_unpark k
      | some g2 => rw [merged] at k; cases k; exact team_releaseCollective merged
    simp [h, low, kept]
  · cases e

@[simp] theorem ok_settleGroup (k : Nat) (s : State) (gid : Nat) {n : Nat} (h : (rosterOf s).Ok n) : (rosterOf (settleGroup k s gid)).Ok n := by
  induction k generalizing s with
  | zero => exact h
  | succ k ih =>
    rw [settleGroup]
    split
    · exact h
    split
    · exact h
    split
    · refine ih _ (ok_at h fun m h low => ok_settleOnce ‹_› h (low _ (List.mem_of_find?_eq_some ‹_›)))
    · exact h

@[simp] theorem ok_settleGroups (s : State) {n : Nat} (h : (rosterOf s).Ok n) : (rosterOf s.settleGroups).Ok n :=
  ok_foldl (fun _ _ h => ok_settleGroup _ _ _ h) _ _ h
@[simp] theorem roster_startTimers (s : State) : rosterOf s.startTimers = rosterOf s :=
  roster_teams s fun t => by split <;> rfl
@[simp] theorem roster_watchOut (s : State) : rosterOf s.watchOut = rosterOf s :=
  roster_teams s fun t => by split <;> rfl
@[simp] theorem ok_sweep (s : State) {n : Nat} (h : (rosterOf s).Ok n) : (rosterOf s.sweep).Ok n :=
  ok_foldl (fun _ _ h => ok_sweepGang _ _ (ok_sweepBars _ _ h)) _ _ h
@[simp] theorem roster_markReady (s : State) : rosterOf s.markReady = rosterOf s :=
  roster_groups s fun g => by split <;> exact ⟨rfl, rfl⟩

@[simp] theorem ok_settle (s : State) {n : Nat} (h : (rosterOf s).Ok n) : (rosterOf s.settle).Ok n := by
  have swept := ok_redecideAll _ (ok_settleGroups _ (ok_sweep _ (ok_settleGroups _ h)))
  simpa [State.settle] using swept

/-! ### Teams that return -/

@[simp] theorem roster_restoreSlots (s : State) (t : Team) : rosterOf (s.restoreSlots t).1 = rosterOf s := by
  simp [State.restoreSlots]

@[simp] theorem ok_backState (s : State) (t : Team) (core : Nat) {n : Nat} (h : (rosterOf s).Ok n) : (rosterOf (backState s t core)).Ok n := by
  refine ok_at h fun m h low => ?_
  have seated (l : List (Group × Nat)) (own : ∀ x ∈ l, x.1 ∈ s.groups) (f : Group × Nat → Nat) (s0 : State) (h : (rosterOf s0).Ok m) :
      (rosterOf (l.foldl (fun (s : State) x => s.putGroup { x.1 with slot := f x }) s0)).Ok m := by
    induction l generalizing s0 with
    | nil => exact h
    | cons x l ih =>
      exact ih (fun y hy => own y (List.mem_cons_of_mem _ hy)) _ (by simpa using ok_put h (low _ (own x (List.mem_cons_self ..))))
  have h := seated (s.groupsOf t.uid).zipIdx (fun x hx => List.mem_of_mem_filter (List.fst_mem_of_mem_zipIdx hx)) (fun x =>
      (s.slotsFree core).getD x.2 0) s h
  unfold backState
  rw [roster_clearL1, roster_openQueues, roster_closeQueues, rosterOf_mk, roster_putTeam, roster_restoreSlots]
  unfold seatedState
  dsimp only
  split
  · rw [roster_loadDict]; exact h
  · exact h

theorem ok_readmit {s s1 : State} {t : Team} {core : Nat} (e : s.readmit t core = some s1) {n : Nat} (h : (rosterOf s).Ok n) :
    (rosterOf s1).Ok n := by
  obtain ⟨_, _, rfl⟩ := readmit_some e
  split
  · exact ok_endRacq _ _ _ (by simpa using ok_backState s t core h)
  · exact ok_backState s t core h

theorem ok_tryReturn {s s1 : State} {t : Team} {dest : Nat} (e : s.tryReturn t dest = some s1) {n : Nat} (h : (rosterOf s).Ok n) :
    (rosterOf s1).Ok n := by
  have all (l : List (Team × Nat)) (o : Option State) (ho : ∀ s0, o = some s0 → (rosterOf s0).Ok n)
      (e : l.foldl (fun a x => match a, s.team x.1.uid with
        | some s1, some u => s1.readmit u x.2
        | _, _ => none) o = some s1) : (rosterOf s1).Ok n := by
    induction l generalizing o with
    | nil => exact ho _ e
    | cons x l ih =>
      refine ih _ (fun s0 k => ?_) e
      dsimp only at k
      split at k
      · exact ok_readmit k (ho _ rfl)
      · cases k
  unfold State.tryReturn at e
  split at e
  · cases e
  · exact all _ _ (fun s0 k => by cases k; exact h) e

/-! ### Moves between region and pool -/

@[simp] theorem roster_toPool (s : State) (i : Item) : rosterOf (s.toPool i) = rosterOf s := by
  unfold State.toPool
  split <;> simp

theorem roster_toRegion {s t : State} {i : Item} (h : s.toRegion i = some t) : rosterOf t = rosterOf s := by
  unfold State.toRegion at h
  split at h
  · cases h
  · dsimp only at h
    split at h <;> cases h
    simp

@[simp] theorem roster_refill (l : List Item) (s : State) : rosterOf (s.refill l) = rosterOf s := by
  induction l generalizing s with
  | nil => rfl
  | cons i l ih =>
    rw [State.refill]
    split
    · rw [ih, roster_toRegion ‹_›]
    · rfl

end Sys2Proof.PlacementAndResources
end

section
/-! PROOFS. Engines, faults, swaps, errors, the service core and issuing keep the numbers of teams and groups apart. -/

namespace Sys2Proof.PlacementAndResources

open Sys2Proof.Machine Sys2Proof.Safety Sys2Proof.Claims Sys2Proof.Laws

/-! ### Accumulator slots and new records -/

@[simp] theorem roster_putSlot (s : State) (core n : Nat) (a : AccSlot) : rosterOf (s.putSlot core n a) = rosterOf s := by simp [State.putSlot]
@[simp] theorem roster_mapSlot (s : State) (core n : Nat) (f : AccSlot → AccSlot) : rosterOf (s.mapSlot core n f) = rosterOf s := by
  simp [State.mapSlot]
@[simp] theorem ok_enqueue (s : State) (r : Record) {n : Nat} (h : (rosterOf s).Ok n) : (rosterOf (s.enqueue r)).Ok n :=
  ok_raised (x := s) h rfl rfl (Nat.le_succ _) rfl

/-! ### The matrix engines -/

@[simp] theorem roster_putRecord (s : State) (r : Record) : rosterOf (s.putRecord r) = rosterOf s := by simp [State.putRecord]

@[simp] theorem roster_fetchSpans (s : State) (core part : Nat) (spans : List (Nat × Nat)) :
    rosterOf (s.fetchSpans core part spans) = rosterOf s := by
  unfold State.fetchSpans
  refine roster_foldl (fun _ _ => ?_) _ _
  repeat' split
  all_goals simp

theorem roster_engineWrite {s t : State} {core part va : Nat} {bs : List Byte} (h : s.engineWrite core part va bs = .ok t) :
    rosterOf t = rosterOf s := by
  unfold State.engineWrite at h
  repeat' split at h
  all_goals cases h
  simp

theorem roster_engineWrites {core part : Nat} {l : List (Nat × List Byte)} {s t : State} (h : s.engineWrites core part l = .ok t) :
    rosterOf t = rosterOf s := by
  induction l generalizing s with
  | nil => cases h; rfl
  | cons x l ih =>
    rw [State.engineWrites] at h
    split at h
    · rw [ih h, roster_engineWrite ‹_›]
    · cases h

@[simp] theorem roster_stopRecord (s : State) (r : Record) (e : EngStop) : rosterOf (s.stopRecord r e) = rosterOf s := by
  cases e <;> exact roster_putRecord ..
@[simp] theorem ok_startJoint (s : State) (r : Record) {n : Nat} (h : (rosterOf s).Ok n) : (rosterOf (s.startJoint r)).Ok n :=
  ok_raised (x := s) h rfl rfl (Nat.le_succ _) rfl

@[simp] theorem ok_startRecord (s : State) (r : Record) {n0 : Nat} (h : (rosterOf s).Ok n0) : (rosterOf (s.startRecord r)).Ok n0 := by
  unfold State.startRecord
  dsimp only
  repeat' split
  all_goals simp [h]

@[simp] theorem roster_askTickets (s : State) (quad : Nat) : rosterOf (s.askTickets quad) = rosterOf s := by
  unfold State.askTickets
  refine roster_foldl (fun _ _ => ?_) _ _
  repeat' split
  all_goals simp

theorem roster_mulChunk {s t : State} {r : Record} {slot aBase aStride bBase bStride c : Nat}
    (h : s.mulChunk r slot aBase aStride bBase bStride c = .ok t) : rosterOf t = rosterOf s := by
  unfold State.mulChunk at h
  dsimp only at h
  split at h <;> cases h
  simp

theorem roster_mmavChunk {s t : State} {r : Record} {c : Nat} (h : s.mmavChunk r c = .ok t) : rosterOf t = rosterOf s := by
  unfold State.mmavChunk at h
  dsimp only at h
  split at h <;> cases h
  simp

theorem roster_loadBlock {s t : State} {r : Record} {b : Nat} (h : s.loadBlock r b = .ok t) : rosterOf t = rosterOf s := by
  unfold State.loadBlock at h
  dsimp only at h
  split at h <;> cases h
  simp

theorem roster_storeBlock {s t : State} {r : Record} {b : Nat} (h : s.storeBlock r b = .ok t) : rosterOf t = rosterOf s := by
  unfold State.storeBlock at h
  dsimp only at h
  split at h
  · cases h; rfl
  · split at h <;> cases h
    rw [roster_mapSlot, roster_engineWrites ‹_›]

theorem roster_mergeBlock {s t : State} {r : Record} {b : Nat} (h : s.mergeBlock r b = .ok t) : rosterOf t = rosterOf s := by
  unfold State.mergeBlock at h
  dsimp only at h
  split at h
  · cases h; rfl
  · split at h
    · cases h
    · split at h <;> cases h
      rw [roster_mapSlot, roster_engineWrites ‹_›]

@[simp] theorem roster_wakeArrays (s : State) (core : Nat) : rosterOf (s.wakeArrays core) = rosterOf s := by simp [State.wakeArrays]

theorem roster_groupEntry {s t : State} {r r1 : Record} (h : s.groupEntry r = .ok (t, r1)) : rosterOf t = rosterOf s := by
  unfold State.groupEntry at h
  dsimp only at h
  repeat' split at h
  all_goals cases h
  all_goals simp

theorem roster_joinChunk {s t : State} {ps : List Record} (h : s.joinChunk ps = .ok t) : rosterOf t = rosterOf s := by
  have all (l : List Record) (f : State → Record → Except EngStop State) (one : ∀ s r t, f s r = .ok t → rosterOf t = rosterOf s) (s : State)
      (h : l.foldlM f s = .ok t) : rosterOf t = rosterOf s := by
    induction l generalizing s with
    | nil => cases h; rfl
    | cons r l ih =>
      rw [List.foldlM_cons] at h
      cases e : f s r with
      | error x => rw [e] at h; cases h
      | ok s1 =>
        rw [e] at h
        rw [ih _ h, one _ _ _ e]
  refine all ps _ (fun s r t h => ?_) s h
  dsimp only at h
  split at h
  · cases h
  · exact roster_mulChunk h

@[simp] theorem roster_stepJoint (s : State) (r : Record) : rosterOf (s.stepJoint r) = rosterOf s := by
  unfold State.stepJoint
  dsimp only
  repeat' split
  case h_1 => rw [roster_foldl fun _ _ => roster_putRecord .., roster_foldl fun _ _ => roster_wakeArrays .., roster_joinChunk ‹_›]
  all_goals simp

@[simp] theorem roster_stepMul (s : State) (r : Record) : rosterOf (s.stepMul r) = rosterOf s := by
  unfold State.stepMul
  dsimp only
  split
  · simp
  · split
    · rename_i t e
      rw [roster_putRecord, roster_wakeArrays]
      repeat' split at e
      · exact roster_mmavChunk e
      · exact roster_mulChunk e
      · exact roster_mulChunk e
    · simp

theorem roster_stepBlock (s : State) (r : Record) {out : Except EngStop State} (kept : ∀ t, out = .ok t → rosterOf t = rosterOf s) :
    rosterOf (s.stepBlock r out) = rosterOf s := by
  unfold State.stepBlock
  split
  · simpa using kept _ rfl
  · simp

@[simp] theorem roster_releaseRecord (s : State) (r : Record) : rosterOf (s.releaseRecord r).1 = rosterOf s := by
  unfold State.releaseRecord
  dsimp only
  repeat' split
  all_goals simp

@[simp] theorem roster_acquireRecord (s : State) (r : Record) : rosterOf (s.acquireRecord r) = rosterOf s := by simp [State.acquireRecord]
@[simp] theorem ok_endRecord (s : State) (r : Record) {n0 : Nat} (h : (rosterOf s).Ok n0) : (rosterOf (s.endRecord r)).Ok n0 := by
  simp [State.endRecord, h]

theorem roster_advanceTicket {s t : State} {r : Record} (h : s.advanceTicket r = .ok t) : rosterOf t = rosterOf s := by
  unfold State.advanceTicket at h
  split at h
  · cases h
  · exact roster_engineWrite h

@[simp] theorem roster_markFail (s : State) (r : Record) : rosterOf (s.markFail r) = rosterOf s := by simp [State.markFail]

@[simp] theorem ok_mergeStore (s : State) (r : Record) {n : Nat} (h : (rosterOf s).Ok n) : (rosterOf (s.mergeStore r)).Ok n := by
  refine ok_at h fun m h low => ?_
  unfold State.mergeStore
  split
  · split
    · have low := low _ (List.mem_of_find?_eq_some ‹_›)
      simp [h, low]
    · exact h
  · exact h

@[simp] theorem ok_closeRecord (s : State) (r : Record) {n : Nat} (h : (rosterOf s).Ok n) : (rosterOf (s.closeRecord r)).Ok n := by
  unfold State.closeRecord
  dsimp only
  generalize hs0 : (if (r.failed || r.cancelled) = true then s.markFail r else s) = s0
  have h : (rosterOf s0).Ok n := by
    rw [← hs0]
    simpa using h
  split
  · split
    · simpa [roster_advanceTicket ‹_›] using h
    · simpa using h
    · simpa using h
  · split
    · split
      · simpa [roster_engineWrite ‹_›] using h
      · simpa using h
      · simpa using h
    · repeat' split
      · simpa using h
      · exact ok_endRecord _ _ (ok_mergeStore _ _ (by simpa using h))
      · exact ok_foldl (fun _ _ h => ok_endRecord _ _ h) _ _ (by simpa using h)
      · simpa using h

@[simp] theorem roster_spreadFail (s : State) (r : Record) : rosterOf (s.spreadFail r) = rosterOf s := by simp [State.spreadFail]
@[simp] theorem roster_cancelCopy (s : State) (gid h : Nat) (tag : BitVec 16) : rosterOf (s.cancelCopy gid h tag) = rosterOf s := by
  simp [State.cancelCopy]
@[simp] theorem roster_cancelRecord (s : State) (gid h : Nat) (tag : BitVec 16) : rosterOf (s.cancelRecord gid h tag) = rosterOf s := by
  simp [State.cancelRecord]

/-! ### The fault service -/

@[simp] theorem roster_putFaultReq (s : State) (q : FaultReq) : rosterOf (s.putFaultReq q) = rosterOf s := by simp [State.putFaultReq]

@[simp] theorem roster_askHost (s : State) (q : FaultReq) : rosterOf (s.askHost q) = rosterOf s := by
  unfold State.askHost
  split <;> simp

@[simp] theorem roster_answerFe (s : State) (st : Nat) (a : FeAccess) : rosterOf (s.answerFe st a) = rosterOf s := by
  unfold State.answerFe
  extract_lets fe s0 code names s1
  have same : rosterOf s1 = rosterOf s := by
    simp only [s1]
    split
    · rw [roster_feMake ‹_›]; simp [s0]
    · simp [s0]
  rw [← same]
  clear_value s1
  repeat' split
  all_goals simp

@[simp] theorem roster_answerNode (s : State) (part region st q i : Nat) : rosterOf (s.answerNode part region st q i) = rosterOf s := by
  unfold State.answerNode
  dsimp only
  repeat' split
  all_goals simp

@[simp] theorem roster_answerAll (s : State) (part region st : Nat) : rosterOf (s.answerAll part region st) = rosterOf s := by
  have answered (s : State) (g : Group) : (s.answerGroup part region st g).gid = g.gid ∧ (s.answerGroup part region st g).team = g.team := by
    unfold State.answerGroup
    repeat' split
    all_goals exact ⟨rfl, rfl⟩
  unfold State.answerAll
  dsimp only
  rw [roster_foldl fun _ _ => roster_answerNode .., roster_foldl fun _ _ => roster_answerFe ..]
  split
  · exact roster_of_groups (s := s) rfl rfl rfl (answered _)
  · exact roster_of_groups (s := s) rfl rfl rfl (answered _)

@[simp] theorem roster_bankAlu (s : State) (pa fn v cmp : Nat) : rosterOf (s.bankAlu pa fn v cmp) = rosterOf s := by simp [State.bankAlu]

@[simp] theorem roster_peerRelease (s : State) (part soid : Nat) : rosterOf (s.peerRelease part soid) = rosterOf s := by
  unfold State.peerRelease
  dsimp only
  split <;> simp

/-! ### Teams and gangs placed -/

@[simp] theorem roster_noteUnfit (s : State) (core : Nat) (seq : Word) : rosterOf (s.noteUnfit core seq) = rosterOf s := by
  unfold State.noteUnfit
  dsimp only
  split <;> simp

@[simp] theorem roster_noteFit (s : State) (core : Nat) : rosterOf (s.noteFit core) = rosterOf s := by simp [State.noteFit]
@[simp] theorem roster_drain (s : State) (die i : Nat) : rosterOf (s.drain die i) = rosterOf s := by simp [State.drain]
@[simp] theorem roster_dropPlan (s : State) (p : GangPlan) (keep : Option GangPlan) : rosterOf (s.dropPlan p keep) = rosterOf s := by
  simp [State.dropPlan]

@[simp] theorem ok_placeOne (s : State) (core i : Nat) (e : LstEntry) (img : Image) (k : Kernel) {n : Nat} (h : (rosterOf s).Ok n) :
    (rosterOf (s.placeOne core i e img k)).Ok n := by
  unfold State.placeOne
  dsimp only
  split
  · rename_i a s1 taken
    have same : rosterOf s1 = rosterOf s := by
      split at taken
      · exact roster_takeAreas taken
      · cases taken
    split
    · simpa using h
    · rw [roster_noteFit]
      exact ok_loadTeam _ _ _ _ _ _ (by simpa [same] using h)
  · simpa using h

@[simp] theorem ok_loadGang (p : GangPlan) (e : LstEntry) (img : Image) (k : Kernel) (n : Nat) (s : State) (j : Nat) (areas : List (Nat ×
    (Nat × Nat)))
    {m : Nat} (h : (rosterOf s).Ok m) : (rosterOf (s.loadGang p e img k n j areas)).Ok m := by
  induction n generalizing s j areas with
  | zero => exact h
  | succ n ih =>
    rw [State.loadGang]
    dsimp only
    split
    · exact h
    · exact ih _ _ _ (ok_loadTeam _ _ _ _ _ _ h)

@[simp] theorem ok_placeGang (s : State) (core i : Nat) (e : LstEntry) (img : Image) (k : Kernel) (dom size : Nat) {n : Nat} (h : (rosterOf s).Ok n) :
    (rosterOf (s.placeGang core i e img k dom size)).Ok n := by
  unfold State.placeGang
  dsimp only
  split
  · simpa using h
  · repeat' split
    · simpa using h
    · exact h
    · simpa using h
    · rw [roster_noteFit]
      exact ok_loadGang _ _ _ _ _ _ _ _ (by simpa using h)

/-! ### Swaps -/

@[simp] theorem roster_stopWork (s : State) (uid : Nat) : rosterOf (s.stopWork uid) = rosterOf s := by simp [State.stopWork]

@[simp] theorem roster_beginSwap (s : State) (uid : Nat) (switched : Bool) : rosterOf (s.beginSwap uid switched) = rosterOf s := by
  unfold State.beginSwap
  split <;> simp

@[simp] theorem roster_resume (s : State) (t : Team) : rosterOf (s.resume t) = rosterOf s := by
  unfold State.resume
  dsimp only
  simp

@[simp] theorem roster_preempt (s : State) (t : Team) : rosterOf (s.preempt t) = rosterOf s := by
  unfold State.preempt
  split <;> simp

@[simp] theorem roster_saveContext (s : State) (t : Team) : rosterOf (s.saveContext t) = rosterOf s := by simp [State.saveContext]

@[simp] theorem roster_swapOut (s : State) (t : Team) : rosterOf (s.swapOut t) = rosterOf s := by
  unfold State.swapOut
  dsimp only
  rw [roster_openQueues, roster_closeQueues, roster_foldl fun _ _ => roster_toPool ..]
  simp

/-! ### Errors and resets -/

@[simp] theorem roster_mbDone (s : State) (side : Bool) (code index : Nat) : rosterOf (s.mbDone side code index) = rosterOf s := by
  simp [State.mbDone]

@[simp] theorem roster_endBusy (s : State) (p code : Nat) : rosterOf (s.endBusy p code) = rosterOf s := by
  unfold State.endBusy
  split <;> simp

@[simp] theorem ok_killPart (s : State) (p reason : Nat) {n : Nat} (h : (rosterOf s).Ok n) : (rosterOf (s.killPart p reason)).Ok n := by
  refine ok_foldl (fun s u h => ?_) _ _ h
  split
  · exact ok_killTeam _ _ _ _ h
  · exact h

@[simp] theorem roster_cutEntry (s : State) (ps : List Nat) (d i : Nat) : rosterOf (s.cutEntry ps d i) = rosterOf s := by simp [State.cutEntry]
@[simp] theorem roster_cutEntries (s : State) (ps : List Nat) : rosterOf (s.cutEntries ps) = rosterOf s := by simp [State.cutEntries]
@[simp] theorem roster_startAgents (s : State) (p : Nat) : rosterOf (s.startAgents p) = rosterOf s := by simp [State.startAgents]

@[simp] theorem ok_clearPart (s : State) (p reason : Nat) (st : PartState) {n0 : Nat} (h : (rosterOf s).Ok n0) :
    (rosterOf (s.clearPart p reason st)).Ok n0 := by
  simp [State.clearPart, h]

@[simp] theorem ok_restartPart (s : State) (p reason : Nat) {n0 : Nat} (h : (rosterOf s).Ok n0) : (rosterOf (s.restartPart p reason)).Ok n0 := by
  simp [State.restartPart, h]

@[simp] theorem ok_errorReset (s : State) (p reason : Nat) {n0 : Nat} (h : (rosterOf s).Ok n0) : (rosterOf (s.errorReset p reason)).Ok n0 := by
  unfold State.errorReset
  split <;> simp [h]

@[simp] theorem roster_note (s : State) (e : SvcEvent) : rosterOf (s.note e) = rosterOf s := by simp [State.note]
@[simp] theorem roster_tellMasters (s : State) (e : SvcEvent) : rosterOf (s.tellMasters e) = rosterOf s := by simp [State.tellMasters]
@[simp] theorem roster_addBad (s : State) (pa : Nat) (retained : Bool) (mask : Nat) : rosterOf (s.addBad pa retained mask) = rosterOf s := by
  simp [State.addBad]
@[simp] theorem roster_discardLine (s : State) (pa : Nat) : rosterOf (s.discardLine pa) = rosterOf s := by simp [State.discardLine]

@[simp] theorem ok_overLimit (s : State) (pa src mask : Nat) {n : Nat} (h : (rosterOf s).Ok n) : (rosterOf (s.overLimit pa src mask)).Ok n := by
  unfold State.overLimit
  dsimp only
  rw [roster_placeRanges, roster_cutEntries]
  exact ok_foldl (fun _ _ h => ok_errorReset _ _ _ h) _ _ (by simpa using h)

@[simp] theorem ok_sectorError (s : State) (pa src mask : Nat) {n0 : Nat} (h : (rosterOf s).Ok n0) :
    (rosterOf (s.sectorError pa src mask)).Ok n0 := by
  simp [State.sectorError, h]

@[simp] theorem ok_registerError (s : State) (gid pid : Nat) {n : Nat} (h : (rosterOf s).Ok n) : (rosterOf (s.registerError gid pid)).Ok n := by
  refine ok_at h fun m h low => ?_
  unfold State.registerError
  split
  · exact h
  · have low := low _ (List.mem_of_find?_eq_some ‹_›)
    split
    · dsimp only
      split
      · exact h
      · exact ok_trapTo _ _ _ _ _ _ (by simpa using h) low
    · exact h

@[simp] theorem roster_loseItems (s : State) (l : List Item) : rosterOf (s.loseItems l) = rosterOf s := by simp [State.loseItems]

@[simp] theorem ok_containCore (s : State) (k : Nat) {n : Nat} (h : (rosterOf s).Ok n) : (rosterOf (s.containCore k)).Ok n := by
  unfold State.containCore
  dsimp only
  split
  · simpa using h
  · rw [roster_closeQueues, roster_putCore, roster_foldl fun _ _ => roster_dropPlan .., roster_loseItems, rosterOf_mk]
    refine ok_foldl (fun s u h => ?_) _ _ h
    split
    · exact ok_killTeam _ _ _ _ h
    · exact h

@[simp] theorem ok_containQuad (s : State) (q : Nat) {n : Nat} (h : (rosterOf s).Ok n) : (rosterOf (s.containQuad q)).Ok n := by
  have contained := ok_foldl (n := n) (fun s k h => ok_containCore s k h) (quadCores (4 * q)) s h
  simpa [State.containQuad] using contained

/-! ### The predictor engine -/

@[simp] theorem roster_clearScore (s : State) (r : Record) : rosterOf (s.clearScore r) = rosterOf s := by
  unfold State.clearScore
  split
  · rw [roster_putRecord, roster_engineWrites ‹_›]
  · simp

@[simp] theorem roster_stepScore (s : State) (r : Record) : rosterOf (s.stepScore r) = rosterOf s := by
  unfold State.stepScore
  dsimp only
  split
  · simp
  · split
    · rename_i t e
      repeat' split at e
      · cases e
      · cases e
      · rw [roster_putRecord, roster_engineWrites e]
    · simp

theorem roster_writeList {s t : State} {r r1 : Record} (h : s.writeList r = .ok (t, r1)) : rosterOf t = rosterOf s := by
  unfold State.writeList at h
  dsimp only at h
  split at h
  · cases h
  · split at h <;> cases h
    exact roster_engineWrites ‹_›

@[simp] theorem roster_mapTeam (s : State) (uid : Nat) (f : Team → Team) : rosterOf (s.mapTeam uid f) = rosterOf s := by
  unfold State.mapTeam
  split <;> simp

@[simp] theorem roster_finishList (s : State) (r : Record) : rosterOf (s.finishList r) = rosterOf s := by simp [State.finishList]

@[simp] theorem roster_stepSel (s : State) (r : Record) : rosterOf (s.stepSel r) = rosterOf s := by
  unfold State.stepSel
  dsimp only
  split
  · rename_i t r1 e
    rw [roster_finishList]
    repeat' split at e
    · cases e
    · cases e
    · cases e
    · cases e; exact roster_engineWrites ‹_›
    · rw [roster_writeList e, roster_engineWrites ‹_›]
  · simp

theorem roster_kerfToken {s t : State} {r r1 : Record} (h : s.kerfToken r = .ok (t, r1)) : rosterOf t = rosterOf s := by
  unfold State.kerfToken at h
  dsimp only at h
  repeat' split at h
  all_goals cases h
  all_goals rw [roster_engineWrites (t := t) ‹_›]
  all_goals exact roster_engineWrites ‹_›

@[simp] theorem roster_stepKerf (s : State) (r : Record) : rosterOf (s.stepKerf r) = rosterOf s := by
  unfold State.stepKerf
  split
  · rw [roster_finishList, roster_kerfToken ‹_›]
  · simp

theorem roster_ffnChunk {s t : State} {r : Record} {c : Nat} (h : s.ffnChunk r c = .ok t) : rosterOf t = rosterOf s := by
  unfold State.ffnChunk at h
  dsimp only at h
  split at h <;> cases h
  simp

@[simp] theorem roster_ffnWiden (s : State) (r : Record) : rosterOf (s.ffnWiden r) = rosterOf s := by simp [State.ffnWiden]

@[simp] theorem roster_stepFfn (s : State) (r : Record) : rosterOf (s.stepFfn r) = rosterOf s := by
  unfold State.stepFfn
  dsimp only
  repeat' split
  all_goals simp
  all_goals exact roster_ffnChunk ‹_›

@[simp] theorem roster_failStat (s : State) (r : Record) : rosterOf (s.failStat r) = rosterOf s := by
  unfold State.failStat
  dsimp only
  repeat' split
  · rfl
  · exact roster_engineWrite ‹_›
  · rfl

/-! ### The service core -/

@[simp] theorem roster_respond (s : State) (c : List DWord) (bs : List Byte) : rosterOf (s.respond c bs) = rosterOf s := by simp [State.respond]
@[simp] theorem roster_setPart (s : State) (p : Nat) (st : PartState) (busy : Option (Nat × Bool)) :
    rosterOf (s.setPart p st busy) = rosterOf s := rfl
@[simp] theorem roster_stopCopies (s : State) (p : Nat) : rosterOf (s.stopCopies p) = rosterOf s := by simp [State.stopCopies]
@[simp] theorem roster_dropL1 (s : State) (p : Nat) : rosterOf (s.dropL1 p) = rosterOf s := by simp [State.dropL1]

@[simp] theorem roster_reloadFrom (s : State) (side : Bool) (k : Nat) : rosterOf (s.reloadFrom side k) = rosterOf s := by
  unfold State.reloadFrom
  split <;> simp

@[simp] theorem roster_reloaded (s : State) (k : Nat) (side : Bool) : rosterOf (s.reloaded k side) = rosterOf s := by simp [State.reloaded]
@[simp] theorem roster_deliver (s : State) : rosterOf s.deliver = rosterOf s := by simp [State.deliver]

/-! ### Fetching -/

@[simp] theorem roster_consumeCode (s : State) (core part : Nat) (base : VAddr) : rosterOf (s.consumeCode core part base) = rosterOf s := by
  simp [State.consumeCode]

/-! ### Issuing -/

@[simp] theorem roster_landFor (s : State) (i : Instr) : rosterOf (s.landFor i) = rosterOf s := by simp [State.landFor]

@[simp] theorem ok_atWord (s : State) (g : Group) (p : Path) (w : Word) (addr ret next : VAddr) {n : Nat} (h : (rosterOf s).Ok n) (low : g.team < n) :
    (rosterOf (s.atWord g p w addr ret next)).Ok n := by
  unfold State.atWord
  simp [h, low]

@[simp] theorem roster_noteIssue (s : State) (g : Group) (t : Team) : rosterOf (s.noteIssue g t) = rosterOf s := by simp [State.noteIssue]

end Sys2Proof.PlacementAndResources
end

section
/-! PROOFS. The outcomes of words keep the numbers of teams and groups apart. -/

namespace Sys2Proof.PlacementAndResources

open Sys2Proof.Machine Sys2Proof.Safety Sys2Proof.Claims Sys2Proof.Laws

/-- Where an outcome goes on, its numbers are apart. -/
def Tidy (n : Nat) (o : Out) : Prop := ∀ t, o = .next t → (rosterOf t).Ok n

section
variable {n : Nat} {s : State} {c : Ctx} {g : Group}

@[simp] theorem tidy_next : Tidy n (.next s) ↔ (rosterOf s).Ok n :=
  ⟨fun h => h s rfl, fun h t e => by cases e; exact h⟩

@[simp] theorem tidy_ite {p : Prop} [Decidable p] {a b : Out} : Tidy n (if p then a else b) ↔ (p → Tidy n a) ∧ (¬ p → Tidy n b) := by
  split
  case isTrue h => exact ⟨fun k => ⟨fun _ => k, fun no => absurd h no⟩, fun k => k.1 h⟩
  case isFalse h => exact ⟨fun k => ⟨fun yes => absurd yes h, fun _ => k⟩, fun k => k.2 h⟩

@[simp] theorem tidy_finish (h : (rosterOf s).Ok n) (low : g.team < n) : Tidy n (finish s c g) := by simp [finish, h, low]
@[simp] theorem tidy_finishAt (a : VAddr) (h : (rosterOf s).Ok n) (low : g.team < n) : Tidy n (finishAt s c g a) := by simp [finishAt, h, low]

@[simp] theorem tidy_waitAt (k : WaitKind) (h : (rosterOf s).Ok n) (low : g.team < n) : Tidy n (waitAt s c g k) := by
  unfold waitAt
  split <;> simp [h, low]

@[simp] theorem tidy_takeTrap (t : TrapRec) (h : (rosterOf s).Ok n) (low : c.g.team < n) : Tidy n (takeTrap s c t) := by simp [takeTrap, h, low]

@[simp] theorem tidy_takeTrapAfter (t : TrapRec) (h : (rosterOf s).Ok n) (low : g.team < n) : Tidy n (takeTrapAfter s c g t) := by
  simp [takeTrapAfter, h, low]

@[simp] theorem tidy_takeFault (t : TrapRec) (h : (rosterOf s).Ok n) (low : c.g.team < n) : Tidy n (takeFault s c t) := by simp [takeFault, h, low]

@[simp] theorem tidy_accessFails (space : Nat) (t : TrapRec) (h : (rosterOf s).Ok n) (low : c.g.team < n) : Tidy n (accessFails s c space t) := by
  simp [accessFails, h, low]

@[simp] theorem tidy_takeClaimx (info : Nat) (h : (rosterOf s).Ok n) (low : c.g.team < n) : Tidy n (takeClaimx s c info) := by
  simp [takeClaimx, h, low]

@[simp] theorem tidy_takeSyncx (k : Nat) (h : (rosterOf s).Ok n) (low : c.g.team < n) : Tidy n (takeSyncx s c k) := by simp [takeSyncx, h, low]

@[simp] theorem tidy_takeCmdx (info va : Nat) (h : (rosterOf s).Ok n) (low : c.g.team < n) : Tidy n (takeCmdx s c info va) := by
  simp [takeCmdx, h, low]

@[simp] theorem tidy_divergeTo (transfer : Bool) (paths : List (VAddr × Mask)) (dflt : VAddr) (h : (rosterOf s).Ok n) (own : c.g.team < n)
    (low : g.team < n) : Tidy n (divergeTo s c g transfer paths dflt) := by
  unfold divergeTo
  split
  · simp [h, low]
  · split
    · simp [h, low, team_diverge ‹_›]
    · simp [h, own]

@[simp] theorem tidy_branchAll (off : BitVec 19) (taken : Bool) (h : (rosterOf s).Ok n) (low : g.team < n) : Tidy n (branchAll s c g off taken) := by
  simp [branchAll, h, low]

@[simp] theorem tidy_resumeBarrier (acq : Bool) (h : (rosterOf s).Ok n) (low : c.g.team < n) : Tidy n (resumeBarrier s c acq) := by
  simp [resumeBarrier, h, low]

@[simp] theorem tidy_laneOut (h : (rosterOf s).Ok n) (own : c.g.team < n) (low : g.team < n) : Tidy n (laneOut s c g) := by
  refine tidy_finish h ?_
  split
  · exact own
  · exact low

@[simp] theorem tidy_moveLanes (f : FormSh) (src : Lane → Lane) (h : (rosterOf s).Ok n) (low : c.g.team < n) : Tidy n (moveLanes s c f src) := by
  simp [moveLanes, h, low]

@[simp] theorem tidy_slotWord (fn k : Nat) (block : List DWord) (h : (rosterOf s).Ok n) (low : c.g.team < n) : Tidy n (slotWord s c fn k block) := by
  simp [slotWord, h, low]

/-- A command block read: what follows has the numbers that were there. -/
theorem tidy_withBlock {va al k : Nat} {run : State → List DWord → Out} (h : (rosterOf s).Ok n) (low : c.g.team < n)
    (then_ : ∀ t b, (rosterOf t).Ok n → Tidy n (run t b)) : Tidy n (withBlock s c va al k run) := by
  unfold withBlock
  split
  · simp [h, low]
  · split
    · simp [h, low]
    · exact then_ _ _ (by simpa using h)

@[simp] theorem tidy_forkTo (a : ForkArgs) (h : (rosterOf s).Ok n) (own : c.g.team < n) (low : g.team < n) : Tidy n (forkTo s c g a) := by
  unfold forkTo
  dsimp only
  split
  · exact tidy_finish (by rwa [roster_placeAll ‹_›]) low
  · repeat' split
    · simp [h, own]
    · simp [h, own]
    · refine tidy_finishAt _ (by simpa using h) ?_
      rw [Group.updatePath_team]
      dsimp only
      rw [group_foldl fun _ _ => team_takeCarried ..]
      simpa using low

/-- The path in hand: its group is one of the state. -/
theorem tidy_withCtx {k : Ctx → Out} (h : (rosterOf s).Ok n) (word : ∀ m c, (rosterOf s).Ok m → c.g.team < m → Tidy m (k c)) :
    Tidy n (withCtx s k) := by
  intro t e
  unfold withCtx at e
  split at e
  · cases e
  · rename_i c hc
    obtain ⟨_, hg, _, _⟩ := State.ctx_parts hc
    exact ok_at h fun m h low => word m c h (low _ (List.mem_of_find?_eq_some hg)) t e

theorem tidy_startWord {i : Instr} {ill al : Ctx → Bool} {k : Ctx → Out} (h : (rosterOf s).Ok n)
    (word : ∀ m c, (rosterOf s).Ok m → c.g.team < m → Tidy m (k c)) : Tidy n (startWord i s ill al k) := by
  refine tidy_withCtx h fun m c h low => ?_
  repeat' split
  · exact tidy_takeTrap _ h low
  · exact tidy_takeTrap _ h low
  · exact tidy_takeTrap _ h low
  · exact word m c h low

theorem tidy_word {i : Instr} {k : Ctx → Out} (h : (rosterOf s).Ok n) (then_ : ∀ m c, (rosterOf s).Ok m → c.g.team < m → Tidy m (k c)) :
    Tidy n (word i s k) := tidy_startWord h then_

/-- A word that completes. -/
theorem tidy_completes {i : Instr} {t : Ctx → State} {g : Ctx → Group} (h : (rosterOf s).Ok n) (state : ∀ c, rosterOf (t c) = rosterOf s)
    (team : ∀ c, (g c).team = c.g.team) : Tidy n (word i s fun c => finish (t c) c (g c)) :=
  tidy_word h fun m c h low => tidy_finish (by rwa [state]) (by rwa [team])

end

end Sys2Proof.PlacementAndResources
end

section
/-! PROOFS. Every word keeps the numbers of teams and groups apart. -/

namespace Sys2Proof.PlacementAndResources

open Sys2Proof.Machine Sys2Proof.Safety Sys2Proof.Claims Sys2Proof.Laws

section
variable {n : Nat} {s : State} {c : Ctx} {g : Group}

theorem tidy_loadWord (i : Instr) (f : FormL) (k : Nat) {put : Lane → List Byte → Group → Group} {zero : Mask → Group → Group}
    (h : (rosterOf s).Ok n) (keeps : ∀ l bs g, (put l bs g).team = g.team) (zeroes : ∀ m g, (zero m g).team = g.team) :
    Tidy n (loadWord i f s k put zero) := by
  refine tidy_word h fun m c h low => ?_
  split
  · simp [h, low]
  · obtain ⟨state, team⟩ := roster_readLanes s c f k keeps
    exact tidy_finish (by rwa [state]) (by rwa [zeroes, team])

theorem tidy_storeWord (i : Instr) (f : FormL) (k : Nat) (val : Ctx → Lane → List Byte × Flags) (h : (rosterOf s).Ok n) :
    Tidy n (storeWord i f s k val) := by
  refine tidy_word h fun m c h low => ?_
  split
  · simp [h, low]
  · exact tidy_finish (by simpa using h) low

theorem tidy_atomWord (i : Instr) (f : FormAt) (k : Nat) (new : Ctx → Lane → Nat → Nat) {put : Ctx → Lane → Nat → Group → Group}
    {zero : Mask → Group → Group} (h : (rosterOf s).Ok n) (keeps : ∀ c l old g, (put c l old g).team = g.team)
    (zeroes : ∀ m g, (zero m g).team = g.team) : Tidy n (atomWord i f s k new put zero) := by
  refine tidy_word h fun m c h low => ?_
  dsimp only
  split
  · simp [h, low]
  · obtain ⟨state, team⟩ := roster_atomLoop s c f.a k (new c) (keeps c) (lanesOf c.active) (if f.rel then s.atomRelease c
      ((lanesOf c.active).map fun l => (⟨some l, c.atomAddr f.a l⟩ : Acc)) else s) c.g
    split
    · simp [state, team, h, low]
    · simp [state, team, zeroes, h, low]

theorem tidy_branchQ (i : Instr) (f : FormSO) (on : BitVec 2 → Bool) (h : (rosterOf s).Ok n) : Tidy n (branchQ i f s on) :=
  tidy_word h fun m c h low => by simp [h, low]

theorem tidy_divX (i : Instr) (f : FormR) (op : Word → Word → Word × Flags) (h : (rosterOf s).Ok n) : Tidy n (divX i s f op) :=
  tidy_word h fun m c h low => by split <;> simp [h, low]

theorem tidy_reduce (i : Instr) (f : FormRed) (ops opu : Word → Word → Word) (zero : Word) (opv : Ctx → Itv × Flags) (h : (rosterOf s).Ok n) :
    Tidy n (reduce i s f ops opu zero opv) :=
  tidy_word h fun m c h low => by simp [h, low]

theorem tidy_copyWord (i : Instr) (kind : Nat) (f : FormCpy) (h : (rosterOf s).Ok n) : Tidy n (copyWord i kind f s) := by
  refine tidy_word h fun m c h low => tidy_ite.2 ⟨fun _ => tidy_waitAt _ h low, fun _ => tidy_withBlock h low fun t b h => ?_⟩
  split
  · exact tidy_takeCmdx _ _ h low
  · dsimp only
    refine tidy_finish (ok_raised (x := (if (f.rel && (ccbOf b).sov) = true then t.takeSeq c.part (ccbOf b).soid else (none, t)).2) h rfl rfl
      (Nat.le_succ _) ?_) low
    split <;> simp

theorem tidy_issueRecord (i : Instr) (f : FormT) (fn eng dws align need sync : Nat) (names : List DWord → List Nat)
    (bad : Ctx → List DWord → Option (BitVec 16)) {after : List DWord → Group → Group} (h : (rosterOf s).Ok n)
    (keeps : ∀ b g, (after b g).team = g.team) : Tidy n (issueRecord i f s fn eng dws align need sync names bad after) := by
  refine tidy_word h fun m c h low => ?_
  dsimp only
  refine tidy_ite.2 ⟨fun _ => tidy_finish h low, fun _ =>
    tidy_ite.2 ⟨fun _ => tidy_waitAt _ h low, fun _ => tidy_withBlock h low fun t b h => ?_⟩⟩
  repeat' split
  · exact tidy_takeTrap _ h low
  · exact tidy_takeTrap _ h low
  · exact tidy_waitAt _ h low
  · exact tidy_finish (ok_enqueue _ _ (by simpa using h)) (by rw [keeps]; exact low)
  · exact tidy_finish (ok_enqueue _ _ h) (by rw [keeps]; exact low)

theorem tidy_tileWord (i : Instr) (f : FormT) (fn : Nat) (extra : Ctx → Option (BitVec 16)) {after : List DWord → Group → Group}
    (h : (rosterOf s).Ok n) (keeps : ∀ b g, (after b g).team = g.team) : Tidy n (tileWord i f s fn extra after) :=
  tidy_issueRecord _ _ _ _ _ _ _ _ _ _ h keeps

theorem tidy_predWord (i : Instr) (f : FormT) (fn : Nat) (h : (rosterOf s).Ok n) : Tidy n (predWord i f s fn) :=
  tidy_issueRecord _ _ _ _ _ _ _ _ _ _ h fun _ _ => rfl

theorem tidy_forkWord {i : Instr} {b : Reg} {run : Ctx → (Nat × Bool × Keep) → Out} (h : (rosterOf s).Ok n)
    (then_ : ∀ m c k, (rosterOf s).Ok m → c.g.team < m → Tidy m (run c k)) : Tidy n (forkWord i s b run) := by
  refine tidy_startWord h fun m c h low => ?_
  dsimp only
  split
  · exact tidy_takeTrap _ h low
  · split
    · exact tidy_takeTrap _ h low
    · exact then_ m c _ h low

theorem tidy_transferIllop {a : Reg} {k : BitVec 4} {o : Out} (ill : transferIllop s c a k = some o) (h : (rosterOf s).Ok n) (low : c.g.team < n) :
    Tidy n o := by
  unfold transferIllop at ill
  repeat' split at ill
  all_goals cases ill
  all_goals simp [h, low]

theorem tidy_transfer (i : Instr) (a : Reg) (k : BitVec 4) (link : Option Reg) (h : (rosterOf s).Ok n) : Tidy n (transfer i s a k link) := by
  refine tidy_withCtx h fun m c h low => tidy_ite.2 ⟨fun _ => tidy_takeTrap _ h low, fun _ => ?_⟩
  beta_reduce
  split
  · exact tidy_transferIllop ‹_› h low
  split
  · exact tidy_takeTrap _ h low
  split
  · split
    · exact tidy_takeTrap _ h low
    · extract_lets links gAll items
      have linked (g : Group) (on : Mask) : (links g on).team = g.team := by
        simp only [links]
        split <;> simp
      split
      · have placed := roster_placeAll ‹_›
        split
        · simpa [placed] using h
        · split
          · have team := team_diverge ‹_›
            simp [placed, h, team, gAll, linked, low]
          · exact tidy_takeTrap _ h low
      · exact tidy_divergeTo _ _ _ h low (by rwa [linked])
  · split
    · exact tidy_takeTrap _ h low
    · exact tidy_finish h low
  · exact tidy_takeTrap _ h low

end

end Sys2Proof.PlacementAndResources
end

section
/-! PROOFS. Words with loops, grants and arrivals of their own keep the numbers of teams and groups apart. -/

namespace Sys2Proof.PlacementAndResources

open Sys2Proof.Machine Sys2Proof.Safety Sys2Proof.Claims Sys2Proof.Laws

section
variable {n : Nat} {s : State} {c : Ctx} {g : Group}

/-- An outcome that may use that the teams of the groups of a state are below a bound. -/
theorem tidy_at {t : State} {o : Out} (h : (rosterOf t).Ok n) (step : ∀ m, (rosterOf t).Ok m → (∀ g ∈ t.groups, g.team < m) → Tidy m o) :
    Tidy n o := fun u e => ok_at h fun m h low => step m h low u e

theorem tidy_split (f : FormDAB) (h : (rosterOf s).Ok n) : Tidy n (execSplit f s) := by
  refine tidy_forkWord h fun m c k h low => ?_
  dsimp only
  split
  · exact tidy_finish h (by simpa using low)
  · exact tidy_forkTo _ h low (by simpa using low)

theorem tidy_exits (f : FormDK) (h : (rosterOf s).Ok n) : Tidy n (execExits f s) := by
  refine tidy_startWord h fun m c h low => ?_
  dsimp only
  repeat' split
  · exact tidy_takeTrap _ h low
  · exact tidy_takeTrap _ h low
  · exact tidy_takeTrap _ h low
  · rw [tidy_next, roster_putGroup, roster_placeAll ‹_›]
    exact ok_put h low
  · rw [tidy_next, roster_putGroup]
    refine ok_put h ?_
    dsimp only
    rw [group_foldl fun g li => (team_takeS ..).trans (team_takeItem ..), team_teamStart]
    exact low

theorem tidy_ldff (f : FormL) (h : (rosterOf s).Ok n) : Tidy n (execLdff f s) := by
  refine tidy_word h fun m c h low => ?_
  dsimp only
  split
  · exact tidy_accessFails _ _ h low
  split
  · exact tidy_accessFails _ _ h low
  obtain ⟨state, team⟩ := roster_ldffLoop c f (lanesOf c.active) s c.g 0#32
  refine tidy_finish (by rwa [state]) ?_
  rw [Group.setM_team, team_zeroWords, team]
  exact low

theorem tidy_ldfe (f : FormL) (h : (rosterOf s).Ok n) : Tidy n (execLdfe f s) := by
  refine tidy_word h fun m c h low => ?_
  split
  · exact tidy_accessFails _ _ h low
  · dsimp only
    obtain ⟨state, team⟩ := roster_ldfeServe s c.g f.d ((lanesOf c.active).filterMap fun l =>
      (s.scratch c.t f.space.toNat (c.address f 4 l)).map fun u => (l, u.1.uid, u.2)) c.zeroed
    exact tidy_ite.2 ⟨fun _ => tidy_finish (by rwa [state]) (by rwa [team]), fun _ => tidy_waitAt _ h low⟩

theorem tidy_ldmc (f : FormL) (h : (rosterOf s).Ok n) : Tidy n (execLdmc f s) := by
  refine tidy_word h fun m c h low => ?_
  split
  · exact tidy_accessFails _ _ h low
  · refine tidy_finish ?_ ?_
    · rwa [(roster_pairs (fun x a => ?_) _ _).1]
      split <;> simp
    · rw [team_zeroWords, (roster_pairs (fun x a => ?_) _ _).2]
      · exact low
      · split <;> simp

theorem tidy_stfe (f : FormL) (h : (rosterOf s).Ok n) : Tidy n (execStfe f s) := by
  refine tidy_word h fun m c h low => ?_
  split
  · exact tidy_accessFails _ _ h low
  · refine tidy_finish ?_ low
    rw [roster_foldl fun t k => ?_, roster_writeLanes]
    · exact h
    · split <;> simp

theorem tidy_stx (f : FormL) (h : (rosterOf s).Ok n) : Tidy n (execStx f s) := by
  refine tidy_word h fun m c h low => ?_
  split
  · exact tidy_accessFails _ _ h low
  · refine tidy_finish ?_ low
    rwa [roster_foldl fun t k => ?_]
    split <;> simp

/-- RACQ and RTRY after a grant: the word ends on its group as it then is. -/
theorem tidy_granted (uid : Nat) (q : Claim) (edit : Group → Group) (keeps : ∀ g, (edit g).team = g.team) (h : (rosterOf s).Ok n) :
    Tidy n (match (s.grant uid q).group c.g.gid with
      | some g => finish (s.grant uid q) c (edit g)
      | none => .next (s.grant uid q)) := by
  have granted : (rosterOf (s.grant uid q)).Ok n := by rwa [roster_grant]
  refine tidy_at granted fun m h low => ?_
  split
  case h_1 g hg =>
    refine tidy_finish h ?_
    rw [keeps]
    exact low g (List.mem_of_find?_eq_some hg)
  case h_2 => exact tidy_next.2 h

theorem tidy_racq (f : FormA) (h : (rosterOf s).Ok n) : Tidy n (execRacq f s) := by
  refine tidy_word h fun m c h low => ?_
  dsimp only
  refine tidy_ite.2 ⟨fun _ => tidy_finish h low, fun _ => tidy_ite.2 ⟨fun _ => tidy_takeClaimx _ h low, fun _ =>
    tidy_ite.2 ⟨fun _ => tidy_finish h low, fun _ => tidy_ite.2 ⟨fun _ => tidy_granted _ _ id (fun _ => rfl) h, fun _ => ?_⟩⟩⟩⟩
  exact tidy_waitAt _ (by simpa using h) low

theorem tidy_rtry (f : FormDA) (h : (rosterOf s).Ok n) : Tidy n (execRtry f s) := by
  refine tidy_word h fun m c h low => ?_
  dsimp only
  exact tidy_ite.2 ⟨fun _ => tidy_takeClaimx _ h low, fun _ => tidy_ite.2 ⟨fun _ => tidy_finish h (by simpa using low),
    fun _ => tidy_ite.2 ⟨fun _ => tidy_granted _ _ (fun g => g.setS f.d 0#32) (fun _ => Group.setS_team ..) h,
    fun _ => tidy_finish h (by simpa using low)⟩⟩⟩

theorem tidy_bara (f : FormBarA) (s : State) {n : Nat} (h : (rosterOf s).Ok n) : Tidy n (execBara f s) := by
  refine tidy_startWord h fun m c h low => tidy_ite.2 ⟨fun _ => tidy_takeSyncx _ h low, fun _ => ?_⟩
  have arrived : Tidy m (finish ((s.barrierRelease c f.rel 2).putTeam (c.t.arrive (c.g.getS f.a).toNat (c.g.getS f.b).toNat c.p)) c
      (c.g.setS f.d ((c.t.bar (c.g.getS f.a).toNat).ph.setWidth 32))) := tidy_finish (by simpa using h) (by simpa using low)
  split
  case h_1 s1 e => exact tidy_next.2 (ok_sweepBars _ _ (arrived s1 e))
  case h_2 => exact arrived

/-! ### RSMP -/

theorem restartAt_team (c : Ctx) (r : Option Restart) : (c.restartAt r).g.team = c.g.team := by
  unfold Ctx.restartAt
  rfl

theorem tidy_rsmpPlace (f : FormDAB) (r : Restart) (h : (rosterOf s).Ok n) (low : c.g.team < n) : Tidy n (rsmpPlace f s c r) := by
  unfold rsmpPlace
  extract_lets c1
  have own : c1.g.team < n := by rwa [restartAt_team]
  split
  · exact tidy_accessFails _ _ h own
  split
  · exact tidy_accessFails _ _ h own
  split
  · exact tidy_takeTrap _ h own
  split
  · exact tidy_accessFails _ _ h own
  extract_lets on gone base g1 items
  have team1 : g1.team = c1.g.team := by
    simp only [g1]
    split <;> simp
  split
  · exact tidy_takeTrap _ h own
  · have placed := roster_placeAll ‹_›
    refine tidy_finish ?_ ?_
    case refine_2 => rwa [Group.putPath_team, Group.setLin_team, team1]
    split
    · rwa [roster_closeRound, placed]
    · rwa [roster_setCounts, placed]

theorem tidy_rsmpArrive (f : FormDAB) (s0 : State) (va : Nat) (o : PopObj) (slots : List (Lane × Nat)) (h : (rosterOf s).Ok n) (low : c.g.team < n) :
    Tidy n (rsmpArrive f s s0 c va o slots) := by
  unfold rsmpArrive
  extract_lets ws g away s1 arrived s2 last
  have arrived : (rosterOf s2).Ok n := by
    rw [roster_setCounts, roster_foldl fun _ _ => roster_arriveSlot ..]
    exact h
  have waits : Tidy n (waitAt s2 c g (.rsmp va slots)) := tidy_waitAt _ arrived low
  refine tidy_ite.2 ⟨fun _ => tidy_finish (by simpa using arrived) low, fun _ => ?_⟩
  split
  case h_1 s3 e =>
    have left : (rosterOf s3).Ok n := waits s3 e
    refine tidy_ite.2 ⟨fun _ => tidy_next.2 left, fun _ => tidy_withCtx (by rwa [roster_rsmpPrefix]) fun m c3 h low => ?_⟩
    exact tidy_rsmpPlace f _ h low
  case h_2 => exact waits

theorem tidy_rsmpFresh (f : FormDAB) (h : (rosterOf s).Ok n) (low : c.g.team < n) : Tidy n (rsmpFresh f s c) := by
  unfold rsmpFresh
  dsimp only
  repeat' split
  · exact tidy_takeTrap _ h low
  · exact tidy_accessFails _ _ h low
  · exact tidy_takeTrap _ h low
  · exact tidy_takeTrap _ h low
  · exact tidy_takeTrap _ h low
  · exact tidy_takeTrap _ h low
  · exact tidy_accessFails _ _ h low
  · exact tidy_rsmpArrive _ _ _ _ _ (by rwa [roster_passBytes]) low

theorem tidy_rsmp (f : FormDAB) (h : (rosterOf s).Ok n) : Tidy n (execRsmp f s) := by
  refine tidy_startWord h fun m c h low => ?_
  repeat' split
  · exact tidy_rsmpPlace f _ h low
  · exact tidy_rsmpFresh f h low
  · exact tidy_rsmpPlace f _ h low
  · exact tidy_waitAt _ h low
  · exact tidy_rsmpFresh f h low
  · exact tidy_rsmpFresh f h low

end

end Sys2Proof.PlacementAndResources
end

section
/-! PROOFS. Every word keeps the numbers of teams and groups apart: the case split over the words. -/

namespace Sys2Proof.PlacementAndResources

open Sys2Proof.Machine Sys2Proof.Safety Sys2Proof.Claims Sys2Proof.Laws

section
variable {n : Nat} {s : State} {c : Ctx} {g : Group}

theorem exec_word_tidy (i : Instr) (s : State) (hw : isWord i = true) {n : Nat} (h : (rosterOf s).Ok n) : Tidy n (exec i s) := by
  unfold exec
  cases i with
  | add f | sub f | and f | or f | xor f | andn f | min f | max f | minu f | maxu f | slt f | sltu f | seq f | abs f | lea f
  | selm f | addi f | andi f | ori f | xori f | slti f | sltiu f | leai f | shli f | movi f | movhi f | shl f | shr f | sar f
  | rotl f | bfx f | bfi f | popc f | clz f | ctz f | brev f | bperm f | mul f | mulh f | mulhu f | mad f | dp4i8 f | dp4n8 f
  | dp8i4 f | dp4e4 f | dp4e5 f | dp8f4 f | pksel f | cvtiv f | cvtniv f | cvtvi f | cvtvni f | cvtdv f | cvtnv f | vadd f
  | vsub f | vneg f | vabs f | vmin f | vmax f | vmul f | vdiv f | vfma f | vsqr f | vsqrt f | vrcp f | vscale f | vmk f
  | vlo f | vhi f | vmid f | vrad f | vwid f | vhull f | visect f | vent f | vemp f | vmrc f | vfmr f | vclt f | vcle f
  | vcgt f | vcge f | vceq f | vcsub f | vcdis f | vcin f | qand f | qor f | qnot f | qsure f | qmaybe f | qmov f | vexp f
  | vlog f | vtanh f | vsigm f | vsilu f | vgelu f | vsin f | vcos f | uadd f | usub f | uand f | uor f | uxor f | ushl f
  | ushr f | umul f | uslt f | cyc f | joinat f | msave f | mrest f | mand f | mor f | mxor f | mnot f | mfromq f | mcnt f
  | pknarrow f | cvtvd f | cvtvn f | vbis f | vote f | qvote f | gwfree f | tshapePred f | twake f | pstat f | fence f
  | htest f | linid f | poolq f | rqry f | rngseed f | rngn f | rngf f | umovx f | umovs f | uaddi f | nop =>
    refine tidy_completes h (fun c => ?_) (fun c => ?_)
    · simp
    · simp
  | ldb f | ldh f | ldw f | ldd f | ldq f | ldv f | ldvc f =>
    exact tidy_loadWord _ _ _ h (fun _ _ _ => by simp) (fun _ _ => by simp)
  | stb f | sth f | stw f | std f | stq f | stv f | stvc f => exact tidy_storeWord _ _ _ _ h
  | aadd f | amin f | amax f | aminu f | amaxu f | aand f | aor f | axor f | axch f | acas f | ainc f | avadd f | amind f =>
    exact tidy_atomWord _ _ _ _ h (fun _ _ _ _ => by simp) (fun _ _ => by simp)
  | bqt f | bqf f | bqu f | bqnt f | bqnf f => exact tidy_branchQ _ _ _ h
  | div f | divu f | rem f | remu f => exact tidy_divX _ _ _ h
  | rdadd f | rdmin f | rdmax f => exact tidy_reduce _ _ _ _ _ _ h
  | cpy f | cpy2d f | cpymc f => exact tidy_copyWord _ _ _ h
  | pscore f | psel f | pkerf f | pffn f => exact tidy_predWord _ _ _ h
  | tload f | tmma f | tmmav f | tjoin f | tstore f | tksplit f | tgrp f =>
    exact tidy_tileWord _ _ _ _ h fun _ _ => by simp
  | calli f | jmpi f | ret f => exact tidy_transfer _ _ _ _ h
  | split f => exact tidy_split f h
  | exits f => exact tidy_exits f h
  | bara f => exact tidy_bara f s h
  | rsmp f => exact tidy_rsmp f h
  | racq f => exact tidy_racq f h
  | rtry f => exact tidy_rtry f h
  | ldff f => exact tidy_ldff f h
  | ldfe f => exact tidy_ldfe f h
  | ldmc f => exact tidy_ldmc f h
  | stfe f => exact tidy_stfe f h
  | stx f => exact tidy_stx f h
  | fork f => exact tidy_forkWord h fun m c k h low => by simp [h, low]
  | shfl f | tshapeAcc f | bar f | barw f | barx f | pfx f | tret => exact tidy_startWord h fun m c h low => by simp [h, low]
  | trap f | srd f | bkpt f | bra f | bq3 f | bmz f | bmnz f | loop f | call f | bcast f | scan f | hist f | hmerge f | tzero f
  | tscan f | hwait f | rrel f | ifence | sobind f | await f => exact tidy_word h fun m c h low => by simp [h, low]
  | swr f =>
    refine tidy_startWord h fun m c h low => ?_
    dsimp only
    repeat' split
    all_goals exact tidy_finish h (by simpa using low)
  | exit f => exact tidy_startWord h fun m c h low => tidy_finish h (by simpa using low)
  | fsvc f =>
    refine tidy_startWord h fun m c h low => ?_
    repeat' split
    all_goals simp [h, low]
  | dictld f =>
    refine tidy_startWord h fun m c h low => ?_
    dsimp only
    repeat' split
    all_goals simp [h, low]
  | hcancel f =>
    refine tidy_word h fun m c h low => ?_
    dsimp only
    repeat' split
    all_goals exact tidy_finish (by simpa using h) (by simpa using low)
  | gwbind f =>
    refine tidy_word h fun m c h low => tidy_withBlock h low fun t b h => ?_
    split
    · exact tidy_takeCmdx _ _ h low
    · exact tidy_finish (by simpa using h) low
  | ldun f | arrv f | soacq f | sorel f =>
    refine tidy_word h fun m c h low => ?_
    dsimp only
    repeat' split
    all_goals simp [h, low]
  | syncj =>
    refine tidy_word h fun m c h low => ?_
    repeat' split
    all_goals simp [h, low]
  | _ => cases hw

end

end Sys2Proof.PlacementAndResources
end

section
/-! PROOFS. The frames of the events: commands of the front end and of the service core keep the numbers of teams and groups apart. -/

namespace Sys2Proof.PlacementAndResources

open Sys2Proof.Machine Sys2Proof.Safety Sys2Proof.Claims Sys2Proof.Laws

section
variable {n : Nat} {s : State}

@[simp] theorem tidy_cmdDone (code index : Nat) (h : (rosterOf s).Ok n) : Tidy n (Cmd.done s code index) := by simp [Cmd.done, h]

theorem tidy_feCommand {op : Nat} {resume : CmdWait → Out} {run : Out} (h : (rosterOf s).Ok n) (waits : ∀ w, Tidy n (resume w))
    (then_ : Tidy n run) : Tidy n (feCommand op s resume run) := by
  unfold feCommand
  refine tidy_ite.2 ⟨fun _ => tidy_next.2 h, fun _ => ?_⟩
  split
  · exact tidy_ite.2 ⟨fun _ => waits _, fun _ => tidy_next.2 h⟩
  · exact tidy_ite.2 ⟨fun _ => tidy_cmdDone _ _ h, fun _ => tidy_ite.2 ⟨fun _ => then_, fun _ => tidy_next.2 h⟩⟩

theorem tidy_feSimple {op : Nat} {run : Out} (h : (rosterOf s).Ok n) (then_ : Tidy n run) : Tidy n (feSimple op s run) :=
  tidy_feCommand h (fun _ => tidy_next.2 h) then_

theorem tidy_mgmtServe {side : Bool} {c : List DWord} {run : State → Out} (h : (rosterOf s).Ok n)
    (then_ : Tidy n (run s)) : Tidy n (mgmtServe s side c run) := by
  simp [mgmtServe, h, then_]

theorem tidy_mgmt {fits : List DWord → Bool} {run : Bool → List DWord → State → Out} (h : (rosterOf s).Ok n)
    (then_ : ∀ side c t, (rosterOf t).Ok n → Tidy n (run side c t)) : Tidy n (mgmt s fits run) := by
  unfold mgmt
  refine tidy_ite.2 ⟨fun _ => tidy_next.2 h, fun _ => ?_⟩
  have taken (side : Bool) (c : List DWord) (svc : Service) : Tidy n (mgmtServe { s with svc := svc } side c (run side c)) := by
    have same : (rosterOf { s with svc := svc }).Ok n := by rwa [rosterOf_mk]
    exact tidy_mgmtServe same (then_ side c _ same)
  dsimp only
  split
  · exact tidy_ite.2 ⟨fun _ => tidy_next.2 h, fun _ => taken _ _ _⟩
  · split
    · exact tidy_ite.2 ⟨fun _ => tidy_next.2 h, fun _ => taken _ _ _⟩
    · exact tidy_next.2 h

theorem tidy_mgmtOnPart {op : Nat} {run : Bool → List DWord → Nat → State → Out} (h : (rosterOf s).Ok n)
    (then_ : ∀ side c p t, (rosterOf t).Ok n → Tidy n (run side c p t)) : Tidy n (mgmtOnPart s op run) := by
  unfold mgmtOnPart mgmtSimple
  refine tidy_mgmt h fun side c t ht => tidy_ite.2 ⟨fun _ => ?_, fun _ => then_ side c _ t ht⟩
  rwa [tidy_next, roster_mbDone]

theorem tidy_mgmtEvent {op : Nat} {ok : State → Nat → Bool} {run : Bool → Nat → State → State} (h : (rosterOf s).Ok n)
    (then_ : ∀ side p t, (rosterOf t).Ok n → (rosterOf (run side p t)).Ok n) : Tidy n (mgmtEvent s op ok run) :=
  tidy_mgmtOnPart h fun side _ p t ht => tidy_ite.2 ⟨fun _ => tidy_next.2 (then_ side p t ht), fun _ => by simpa using ht⟩

theorem tidy_fwact {kind : Nat} {run : Bool → State → Out} (h : (rosterOf s).Ok n)
    (then_ : ∀ side t, (rosterOf t).Ok n → Tidy n (run side t)) : Tidy n (fwact s kind run) := tidy_mgmt h fun side _ t ht => then_ side t ht

end

end Sys2Proof.PlacementAndResources
end

section
/-! PROOFS. Events with a case of their own keep the numbers of teams and groups apart. -/

namespace Sys2Proof.PlacementAndResources

open Sys2Proof.Machine Sys2Proof.Safety Sys2Proof.Claims Sys2Proof.Laws

section
variable {n : Nat} {s : State}

/-! ### The front end (06_launching.md) -/

theorem tidy_triggerWrite (h : (rosterOf s).Ok n) : Tidy n (execTriggerWrite s) := by
  simp only [execTriggerWrite, tidy_ite, tidy_next, rosterOf_mk, h, implies_true, true_and]
  intro _ _
  split
  · exact tidy_next.2 (by rwa [rosterOf_mk])
  · simp [h]

theorem tidy_load (h : (rosterOf s).Ok n) : Tidy n (execLoad s) := by
  refine tidy_feSimple h ?_
  dsimp only
  split
  · exact tidy_cmdDone _ _ h
  split
  · exact tidy_cmdDone _ _ h
  split
  · exact tidy_cmdDone _ _ (by simpa using h)
  · have moved := roster_relocateAll ‹_›
    simpa [moved] using h

theorem tidy_qdestroy (h : (rosterOf s).Ok n) : Tidy n (execQdestroy s) := by
  unfold execQdestroy
  extract_lets go q
  have goes (q : Nat) : Tidy n (go q) :=
    tidy_ite.2 ⟨fun _ => by simpa using h, fun _ => tidy_cmdDone _ _ (by simpa using h)⟩
  refine tidy_feCommand h (fun w => ?_) (tidy_ite.2 ⟨fun _ => tidy_cmdDone _ _ h, fun _ => goes q⟩)
  split
  · exact goes _
  · exact tidy_next.2 h

theorem tidy_qprio (h : (rosterOf s).Ok n) : Tidy n (execQprio s) := by
  unfold execQprio
  extract_lets finish q
  have ends (q p : Nat) : Tidy n (finish s q p) := by
    simp only [finish]
    split
    · exact tidy_cmdDone _ _ h
    · exact tidy_cmdDone _ _ (by simpa using h)
  refine tidy_feCommand h (fun w => ?_) ?_
  · split
    · exact tidy_ite.2 ⟨fun _ => ends _ _, fun _ => tidy_next.2 h⟩
    · exact tidy_next.2 h
  · split
    · exact tidy_cmdDone _ _ h
    · simpa using h

/-! ### Placement and the drafter (R143, R245) -/

theorem tidy_gangReserve (h : (rosterOf s).Ok n) : Tidy n (execGangReserve s) := by
  delta execGangReserve
  dsimp only
  refine tidy_ite.2 ⟨fun _ => tidy_next.2 h, fun _ => ?_⟩
  split
  · exact tidy_next.2 h
  refine tidy_ite.2 ⟨fun _ => by simpa using h, fun _ => tidy_ite.2 ⟨fun _ => tidy_next.2 h, fun _ => ?_⟩⟩
  split
  · simpa using h
  · rename_i taken
    have given := roster_takeAreas (Option.ite_none_right_eq_some.1 taken).2
    rwa [tidy_next, rosterOf_mk, given]

theorem tidy_groupRetire (h : (rosterOf s).Ok n) : Tidy n (execGroupRetire s) := by
  unfold execGroupRetire
  split
  · exact tidy_next.2 h
  split
  · exact tidy_next.2 h
  exact tidy_ite.2 ⟨fun _ => tidy_next.2 h, fun _ => tidy_next.2 (ok_fewer h (List.Sublist.refl _) List.filter_sublist rfl)⟩

theorem tidy_teamReturn (h : (rosterOf s).Ok n) : Tidy n (execTeamReturn s) := by
  unfold execTeamReturn
  split
  · exact tidy_next.2 h
  case h_2 t _ =>
  refine tidy_ite.2 ⟨fun _ => tidy_next.2 h, fun _ => ?_⟩
  split
  · exact tidy_next.2 h
  refine tidy_ite.2 ⟨fun _ => tidy_next.2 ?_, fun _ => tidy_next.2 h⟩
  cases back : s.tryReturn t s.arg.core with
  | none => exact h
  | some s1 => exact ok_tryReturn back h

/-- The owner of a queue is a team of the state. -/
theorem draftOwner_mem {k : Nat} {q : TwillQueue} {t : Team} (owner : s.draftOwner k q = some t) : t ∈ s.teams := by
  have lowest (l : List Team) (a : Option Team) (ha : ∀ u, a = some u → u ∈ s.teams) (hl : ∀ u ∈ l, u ∈ s.teams)
      (e : l.foldl (fun a t => match a with
        | some b => if t.info.t < b.info.t then some t else some b
        | none => some t) a = some t) : t ∈ s.teams := by
    induction l generalizing a with
    | nil => exact ha _ e
    | cons u l ih =>
      have hu := hl u (List.mem_cons_self ..)
      refine ih _ (fun v hv => ?_) (fun v hv => hl v (List.mem_cons_of_mem _ hv)) e
      dsimp only at hv
      split at hv
      · split at hv <;> cases hv
        · exact hu
        · exact ha _ rfl
      · cases hv; exact hu
  unfold State.draftOwner at owner
  dsimp only at owner
  split at owner
  · exact List.mem_of_mem_filter (List.mem_of_find?_eq_some owner)
  · exact lowest _ none (fun _ e => by cases e) (fun u hu => List.mem_of_mem_filter hu) owner

theorem picks_team {k : Nat} {p : Pick} (h : p ∈ s.picks k) : p.team ∈ s.teams := by
  unfold State.picks at h
  dsimp only at h
  obtain ⟨c, _, h⟩ := List.mem_flatMap.1 h
  obtain ⟨q, _, h⟩ := List.mem_filterMap.1 h
  split at h
  · cases h
  · split at h
    · cases h
    · rename_i owner
      split at h <;> cases h
      exact draftOwner_mem owner

theorem draftedGroup_names (t : Team) (gid idx slot : Nat) (items : List Item) :
    (draftedGroup t gid idx slot items).gid = gid ∧ (draftedGroup t gid idx slot items).team = t.uid := by
  cases head : items.head? with
  | none =>
    unfold draftedGroup
    rw [head]
    exact ⟨rfl, rfl⟩
  | some i =>
    have shape := draftedGroup_shape t gid idx slot head
    dsimp only at shape
    rw [shape]
    exact ⟨rfl, rfl⟩

/-- A new group, with the next free number, of a team of the state. -/
theorem ok_newGroup {items : List Item} {g : Group} (h : (rosterOf s).Ok n) (gid : g.gid = s.fresh) (team : ∃ t ∈ s.teams, g.team = t.uid) :
    (rosterOf { s with items := items, groups := s.groups ++ [g], fresh := s.fresh + 1 }).Ok n := by
  obtain ⟨t, mem, own⟩ := team
  have low : t.uid < s.fresh := h.teams _ (List.mem_map_of_mem mem)
  have names : (rosterOf { s with items := items, groups := s.groups ++ [g], fresh := s.fresh + 1 }) =
      ⟨(rosterOf s).uids, (rosterOf s).gids ++ [(s.fresh, t.uid)], s.fresh + 1⟩ := by
    simp [rosterOf, gid, own]
  have old : ∀ k ∈ (rosterOf s).gids, k.1 < s.fresh ∧ k.2 < s.fresh := h.groups
  rw [names]
  refine ⟨h.uids, ?_, fun u hu => Nat.lt_succ_of_lt (h.teams u hu), fun k hk => ?_, Nat.le_succ_of_le h.fresh⟩
  · rw [List.map_append, List.nodup_append]
    refine ⟨h.gids, List.nodup_singleton _, fun a ha b hb => ?_⟩
    obtain ⟨k, hk, rfl⟩ := List.mem_map.1 ha
    rw [List.mem_singleton.1 hb]
    exact Nat.ne_of_lt (old k hk).1
  · rcases List.mem_append.1 hk with hk | hk
    · exact ⟨Nat.lt_succ_of_lt (old k hk).1, Nat.lt_succ_of_lt (old k hk).2⟩
    · rw [List.mem_singleton.1 hk]
      exact ⟨Nat.lt_succ_self _, Nat.lt_succ_of_lt low⟩

theorem tidy_draftGroup (h : (rosterOf s).Ok n) : Tidy n (execDraftGroup s) := by
  unfold execDraftGroup
  dsimp only
  refine tidy_ite.2 ⟨fun _ => tidy_next.2 h, fun _ => ?_⟩
  split
  case h_1 p slot pick free =>
    obtain ⟨gid, team⟩ := draftedGroup_names p.team s.fresh
      (((List.range 64).find? fun i => (s.groupsOf p.team.uid).all fun g => g.idx != i).getD 0) slot (p.items.take 32)
    have drafted := ok_newGroup (items := (p.items.take 32).foldl (fun l i => l.erase i) s.items) h gid ⟨_, picks_team (draftPick_mem pick), team⟩
    rw [tidy_next, roster_closeQueues]
    split
    · rwa [roster_clearL1]
    · exact drafted
  case h_2 => exact tidy_next.2 h

/-! ### Copies, records and waits -/

theorem tidy_copyChunk (h : (rosterOf s).Ok n) : Tidy n (execCopyChunk s) := by
  unfold execCopyChunk
  dsimp only
  split
  · exact tidy_next.2 h
  refine tidy_ite.2 ⟨fun _ => tidy_next.2 h, fun _ => ?_⟩
  split
  · simpa using h
  · simpa using h
  · rename_i moved
    split at moved
    · cases moved
    · rw [tidy_next, roster_putCopy, roster_copyArrive, roster_copyPutAll moved, roster_copyBytes ‹_›]
      exact h

theorem tidy_tileRecordStep (h : (rosterOf s).Ok n) : Tidy n (execTileRecordStep s) := by
  unfold execTileRecordStep
  split
  · exact tidy_next.2 h
  case h_2 r _ =>
  refine tidy_ite.2 ⟨fun _ => tidy_next.2 h, fun _ => ?_⟩
  obtain ⟨t, ht⟩ : ∃ t, t = s.fetchSpans r.core r.part (s.spans r) := ⟨_, rfl⟩
  replace h : (rosterOf t).Ok n := by rw [ht]; simpa using h
  rw [← ht]
  dsimp only
  repeat' split
  · simpa using h
  · simpa using h
  · simpa using h
  · simpa using h
  · rwa [tidy_next, roster_stepBlock _ _ fun _ e => roster_loadBlock e]
  · rwa [tidy_next, roster_stepBlock _ _ fun _ e => roster_storeBlock e]
  · rwa [tidy_next, roster_stepBlock _ _ fun _ e => roster_mergeBlock e]
  · simpa using h
  · rwa [tidy_next, roster_putRecord, roster_groupEntry ‹_›]
  · simpa using h
  · simpa using h

theorem tidy_acquirePerform (h : (rosterOf s).Ok n) : Tidy n (execAcquirePerform s) := by
  unfold execAcquirePerform
  refine tidy_ite.2 ⟨fun _ => tidy_next.2 h, fun _ => tidy_at h fun m h low => ?_⟩
  split
  · simp [h]
  · simp [h]
  · rename_i g _ _ hg
    split
    · rw [tidy_next, roster_putGroup]
      exact ok_put h (low g (List.mem_of_find?_eq_some hg))
    · exact tidy_next.2 h
  · exact tidy_next.2 h

theorem tidy_ldfeServe (h : (rosterOf s).Ok n) : Tidy n (execLdfeServe s) := by
  unfold execLdfeServe
  refine tidy_at h fun m h low => ?_
  split
  · exact tidy_next.2 h
  case h_2 g hg =>
  split
  case h_1 p t _ _ =>
    split
    case h_1 f ad zeroed next _ _ _ _ =>
      obtain ⟨state, team⟩ := roster_ldfeServe s g f.d ad zeroed
      refine tidy_ite.2 ⟨fun _ => tidy_next.2 h, fun _ => tidy_next.2 ?_⟩
      rw [roster_putGroup, state, Group.updatePath_team, team]
      exact ok_put h (low g (List.mem_of_find?_eq_some hg))
    case h_2 => exact tidy_next.2 h
  case h_2 => exact tidy_next.2 h

/-! ### The service core (20_service_and_trust.md) -/

theorem tidy_cswitch (h : (rosterOf s).Ok n) : Tidy n (execCswitch s) := by
  unfold execCswitch mgmtSimple
  refine tidy_mgmt h fun side c t h => tidy_ite.2 ⟨fun _ => by simpa using h, fun _ => ?_⟩
  rw [tidy_next, roster_mbDone, roster_putCore, roster_foldl fun _ _ => roster_dropPlan .., roster_foldl fun s u => ?_]
  · exact h
  · split
    · exact roster_preempt ..
    · rfl

theorem tidy_rings (h : (rosterOf s).Ok n) : Tidy n (execRings s) := by
  unfold execRings mgmtSimple
  exact tidy_mgmt h fun side c t h => by simp [h]

theorem tidy_logread (h : (rosterOf s).Ok n) : Tidy n (execLogread s) := by
  unfold execLogread mgmtSimple
  refine tidy_mgmt h fun side c t h => tidy_next.2 ?_
  rwa [roster_mbDone, roster_respond]

theorem tidy_health (h : (rosterOf s).Ok n) : Tidy n (execHealth s) := by
  unfold execHealth mgmtSimple
  refine tidy_mgmt h fun side c t h => tidy_next.2 ?_
  rwa [roster_mbDone, roster_respond, rosterOf_mk]

theorem tidy_fwstage (h : (rosterOf s).Ok n) : Tidy n (execFwstage s) := by
  unfold execFwstage mgmtSimple
  refine tidy_mgmt h fun side c t h => tidy_ite.2 ⟨fun _ => ?_, fun _ => tidy_next.2 ?_⟩
  · rwa [tidy_next, roster_mbDone]
  · rwa [roster_mbDone, rosterOf_mk]

theorem tidy_pcap (h : (rosterOf s).Ok n) : Tidy n (execPcap s) := by
  unfold execPcap mgmtSimple
  exact tidy_mgmt h fun side c t h => by simp [h]

theorem tidy_fwactAgent (h : (rosterOf s).Ok n) : Tidy n (execFwactAgent s) := by
  unfold execFwactAgent
  split
  · simp [h]
  · exact tidy_fwact h fun side t h => by split <;> simp [h]

theorem tidy_fwactService (h : (rosterOf s).Ok n) : Tidy n (execFwactService s) := by
  refine tidy_fwact h fun side t ht => ?_
  dsimp only
  split
  · exact tidy_ite.2 ⟨fun _ => tidy_next.2 h, fun _ => by simpa using ht⟩
  · simpa using ht

theorem roster_endBusies (l : List Nat) (s : State) : rosterOf (l.foldl (fun (s : State) p => s.endBusy p svcNodie) s) = rosterOf s :=
  roster_foldl (fun _ _ => roster_endBusy ..) _ _

theorem fresh_of_roster {s t : State} (same : rosterOf s = rosterOf t) : s.fresh = t.fresh := congrArg Roster.fresh same

theorem tidy_dieDomainOff (h : (rosterOf s).Ok n) : Tidy n (execDieDomainOff s) := by
  unfold execDieDomainOff
  refine tidy_ite.2 ⟨fun _ => tidy_next.2 h, fun _ => ?_⟩
  extract_lets s0 s1
  have fresh : s1.fresh = s.fresh := by
    have begun : rosterOf s0 = rosterOf s := by
      simp only [s0]
      split <;> simp
    exact fresh_of_roster ((roster_endBusies _ s0).trans begun)
  clear_value s1
  exact tidy_next.2 (ok_fewer h (List.nil_sublist _) (List.nil_sublist _) fresh)

end

end Sys2Proof.PlacementAndResources
end

section
/-! PROOFS. Every event keeps the numbers of teams and groups apart: the case split over the events. -/

namespace Sys2Proof.PlacementAndResources

open Sys2Proof.Machine Sys2Proof.Safety Sys2Proof.Claims Sys2Proof.Laws

theorem exec_event_tidy (i : Instr) (s : State) (hw : isWord i = false) {n : Nat} (h : (rosterOf s).Ok n) : Tidy n (exec i s) := by
  unfold exec
  cases i with
  | triggerWrite => exact tidy_triggerWrite h
  | load => exact tidy_load h
  | qdestroy => exact tidy_qdestroy h
  | qprio => exact tidy_qprio h
  | gangReserve => exact tidy_gangReserve h
  | groupRetire => exact tidy_groupRetire h
  | teamReturn => exact tidy_teamReturn h
  | draftGroup => exact tidy_draftGroup h
  | copyChunk => exact tidy_copyChunk h
  | tileRecordStep => exact tidy_tileRecordStep h
  | acquirePerform => exact tidy_acquirePerform h
  | ldfeServe => exact tidy_ldfeServe h
  | cswitch => exact tidy_cswitch h
  | rings => exact tidy_rings h
  | logread => exact tidy_logread h
  | health => exact tidy_health h
  | fwstage => exact tidy_fwstage h
  | pcap => exact tidy_pcap h
  | fwactAgent => exact tidy_fwactAgent h
  | fwactService => exact tidy_fwactService h
  | dieDomainOff => exact tidy_dieDomainOff h
  | setth => exact tidy_feSimple h (tidy_cmdDone _ _ (by simpa using h))
  | remove | qcreate | copy => exact tidy_feSimple h (by simp [h])
  | unload | install =>
    refine tidy_feSimple h ?_
    dsimp only
    repeat' split
    all_goals simp [h]
  | attest =>
    dsimp only
    delta execAttest
    exact tidy_mgmt h fun side c t h => by simp [h]
  | attestKey =>
    dsimp only
    delta execAttestKey
    exact tidy_mgmt h fun side c t h => by simp [h]
  | phalt | presume | pswapout | pswapin | preset => exact tidy_mgmtEvent h fun side p t h => by simp [h]
  | pconf =>
    refine tidy_mgmtOnPart h fun side c p t h => ?_
    dsimp only
    repeat' split
    all_goals simp [h]
  | fwactFe => exact tidy_fwact h fun side t h => by simp [h]
  | cmdtail | registerWrite | walkerPass | waitNodeReread | teamRetire | swapOutDone | teamResume | stealReply | tileRecordComplete | predRecordStep
  | predRecordComplete | bankAluOp | releasePerform | dbell | hostPostedWrite | tinvctlGo | tinvDone | multicastEntryClose | escapeChannelEntry
  | peerTimeout | partitionHalted | serviceCoreFallback | clockStep | criticalTempStop | powerUp | unloadDrained | correctedSoftError
  | controlStateError | peerPartyAccess | kazotLinkPortDown | kazotLinkPortUp | serviceCoreRestarted | dieDomainOn | hostLinkDown | hostLinkUp
  | mctpControlMessage | lstReport | diePoolReturn | subarrayPowerDown | watchdogExpiry | waitSwapOut | copyComplete =>
    dsimp only
    delta execCmdtail execRegisterWrite execWalkerPass execWaitNodeReread execTeamRetire execSwapOutDone execTeamResume execStealReply
      execTileRecordComplete execPredRecordStep execPredRecordComplete execBankAluOp execReleasePerform execDbell execHostPostedWrite execTinvctlGo
      execTinvDone execMulticastEntryClose execEscapeChannelEntry execPeerTimeout execPartitionHalted execServiceCoreFallback execClockStep
      execCriticalTempStop execPowerUp execUnloadDrained execCorrectedSoftError execControlStateError execPeerPartyAccess execKazotLinkPortDown
      execKazotLinkPortUp execServiceCoreRestarted execDieDomainOn execHostLinkDown execHostLinkUp execMctpControlMessage execLstReport
      execDiePoolReturn execSubarrayPowerDown execWatchdogExpiry execWaitSwapOut execCopyComplete
    repeat' split
    all_goals simp [h]
  | queueService | queuePark | queueUnpark | kernelNodeComplete | agentPlace | teamSwitch | stealRequest | dovetailStart | orderedReleaseTurn
  | faultServiceRequest | faultServiceAnswer | prresp | memoryError | partitionSwapDone =>
    delta execQueueService execQueuePark execQueueUnpark execKernelNodeComplete execAgentPlace execTeamSwitch execStealRequest execDovetailStart
      execOrderedReleaseTurn execFaultServiceRequest execFaultServiceAnswer execPrresp execMemoryError execPartitionSwapDone
    dsimp only
    repeat' split
    all_goals simp [h]
  | _ => cases hw

end Sys2Proof.PlacementAndResources
end

section
/-! PROOFS. Every step keeps the numbers of teams and groups apart: fetching, issuing, and one turn. -/

namespace Sys2Proof.PlacementAndResources

open Sys2Proof.Machine Sys2Proof.Safety Sys2Proof.Claims Sys2Proof.Laws Sys2Proof.InstructionWords

section
variable {n : Nat} {s : State}

/-! ### Fetching -/

theorem roster_fetchSlot {t : State} {core part o : Nat} {base : VAddr} {w : Word} (h : s.fetchSlot core part base o = .ok (w, t)) :
    rosterOf t = rosterOf s := by
  unfold State.fetchSlot at h
  extract_lets va line held s1 fill wordIn read s2 at h
  have hheld (s : State) (a : Nat) : rosterOf (held s a) = rosterOf s := by
    simp only [held]
    split <;> simp
  have hread (s : State) (a : Nat) : rosterOf (read s a) = rosterOf s := by
    simp only [read]
    split <;> simp
  have h1 : rosterOf s1 = rosterOf s := (hheld ..).trans (hheld ..)
  have h2 : rosterOf s2 = rosterOf s := ((hread ..).trans (hread ..)).trans h1
  split at h
  · cases h
    rwa [roster_putCore]
  · split at h <;> cases h
    simp [h2]

theorem roster_fetchWord {t : State} {g : Group} {core part o : Nat} {dict : Bool} {base : VAddr} {w : Word}
    (h : s.fetchWord g core part dict base o = .ok (w, t)) : rosterOf t = rosterOf s := by
  unfold State.fetchWord at h
  extract_lets i a bodies noted at h
  have hnoted (s : State) (w : Word) : rosterOf (noted s w) = rosterOf s := roster_putCore ..
  split at h
  · cases h
    exact hnoted ..
  split at h
  · cases h
  split at h
  · cases h
  · rename_i r hr
    cases h
    have same : rosterOf r.2 = rosterOf s := roster_fetchSlot hr
    simp [hnoted, same]

theorem roster_fetch {t : State} {g : Group} {u : Team} {pc : VAddr} {f : Fetched} (h : s.fetch g u pc = .ok (f, t)) : rosterOf t = rosterOf s := by
  unfold State.fetch at h
  dsimp only at h
  repeat' split at h
  · cases h; rfl
  · cases h
  · cases h
    exact roster_fetchWord ‹_›

/-! ### A word that runs -/

theorem tidy_runUndecoded (h : (rosterOf s).Ok n) : Tidy n (runUndecoded s) := tidy_withCtx h fun _ _ h low => tidy_takeTrap _ h low

theorem tidy_runFetched (w : Word) (h : (rosterOf s).Ok n) : Tidy n (runFetched w s) := by
  unfold runFetched
  split
  · refine tidy_withCtx h fun m c h low => tidy_ite.2 ⟨fun _ => tidy_waitAt _ h low, fun _ => ?_⟩
    exact exec_word_tidy _ _ (isWord_of_decodeWord ‹_›) (by rwa [roster_landFor])
  · exact tidy_runUndecoded h

theorem tidy_issueNew {g : Group} (t : Team) (p : Path) (h : (rosterOf s).Ok n) (low : g.team < n) : Tidy n (issueNew s g t p) := by
  unfold issueNew
  dsimp only
  split
  · refine tidy_withCtx (ok_atWord _ _ _ _ _ _ _ h low) fun m c h own => ?_
    refine tidy_ite.2 ⟨fun _ => tidy_takeTrap _ (by rwa [roster_consumeCode]) own, fun _ => ?_⟩
    exact tidy_ite.2 ⟨fun _ => tidy_waitAt _ (by rwa [rosterOf_mk]) own, fun _ => tidy_takeTrap _ h own⟩
  · have same := roster_fetch ‹_›
    exact tidy_runUndecoded (ok_atWord _ _ _ _ _ _ _ (by rwa [same]) low)
  · have same := roster_fetch ‹_›
    exact tidy_runFetched _ (ok_atWord _ _ _ _ _ _ _ (by rwa [same]) low)

theorem tidy_andPrefixed {o : Out} (gid pid : Nat) (h : Tidy n o) : Tidy n (andPrefixed gid pid o) := by
  unfold andPrefixed
  split
  case h_2 => exact h
  case h_1 s =>
  split
  case h_1 => exact h
  case h_2 g hg =>
  split
  case h_2 => exact h
  case h_1 =>
    refine tidy_ite.2 ⟨fun _ => tidy_at (tidy_next.1 h) fun m h low => ?_, fun _ => h⟩
    exact tidy_issueNew _ _ h (low g (List.mem_of_find?_eq_some hg))

theorem tidy_issue {g : Group} (t : Team) (p : Path) (h : (rosterOf s).Ok n) (low : g.team < n) : Tidy n (s.issue g t p) := by
  have noted : (rosterOf ((s.noteIssue g t).putTeam t.issues)).Ok n := by rwa [roster_putTeam, roster_noteIssue]
  unfold State.issue issuePath
  dsimp only
  split
  · refine tidy_ite.2 ⟨fun _ => tidy_andPrefixed _ _ (tidy_issueNew _ _ noted low), fun _ => tidy_next.2 ?_⟩
    exact ok_trapTo _ _ _ _ _ _ noted low
  · exact tidy_runFetched _ (ok_atWord _ _ _ _ _ _ _ noted low)
  · exact tidy_andPrefixed _ _ (tidy_issueNew _ _ noted low)

/-! ### One step -/

theorem tidy_settled {o : Out} (h : Tidy n o) : Tidy n (settled o) := by
  unfold settled
  split
  · exact tidy_next.2 (ok_settle _ (tidy_next.1 h))
  · exact h

theorem tidy_runTurn (turn : Turn) (h : (rosterOf s).Ok n) : Tidy n (runTurn s turn) := by
  cases turn with
  | pass k => exact tidy_next.2 (by rwa [rosterOf_mk])
  | late b => exact tidy_next.2 (by rwa [rosterOf_mk])
  | land k => exact tidy_next.2 (by rwa [roster_landOne])
  | event i a =>
    refine tidy_ite.2 ⟨fun _ => tidy_next.2 h, fun event => tidy_settled (exec_event_tidy _ _ ?_ ?_)⟩
    · simpa using event
    · rwa [roster_landFor, rosterOf_mk]
  | issue gid pid =>
    dsimp only [runTurn]
    split
    case h_1 => exact tidy_next.2 h
    case h_2 g hg =>
    split
    case h_2 => exact tidy_next.2 h
    case h_1 =>
      refine tidy_ite.2 ⟨fun _ => tidy_at h fun m h low => ?_, fun _ => tidy_next.2 h⟩
      exact tidy_settled (tidy_issue _ _ h (low g (List.mem_of_find?_eq_some hg)))

theorem readyPaths_group {x : Group × Team × Path} (h : x ∈ s.readyPaths) : x.1 ∈ s.groups := by
  obtain ⟨g, hg, hx⟩ := List.mem_flatMap.1 h
  split at hx
  · obtain ⟨p, _, rfl⟩ := List.mem_map.1 hx
    exact hg
  · cases hx

theorem tidy_step (h : (rosterOf s).Ok n) : Tidy n (step s) := by
  unfold step
  split
  · exact tidy_runTurn _ (by rwa [rosterOf_mk])
  · split
    case h_1 g t p next =>
      exact tidy_at h fun m h low => tidy_settled (tidy_issue t p h (low g (readyPaths_group (nextIssue_mem next))))
    case h_2 => exact tidy_next.2 (by rwa [rosterOf_mk])

end

/-- Settles O60: a step writes a group under its own number with a team that is there, and gives new teams and groups the next free numbers. -/
theorem numbersStayApart : Obligations.NumbersStayApart := fun s h t e =>
  (numbered_iff t).2 (tidy_step ((numbered_iff s).1 h) t e)

end Sys2Proof.PlacementAndResources
end
